-- ==== Sys2Proof/Word.lean ====
section
/-! DEFINITION. The word types of the machine: bytes, 32-bit and 64-bit words, lane values, and the sparse tables in which State
keeps what is numbered (00_scope R8 to R10). -/

namespace Sys2Proof

/-- One byte of memory. -/
abbrev Byte := BitVec 8

/-- A 32-bit lane element, mask or port selector. -/
abbrev W32 := BitVec 32

/-- A scalar register or one lane of a port (05 R118, R123). -/
abbrev W64 := BitVec 64

/-- One 64-bit value per lane, lane 0 first: a list of 32 (05 R123). -/
abbrev Lanes := List W64

/-- A sparse table: entries by number, rising, at most one for each. What an absent number stands for is said where the table is. -/
abbrev Tab (α : Type) := List (Nat × α)

/-- The lanes of a warp (00 R5). -/
def nLanes : Nat := 32

end Sys2Proof
end

