-- ==== Sys2Proof/Syntax.lean ====
section
/-! DEFINITION. The instructions of Bamvia and the steps of the package, one constructor for each row of spec/opcode_table.json:
moves, trigger functions and control operations (11_bundle_encoding) first, then the steps of the cluster, the base, the host and
the firmwares (95_what_each_step_holds), which have no encoding. -/

namespace Sys2Proof

/-- The units of a core (05 R120). -/
inductive Un where
  | ia | ib | im | sh | fa | fb | cv | xl | pl | sa | sb | sm | sl | la | lb | st | atm | cp | mx | ac | sy | so | ms | rg
  deriving DecidableEq, Repr

/-- The first or the second of a pair of like units: ia or ib, fa or fb, sa or sb, la or lb. -/
inductive Which where
  | first | second
  deriving DecidableEq, Repr

/-- The operand ports of a unit, k = 0, 1, 2 (05 R120). -/
inductive PortIx where
  | a | b | c
  deriving DecidableEq, Repr

/-- The type codes (11 R243), in the order of their codes. -/
inductive Ty where
  | b8 | s8 | b32 | s32 | b64 | s64 | f16 | bf16 | f32 | f64 | e4m3 | e5m2 | q4 | f16x2 | bf16x2 | untyped
  deriving DecidableEq, Repr

/-- The scopes (09 R212), in the order of their codes. -/
inductive Scope where
  | wp | cl | die | dev | sys
  deriving DecidableEq, Repr

/-- A move's source (11 R240). A literal stands here with its value: the decoder reads it from its slot. -/
inductive Src where
  | vreg (n : BitVec 8)
  | sreg (n : BitVec 6)
  | pred (n : BitVec 4)
  | ring (n : BitVec 4)
  | res (u : Un)
  | sec (u : Un)
  | special (n : BitVec 4)
  | litZ (v : BitVec 40)
  | litS (v : BitVec 40)
  | imm (v : BitVec 11)
  deriving DecidableEq, Repr

/-- A move's guard: polarity 1 is true where the predicate bit is 0 (11 R238). -/
structure Guard where
  pol : Bool
  pred : BitVec 4
  deriving DecidableEq, Repr

/-- Guard and source of a move; a trigger whose modifier must be 0. -/
structure Mv where
  g : Guard
  src : Src
  deriving DecidableEq, Repr

/-- A trigger of units 0 to 11 with its modifier (06 R155). -/
structure Trig where
  mv : Mv
  md : BitVec 8
  deriving DecidableEq, Repr

/-- A trigger that names a buffer record (03 R66). -/
structure MTrig where
  mv : Mv
  buf : BitVec 6
  deriving DecidableEq, Repr

/-- Where a register move writes (11 R241). -/
inductive RegDst where
  | vreg (n : BitVec 8) (wide : Bool)
  | sreg (n : BitVec 6)
  deriving DecidableEq, Repr

/-! ### What the steps of the base carry -/

/-- The address spaces a line lives in: device physical memory, a slice's pinned pool, a core's pinned pool (03 R74). -/
inductive Space where
  | pa
  | slice (n : Nat)
  | core (n : Nat)
  deriving DecidableEq, Repr

/-- Coherence class of a page (02 R47). -/
inductive Cls where
  | non | device | system
  deriving DecidableEq, Repr

/-- Eviction class of a line (03 R87). -/
inductive EvCls where
  | keep | normal | stream
  deriving DecidableEq, Repr

/-- The twelve atomic operations (14 R326). -/
inductive AtOp where
  | add | umin | umax | smin | smax | and | or | exch | cas | incw | decw | addb
  deriving DecidableEq, Repr

/-- One lane's share of an atomic: its number and its operands (14 R327). -/
structure AtLane where
  lane : Nat
  v : W64
  w : W64
  deriving DecidableEq, Repr

/-- Who asks the home: a core's L1 or the host (01 R31). -/
inductive Agent where
  | core (c : Nat)
  | host
  deriving DecidableEq, Repr

/-- A request that a core sends to a home (01 R31; kinds in 02 R42). `line` is the number of the 256-byte line in its space. -/
structure HomeReq where
  /-- the requester's tag -/
  id : Nat
  agent : Agent
  space : Space
  line : Nat
  smask : BitVec 4
  cls : Cls
  nllc : Bool
  ecls : EvCls
  /-- the sender die's incarnation number (02 R56) -/
  inc : BitVec 16
  /-- bytes to write, by offset within the line -/
  bytes : List (Nat × Byte)
  /-- an atomic at home: byte offset, whether the word is 64 bits, operation and lanes in order -/
  atom : Option (Nat × Bool × AtOp × List AtLane)
  /-- sectors that a write-back brings with their poison (17 R398) -/
  psn : BitVec 4 := 0
  deriving DecidableEq, Repr

/-- A message that carries tokens of a sector, with its data or without (02 R43). `sector` is PA / 64. -/
structure TokMsg where
  /-- the receiving core's L1, or none for the home -/
  dst : Option Nat
  sector : Nat
  tok : Nat
  own : Bool
  data : Option (List Byte)
  dty : Bool
  psn : Bool
  /-- a die's sender and its incarnation; none for the home (02 R56) -/
  src : Option (Nat × BitVec 16)
  deriving DecidableEq, Repr

/-- A warp by its package core and slot. -/
structure WarpAt where
  core : Nat
  slot : Nat
  deriving DecidableEq, Repr

/-- A handle's place: the warp by its number (one for every warp ever started), the entry of its future table and the serial number
(12 R269). -/
structure FutAt where
  wid : Nat
  ent : Nat
  ser : BitVec 32
  deriving DecidableEq, Repr

/-- What a future's resolution does beside the status word: nothing, the landing of bytes in a core's pinned pool
(08 R205, 15 R361), or the engine's own final act. -/
inductive ResEff where
  | nothing
  /-- a receive: its payload lands, and its posted-receive entry is free where it still holds one (15 R359, R361) -/
  | block (core : Nat) (bytes : List (Nat × Byte)) (posted : Bool)
  /-- a census: its result block and an acquire of every region (08 R205) -/
  | census (core : Nat) (bytes : List (Nat × Byte))
  /-- an acquire that write-backs and invalidates the regions bound to an object, or every region when 0xFFFF (09 R215) -/
  | acquire (obj : Nat)
  /-- a phase of a byte-count barrier has ended: the regions bound to an object, where one is given, and the lines of the bytes counted are
  acquired (09 R215, R226; 15 R354) -/
  | flip (obj : Option Nat) (lines : List Nat)
  /-- a `csize`: the core's division changes to a way count (03 R89, 14 R323) -/
  | csize (core ways : Nat)
  /-- a tag wait that was cancelled: its status is ctag and the mask at its admission (14 R331) -/
  | tags (core : Nat) (m : BitVec 64)
  /-- a task whose last byte has been accepted outside the cluster: its cluster, queue slot and number (07 R177) -/
  | task (cluster q num : Nat)
  deriving DecidableEq, Repr

/-- A message between warps (15 R358). -/
structure MsgRec where
  /-- the send's future, none for a message from a peer device -/
  sender : Option FutAt
  /-- source device, 0 for this package; destination device -/
  sdev : Nat
  ddev : Nat
  /-- the destination's node: its number in this package, the node tag in a message from or to a peer -/
  nid : Nat
  ddie : Nat
  dclus : Nat
  dwarp : Nat
  /-- the source's node by its number, 0 for a peer's; its launch die, cluster and warp -/
  snid : Nat
  sdie : Nat
  sclus : Nat
  swarp : Nat
  tag : BitVec 32
  payload : List Byte
  /-- almanac time at which it began to wait for overflow room, later by each tick that does not count (15 R362) -/
  since : Option Nat
  deriving DecidableEq, Repr

/-- A posted receive or a probe's words (15 R357, R359). -/
structure RecvRec where
  fut : FutAt
  /-- the receiving warp -/
  nid : Nat
  die : Nat
  clus : Nat
  warp : Nat
  anySrc : Bool
  sdev : Nat
  sdie : Nat
  sclus : Nat
  swarp : Nat
  anyTag : Bool
  tag : BitVec 32
  /-- the buffer: core and the pool offset of each byte; none for a probe -/
  core : Nat
  at_ : List Nat
  /-- no receive but a cancel of the message function with this future (15 R365) -/
  cancel : Bool := false
  deriving DecidableEq, Repr

/-- What the census root puts in order (08 R193). -/
inductive CensusItem where
  /-- a solicit: asker's future, key, argument, scope code, combining code, the asker's core, slot and tenant, and the pool offset on that
  core of each byte of the result block; whether it was cancelled before the root opened it (08 R206) -/
  | solicit (fut : FutAt) (key : BitVec 48) (arg : W64) (scope cmb core slot ten : Nat) (at_ : List Nat)
    (cancelled : Bool := false)
  | insert (core entry : Nat) (fut : FutAt)
  | delete (core entry : Nat) (fut : FutAt)
  | drop (core entry : Nat) (fut : FutAt)
  | move (id : Nat)
  deriving DecidableEq, Repr

/-- The requests that reach a synchronisation object (09 R216, 15 R353, R354). -/
inductive ObjOp where
  | rel (fut : FutAt) (obj : Nat)
  /-- an acquire, with the phase current at its trigger -/
  | acq (fut : FutAt) (obj : Nat) (q : BitVec 16)
  | arm (fut : FutAt) (obj : Nat) (e : Nat)
  | wait (fut : FutAt) (obj : Nat) (q : BitVec 16)
  deriving DecidableEq, Repr

/-- What the vigil firmware may write (18 R408, R413; 16 R369; 09 R210). -/
inductive Assignment where
  | die (d : Nat) (ten : Option Nat)
  | queue (q : Nat) (ten : Option Nat) (root : Nat) (levels : Nat)
  | object (o : Nat) (ten : Option Nat)
  /-- system software sets mode and expected when it allocates an object (09 R210) -/
  | allocate (o : Nat) (md : BitVec 2) (expected : BitVec 48)
  | frame (f : Nat) (ten : Option Nat)
  | window (ten : Nat) (n : Nat) (on : Bool)
  deriving DecidableEq, Repr

/-- The resources that a self-test covers (17 R399). -/
inductive Resource where
  | sramWay (core way : Nat)
  | llcWay (slice way : Nat)
  | coreLogic (core : Nat)
  | lane (port lane : Nat)
  | dieFailures (die : Nat)
  deriving DecidableEq, Repr

/-- A part of a firmware image with its signature (19 R423). -/
structure SignedPart where
  body : List Byte
  /-- the tree height of the parameter set, and the signature -/
  height : Nat
  sig : List Byte
  deriving DecidableEq, Repr

/-- What the host downloads: Stoale's root public key, the vigil firmware, the service firmware, the trims; and what the trims and the
firmware bring as data: island limits in units of 0.25 A and isolation tables (19 R417, R422, R423). -/
structure Image where
  rootKey : List Byte
  vigil : SignedPart
  service : SignedPart
  trims : SignedPart
  limits : List Nat
  tables : List Assignment
  deriving DecidableEq, Repr

/-- A step of the package with what it carries. The step itself is a row of the opcode table and a constructor of Instr without
fields; it takes what it carries from the event at hand in the state. -/
inductive Ev where
  -- steps of the cluster
  | unitResult (w : WarpAt) (u : Un) (due : Nat) (fl : BitVec 8)
  | instructionCacheMiss (core line : Nat) (filled : Bool)
  | loadLineArrival (core id : Nat) (data : List Byte) (psn : BitVec 4)
  | loadDue (w : WarpAt) (u : Un)
  | laneStoreLanding (cluster id : Nat)
  | outsideWriteLanding (cluster : Nat)
  | outsideEventAdmission (w : WarpAt)
  | futureResolution (f : FutAt) (status : W64) (eff : ResEff)
  | skip (w : WarpAt)
  | moduloInitiation (w : WarpAt)
  | copyChunkTranslate (core slot : Nat)
  | copyChunkLanding (core slot : Nat)
  | unpacedChunkDelivery (core slot : Nat)
  | copyFinalStatus (core slot : Nat) (code : Nat)
  | taskDispatch (cluster qslot eng : Nat)
  | taskOperandLineDue (cluster qslot pass : Nat)
  | taskRetire (cluster qslot : Nat)
  | acAccess (cluster id : Nat)
  | claimGrant (core : Nat)
  /-- the admission of a census's responders on a core, or the start of the next one -/
  | spawn (core : Nat) (admission : Bool)
  | ringCheck (cluster : Nat)
  | claimCheck (cluster : Nat)
  | engineArrival (core bar bit : Nat)
  | trapEntry (w : WarpAt) (cause : Nat) (info : W64) (tpc : Nat)
  -- coherence
  | readShared (r : HomeReq)
  | readForOwnership (r : HomeReq)
  | writeAtHome (r : HomeReq)
  | atomicAtHome (r : HomeReq)
  | copyRead (r : HomeReq)
  | uncachedRead (r : HomeReq)
  | retryReissue (core id : Nat)
  | lineFill (line : Nat)
  | writeBackDrain (slice : Nat)
  | forwardedRead (core sector requester : Nat)
  /-- to the cores of one cluster: a die in dmask has one demand for each of its four (01 R35: they have a port each) -/
  | demandForAllTokens (cluster sector : Nat) (requester : Option Nat)
  | ownerRecall (core sector : Nat)
  | tokenTransfer (m : TokMsg)
  | l1Eviction (core line : Nat)
  | requestTimeout (core id : Nat)
  | persistentRequest (r : HomeReq) (own : Bool)
  /-- with the sender die's incarnation number (02 R56) -/
  | deactivation (core sector : Nat) (inc : BitVec 16)
  -- time and leases
  | almanacTick
  | renewalSend (die : Nat)
  | renewal (die : Nat) (t : Nat) (inc : BitVec 16)
  | acknowledgement (die : Nat) (expiry : Nat)
  | leaseStop (die : Nat)
  | declaredDead (die : Nat)
  | recallTimeout (sector : Nat)
  | directoryError (sector : Nat) (uncorrectable : Bool)
  -- host access and mapping changes
  /-- a request of a host through a fabric port and a logical device -/
  | hostCxlMemRead (port ld pa : Nat) (cls : Cls) (want : Nat)
  | hostCxlMemWrite (port ld pa : Nat) (cls : Cls) (bytes : List (Nat × Byte))
  | backInvalidateSnoop (sector : Nat) (data : Option (List Byte))
  /-- with what host memory holds there afterwards, where the host changes it -/
  | hostSnoop (sector : Nat) (data : Option (List Byte))
  | pageResident (pa : Nat) (v : W64)
  | leafChange (pa : Nat) (v : W64)
  -- census
  | keyArrival (core cen : Nat)
  | censusOrder (it : CensusItem)
  | insertCommit (core entry : Nat) (fut : FutAt)
  | deleteCommit (core entry : Nat) (fut : FutAt)
  | dropCommit (core entry : Nat) (fut : FutAt)
  | tmoveCopy (id : Nat)
  | moveCommit (id : Nat)
  | reply (cen core entry : Nat) (v : Option W64)
  | censusCompletion (cen : Nat)
  -- objects, group barriers, messages
  | releaseAtObject (op : ObjOp)
  | acquireWake (obj : Nat)
  /-- bytes added to an object for a tenant, with the lines of memory that hold them (09 R226) -/
  | byteCountAdd (obj n ten : Nat) (lines : List Nat)
  | groupBarrierCompletion (node : Nat) (g : Nat)
  | messageArrival (m : MsgRec)
  | postArrival (r : RecvRec)
  | probeRequest (r : RecvRec)
  | overflowTimeout (mailbox : Nat)
  -- queues and scheduling
  | tail (q : Nat) (v : BitVec 8)
  | queueRegisterWrite (ld q off : Nat) (v : W64)
  | acceptance
  | nodePlacement
  | nodeCompletion (node : Nat)
  | preEmption (node grp : Nat)
  | preEmptionTimeout (node grp : Nat)
  | preEmptionSave (node grp : Nat)
  | resume (node : Nat)
  | gangAbort (gangId : Nat)
  | prepare (gangId : Nat)
  | commit (gangId : Nat)
  | abort (gangId : Nat)
  | gangTimeout (gangId : Nat)
  | heartbeatSend
  | heartbeat (peer : Nat)
  | peerDeath (peer : Nat)
  | vendorDefinedMessage (m : MsgRec)
  | peerAtomic (r : HomeReq)
  -- firmware, power and service
  | bind (ld : Nat) (host : Option Nat)
  | linkTraining (port : Nat) (mode : Option Bool)
  | retrain (port : Nat)
  | tenantReset (ten : Nat)
  | isolationTableWrite (x : Assignment)
  | dieReset (die : Nat) (fence : Bool)
  | controlDieReset (fence : Bool)
  | debugHold (die : Nat)
  | debugHoldEnd (die : Nat)
  | pinnedPoolSet (slice ways : Nat)
  | clockChange (die mhz : Nat)
  | overcurrent (die : Nat)
  | currentLimit (island quarterAmps : Nat)
  | selfTest (r : Resource) (passed : Bool)
  | baseField0PowerUp
  | firmwareDownload (img : Image)
  | controlDiePowerUp
  | baseFieldsPowerUp
  | stackTraining (failed : List Nat)
  | computeDiePowerUp (failed : List Nat)
  | powerDown
  /-- the request for a report, or its release once the leaf index stands in the flash (19 R426) -/
  | attestation (release : Bool)
  | pageError (va : Nat)
  | prepareDecline (gangId : Nat)
  | heldRecordRemoval (node : Nat)
  | powerLoss
  deriving DecidableEq, Repr

/-- One row of the opcode table. -/
inductive Instr where
  -- moves
  | noOperation
  | moveToPort (u : Un) (k : PortIx) (wide : Bool) (m : Mv)
  | moveToRegister (d : RegDst) (m : Mv)
  | moveToPredicate (n : BitVec 4) (m : Mv)
  | specialRegisterWrite (n : BitVec 4) (m : Mv)
  | ringPush (n : BitVec 4) (m : Mv)
  -- integer ALU, ia and ib
  | iaAdd (u : Which) (ty : Ty) (t : Trig)
  | iaSub (u : Which) (ty : Ty) (t : Trig)
  | iaMin (u : Which) (ty : Ty) (t : Trig)
  | iaMax (u : Which) (ty : Ty) (t : Trig)
  | iaAnd (u : Which) (ty : Ty) (t : Trig)
  | iaOr (u : Which) (ty : Ty) (t : Trig)
  | iaXor (u : Which) (ty : Ty) (t : Trig)
  | iaAndn (u : Which) (ty : Ty) (t : Trig)
  | iaEq (u : Which) (ty : Ty) (t : Trig)
  | iaNe (u : Which) (ty : Ty) (t : Trig)
  | iaLt (u : Which) (ty : Ty) (t : Trig)
  | iaLe (u : Which) (ty : Ty) (t : Trig)
  | iaSel (u : Which) (ty : Ty) (t : Trig)
  | iaAbs (u : Which) (ty : Ty) (t : Trig)
  | iaNeg (u : Which) (ty : Ty) (t : Trig)
  | iaMov (u : Which) (ty : Ty) (t : Trig)
  -- integer multiplier
  | imMul (ty : Ty) (t : Trig)
  | imMulhi (ty : Ty) (t : Trig)
  | imMad (ty : Ty) (t : Trig)
  | mulw (ty : Ty) (t : Trig)
  | madw (ty : Ty) (t : Trig)
  | dp4 (ty : Ty) (t : Trig)
  -- shifter and bit unit
  | shShl (ty : Ty) (t : Trig)
  | shShr (ty : Ty) (t : Trig)
  | shSar (ty : Ty) (t : Trig)
  | rol (ty : Ty) (t : Trig)
  | ror (ty : Ty) (t : Trig)
  | popc (ty : Ty) (t : Trig)
  | clz (ty : Ty) (t : Trig)
  | ctz (ty : Ty) (t : Trig)
  | brev (ty : Ty) (t : Trig)
  | bfx (ty : Ty) (t : Trig)
  | bfxs (ty : Ty) (t : Trig)
  | bfi (ty : Ty) (t : Trig)
  | perm (ty : Ty) (t : Trig)
  -- floating point, fa and fb
  | faAdd (u : Which) (ty : Ty) (t : Trig)
  | faSub (u : Which) (ty : Ty) (t : Trig)
  | faMul (u : Which) (ty : Ty) (t : Trig)
  | fma (u : Which) (ty : Ty) (t : Trig)
  | fnma (u : Which) (ty : Ty) (t : Trig)
  | faMin (u : Which) (ty : Ty) (t : Trig)
  | faMax (u : Which) (ty : Ty) (t : Trig)
  | faEq (u : Which) (ty : Ty) (t : Trig)
  | faLt (u : Which) (ty : Ty) (t : Trig)
  | faLe (u : Which) (ty : Ty) (t : Trig)
  -- conversion and special functions
  | cvt (d c : Ty) (t : Trig)
  | rcp (t : Trig)
  | rsq (t : Trig)
  | sqrt (t : Trig)
  | exp (t : Trig)
  | log (t : Trig)
  | sin (t : Trig)
  | cos (t : Trig)
  | tanh (t : Trig)
  | frc (t : Trig)
  | rnd (t : Trig)
  | cls (t : Trig)
  | qpack (t : Trig)
  | qunpack (t : Trig)
  -- cross-lane
  | xlSum (ty : Ty) (t : Trig)
  | xlMin (ty : Ty) (t : Trig)
  | xlMax (ty : Ty) (t : Trig)
  | xlAnd (ty : Ty) (t : Trig)
  | xlOr (ty : Ty) (t : Trig)
  | scan (ty : Ty) (t : Trig)
  | shfl (ty : Ty) (t : Trig)
  | up (ty : Ty) (t : Trig)
  | down (ty : Ty) (t : Trig)
  | bfly (ty : Ty) (t : Trig)
  | bcast (ty : Ty) (t : Trig)
  | ballot (ty : Ty) (t : Trig)
  -- predicate logic
  | plAnd (t : Trig)
  | plOr (t : Trig)
  | plXor (t : Trig)
  | plAndn (t : Trig)
  | plNot (t : Trig)
  | plAny (t : Trig)
  | plAll (t : Trig)
  -- scalar ALU, sa and sb
  | saAdd (u : Which) (ty : Ty) (t : Trig)
  | saSub (u : Which) (ty : Ty) (t : Trig)
  | saMin (u : Which) (ty : Ty) (t : Trig)
  | saMax (u : Which) (ty : Ty) (t : Trig)
  | saAnd (u : Which) (ty : Ty) (t : Trig)
  | saOr (u : Which) (ty : Ty) (t : Trig)
  | saXor (u : Which) (ty : Ty) (t : Trig)
  | saAndn (u : Which) (ty : Ty) (t : Trig)
  | saEq (u : Which) (ty : Ty) (t : Trig)
  | saNe (u : Which) (ty : Ty) (t : Trig)
  | saLt (u : Which) (ty : Ty) (t : Trig)
  | saLe (u : Which) (ty : Ty) (t : Trig)
  | saSel (u : Which) (ty : Ty) (t : Trig)
  | saShl (u : Which) (ty : Ty) (t : Trig)
  | saShr (u : Which) (ty : Ty) (t : Trig)
  | saSar (u : Which) (ty : Ty) (t : Trig)
  -- scalar multiply and divide, scalar load
  | smMul (ty : Ty) (t : Trig)
  | smMulhi (ty : Ty) (t : Trig)
  | smMad (ty : Ty) (t : Trig)
  | div (ty : Ty) (t : Trig)
  | rem (ty : Ty) (t : Trig)
  | ldc (t : MTrig)
  -- loads, stores, cache operations
  | ld (u : Which) (t : MTrig)
  | lds (u : Which) (t : MTrig)
  | ldu (u : Which) (t : MTrig)
  | preq (u : Which) (t : MTrig)
  | touch (u : Which) (t : MTrig)
  | st (t : MTrig)
  | stu (t : MTrig)
  | wb (t : MTrig)
  | inv (t : MTrig)
  | csize (m : Mv)
  -- atomics
  | atAdd (sc : Scope) (t : MTrig)
  | umin (sc : Scope) (t : MTrig)
  | umax (sc : Scope) (t : MTrig)
  | smin (sc : Scope) (t : MTrig)
  | smax (sc : Scope) (t : MTrig)
  | atAnd (sc : Scope) (t : MTrig)
  | atOr (sc : Scope) (t : MTrig)
  | exch (sc : Scope) (t : MTrig)
  | cas (sc : Scope) (t : MTrig)
  | incw (sc : Scope) (t : MTrig)
  | decw (sc : Scope) (t : MTrig)
  | addb (sc : Scope) (t : MTrig)
  -- copy engine
  | go (t : MTrig)
  | mcast (t : MTrig)
  | copyResume (m : Mv)
  | cwany (m : Mv)
  | cwall (m : Mv)
  | cffr (m : Mv)
  -- matrix engine
  | mmBf16 (tri : Bool) (t : MTrig)
  | mmF16 (tri : Bool) (t : MTrig)
  | mmE4m3 (tri : Bool) (t : MTrig)
  | mmE5m2 (tri : Bool) (t : MTrig)
  | mmS8 (tri : Bool) (t : MTrig)
  | mmQ4 (tri : Bool) (t : MTrig)
  | scacc (tri : Bool) (t : MTrig)
  | drain (tri : Bool) (t : MTrig)
  | hrot (tri : Bool) (t : MTrig)
  | taskResume (m : Mv)
  -- accumulator
  | win (m : Mv)
  | acRd (m : Mv)
  | acWr (m : Mv)
  | acZero (m : Mv)
  -- synchronisation
  | acq (sc : Scope) (m : Mv)
  | rel (sc : Scope) (m : Mv)
  | fence (sc : Scope) (m : Mv)
  | barArr (m : Mv)
  | barWait (m : Mv)
  | barSync (m : Mv)
  | barSet (m : Mv)
  | gbar (m : Mv)
  | bcarm (m : Mv)
  | bcwait (m : Mv)
  -- solicit and tiles
  | sol (t : MTrig)
  | sreply (m : Mv)
  | tins (t : MTrig)
  | tdel (m : Mv)
  | tmove (t : MTrig)
  -- messages
  | send (t : MTrig)
  | post (t : MTrig)
  | probe (m : Mv)
  -- rings and the register pool
  | rmake (m : Mv)
  | rfree (m : Mv)
  | radv (m : Mv)
  | rwait (m : Mv)
  | vgive (m : Mv)
  | vclaim (m : Mv)
  | rcnt (m : Mv)
  -- control operations
  | br (x : BitVec 32)
  | brz (sa : BitVec 6) (x : BitVec 32)
  | brnz (sa : BitVec 6) (x : BitVec 32)
  | brany (p : BitVec 4) (ng : Bool) (x : BitVec 32)
  | brall (p : BitVec 4) (ng : Bool) (x : BitVec 32)
  | jmp (sa : BitVec 6)
  | call (x : BitVec 32)
  | ret
  | mloop (sa : BitVec 6) (ii : BitVec 8) (stages : BitVec 8)
  | vif (p : BitVec 4) (ng : Bool)
  | velse
  | vend
  | vloop
  | vwhile (p : BitVec 4) (ng : Bool)
  | vbrk (k : BitVec 8)
  | vnext (k : BitVec 8)
  | exit
  | trap (n : BitVec 8)
  | yield
  | bkpt
  | fwait (sa : BitVec 6)
  | ftest (sd sa : BitVec 6)
  | fcancel (sa : BitVec 6)
  | fpass (sd sa : BitVec 6)
  | sysrd (sd : BitVec 6) (n : BitVec 16)
  | syswr (n : BitVec 16) (sa : BitVec 6)
  | ctxsv (sa : BitVec 6)
  | ctxld (sa : BitVec 6)
  | launch (sd sa : BitVec 6)
  | eve
  | pwait
  | gang (sd sa : BitVec 6)
  -- steps of the cluster
  | unitResult
  | instructionCacheMiss
  | loadLineArrival
  | loadDue
  | laneStoreLanding
  | outsideWriteLanding
  | outsideEventAdmission
  | futureResolution
  | skip
  | moduloInitiation
  | copyChunkTranslate
  | copyChunkLanding
  | unpacedChunkDelivery
  | copyFinalStatus
  | taskDispatch
  | taskOperandLineDue
  | taskRetire
  | acAccess
  | claimGrant
  | spawn
  | ringCheck
  | claimCheck
  | engineArrival
  | trapEntry
  -- coherence
  | readShared
  | readForOwnership
  | writeAtHome
  | atomicAtHome
  | copyRead
  | uncachedRead
  | retryReissue
  | lineFill
  | writeBackDrain
  | forwardedRead
  | demandForAllTokens
  | ownerRecall
  | tokenTransfer
  | l1Eviction
  | requestTimeout
  | persistentRequest
  | deactivation
  -- time and leases
  | almanacTick
  | renewalSend
  | renewal
  | acknowledgement
  | leaseStop
  | declaredDead
  | recallTimeout
  | directoryError
  -- host access and mapping changes
  | hostCxlMemRead
  | hostCxlMemWrite
  | backInvalidateSnoop
  | hostSnoop
  | pageResident
  | leafChange
  -- census
  | keyArrival
  | censusOrder
  | insertCommit
  | deleteCommit
  | dropCommit
  | tmoveCopy
  | moveCommit
  | reply
  | censusCompletion
  -- objects, group barriers, messages
  | releaseAtObject
  | acquireWake
  | byteCountAdd
  | groupBarrierCompletion
  | messageArrival
  | postArrival
  | probeRequest
  | overflowTimeout
  -- queues and scheduling
  | tail
  | queueRegisterWrite
  | acceptance
  | nodePlacement
  | nodeCompletion
  | preEmption
  | preEmptionTimeout
  | preEmptionSave
  | resume
  | gangAbort
  | prepare
  | commit
  | abort
  | gangTimeout
  | heartbeatSend
  | heartbeat
  | peerDeath
  | vendorDefinedMessage
  | peerAtomic
  -- firmware, power and service
  | bind
  | linkTraining
  | retrain
  | tenantReset
  | isolationTableWrite
  | dieReset
  | controlDieReset
  | debugHold
  | debugHoldEnd
  | pinnedPoolSet
  | clockChange
  | overcurrent
  | currentLimit
  | selfTest
  | baseField0PowerUp
  | firmwareDownload
  | controlDiePowerUp
  | baseFieldsPowerUp
  | stackTraining
  | computeDiePowerUp
  | powerDown
  | attestation
  | pageError
  | prepareDecline
  | heldRecordRemoval
  | powerLoss
  deriving DecidableEq, Repr

end Sys2Proof
end

