-- ==== Sys2Proof/Machine/Encoding.lean ====
section
/-! DEFINITION. The encoding tables: the types, modifiers, register parities and ranges that each instruction admits
(05 R123, R135, R136; 06 R155; 11 R242 to R250; 04 R116, 07 R190, 09 R213). An ill-formed instruction is refused by name. -/

namespace Sys2Proof

/-- Why an encoding is illegal; each raises the illegal-encoding fault of the device (00 R12, 11 R236 to R250). -/
inductive Reject where
  | bundleKind | headerReserved | controlLitBits | slotNotEmpty | badSource | literalAbsent | badDestination | badPortField
  | badFunction | badType | badModifier | oddWide | wideRing | predicateZero | readOnlySpecial | scopeCode | badOpcode
  | unusedField | immediateRange
  deriving DecidableEq, Repr

/-- One of a pair of units. -/
def Which.pick {α : Type} (u : Which) (x y : α) : α := match u with
  | .first => x
  | .second => y

/-- How a function takes the rounding modifier (11 R244): round; saturate on the signed types only; round on the floating-point
types only; neither. -/
inductive Rnd where
  | round | satS | roundF | no
  deriving DecidableEq, Repr

/-- A typed trigger seen through the table of 11 R244: unit, operation code, types it may take, rounding, and what it carries. -/
structure Typed where
  unit : Un
  op : Nat
  types : List Ty
  rnd : Rnd
  ty : Ty
  t : Trig

def intTys : List Ty := [.s32, .b32, .s64, .b64]
def bTys : List Ty := [.b32, .b64]
def sTys : List Ty := [.s32, .s64]
def wTys : List Ty := [.s32, .b32]
def byteTys : List Ty := [.s8, .b8]
def fTys : List Ty := [.f16, .bf16, .f32, .f64, .f16x2, .bf16x2]
def xlTys : List Ty := [.s32, .b32, .s64, .b64, .f16, .bf16, .f32, .f64]

/-- The types whose source is read wide (05 R123). -/
def Ty.is64 : Ty → Bool
  | .b64 | .s64 | .f64 => true
  | _ => false

def Ty.isSigned : Ty → Bool
  | .s8 | .s32 | .s64 => true
  | _ => false

def Ty.isFloat : Ty → Bool
  | .f16 | .bf16 | .f32 | .f64 | .e4m3 | .e5m2 | .f16x2 | .bf16x2 => true
  | _ => false

/-- The types that `cvt` takes: codes 0x0 to 0xB (11 R245). -/
def Ty.cvtOk : Ty → Bool
  | .q4 | .f16x2 | .bf16x2 | .untyped => false
  | _ => true

/-- The table of 11 R244, and the predicate logic of 13 R309. -/
def Instr.typed : Instr → Option Typed
  | .iaAdd u ty t => some ⟨u.pick .ia .ib, 0, intTys, .satS, ty, t⟩
  | .iaSub u ty t => some ⟨u.pick .ia .ib, 1, intTys, .satS, ty, t⟩
  | .iaMin u ty t => some ⟨u.pick .ia .ib, 2, intTys, .no, ty, t⟩
  | .iaMax u ty t => some ⟨u.pick .ia .ib, 3, intTys, .no, ty, t⟩
  | .iaAnd u ty t => some ⟨u.pick .ia .ib, 4, bTys, .no, ty, t⟩
  | .iaOr u ty t => some ⟨u.pick .ia .ib, 5, bTys, .no, ty, t⟩
  | .iaXor u ty t => some ⟨u.pick .ia .ib, 6, bTys, .no, ty, t⟩
  | .iaAndn u ty t => some ⟨u.pick .ia .ib, 7, bTys, .no, ty, t⟩
  | .iaEq u ty t => some ⟨u.pick .ia .ib, 8, bTys, .no, ty, t⟩
  | .iaNe u ty t => some ⟨u.pick .ia .ib, 9, bTys, .no, ty, t⟩
  | .iaLt u ty t => some ⟨u.pick .ia .ib, 10, intTys, .no, ty, t⟩
  | .iaLe u ty t => some ⟨u.pick .ia .ib, 11, intTys, .no, ty, t⟩
  | .iaSel u ty t => some ⟨u.pick .ia .ib, 12, bTys, .no, ty, t⟩
  | .iaAbs u ty t => some ⟨u.pick .ia .ib, 13, sTys, .satS, ty, t⟩
  | .iaNeg u ty t => some ⟨u.pick .ia .ib, 14, sTys, .satS, ty, t⟩
  | .iaMov u ty t => some ⟨u.pick .ia .ib, 15, bTys, .no, ty, t⟩
  | .imMul ty t => some ⟨.im, 0, intTys, .satS, ty, t⟩
  | .imMulhi ty t => some ⟨.im, 1, intTys, .no, ty, t⟩
  | .imMad ty t => some ⟨.im, 2, intTys, .satS, ty, t⟩
  | .mulw ty t => some ⟨.im, 3, wTys, .no, ty, t⟩
  | .madw ty t => some ⟨.im, 4, wTys, .no, ty, t⟩
  | .dp4 ty t => some ⟨.im, 5, byteTys, .no, ty, t⟩
  | .shShl ty t => some ⟨.sh, 0, bTys, .no, ty, t⟩
  | .shShr ty t => some ⟨.sh, 1, bTys, .no, ty, t⟩
  | .shSar ty t => some ⟨.sh, 2, bTys, .no, ty, t⟩
  | .rol ty t => some ⟨.sh, 3, bTys, .no, ty, t⟩
  | .ror ty t => some ⟨.sh, 4, bTys, .no, ty, t⟩
  | .popc ty t => some ⟨.sh, 5, bTys, .no, ty, t⟩
  | .clz ty t => some ⟨.sh, 6, bTys, .no, ty, t⟩
  | .ctz ty t => some ⟨.sh, 7, bTys, .no, ty, t⟩
  | .brev ty t => some ⟨.sh, 8, bTys, .no, ty, t⟩
  | .bfx ty t => some ⟨.sh, 9, bTys, .no, ty, t⟩
  | .bfxs ty t => some ⟨.sh, 10, bTys, .no, ty, t⟩
  | .bfi ty t => some ⟨.sh, 11, bTys, .no, ty, t⟩
  | .perm ty t => some ⟨.sh, 12, bTys, .no, ty, t⟩
  | .faAdd u ty t => some ⟨u.pick .fa .fb, 0, fTys, .round, ty, t⟩
  | .faSub u ty t => some ⟨u.pick .fa .fb, 1, fTys, .round, ty, t⟩
  | .faMul u ty t => some ⟨u.pick .fa .fb, 2, fTys, .round, ty, t⟩
  | .fma u ty t => some ⟨u.pick .fa .fb, 3, fTys, .round, ty, t⟩
  | .fnma u ty t => some ⟨u.pick .fa .fb, 4, fTys, .round, ty, t⟩
  | .faMin u ty t => some ⟨u.pick .fa .fb, 5, fTys, .no, ty, t⟩
  | .faMax u ty t => some ⟨u.pick .fa .fb, 6, fTys, .no, ty, t⟩
  | .faEq u ty t => some ⟨u.pick .fa .fb, 7, fTys, .no, ty, t⟩
  | .faLt u ty t => some ⟨u.pick .fa .fb, 8, fTys, .no, ty, t⟩
  | .faLe u ty t => some ⟨u.pick .fa .fb, 9, fTys, .no, ty, t⟩
  | .xlSum ty t => some ⟨.xl, 0, xlTys, .roundF, ty, t⟩
  | .xlMin ty t => some ⟨.xl, 1, xlTys, .no, ty, t⟩
  | .xlMax ty t => some ⟨.xl, 2, xlTys, .no, ty, t⟩
  | .xlAnd ty t => some ⟨.xl, 3, bTys, .no, ty, t⟩
  | .xlOr ty t => some ⟨.xl, 4, bTys, .no, ty, t⟩
  | .shfl ty t => some ⟨.xl, 5, bTys, .no, ty, t⟩
  | .up ty t => some ⟨.xl, 6, bTys, .no, ty, t⟩
  | .down ty t => some ⟨.xl, 7, bTys, .no, ty, t⟩
  | .bfly ty t => some ⟨.xl, 8, bTys, .no, ty, t⟩
  | .bcast ty t => some ⟨.xl, 9, bTys, .no, ty, t⟩
  | .scan ty t => some ⟨.xl, 10, xlTys, .roundF, ty, t⟩
  | .ballot ty t => some ⟨.xl, 11, [.b32], .no, ty, t⟩
  | .saAdd u ty t => some ⟨u.pick .sa .sb, 0, [.s64, .b64], .satS, ty, t⟩
  | .saSub u ty t => some ⟨u.pick .sa .sb, 1, [.s64, .b64], .satS, ty, t⟩
  | .saMin u ty t => some ⟨u.pick .sa .sb, 2, [.s64, .b64], .no, ty, t⟩
  | .saMax u ty t => some ⟨u.pick .sa .sb, 3, [.s64, .b64], .no, ty, t⟩
  | .saAnd u ty t => some ⟨u.pick .sa .sb, 4, [.b64], .no, ty, t⟩
  | .saOr u ty t => some ⟨u.pick .sa .sb, 5, [.b64], .no, ty, t⟩
  | .saXor u ty t => some ⟨u.pick .sa .sb, 6, [.b64], .no, ty, t⟩
  | .saAndn u ty t => some ⟨u.pick .sa .sb, 7, [.b64], .no, ty, t⟩
  | .saEq u ty t => some ⟨u.pick .sa .sb, 8, [.b64], .no, ty, t⟩
  | .saNe u ty t => some ⟨u.pick .sa .sb, 9, [.b64], .no, ty, t⟩
  | .saLt u ty t => some ⟨u.pick .sa .sb, 10, [.s64, .b64], .no, ty, t⟩
  | .saLe u ty t => some ⟨u.pick .sa .sb, 11, [.s64, .b64], .no, ty, t⟩
  | .saSel u ty t => some ⟨u.pick .sa .sb, 12, [.b64], .no, ty, t⟩
  | .saShl u ty t => some ⟨u.pick .sa .sb, 13, [.b64], .no, ty, t⟩
  | .saShr u ty t => some ⟨u.pick .sa .sb, 14, [.b64], .no, ty, t⟩
  | .saSar u ty t => some ⟨u.pick .sa .sb, 15, [.b64], .no, ty, t⟩
  | .smMul ty t => some ⟨.sm, 0, [.s64, .b64], .no, ty, t⟩
  | .smMulhi ty t => some ⟨.sm, 1, [.s64, .b64], .no, ty, t⟩
  | .smMad ty t => some ⟨.sm, 2, [.s64, .b64], .no, ty, t⟩
  | .div ty t => some ⟨.sm, 3, [.s64, .b64], .no, ty, t⟩
  | .rem ty t => some ⟨.sm, 4, [.s64, .b64], .no, ty, t⟩
  | .plAnd t => some ⟨.pl, 0, [.untyped], .no, .untyped, t⟩
  | .plOr t => some ⟨.pl, 1, [.untyped], .no, .untyped, t⟩
  | .plXor t => some ⟨.pl, 2, [.untyped], .no, .untyped, t⟩
  | .plAndn t => some ⟨.pl, 3, [.untyped], .no, .untyped, t⟩
  | .plNot t => some ⟨.pl, 4, [.untyped], .no, .untyped, t⟩
  | .plAny t => some ⟨.pl, 5, [.untyped], .no, .untyped, t⟩
  | .plAll t => some ⟨.pl, 6, [.untyped], .no, .untyped, t⟩
  | _ => none

/-- The functions of cv with codes 0xC0 to 0xD1 (11 R245). -/
def Instr.special : Instr → Option (Nat × Trig)
  | .rcp t => some (0xC0, t)
  | .rsq t => some (0xC1, t)
  | .sqrt t => some (0xC2, t)
  | .exp t => some (0xC3, t)
  | .log t => some (0xC4, t)
  | .sin t => some (0xC5, t)
  | .cos t => some (0xC6, t)
  | .tanh t => some (0xC7, t)
  | .frc t => some (0xC8, t)
  | .rnd t => some (0xC9, t)
  | .cls t => some (0xCA, t)
  | .qpack t => some (0xD0, t)
  | .qunpack t => some (0xD1, t)
  | _ => none

/-- An odd-numbered vector register, which no wide access may name (05 R123). -/
def Src.oddVreg : Src → Bool
  | .vreg n => n.toNat % 2 == 1
  | _ => false

/-- The modifier of a rounding function: bits [7:5] zero and rm not 0b111 (06 R155). -/
def roundMdOk (md : BitVec 8) : Bool := md.toNat < 32 && md.toNat % 8 != 7

/-- What the modifier may hold, by rounding kind and type (06 R155, 11 R248). -/
def mdOk (r : Rnd) (ty : Ty) (md : BitVec 8) : Bool :=
  match r with
  | .round => roundMdOk md
  | .roundF => if ty.isFloat then roundMdOk md else md.toNat == 0
  | .satS => if ty.isSigned then md.toNat == 0 || md.toNat == 8 else md.toNat == 0
  | .no => md.toNat == 0

/-- `madw` reads its last operand wide although its type is 32-bit (13 R293). -/
def Instr.readsWide : Instr → Bool
  | .madw _ _ => true
  | .cvt _ c _ => c.is64
  | i => match i.typed with
    | some x => x.ty.is64
    | none => false

/-- Why a typed trigger is illegal, if it is. -/
def Typed.illegal (x : Typed) (wide : Bool) : Option Reject :=
  if !x.types.contains x.ty then some .badType
  else if !mdOk x.rnd x.ty x.t.md then some .badModifier
  else if wide && x.t.mv.src.oddVreg then some .oddWide
  else none

/-- Why an instruction is illegal, if it is; none for a legal one and for the steps that have no encoding. -/
def Instr.illegal (i : Instr) : Option Reject :=
  match i with
  | .moveToPort _ _ wide m => if wide && m.src.oddVreg then some .oddWide else none
  | .moveToRegister (.vreg n wide) m =>
      if wide && (n.toNat % 2 == 1 || m.src.oddVreg) then some .oddWide else none
  | .moveToPredicate n _ => if n.toNat == 0 then some .predicateZero else none
  | .specialRegisterWrite n _ => if n.toNat == 0xB || n.toNat == 0xC then none else some .readOnlySpecial
  | .cvt d c t =>
      if !(d.cvtOk && c.cvtOk && d != c) then some .badFunction
      else if !roundMdOk t.md then some .badModifier
      else if c.is64 && t.mv.src.oddVreg then some .oddWide else none
  | .qunpack t => if t.md.toNat == 0 then none else some .badModifier
  | .acq sc _ | .rel sc _ => if sc == .wp then some .scopeCode else none
  | .mloop _ ii s =>
      if 1 ≤ ii.toNat && ii.toNat ≤ 16 && 1 ≤ s.toNat && s.toNat ≤ 8 then none else some .immediateRange
  | .vbrk k | .vnext k => if k.toNat ≤ 31 then none else some .immediateRange
  | i => match i.typed with
    | some x => x.illegal i.readsWide
    | none => match i.special with
      | some (_, t) => if roundMdOk t.md then none else some .badModifier
      | none => none

/-- Rows that are moves, triggers or control operations, which have an encoding; every other row is a step of the package. -/
def Instr.control : Instr → Bool
  | .br _ | .brz _ _ | .brnz _ _ | .brany _ _ _ | .brall _ _ _ | .jmp _ | .call _ | .ret | .mloop _ _ _ | .vif _ _ | .velse | .vend
  | .vloop | .vwhile _ _ | .vbrk _ | .vnext _ | .exit | .trap _ | .yield | .bkpt | .fwait _ | .ftest _ _ | .fcancel _ | .fpass _ _
  | .sysrd _ _ | .syswr _ _ | .ctxsv _ | .ctxld _ | .launch _ _ | .eve | .pwait | .gang _ _ => true
  | _ => false

end Sys2Proof
end

