-- ==== Sys2Proof/WellFormed.lean ====
section
/-! DEFINITION. Which instructions are well formed: those that no check of the encoding tables (Machine/Encoding.lean) refuses. -/

namespace Sys2Proof

/-- The instruction meets every check of the encoding tables. -/
def WellFormed (i : Instr) : Prop := i.illegal = none

end Sys2Proof
end

