-- ==== Sys2Proof/Decode.lean ====
section
/-! DEFINITION. The decoder of 256-bit bundles, total on any bits and rejecting by name, and after it the encoder
(11_bundle_encoding R235 to R252; 04 R116, 07 R190, 08 R208, 09 R213, 15 R343, R356). -/

namespace Sys2Proof

/-- Bits [lo + n - 1 : lo] of a number. -/
def bitsAt (w lo n : Nat) : Nat := w / 2 ^ lo % 2 ^ n

/-- One bit as a Bool. -/
def bitAt (w k : Nat) : Bool := w / 2 ^ k % 2 == 1

/-- The code of a unit (05 R120). -/
def Un.code : Un → Nat
  | .ia => 0
  | .ib => 1
  | .im => 2
  | .sh => 3
  | .fa => 4
  | .fb => 5
  | .cv => 6
  | .xl => 7
  | .pl => 8
  | .sa => 9
  | .sb => 10
  | .sm => 11
  | .sl => 12
  | .la => 16
  | .lb => 17
  | .st => 18
  | .atm => 19
  | .cp => 20
  | .mx => 21
  | .ac => 22
  | .sy => 23
  | .so => 24
  | .ms => 25
  | .rg => 26

/-- The unit of a code; 13 to 15 and 27 upward name none (05 R120). -/
def Un.ofCode : Nat → Option Un
  | 0 => some .ia
  | 1 => some .ib
  | 2 => some .im
  | 3 => some .sh
  | 4 => some .fa
  | 5 => some .fb
  | 6 => some .cv
  | 7 => some .xl
  | 8 => some .pl
  | 9 => some .sa
  | 10 => some .sb
  | 11 => some .sm
  | 12 => some .sl
  | 16 => some .la
  | 17 => some .lb
  | 18 => some .st
  | 19 => some .atm
  | 20 => some .cp
  | 21 => some .mx
  | 22 => some .ac
  | 23 => some .sy
  | 24 => some .so
  | 25 => some .ms
  | 26 => some .rg
  | _ => none

/-- The code of a type (11 R243). -/
def Ty.code : Ty → Nat
  | .b8 => 0
  | .s8 => 1
  | .b32 => 2
  | .s32 => 3
  | .b64 => 4
  | .s64 => 5
  | .f16 => 6
  | .bf16 => 7
  | .f32 => 8
  | .f64 => 9
  | .e4m3 => 10
  | .e5m2 => 11
  | .q4 => 12
  | .f16x2 => 13
  | .bf16x2 => 14
  | .untyped => 15

/-- The type of a 4-bit code (11 R243). -/
def Ty.ofCode : Nat → Ty
  | 0 => .b8
  | 1 => .s8
  | 2 => .b32
  | 3 => .s32
  | 4 => .b64
  | 5 => .s64
  | 6 => .f16
  | 7 => .bf16
  | 8 => .f32
  | 9 => .f64
  | 10 => .e4m3
  | 11 => .e5m2
  | 12 => .q4
  | 13 => .f16x2
  | 14 => .bf16x2
  | _ => .untyped

/-- The code of a scope (09 R212). -/
def Scope.code : Scope → Nat
  | .wp => 0
  | .cl => 1
  | .die => 2
  | .dev => 3
  | .sys => 4

def Scope.ofCode : Nat → Option Scope
  | 0 => some .wp
  | 1 => some .cl
  | 2 => some .die
  | 3 => some .dev
  | 4 => some .sys
  | _ => none

def PortIx.code : PortIx → Nat
  | .a => 0
  | .b => 1
  | .c => 2

def PortIx.ofCode : Nat → PortIx
  | 0 => .a
  | 1 => .b
  | _ => .c

/-- The literals of a bundle: the value of slot k where lit bit k is set (11 R237). -/
abbrev Lits := List (Option (BitVec 40))

def Lits.get (l : Lits) (k : Nat) : Option (BitVec 40) := (l.getD k none)

/-- The source of a 12-bit code (11 R240). -/
def srcOf (l : Lits) (c : Nat) : Except Reject Src :=
  if c < 0x100 then .ok (.vreg (BitVec.ofNat 8 c))
  else if c < 0x140 then .ok (.sreg (BitVec.ofNat 6 c))
  else if c < 0x150 then .ok (.pred (BitVec.ofNat 4 c))
  else if c < 0x160 then .ok (.ring (BitVec.ofNat 4 c))
  else if c < 0x180 then .error .badSource
  else if c < 0x1A0 then
    match Un.ofCode (c - 0x180) with
    | some u => .ok (.res u)
    | none => .error .badSource
  else if c < 0x1C0 then
    match Un.ofCode (c - 0x1A0) with
    | some u => .ok (.sec u)
    | none => .error .badSource
  else if c < 0x1D0 then .ok (.special (BitVec.ofNat 4 c))
  else if c < 0x200 then .error .badSource
  else if c < 0x206 then
    match l.get (c - 0x200) with
    | some v => .ok (.litZ v)
    | none => .error .literalAbsent
  else if c < 0x208 then .error .badSource
  else if c < 0x20E then
    match l.get (c - 0x208) with
    | some v => .ok (.litS v)
    | none => .error .literalAbsent
  else if c < 0x800 then .error .badSource
  else .ok (.imm (BitVec.ofNat 11 c))

/-- The typed trigger of a unit and an operation code (11 R244, 13 R309). -/
def ofTyped (u : Un) (op : Nat) (ty : Ty) (t : Trig) : Option Instr :=
  match u, op with
  | .ia, 0 => some (.iaAdd .first ty t)
  | .ib, 0 => some (.iaAdd .second ty t)
  | .ia, 1 => some (.iaSub .first ty t)
  | .ib, 1 => some (.iaSub .second ty t)
  | .ia, 2 => some (.iaMin .first ty t)
  | .ib, 2 => some (.iaMin .second ty t)
  | .ia, 3 => some (.iaMax .first ty t)
  | .ib, 3 => some (.iaMax .second ty t)
  | .ia, 4 => some (.iaAnd .first ty t)
  | .ib, 4 => some (.iaAnd .second ty t)
  | .ia, 5 => some (.iaOr .first ty t)
  | .ib, 5 => some (.iaOr .second ty t)
  | .ia, 6 => some (.iaXor .first ty t)
  | .ib, 6 => some (.iaXor .second ty t)
  | .ia, 7 => some (.iaAndn .first ty t)
  | .ib, 7 => some (.iaAndn .second ty t)
  | .ia, 8 => some (.iaEq .first ty t)
  | .ib, 8 => some (.iaEq .second ty t)
  | .ia, 9 => some (.iaNe .first ty t)
  | .ib, 9 => some (.iaNe .second ty t)
  | .ia, 10 => some (.iaLt .first ty t)
  | .ib, 10 => some (.iaLt .second ty t)
  | .ia, 11 => some (.iaLe .first ty t)
  | .ib, 11 => some (.iaLe .second ty t)
  | .ia, 12 => some (.iaSel .first ty t)
  | .ib, 12 => some (.iaSel .second ty t)
  | .ia, 13 => some (.iaAbs .first ty t)
  | .ib, 13 => some (.iaAbs .second ty t)
  | .ia, 14 => some (.iaNeg .first ty t)
  | .ib, 14 => some (.iaNeg .second ty t)
  | .ia, 15 => some (.iaMov .first ty t)
  | .ib, 15 => some (.iaMov .second ty t)
  | .im, 0 => some (.imMul ty t)
  | .im, 1 => some (.imMulhi ty t)
  | .im, 2 => some (.imMad ty t)
  | .im, 3 => some (.mulw ty t)
  | .im, 4 => some (.madw ty t)
  | .im, 5 => some (.dp4 ty t)
  | .sh, 0 => some (.shShl ty t)
  | .sh, 1 => some (.shShr ty t)
  | .sh, 2 => some (.shSar ty t)
  | .sh, 3 => some (.rol ty t)
  | .sh, 4 => some (.ror ty t)
  | .sh, 5 => some (.popc ty t)
  | .sh, 6 => some (.clz ty t)
  | .sh, 7 => some (.ctz ty t)
  | .sh, 8 => some (.brev ty t)
  | .sh, 9 => some (.bfx ty t)
  | .sh, 10 => some (.bfxs ty t)
  | .sh, 11 => some (.bfi ty t)
  | .sh, 12 => some (.perm ty t)
  | .fa, 0 => some (.faAdd .first ty t)
  | .fb, 0 => some (.faAdd .second ty t)
  | .fa, 1 => some (.faSub .first ty t)
  | .fb, 1 => some (.faSub .second ty t)
  | .fa, 2 => some (.faMul .first ty t)
  | .fb, 2 => some (.faMul .second ty t)
  | .fa, 3 => some (.fma .first ty t)
  | .fb, 3 => some (.fma .second ty t)
  | .fa, 4 => some (.fnma .first ty t)
  | .fb, 4 => some (.fnma .second ty t)
  | .fa, 5 => some (.faMin .first ty t)
  | .fb, 5 => some (.faMin .second ty t)
  | .fa, 6 => some (.faMax .first ty t)
  | .fb, 6 => some (.faMax .second ty t)
  | .fa, 7 => some (.faEq .first ty t)
  | .fb, 7 => some (.faEq .second ty t)
  | .fa, 8 => some (.faLt .first ty t)
  | .fb, 8 => some (.faLt .second ty t)
  | .fa, 9 => some (.faLe .first ty t)
  | .fb, 9 => some (.faLe .second ty t)
  | .xl, 0 => some (.xlSum ty t)
  | .xl, 1 => some (.xlMin ty t)
  | .xl, 2 => some (.xlMax ty t)
  | .xl, 3 => some (.xlAnd ty t)
  | .xl, 4 => some (.xlOr ty t)
  | .xl, 5 => some (.shfl ty t)
  | .xl, 6 => some (.up ty t)
  | .xl, 7 => some (.down ty t)
  | .xl, 8 => some (.bfly ty t)
  | .xl, 9 => some (.bcast ty t)
  | .xl, 10 => some (.scan ty t)
  | .xl, 11 => some (.ballot ty t)
  | .sa, 0 => some (.saAdd .first ty t)
  | .sb, 0 => some (.saAdd .second ty t)
  | .sa, 1 => some (.saSub .first ty t)
  | .sb, 1 => some (.saSub .second ty t)
  | .sa, 2 => some (.saMin .first ty t)
  | .sb, 2 => some (.saMin .second ty t)
  | .sa, 3 => some (.saMax .first ty t)
  | .sb, 3 => some (.saMax .second ty t)
  | .sa, 4 => some (.saAnd .first ty t)
  | .sb, 4 => some (.saAnd .second ty t)
  | .sa, 5 => some (.saOr .first ty t)
  | .sb, 5 => some (.saOr .second ty t)
  | .sa, 6 => some (.saXor .first ty t)
  | .sb, 6 => some (.saXor .second ty t)
  | .sa, 7 => some (.saAndn .first ty t)
  | .sb, 7 => some (.saAndn .second ty t)
  | .sa, 8 => some (.saEq .first ty t)
  | .sb, 8 => some (.saEq .second ty t)
  | .sa, 9 => some (.saNe .first ty t)
  | .sb, 9 => some (.saNe .second ty t)
  | .sa, 10 => some (.saLt .first ty t)
  | .sb, 10 => some (.saLt .second ty t)
  | .sa, 11 => some (.saLe .first ty t)
  | .sb, 11 => some (.saLe .second ty t)
  | .sa, 12 => some (.saSel .first ty t)
  | .sb, 12 => some (.saSel .second ty t)
  | .sa, 13 => some (.saShl .first ty t)
  | .sb, 13 => some (.saShl .second ty t)
  | .sa, 14 => some (.saShr .first ty t)
  | .sb, 14 => some (.saShr .second ty t)
  | .sa, 15 => some (.saSar .first ty t)
  | .sb, 15 => some (.saSar .second ty t)
  | .sm, 0 => some (.smMul ty t)
  | .sm, 1 => some (.smMulhi ty t)
  | .sm, 2 => some (.smMad ty t)
  | .sm, 3 => some (.div ty t)
  | .sm, 4 => some (.rem ty t)
  | .pl, 0 => some (.plAnd t)
  | .pl, 1 => some (.plOr t)
  | .pl, 2 => some (.plXor t)
  | .pl, 3 => some (.plAndn t)
  | .pl, 4 => some (.plNot t)
  | .pl, 5 => some (.plAny t)
  | .pl, 6 => some (.plAll t)
  | _, _ => none

/-- The functions of cv with codes 0xC0 to 0xD1 (11 R245). -/
def ofSpecial (fn : Nat) (t : Trig) : Option Instr :=
  match fn with
  | 0xC0 => some (.rcp t)
  | 0xC1 => some (.rsq t)
  | 0xC2 => some (.sqrt t)
  | 0xC3 => some (.exp t)
  | 0xC4 => some (.log t)
  | 0xC5 => some (.sin t)
  | 0xC6 => some (.cos t)
  | 0xC7 => some (.tanh t)
  | 0xC8 => some (.frc t)
  | 0xC9 => some (.rnd t)
  | 0xCA => some (.cls t)
  | 0xD0 => some (.qpack t)
  | 0xD1 => some (.qunpack t)
  | _ => none

/-- A trigger of units 0 to 11 (11 R242 to R245): a `cvt` has a code below 0xC0 in fn and a type below 12 in each nibble. -/
def laneTrigger (u : Un) (fn : Nat) (t : Trig) : Except Reject Instr :=
  match u with
  | .cv =>
    if fn < 0xC0 then .ok (.cvt (Ty.ofCode (fn / 16)) (Ty.ofCode (fn % 16)) t)
    else match ofSpecial fn t with
      | some i => .ok i
      | none => .error .badFunction
  | .pl =>
    if fn % 16 = 15 then
      match ofTyped .pl (fn / 16) .untyped t with
      | some i => .ok i
      | none => .error .badFunction
    else .error .badType
  | u => match ofTyped u (fn / 16) (Ty.ofCode (fn % 16)) t with
    | some i => .ok i
    | none => .error .badFunction

/-- The functions whose modifier names a buffer record in [5:0] and has [7:6] = 0 (11 R246). -/
def recordForm (u : Un) (fn : Nat) (t : MTrig) : Option Instr :=
  match u, fn with
  | .sl, 0x1 => some (.ldc t)
  | .la, 0x1 => some (.ld .first t)
  | .lb, 0x1 => some (.ld .second t)
  | .la, 0x2 => some (.lds .first t)
  | .lb, 0x2 => some (.lds .second t)
  | .la, 0x3 => some (.ldu .first t)
  | .lb, 0x3 => some (.ldu .second t)
  | .la, 0x4 => some (.preq .first t)
  | .lb, 0x4 => some (.preq .second t)
  | .la, 0x5 => some (.touch .first t)
  | .lb, 0x5 => some (.touch .second t)
  | .st, 0x1 => some (.st t)
  | .st, 0x2 => some (.stu t)
  | .st, 0x10 => some (.wb t)
  | .st, 0x11 => some (.inv t)
  | .cp, 0x1 => some (.go t)
  | .cp, 0x2 => some (.mcast t)
  | .so, 0x1 => some (.sol t)
  | .so, 0x3 => some (.tins t)
  | .so, 0x5 => some (.tmove t)
  | .ms, 0x1 => some (.send t)
  | .ms, 0x2 => some (.post t)
  | _, _ => none

/-- The functions whose modifier is 0 (11 R246). -/
def plainForm (u : Un) (fn : Nat) (m : Mv) : Option Instr :=
  match u, fn with
  | .st, 0x12 => some (.csize m)
  | .cp, 0x3 => some (.copyResume m)
  | .cp, 0x4 => some (.cwany m)
  | .cp, 0x5 => some (.cwall m)
  | .cp, 0x6 => some (.cffr m)
  | .mx, 0xA => some (.taskResume m)
  | .ac, 0x1 => some (.win m)
  | .ac, 0x2 => some (.acRd m)
  | .ac, 0x3 => some (.acWr m)
  | .ac, 0x4 => some (.acZero m)
  | .sy, 0x10 => some (.barArr m)
  | .sy, 0x11 => some (.barWait m)
  | .sy, 0x12 => some (.barSync m)
  | .sy, 0x13 => some (.barSet m)
  | .sy, 0x14 => some (.gbar m)
  | .sy, 0x20 => some (.bcarm m)
  | .sy, 0x21 => some (.bcwait m)
  | .so, 0x2 => some (.sreply m)
  | .so, 0x4 => some (.tdel m)
  | .ms, 0x3 => some (.probe m)
  | .rg, 0x1 => some (.rmake m)
  | .rg, 0x2 => some (.rfree m)
  | .rg, 0x3 => some (.radv m)
  | .rg, 0x4 => some (.rwait m)
  | .rg, 0x5 => some (.vgive m)
  | .rg, 0x6 => some (.vclaim m)
  | .rg, 0x7 => some (.rcnt m)
  | _, _ => none

/-- The atomic operations by fn[7:3] (11 R247). -/
def atomicForm (op : Nat) (sc : Scope) (t : MTrig) : Option Instr :=
  match op with
  | 0 => some (.atAdd sc t)
  | 1 => some (.umin sc t)
  | 2 => some (.umax sc t)
  | 3 => some (.smin sc t)
  | 4 => some (.smax sc t)
  | 5 => some (.atAnd sc t)
  | 6 => some (.atOr sc t)
  | 7 => some (.exch sc t)
  | 8 => some (.cas sc t)
  | 9 => some (.incw sc t)
  | 10 => some (.decw sc t)
  | 11 => some (.addb sc t)
  | _ => none

/-- The mode functions of mx (07 R190). -/
def taskForm (fn : Nat) (tri : Bool) (t : MTrig) : Option Instr :=
  match fn with
  | 1 => some (.mmBf16 tri t)
  | 2 => some (.mmF16 tri t)
  | 3 => some (.mmE4m3 tri t)
  | 4 => some (.mmE5m2 tri t)
  | 5 => some (.mmS8 tri t)
  | 6 => some (.mmQ4 tri t)
  | 7 => some (.scacc tri t)
  | 8 => some (.drain tri t)
  | 9 => some (.hrot tri t)
  | _ => none

/-- The ordering forms of sy, whose modifier is a scope (09 R213). -/
def scopeForm (fn : Nat) (sc : Scope) (m : Mv) : Option Instr :=
  match fn with
  | 1 => some (.acq sc m)
  | 2 => some (.rel sc m)
  | 3 => some (.fence sc m)
  | _ => none

/-- A trigger of units 12 to 26 (11 R246 to R248). DESIGN CHOICE (log entry 70): function 0x00 of `at` is the `add` of scope code 0, which R247 says
encodes, though the last sentence of R246 makes function 0x00 of every unit of its table illegal. -/
def otherTrigger (u : Un) (fn md : Nat) (m : Mv) : Except Reject Instr :=
  match plainForm u fn m with
  | some i => if md = 0 then .ok i else .error .badModifier
  | none =>
    let t : MTrig := ⟨m, BitVec.ofNat 6 md⟩
    match recordForm u fn t with
    | some i => if md < 64 then .ok i else .error .badModifier
    | none =>
      match u with
      | .atm =>
        match Scope.ofCode (fn % 8) with
        | none => .error .scopeCode
        | some sc => match atomicForm (fn / 8) sc t with
          | some i => if md < 64 then .ok i else .error .badModifier
          | none => .error .badFunction
      | .mx => match taskForm fn (bitAt md 6) t with
        | some i => if md < 128 then .ok i else .error .badModifier
        | none => .error .badFunction
      | .sy => match Scope.ofCode md with
        | none => if 1 ≤ fn ∧ fn ≤ 3 then .error .scopeCode else .error .badFunction
        | some sc => match scopeForm fn sc m with
          | some i => .ok i
          | none => .error .badFunction
      | _ => .error .badFunction

/-- Is the unit one of 0 to 11, whose modifier is the rounding field (11 R248)? -/
def Un.isLane (u : Un) : Bool := u.code < 12

/-- A move from its destination code, fn and mod (11 R241), before the checks of Machine/Encoding.lean. -/
def moveOf (dst fn md : Nat) (m : Mv) : Except Reject Instr :=
  if dst < 0x6C then
    match Un.ofCode (dst / 4) with
    | none => .error .badDestination
    | some u =>
      if dst % 4 = 3 then
        if u.isLane then laneTrigger u fn ⟨m, BitVec.ofNat 8 md⟩ else otherTrigger u fn md m
      else if fn = 0 ∧ md < 2 then .ok (.moveToPort u (PortIx.ofCode (dst % 4)) (md == 1) m)
      else .error .badPortField
  else if dst = 0x6C then
    if md < 2 then .ok (.moveToRegister (.vreg (BitVec.ofNat 8 fn) (md == 1)) m) else .error .badModifier
  else if dst = 0x6D then
    if fn < 64 ∧ md = 0 then .ok (.moveToRegister (.sreg (BitVec.ofNat 6 fn)) m) else .error .badModifier
  else if dst = 0x6E then
    if fn < 16 ∧ md = 0 then .ok (.moveToPredicate (BitVec.ofNat 4 fn) m) else .error .badModifier
  else if dst = 0x6F then
    if fn < 16 ∧ md = 0 then .ok (.specialRegisterWrite (BitVec.ofNat 4 fn) m) else .error .readOnlySpecial
  else
    if fn = 0 ∧ md = 0 then .ok (.ringPush (BitVec.ofNat 4 dst) m) else .error .wideRing

/-- A candidate instruction, kept when no check of the encoding tables refuses it. -/
def legal (i : Instr) : Except Reject Instr :=
  match i.illegal with
  | some r => .error r
  | none => .ok i

/-- One 40-bit slot (11 R238, R239): none for an empty one. -/
def decodeSlot (l : Lits) (w : Nat) : Except Reject (Option Instr) :=
  if bitsAt w 35 5 = 16 then
    if bitsAt w 0 35 = 0 then .ok none else .error .slotNotEmpty
  else do
    let src ← srcOf l (bitsAt w 23 12)
    let i ← moveOf (bitsAt w 16 7) (bitsAt w 8 8) (bitsAt w 0 8) ⟨⟨bitAt w 39, BitVec.ofNat 4 (bitsAt w 35 4)⟩, src⟩
    let i ← legal i
    .ok (some i)

/-- The fields of a control operation (11 R249). -/
structure CtlFields where
  opc : Nat
  sd : Nat
  sa : Nat
  pr : Nat
  ng : Nat
  res : Nat
  ia : Nat
  ib : Nat
  x : Nat
  deriving DecidableEq, Repr

def CtlFields.ofWord (w : Nat) : CtlFields where
  opc := bitsAt w 72 8
  sd := bitsAt w 66 6
  sa := bitsAt w 60 6
  pr := bitsAt w 56 4
  ng := bitsAt w 55 1
  res := bitsAt w 48 7
  ia := bitsAt w 40 8
  ib := bitsAt w 32 8
  x := bitsAt w 0 32

/-- Which fields an operation uses: sd, sa, pr and ng, ia, ib, x (11 R250). The rest must be zero. -/
structure CtlUse where
  sd : Bool := false
  sa : Bool := false
  pr : Bool := false
  ia : Bool := false
  ib : Bool := false
  x : Bool := false

/-- Every field the operation does not use is zero (11 R249). -/
def CtlFields.unusedZero (f : CtlFields) (u : CtlUse) : Bool :=
  (u.sd || f.sd == 0) && (u.sa || f.sa == 0) && (u.pr || (f.pr == 0 && f.ng == 0)) && (u.ia || f.ia == 0) && (u.ib || f.ib == 0) &&
  (u.x || f.x == 0) && f.res == 0

/-- The operation of an opcode and the fields it uses (11 R250). -/
def ctlOf (f : CtlFields) : Option (Instr × CtlUse) :=
  let x : BitVec 32 := BitVec.ofNat 32 f.x
  let sa : BitVec 6 := BitVec.ofNat 6 f.sa
  let sd : BitVec 6 := BitVec.ofNat 6 f.sd
  let p : BitVec 4 := BitVec.ofNat 4 f.pr
  let ng : Bool := f.ng == 1
  let ia : BitVec 8 := BitVec.ofNat 8 f.ia
  let ib : BitVec 8 := BitVec.ofNat 8 f.ib
  let n : BitVec 16 := BitVec.ofNat 16 f.x
  match f.opc with
  | 0x01 => some (.br x, ⟨false, false, false, false, false, true⟩)
  | 0x02 => some (.brz sa x, ⟨false, true, false, false, false, true⟩)
  | 0x03 => some (.brnz sa x, ⟨false, true, false, false, false, true⟩)
  | 0x04 => some (.brany p ng x, ⟨false, false, true, false, false, true⟩)
  | 0x05 => some (.brall p ng x, ⟨false, false, true, false, false, true⟩)
  | 0x06 => some (.jmp sa, ⟨false, true, false, false, false, false⟩)
  | 0x07 => some (.call x, ⟨false, false, false, false, false, true⟩)
  | 0x08 => some (.ret, ⟨false, false, false, false, false, false⟩)
  | 0x10 => some (.mloop sa ia ib, ⟨false, true, false, true, true, false⟩)
  | 0x18 => some (.vif p ng, ⟨false, false, true, false, false, false⟩)
  | 0x19 => some (.velse, ⟨false, false, false, false, false, false⟩)
  | 0x1A => some (.vend, ⟨false, false, false, false, false, false⟩)
  | 0x1B => some (.vloop, ⟨false, false, false, false, false, false⟩)
  | 0x1C => some (.vwhile p ng, ⟨false, false, true, false, false, false⟩)
  | 0x1D => some (.vbrk ia, ⟨false, false, false, true, false, false⟩)
  | 0x1E => some (.vnext ia, ⟨false, false, false, true, false, false⟩)
  | 0x20 => some (.exit, ⟨false, false, false, false, false, false⟩)
  | 0x21 => some (.trap ia, ⟨false, false, false, true, false, false⟩)
  | 0x22 => some (.yield, ⟨false, false, false, false, false, false⟩)
  | 0x23 => some (.bkpt, ⟨false, false, false, false, false, false⟩)
  | 0x28 => some (.fwait sa, ⟨false, true, false, false, false, false⟩)
  | 0x29 => some (.ftest sd sa, ⟨true, true, false, false, false, false⟩)
  | 0x2A => some (.fcancel sa, ⟨false, true, false, false, false, false⟩)
  | 0x2B => some (.fpass sd sa, ⟨true, true, false, false, false, false⟩)
  | 0x30 => some (.sysrd sd n, ⟨true, false, false, false, false, true⟩)
  | 0x31 => some (.syswr n sa, ⟨false, true, false, false, false, true⟩)
  | 0x32 => some (.ctxsv sa, ⟨false, true, false, false, false, false⟩)
  | 0x33 => some (.ctxld sa, ⟨false, true, false, false, false, false⟩)
  | 0x38 => some (.launch sd sa, ⟨true, true, false, false, false, false⟩)
  | 0x39 => some (.eve, ⟨false, false, false, false, false, false⟩)
  | 0x3A => some (.pwait, ⟨false, false, false, false, false, false⟩)
  | 0x3B => some (.gang sd sa, ⟨true, true, false, false, false, false⟩)
  | _ => none

/-- The control operation of an 80-bit field (11 R249, R250): an x above 0xFFFF is out of range for `sysrd` and `syswr`. -/
def decodeCtl (w : Nat) : Except Reject Instr :=
  let f := CtlFields.ofWord w
  match ctlOf f with
  | none => .error .badOpcode
  | some (i, u) =>
    if !f.unusedZero u then .error .unusedField
    else if (f.opc == 0x30 || f.opc == 0x31) && f.x > 0xFFFF then .error .immediateRange
    else legal i

/-- A decoded bundle: its control operation if it has one, and its moves with their slots, ascending. -/
structure Bundle where
  ctl : Option Instr
  moves : List (Nat × Instr)
  deriving DecidableEq, Repr

/-- The slots k, k + 1, … of a bundle, n of them; an error names its slot (11 R252). -/
def decodeSlots (lits : Lits) (w : Nat) : Nat → Nat → Except (Nat × Reject) (List (Nat × Instr))
  | _, 0 => .ok []
  | k, n + 1 =>
    if (lits.get k).isSome then decodeSlots lits w (k + 1) n
    else match decodeSlot lits (bitsAt w (40 * k) 40) with
      | .error r => .error (k, r)
      | .ok none => decodeSlots lits w (k + 1) n
      | .ok (some i) => match decodeSlots lits w (k + 1) n with
        | .error e => .error e
        | .ok l => .ok ((k, i) :: l)

/-- The literals of a bundle, by slot. -/
def litsOf (w n : Nat) : Lits :=
  (List.range n).map fun k => if bitAt w (240 + k) then some (BitVec.ofNat 40 (bitsAt w (40 * k) 40)) else none

/-- A 256-bit bundle, checked in the order of 11 R252: header, control operation, slots. An error names slot 0 to 5, 6 for the control
operation, 7 for the header. -/
def decodeBundle (w : Nat) : Except (Nat × Reject) Bundle :=
  let kind := bitsAt w 254 2
  if kind ≥ 2 then .error (7, .bundleKind)
  else if bitsAt w 246 8 ≠ 0 then .error (7, .headerReserved)
  else if kind = 1 then
    if bitsAt w 244 2 ≠ 0 then .error (7, .controlLitBits)
    else match decodeCtl (bitsAt w 160 80) with
      | .error r => .error (6, r)
      | .ok c => match decodeSlots (litsOf w 4) w 0 4 with
        | .error e => .error e
        | .ok l => .ok ⟨some c, l⟩
  else match decodeSlots (litsOf w 6) w 0 6 with
    | .error e => .error e
    | .ok l => .ok ⟨none, l⟩

/-- The one instruction of a bundle that holds exactly one: a lone move, a lone control operation, or the no-operation of 10 R233. -/
def Bundle.single : Bundle → Option Instr
  | ⟨none, []⟩ => some .noOperation
  | ⟨none, [(_, i)]⟩ => some i
  | ⟨some c, []⟩ => some c
  | _ => none

/-- What the decoder reads from a bundle given as the table numbers it: bit 0 is bit 0 of the first word, the bits above `nbits` are 0,
and a bundle is stored little-endian (00 R10), so the number is the bundle's own. -/
def decodeTableWord (nbits w : Nat) : Option Instr :=
  match decodeBundle (w % 2 ^ min nbits 256) with
  | .error _ => none
  | .ok b => b.single

/-! ### The encoder -/

/-- The 12-bit code of a source; a literal stands in slot `k` (11 R240, R254). -/
def Src.code (k : Nat) : Src → Nat
  | .vreg n => n.toNat
  | .sreg n => 0x100 + n.toNat
  | .pred n => 0x140 + n.toNat
  | .ring n => 0x150 + n.toNat
  | .res u => 0x180 + u.code
  | .sec u => 0x1A0 + u.code
  | .special n => 0x1C0 + n.toNat
  | .litZ _ => 0x200 + k
  | .litS _ => 0x208 + k
  | .imm v => 0x800 + v.toNat

def Src.lit : Src → Option (BitVec 40)
  | .litZ v | .litS v => some v
  | _ => none

/-- Destination, fn and mod of a move or trigger, with its guard and source (11 R241 to R248). -/
structure RawMove where
  dst : Nat
  fn : Nat
  md : Nat
  mv : Mv

def rawOf (u : Un) (fn md : Nat) (m : Mv) : RawMove := ⟨u.code * 4 + 3, fn, md, m⟩

/-- The fields of every instruction that stands in a move slot. -/
def Instr.raw (i : Instr) : Option RawMove :=
  match i with
  | .moveToPort u k wide m => some ⟨u.code * 4 + k.code, 0, wide.toNat, m⟩
  | .moveToRegister (.vreg n wide) m => some ⟨0x6C, n.toNat, wide.toNat, m⟩
  | .moveToRegister (.sreg n) m => some ⟨0x6D, n.toNat, 0, m⟩
  | .moveToPredicate n m => some ⟨0x6E, n.toNat, 0, m⟩
  | .specialRegisterWrite n m => some ⟨0x6F, n.toNat, 0, m⟩
  | .ringPush n m => some ⟨0x70 + n.toNat, 0, 0, m⟩
  | .cvt d c t => some (rawOf .cv (d.code * 16 + c.code) t.md.toNat t.mv)
  | .ldc t => some (rawOf .sl 0x1 t.buf.toNat t.mv)
  | .ld u t => some (rawOf (u.pick .la .lb) 0x1 t.buf.toNat t.mv)
  | .lds u t => some (rawOf (u.pick .la .lb) 0x2 t.buf.toNat t.mv)
  | .ldu u t => some (rawOf (u.pick .la .lb) 0x3 t.buf.toNat t.mv)
  | .preq u t => some (rawOf (u.pick .la .lb) 0x4 t.buf.toNat t.mv)
  | .touch u t => some (rawOf (u.pick .la .lb) 0x5 t.buf.toNat t.mv)
  | .st t => some (rawOf .st 0x1 t.buf.toNat t.mv)
  | .stu t => some (rawOf .st 0x2 t.buf.toNat t.mv)
  | .wb t => some (rawOf .st 0x10 t.buf.toNat t.mv)
  | .inv t => some (rawOf .st 0x11 t.buf.toNat t.mv)
  | .go t => some (rawOf .cp 0x1 t.buf.toNat t.mv)
  | .mcast t => some (rawOf .cp 0x2 t.buf.toNat t.mv)
  | .sol t => some (rawOf .so 0x1 t.buf.toNat t.mv)
  | .tins t => some (rawOf .so 0x3 t.buf.toNat t.mv)
  | .tmove t => some (rawOf .so 0x5 t.buf.toNat t.mv)
  | .send t => some (rawOf .ms 0x1 t.buf.toNat t.mv)
  | .post t => some (rawOf .ms 0x2 t.buf.toNat t.mv)
  | .csize m => some (rawOf .st 0x12 0 m)
  | .copyResume m => some (rawOf .cp 0x3 0 m)
  | .cwany m => some (rawOf .cp 0x4 0 m)
  | .cwall m => some (rawOf .cp 0x5 0 m)
  | .cffr m => some (rawOf .cp 0x6 0 m)
  | .taskResume m => some (rawOf .mx 0xA 0 m)
  | .win m => some (rawOf .ac 0x1 0 m)
  | .acRd m => some (rawOf .ac 0x2 0 m)
  | .acWr m => some (rawOf .ac 0x3 0 m)
  | .acZero m => some (rawOf .ac 0x4 0 m)
  | .barArr m => some (rawOf .sy 0x10 0 m)
  | .barWait m => some (rawOf .sy 0x11 0 m)
  | .barSync m => some (rawOf .sy 0x12 0 m)
  | .barSet m => some (rawOf .sy 0x13 0 m)
  | .gbar m => some (rawOf .sy 0x14 0 m)
  | .bcarm m => some (rawOf .sy 0x20 0 m)
  | .bcwait m => some (rawOf .sy 0x21 0 m)
  | .sreply m => some (rawOf .so 0x2 0 m)
  | .tdel m => some (rawOf .so 0x4 0 m)
  | .probe m => some (rawOf .ms 0x3 0 m)
  | .rmake m => some (rawOf .rg 0x1 0 m)
  | .rfree m => some (rawOf .rg 0x2 0 m)
  | .radv m => some (rawOf .rg 0x3 0 m)
  | .rwait m => some (rawOf .rg 0x4 0 m)
  | .vgive m => some (rawOf .rg 0x5 0 m)
  | .vclaim m => some (rawOf .rg 0x6 0 m)
  | .rcnt m => some (rawOf .rg 0x7 0 m)
  | .atAdd sc t => some (rawOf .atm (0 * 8 + sc.code) t.buf.toNat t.mv)
  | .umin sc t => some (rawOf .atm (1 * 8 + sc.code) t.buf.toNat t.mv)
  | .umax sc t => some (rawOf .atm (2 * 8 + sc.code) t.buf.toNat t.mv)
  | .smin sc t => some (rawOf .atm (3 * 8 + sc.code) t.buf.toNat t.mv)
  | .smax sc t => some (rawOf .atm (4 * 8 + sc.code) t.buf.toNat t.mv)
  | .atAnd sc t => some (rawOf .atm (5 * 8 + sc.code) t.buf.toNat t.mv)
  | .atOr sc t => some (rawOf .atm (6 * 8 + sc.code) t.buf.toNat t.mv)
  | .exch sc t => some (rawOf .atm (7 * 8 + sc.code) t.buf.toNat t.mv)
  | .cas sc t => some (rawOf .atm (8 * 8 + sc.code) t.buf.toNat t.mv)
  | .incw sc t => some (rawOf .atm (9 * 8 + sc.code) t.buf.toNat t.mv)
  | .decw sc t => some (rawOf .atm (10 * 8 + sc.code) t.buf.toNat t.mv)
  | .addb sc t => some (rawOf .atm (11 * 8 + sc.code) t.buf.toNat t.mv)
  | .mmBf16 tri t => some (rawOf .mx 1 (tri.toNat * 64 + t.buf.toNat) t.mv)
  | .mmF16 tri t => some (rawOf .mx 2 (tri.toNat * 64 + t.buf.toNat) t.mv)
  | .mmE4m3 tri t => some (rawOf .mx 3 (tri.toNat * 64 + t.buf.toNat) t.mv)
  | .mmE5m2 tri t => some (rawOf .mx 4 (tri.toNat * 64 + t.buf.toNat) t.mv)
  | .mmS8 tri t => some (rawOf .mx 5 (tri.toNat * 64 + t.buf.toNat) t.mv)
  | .mmQ4 tri t => some (rawOf .mx 6 (tri.toNat * 64 + t.buf.toNat) t.mv)
  | .scacc tri t => some (rawOf .mx 7 (tri.toNat * 64 + t.buf.toNat) t.mv)
  | .drain tri t => some (rawOf .mx 8 (tri.toNat * 64 + t.buf.toNat) t.mv)
  | .hrot tri t => some (rawOf .mx 9 (tri.toNat * 64 + t.buf.toNat) t.mv)
  | .acq sc m => some (rawOf .sy 1 sc.code m)
  | .rel sc m => some (rawOf .sy 2 sc.code m)
  | .fence sc m => some (rawOf .sy 3 sc.code m)
  | i => match i.typed with
    | some x => some (rawOf x.unit (x.op * 16 + x.ty.code) x.t.md.toNat x.t.mv)
    | none => match i.special with
      | some (fn, t) => some (rawOf .cv fn t.md.toNat t.mv)
      | none => none

/-- The 40-bit slot of a move whose literal, if it has one, stands in slot `k` (11 R238). -/
def RawMove.slot (r : RawMove) (k : Nat) : Nat :=
  r.md + r.fn * 2 ^ 8 + r.dst * 2 ^ 16 + r.mv.src.code k * 2 ^ 23 + r.mv.g.pred.toNat * 2 ^ 35 + r.mv.g.pol.toNat * 2 ^ 39

/-- An empty slot (11 R239). -/
def emptySlot : Nat := 2 ^ 39

/-- The 80-bit field from its parts (11 R249). -/
def CtlFields.word (f : CtlFields) : Nat :=
  f.opc * 2 ^ 72 + f.sd * 2 ^ 66 + f.sa * 2 ^ 60 + f.pr * 2 ^ 56 + f.ng * 2 ^ 55 + f.res * 2 ^ 48 + f.ia * 2 ^ 40 + f.ib * 2 ^ 32 + f.x

/-- The fields of a control operation. -/
def Instr.ctl : Instr → Option CtlFields
  | .br x => some ⟨0x01, 0, 0, 0, 0, 0, 0, 0, x.toNat⟩
  | .brz sa x => some ⟨0x02, 0, sa.toNat, 0, 0, 0, 0, 0, x.toNat⟩
  | .brnz sa x => some ⟨0x03, 0, sa.toNat, 0, 0, 0, 0, 0, x.toNat⟩
  | .brany p ng x => some ⟨0x04, 0, 0, p.toNat, ng.toNat, 0, 0, 0, x.toNat⟩
  | .brall p ng x => some ⟨0x05, 0, 0, p.toNat, ng.toNat, 0, 0, 0, x.toNat⟩
  | .jmp sa => some ⟨0x06, 0, sa.toNat, 0, 0, 0, 0, 0, 0⟩
  | .call x => some ⟨0x07, 0, 0, 0, 0, 0, 0, 0, x.toNat⟩
  | .ret => some ⟨0x08, 0, 0, 0, 0, 0, 0, 0, 0⟩
  | .mloop sa ia ib => some ⟨0x10, 0, sa.toNat, 0, 0, 0, ia.toNat, ib.toNat, 0⟩
  | .vif p ng => some ⟨0x18, 0, 0, p.toNat, ng.toNat, 0, 0, 0, 0⟩
  | .velse => some ⟨0x19, 0, 0, 0, 0, 0, 0, 0, 0⟩
  | .vend => some ⟨0x1A, 0, 0, 0, 0, 0, 0, 0, 0⟩
  | .vloop => some ⟨0x1B, 0, 0, 0, 0, 0, 0, 0, 0⟩
  | .vwhile p ng => some ⟨0x1C, 0, 0, p.toNat, ng.toNat, 0, 0, 0, 0⟩
  | .vbrk ia => some ⟨0x1D, 0, 0, 0, 0, 0, ia.toNat, 0, 0⟩
  | .vnext ia => some ⟨0x1E, 0, 0, 0, 0, 0, ia.toNat, 0, 0⟩
  | .exit => some ⟨0x20, 0, 0, 0, 0, 0, 0, 0, 0⟩
  | .trap ia => some ⟨0x21, 0, 0, 0, 0, 0, ia.toNat, 0, 0⟩
  | .yield => some ⟨0x22, 0, 0, 0, 0, 0, 0, 0, 0⟩
  | .bkpt => some ⟨0x23, 0, 0, 0, 0, 0, 0, 0, 0⟩
  | .fwait sa => some ⟨0x28, 0, sa.toNat, 0, 0, 0, 0, 0, 0⟩
  | .ftest sd sa => some ⟨0x29, sd.toNat, sa.toNat, 0, 0, 0, 0, 0, 0⟩
  | .fcancel sa => some ⟨0x2A, 0, sa.toNat, 0, 0, 0, 0, 0, 0⟩
  | .fpass sd sa => some ⟨0x2B, sd.toNat, sa.toNat, 0, 0, 0, 0, 0, 0⟩
  | .sysrd sd n => some ⟨0x30, sd.toNat, 0, 0, 0, 0, 0, 0, n.toNat⟩
  | .syswr n sa => some ⟨0x31, 0, sa.toNat, 0, 0, 0, 0, 0, n.toNat⟩
  | .ctxsv sa => some ⟨0x32, 0, sa.toNat, 0, 0, 0, 0, 0, 0⟩
  | .ctxld sa => some ⟨0x33, 0, sa.toNat, 0, 0, 0, 0, 0, 0⟩
  | .launch sd sa => some ⟨0x38, sd.toNat, sa.toNat, 0, 0, 0, 0, 0, 0⟩
  | .eve => some ⟨0x39, 0, 0, 0, 0, 0, 0, 0, 0⟩
  | .pwait => some ⟨0x3A, 0, 0, 0, 0, 0, 0, 0, 0⟩
  | .gang sd sa => some ⟨0x3B, sd.toNat, sa.toNat, 0, 0, 0, 0, 0, 0⟩
  | _ => none

/-- The bundle that holds one instruction: a move in slot 0 with its literal in slot 1 (as 11 R254 places them), a control operation
with four empty slots, or six empty slots. Steps of the package have no encoding. -/
def encode (i : Instr) : Option Nat :=
  let rest (a b n : Nat) : Nat := ((List.range n).map fun k => if k < a then 0 else if k < b then emptySlot * 2 ^ (40 * k) else 0).sum
  match i with
  | .noOperation => some (rest 0 6 6)
  | i => match i.ctl with
    | some f => some (2 ^ 254 + f.word * 2 ^ 160 + rest 0 4 6)
    | none => match i.raw with
      | none => none
      | some r => match r.mv.src.lit with
        | none => some (r.slot 1 + rest 1 6 6)
        | some v => some (2 ^ 241 + v.toNat * 2 ^ 40 + r.slot 1 + rest 2 6 6)

/-- The rows that have an encoding; a guard of polarity 1 with p0 marks an empty slot, so no move carries it (11 R239). -/
def Instr.encodable (i : Instr) : Bool :=
  i == .noOperation || i.ctl.isSome ||
  match i.raw with
  | some r => !(r.mv.g.pol && r.mv.g.pred.toNat == 0)
  | none => false

end Sys2Proof
end

