-- ==== Sys2Proof/Config.lean ====
section
/-! DEFINITION. What the part fixes for every program, and the free values: constants without a body for what the spec bounds but does
not fix. -/

namespace Sys2Proof.Config

/-- How far the almanac copy of a die stands from the root, less 4, taken modulo 9, when the root shows a time (02 R49). The spec bounds
the distance by 4 ticks and says no more: the value is free. FREE VALUE, log entry 10. -/
opaque almanacSkew : Nat → Nat → Nat

/-- The set of the L1 to which a line belongs, taken modulo the number of sets: the spec gives no L1 index. FREE VALUE, log entry 8. -/
opaque l1Set : Nat → Nat

/-- The entries of a program's pre-emption and resume handlers, by the program's VA: set by `.preempt` and `.resume`, and no record
says where they stand (12 R280, 11 R256). FREE VALUES, log entry 11. -/
opaque preemptEntry : Nat → W64

opaque resumeEntry : Nat → W64

/-- Byte k of what an access outstanding at the death of the die that holds its data gives: the spec states no value (02 R57, R58). FREE
VALUE, log entry 7. -/
opaque lostByte : Nat → BitVec 8

/-- The number under which peer n knows this device: device numbers are each device's own (15 R357), and a message carries its source (18 R411).
FREE VALUE, log entry 76. -/
opaque deviceNumber : Nat → Nat

/-- The check bits of a directory entry: the spec names a SECDED code and does not give it (02 R41). FREE VALUE, log entry 7. -/
opaque secded : BitVec 40 → BitVec 8

/-- Ticks that a relock of a die's clock takes, modulo 2,001: it takes at most 2 µs (19 R418). FREE VALUE, log entry 7. -/
opaque relock : Nat → Nat → Nat

/-- SHAKE256 at the length that the firmware's hashes have, the hash of Stoale's root public key that the mask ROM holds, and whether an XMSS
signature of a tree height verifies for a key and a message (19 R423): the spec names the functions of another standard and does not give
them. FREE VALUES, log entry 9. -/
opaque shake256 : List (BitVec 8) → List (BitVec 8)

opaque romRootHash : List (BitVec 8)

opaque xmssVerifies : Nat → List (BitVec 8) → List (BitVec 8) → List (BitVec 8) → Bool

/-- The identity seed that the unclonable function of the base gives, the attestation key derived from it, and the signature of a leaf of it
over a message (19 R426). FREE VALUES, log entry 9. -/
opaque pufSeed : List (BitVec 8)

opaque attestationKey : List (BitVec 8) → List (BitVec 8)

opaque xmssSigns : List (BitVec 8) → Nat → List (BitVec 8) → List (BitVec 8)

/-- The L1's sets: 4 MiB in 16 ways of 256-byte lines (00 R7, 03 R89). -/
def l1Sets : Nat := 1024

/-- The LLC's sets (01 R26). -/
def llcSets : Nat := 2048

/-- The ways of an L1, and of an LLC set (00 R7, 01 R26). -/
def nWays : Nat := 16

/-- Tokens of a coherent sector (02 R38). -/
def nTokens : Nat := 512

/-- Bytes of device DRAM (01 R20). -/
def dramEnd : Nat := 0x18000000000

/-- Nominal core clock in MHz (00 R7). -/
def nominalMHz : Nat := 800

/-- Current limits of the 37 islands in units of 0.25 A (19 R416). -/
def islandFigure (island : Nat) : Nat :=
  if island < 4 then 1000 else if island < 20 then 960 else if island = 20 then 240 else if island < 37 then 400 else 0

/-- Rows and columns of a cluster's accumulator store (07 R185). -/
def accRows : Nat := 8192

def accCols : Nat := 256

/-- Units of 256 bytes of a cluster's ring pool (05 R140). -/
def ringUnits : Nat := 1024

/-- Vector registers of a core's pool (05 R137). -/
def poolRegs : Nat := 4096

/-- Slots of the landing buffer (04 R96). -/
def landSlots : Nat := 1024

end Sys2Proof.Config
end

