-- ==== Sys2Proof/Machine/State.lean ====
section
/-! DEFINITION. The state of the package as plain data, the reasons for which a step stops, and the state after reset. -/

namespace Sys2Proof.Machine

/-- Why the machine stops. -/
inductive Fault where
  /-- Raised by every move, trigger and control operation when the cursor names no live warp: there is no warp whose instruction it
  could be. Safe: the machine stops where no run of the step function arrives. -/
  | noWarp
  deriving DecidableEq, Repr

/-- Why an instruction has no meaning. -/
inductive Refusal where
  /-- Raised by an arm of `exec` whose instruction has no meaning in the model. Safe. -/
  | notModelled (mnemonic : String)
  deriving DecidableEq, Repr

/-! ### The warp -/

/-- A unit's ports as one warp holds them (05 R118, R123). A list that is empty stands for 32 zeros. `res` and `sec` are the last
results that became readable, `nres` and `nsec` those that are pending. -/
structure Port where
  a : Lanes := []
  b : Lanes := []
  c : Lanes := []
  res : Lanes := []
  sec : Lanes := []
  nres : Lanes := []
  nsec : Lanes := []
  /-- lanes whose result is pending (05 R128) -/
  pend : BitVec 32 := 0
  /-- the cycle from which the pending result is readable; none while an accumulator read waits for its access (14 R335) -/
  due : Option Nat := none
  /-- the load or accumulator read that fills the pending result; 0 for none -/
  op : Nat := 0
  /-- lanes of the readable and of the pending result that came from poisoned sectors, and the VA of each one's first such byte (17 R398) -/
  psn : BitVec 32 := 0
  npsn : BitVec 32 := 0
  pva : Lanes := []
  npva : Lanes := []
  deriving DecidableEq, Repr

/-- A token of the divergence stack (12 R263): kind 0 if, 1 else, 2 loop; `head` is VA[55:5]. -/
structure Token where
  kind : BitVec 2
  head : BitVec 51
  outer : W32
  alt : W32
  cont : W32
  deriving DecidableEq, Repr

/-- The modulo sequencer of an active loop (12 R267, R268). `va` is the address of the `mloop`. -/
structure Modulo where
  n : W64
  j : W64
  ii : Nat
  stages : Nat
  s : Nat
  va : W64
  deriving DecidableEq, Repr

/-- What holds a warp (15 R347, 05 R138). -/
inductive Hold where
  | bar (b : Nat) (q : BitVec 16)
  | claim (n : Nat)
  deriving DecidableEq, Repr

/-- The small context of a warp (17 R391, R392), and the skip of 12 R265. -/
structure Ctx where
  pc : W64 := 0
  mode : W64 := 1
  flags : W64 := 0
  mask : W32 := 0xFFFFFFFF
  /-- bit k: the watch bit of sk (12 R271) -/
  watch : BitVec 64 := 0
  loop : Option Modulo := none
  rrb : BitVec 5 := 0
  hold : Option Hold := none
  /-- the bundle of the `vclaim` that holds the warp: program counter, sequencer, rotation (17 R386) -/
  claimAt : Option (W64 × Option Modulo × BitVec 5) := none
  /-- s1 to s63; an absent number is 0 -/
  sregs : Tab W64 := []
  /-- p1 to p15; an absent number is 0 -/
  preds : Tab W32 := []
  /-- the generators of 06 R161, lane 0 first -/
  gens : List W32 := []
  /-- by unit code; an absent unit is all zero and ready -/
  ports : Tab Port := []
  fser : W32 := 0
  /-- the outstanding entries of the future table and their serial numbers (12 R270) -/
  futs : Tab W32 := []
  /-- the token stack, top first -/
  toks : List Token := []
  /-- the depth of the skip in progress (12 R265) -/
  skip : Option Nat := none
  deriving DecidableEq, Repr

/-- How a trap handler was entered (17 R384, R394, R396, R397). -/
inductive TrapKind where
  | user | preempt | resume | gangAbort
  deriving DecidableEq, Repr

/-- A trap that waits to be entered: cause, detail and the saved program counter (17 R386). -/
structure TrapReq where
  kind : TrapKind
  cause : Nat
  info : W64
  tpc : W64
  deriving DecidableEq, Repr

/-- The open trap of a warp: what caused it and the saved small context (17 R387, R390). -/
structure Handler where
  trap : TrapReq
  saved : Ctx
  deriving DecidableEq, Repr

/-- What makes a warp a responder (08 R202). -/
structure Responder where
  /-- the census by its key in the root's table, its 24-bit number, the tile entry -/
  cen : Nat
  num : BitVec 24
  entry : Nat
  scope : Nat
  /-- the group that owns the tile entry -/
  grp : Nat
  deriving DecidableEq, Repr

/-- A live warp (05 R117, R118). -/
structure Warp where
  /-- its number: no two warps ever share one -/
  wid : Nat
  /-- its node (the owning launch's for a responder) -/
  nid : Nat
  die : Nat
  clus : Nat
  warp : Nat
  ctx : Ctx := {}
  /-- the allocation A (05 R133) -/
  regs : Nat := 8
  /-- 32-bit lanes of v0 to v(A−1); an absent register is 0 -/
  vregs : Tab (List W32) := []
  fhnd : W64 := 0
  handler : Option Handler := none
  /-- a trap that waits for pending results (17 R387) -/
  entering : Option TrapReq := none
  /-- an asynchronous trap that waits for the open one (17 R390) -/
  asyncs : List TrapReq := []
  /-- the overflow fault to be taken at the next bundle, with its group (15 R362) -/
  overflow : Option Nat := none
  eve : Bool := false
  responder : Option Responder := none
  /-- the warp waits at an admission point (05 R146, 04 R92) -/
  waiting : Bool := false
  /-- its bundle waits only on its neighbours (05 R144) -/
  blocked : Bool := false
  /-- the first logical cycle in which it issues (04 R90) -/
  first : Nat := 0
  /-- registers that a `vgive` returns at the end of the cycle (05 R138) -/
  giving : Nat := 0
  /-- it has issued a bundle in the present cycle (12 R265) -/
  issued : Bool := false
  /-- a ring on which its next bundle waited has been freed in the cycle before (14 R338) -/
  ringGone : Bool := false
  /-- it exits at the end of the cycle: after an `sreply` when true (12 R275, 08 R203) -/
  leaving : Option Bool := none
  /-- its accumulator window (07 R185) -/
  base : Nat := 0
  limit : Nat := 8192
  /-- the access cycle of its last accumulator access (14 R335) -/
  acLast : Nat := 0
  /-- the last `gbar` of each group that is outstanding (15 R351) -/
  gbars : Tab FutAt := []
  /-- units whose result becomes readable, when, and the flags they set (05 R132) -/
  units : List (Un × Nat × BitVec 8) := []
  /-- the pre-emption handler's time limit (17 R395), and whether it has yielded -/
  preLimit : Option Nat := none
  yielded : Bool := false
  deriving DecidableEq, Repr

/-! ### The core -/

/-- One byte's place (03 R74). -/
structure Place where
  space : Space
  addr : Nat
  deriving DecidableEq, Repr

/-- A ring (05 R140). An element of a vector ring is 32 words, of a scalar ring one value; head first. -/
structure Ring where
  scalar : Bool
  depth : Nat
  nid : Nat
  elems : List Lanes
  deriving DecidableEq, Repr

/-- A named barrier (15 R344). `emask` holds the pending engine arrivals by bit; warp number 0 stands for a future that has resolved. -/
structure Bar where
  own : Option Nat := none
  phase : BitVec 16 := 0
  exp : Nat := 0
  cnt : Nat := 0
  wmask : BitVec 16 := 0
  emask : Tab FutAt := []
  deriving DecidableEq, Repr

/-- States of a tile entry (08 R191). -/
inductive TileSt where
  | present | departing | arriving
  deriving DecidableEq, Repr

/-- An entry of a tile directory that is not free (08 R191); `nid` is the owning launch. -/
structure Tile where
  hva : W64
  grp : Nat
  ten : Nat
  st : TileSt
  tbuf : Nat
  tpos : Nat
  len : Nat
  key : BitVec 48
  nid : Nat
  /-- its group has exited (08 R200) -/
  orphan : Bool := false
  /-- the `tins` or `tmove` that made it, and the `tdel` or `tmove` for which it departs -/
  fut : FutAt := ⟨0, 0, 0⟩
  leave : Option FutAt := none
  deriving DecidableEq, Repr

/-- Where a copy stands (04 R109). -/
inductive CopySt where
  | running | suspended (code : Nat)
  deriving DecidableEq, Repr

/-- What a destination of a stream byte is: its entry (0 for a `go`), its place, the class and the LLC policy of its page, and, in a pinned
page of a core, the owning group (03 R80). -/
structure ChunkDst where
  entry : Nat
  place : Place
  cls : Cls
  uncached : Bool
  owner : Option (Nat × Nat)
  deriving DecidableEq, Repr

/-- One byte of a chunk: its place where it is still to be read from core SRAM of the issuing cluster, its value and poison, and its
destinations. -/
structure ChunkByte where
  src : Option Place
  val : Byte
  psn : Bool
  dst : List ChunkDst
  deriving DecidableEq, Repr

/-- A chunk that has been translated; a code of 1, 2 or 3 where it may not land (04 R109). -/
structure Chunk where
  k : Nat
  bytes : List ChunkByte
  code : Nat
  deriving DecidableEq, Repr

/-- A copy in its slot (04 R101 to R114). -/
structure Copy where
  fut : FutAt
  nid : Nat
  ten : Nat
  /-- the shape record, the source and destination buffer records, the completion word -/
  shape : BitVec 1024
  src : BitVec 256
  dst : BitVec 256
  comp : W64
  mcast : Bool
  paced : Bool
  /-- cycle of the trigger or of the resume, start offset, rate, and the chunk counted as 0 for the due cycles (04 R107, R113) -/
  t : Nat
  start : Nat
  rate : Nat
  k0 : Nat
  /-- the mapping at the trigger: leaves as they stood before later changes (04 R109) -/
  old : Tab W64
  /-- next chunk to be translated, chunks translated and not landed, whether a translation is under way -/
  k : Nat
  staged : List Chunk := []
  fetching : Bool := false
  st : CopySt := .running
  /-- stream bytes landed, outside writes that have not landed, and the code that waits for them -/
  landed : Nat := 0
  under : Nat := 0
  /-- earlier stores of the warp that had not reached their points at the trigger: the source is read after them (09 R221) -/
  behind : List Nat := []
  /-- lines of non-coherent pages that it has written (09 R226) -/
  lines : List Nat := []
  fin : Option Nat := none
  poison : Bool := false
  /-- `mcast`: entries whose share is cancelled (04 R114) -/
  lost : List Nat := []
  /-- a `tmove` whose tile it carries (08 R196), by number -/
  tmove : Option Nat := none
  cancelled : Bool := false
  deriving DecidableEq, Repr

/-- A page of a core's pinned pool that is allocated: its launch and the owning home group by its key (Ops), or void (03 R80). -/
structure PoolPage where
  nid : Nat
  grp : Nat
  void : Bool := false
  /-- the owning group is pre-empted (03 R81) -/
  away : Bool := false
  deriving DecidableEq, Repr

/-- A sector of an L1 line (02 R40). -/
structure Sect where
  psn : Bool := false
  val : Bool := false
  dty : Bool := false
  own : Bool := false
  tok : Nat := 0
  deriving DecidableEq, Repr

/-- A line of an L1 (02 R40, 03 R88). -/
structure L1Line where
  /-- the way it stands in -/
  way : Nat
  cls : Cls
  ecls : EvCls
  sects : List Sect
  bytes : List Byte
  /-- its page does not allocate in the LLC: bit [2] of the policy word that brought it (01 R28, 03 R87) -/
  nllc : Bool := false
  deriving DecidableEq, Repr

/-- A line that a load waits for: where it lies, and its bytes with the poison of its sectors once they have come (04 R94 to R97). -/
structure LoadLine where
  space : Space
  line : Nat
  data : Option (List Byte) := none
  psn : BitVec 4 := 0
  deriving DecidableEq, Repr

/-- One lane of a load: the places of its bytes, none when nothing is read (clamped or not resident), its residency bit, and the VA of
its first byte. A lane's bytes lie at consecutive VAs. -/
structure LoadLane where
  lane : Nat
  places : List Place
  resident : Bool
  va : W64
  deriving DecidableEq, Repr

/-- A load or atomic whose result is due (04 R94, 14 R315, R328). For an atomic, `old` holds the values and successes that have come. -/
structure Load where
  id : Nat
  slot : Nat
  wid : Nat
  un : Un
  due : Nat
  signed : Bool := false
  lanes : List LoadLane
  lines : List LoadLine
  slots : Nat
  started : BitVec 32
  atomic : Bool := false
  old : List (Nat × W64 × Bool) := []
  /-- atomic words not executed yet -/
  left : Nat := 0
  /-- for `sl`: the pair is written into every lane -/
  scalar : Bool := false
  deriving DecidableEq, Repr

/-- What an access that waits in a core's L1 does when its sectors are there (03 R69, 14 R316, R321, R328). -/
inductive MemAct where
  | load (load : Nat)
  | touch
  | store (bytes : List (Nat × Byte))
  /-- an atomic on one word in the L1: the load that awaits it, byte offset in the line, 64-bit word, operation, lanes -/
  | atomic (load off : Nat) (wide : Bool) (op : AtOp) (lanes : List AtLane)
  /-- an atomic on one word at the home, behind the accesses before it -/
  | atHome (load off : Nat) (wide : Bool) (op : AtOp) (lanes : List AtLane)
  /-- an atomic that runs at the home: the request that awaits its reply -/
  | awaits (req : Nat)
  deriving DecidableEq, Repr

/-- An access that waits in a core's L1. -/
structure MemOp where
  id : Nat
  wid : Nat
  line : Nat
  smask : BitVec 4
  cls : Cls
  ecls : EvCls
  nl1 : Bool
  nllc : Bool
  act : MemAct
  deriving DecidableEq, Repr

/-- What a request of a core to a home is for. -/
inductive ReqFor where
  /-- a fill of the L1: shared, or for ownership -/
  | fill (own : Bool)
  /-- the bytes of a load's line -/
  | load (load : Nat)
  /-- a store, write-back or touch whose acceptance is awaited -/
  | write
  | touch
  /-- an atomic away from the L1: the load that awaits it -/
  | atomic (load : Nat)
  /-- a line of a drain that leaves the cluster: the task's future, its status, its queue slot and number (07 R177) -/
  | drain (f : FutAt) (v : W64) (q num : Nat)
  deriving DecidableEq, Repr

/-- A request of a core that is outstanding (02 R45). -/
structure Req where
  wid : Nat
  msg : HomeReq
  kind : Nat
  why : ReqFor
  /-- timeouts and retries counted (02 R45) -/
  tries : Nat := 0
  persistent : Bool := false
  /-- a write to core SRAM of another cluster has reached its landing path (09 R218) -/
  arrived : Bool := false
  /-- root time of its latest issue (02 R45) -/
  since : Nat := 0
  /-- an acquire came after it: what it brings of a non-coherent line is not kept (09 R215) -/
  stale : Bool := false
  deriving DecidableEq, Repr

/-- What a release does when the writes it waits for have reached their point (09 R214, R218). -/
inductive RelAct where
  /-- send the request to its object (09 R216) -/
  | object (op : ObjOp)
  /-- resolve the handle: `fence`, `wb`, `inv` -/
  | done (f : FutAt)
  /-- let a solicit leave for the root (08 R199) -/
  | census (it : CensusItem)
  /-- send a responder's reply (08 R203) -/
  | reply (cen core entry : Nat) (v : Option W64)
  /-- put a launch record into its queue, `bad` where its reference has a reserved bit or a misaligned position (12 R281) -/
  | launch (f : FutAt) (raw : BitVec 512) (ten : Nat) (gang bad : Bool)
  /-- arrive at a group barrier, by the group's key, as the member of a bit (15 R352) -/
  | group (nid g ix : Nat) (f : FutAt)
  /-- count the exit release of a warp of a node (12 R275) -/
  | exit (nid : Nat)
  /-- count a warp arrival on a named barrier (15 R349) -/
  | arrive (slot b : Nat)
  /-- the ways of a `csize` are free (03 R89) -/
  | csize (f : FutAt) (ways : Nat)
  deriving DecidableEq, Repr

/-- A release in progress (09 R214, R218): what it waits for, in stages. -/
structure Rel where
  wid : Nat
  nid : Nat
  /-- the lines it covers, by record number of the warp's segment table; none covers every region -/
  recs : Option (List Nat)
  scope : Scope
  /-- accesses of the core, requests and lane stores to wait for, and the last due cycle of the warp's loads -/
  ops : List Nat
  lands : List Nat
  after : Nat
  /-- sectors whose returned tokens the home has still to take in -/
  toks : List Nat := []
  /-- write-backs are still to be sent -/
  wb : Bool
  /-- the acquire half is still to come: write back and invalidate (09 R218) -/
  acq : Bool
  act : RelAct
  deriving DecidableEq, Repr

/-- A responder to be started: its census, its tile as the key found it, whether its start has been admitted (08 R200, R201). -/
structure Spawn where
  cen : Nat
  entry : Nat
  tile : Tile
  ready : Bool := false
  deriving DecidableEq, Repr

/-- A core (05 R117; 03 R66, R80, R89; 04 R96, R106, R111; 08 R191; 15 R344). -/
structure Core where
  /-- the slot from which the next search starts (05 R147) -/
  start : Nat := 0
  free : Nat := 4096
  rings : Tab Ring := []
  bars : Tab Bar := []
  ctag : BitVec 64 := 0
  /-- tags that final statuses of copies have set in the present cycle (14 R331) -/
  tagged : BitVec 64 := 0
  tiles : Tab Tile := []
  /-- entries that commits have changed, as programs see them until the cluster's next admission (00 R4) -/
  oldTiles : Tab Tile := []
  copies : Tab Copy := []
  /-- `cwany` and `cwall` that wait: future, mask, whether all bits are waited for (04 R115) -/
  tagWaits : List (FutAt × BitVec 64 × Bool) := []
  /-- the buffer-record store, b0 first (03 R66) -/
  segs : List (BitVec 256) := []
  /-- ways of the pinned pool, its pages that are allocated or void, its bytes, its poisoned 64-byte blocks -/
  ways : Nat := 0
  pages : Tab PoolPage := []
  pool : List Host.Cell := []
  psn : List Nat := []
  fencedWays : List Nat := []
  fenced : Bool := false
  /-- L1 lines by line number, and their recency, most recent first -/
  l1 : Tab L1Line := []
  recent : List Nat := []
  loads : List Load := []
  memq : List MemOp := []
  reqs : Tab Req := []
  nextId : Nat := 1
  rels : List Rel := []
  /-- claims in the order they issued: slot, registers (05 R139) -/
  claims : List (Nat × Nat) := []
  spawns : List Spawn := []
  /-- instruction lines present, by VA / 256 (04 R90) -/
  ilines : List Nat := []
  /-- the way count of a `csize` that has not resolved (14 R323) -/
  csize : Option Nat := none
  /-- vector registers held by each launch on the core (05 R137), by node -/
  held : Tab Nat := []
  deriving DecidableEq, Repr

/-! ### The cluster -/

/-- A lane store or atomic of the cluster's own on its way to core SRAM (04 R98, R100; 14 R329). -/
structure Land where
  id : Nat
  wid : Nat
  /-- landing cycle, trigger cycle, issuing core -/
  land : Nat
  trig : Nat
  src : Nat
  /-- destination core -/
  core : Nat
  /-- the bytes by pool offset, or an atomic: the load, byte offset, 64-bit word, operation and lanes -/
  bytes : List (Nat × Byte)
  atom : Option (Nat × Nat × Bool × AtOp × List AtLane)
  /-- the word of an atomic as the landings of earlier cycles left it (14 R329) -/
  seen : List Byte := []
  deriving DecidableEq, Repr

/-- What part of a copy an outside write is: core and slot of the copy, its future, entry, the stream bytes that it lands, and the groups
that own the pages it goes to. -/
structure CopyPart where
  core : Nat
  slot : Nat
  fut : FutAt
  entry : Nat
  len : Nat
  owners : List (Nat × Nat)
  deriving DecidableEq, Repr

/-- A write from outside the cluster's logical time that waits in a core's landing path (04 R99). -/
structure OutWrite where
  core : Nat
  bytes : List (Nat × Byte)
  psn : List Nat
  /-- an atomic from another cluster: the request -/
  atom : Option HomeReq
  /-- the answer to its sender once it has landed: to which core, and what -/
  next : List (Nat × Ev) := []
  /-- the copy it belongs to -/
  copy : Option CopyPart := none
  /-- the future whose admission lands it (15 R361), none for the others -/
  pinned : Option FutAt := none
  deriving DecidableEq, Repr

/-- Where a task stands (15 R342). -/
inductive TaskSt where
  | queued
  /-- dispatched in cycle d, to retire in cycle r, on an engine -/
  | dispatched (d r eng : Nat)
  /-- retired, with bytes on their way outside the cluster -/
  | delivering (code : Nat)
  | suspended (code : Nat)
  deriving DecidableEq, Repr

/-- A task in its queue slot (07 R171 to R189). -/
structure Task where
  /-- its number in task order, the number from the start of the launch (07 R174), trigger cycle and core -/
  num : Nat
  seq : Nat
  t : Nat
  core : Nat
  wid : Nat
  nid : Nat
  /-- its tenant, and what seeds its generators: the launch's seed, its launch cluster die × 4 + clus (06 R169) -/
  ten : Nat
  seed : W64
  cell : Nat
  fut : FutAt
  /-- function code of 07 R190, `.tri`, the task record, the row bias -/
  fn : Nat
  tri : Bool
  record : BitVec 512
  bias : Nat
  /-- the rounding of the task: ftz, sat, rm after the rules of 07 R171 -/
  rnd : BitVec 5
  /-- predecessors -/
  p0 : Option FutAt
  p1 : Option FutAt
  /-- the buffer records of abuf, bbuf, sbuf and dbuf -/
  abuf : BitVec 256
  bbuf : BitVec 256
  sbuf : BitVec 256
  dbuf : BitVec 256
  st : TaskSt := .queued
  /-- first row of this run, and the first row not done (07 R186 to R188) -/
  row0 : Nat := 0
  prog : Nat := 0
  /-- what ends this run: 0, or the code of the failure at row prog (07 R187) -/
  fail : Nat := 0
  eng : Nat := 0
  xf : BitVec 8 := 0
  /-- an operand sector of an earlier run was poisoned (07 R189) -/
  poison : Bool := false
  /-- earlier stores of the warp that had not reached their points at the trigger: operands are read after them (09 R221) -/
  behind : List Nat := []
  /-- the mapping at dispatch -/
  old : Tab W64 := []
  /-- operand bytes read at their due cycles, with the poison of their sectors: A by row, B by row or block, scale bytes -/
  opA : Tab (List (Byte × Bool)) := []
  opB : Tab (List (Byte × Bool)) := []
  opS : List (Byte × Bool) := []
  deriving DecidableEq, Repr

/-- What an accumulator access does (14 R334). -/
inductive AcAct where
  | rd (cells : List (Nat × Nat × Nat))   -- lane, row, column
  | wr (cells : List (Nat × Nat × W32))   -- row, column, value
  | zero (row n : Nat)
  /-- a window write: base, limit, members by their bits, of a node (14 R333) -/
  | win (base limit nid : Nat) (members : List Nat)
  deriving DecidableEq, Repr

/-- An accumulator access that has not taken effect (14 R335). -/
structure AcAcc where
  id : Nat
  core : Nat
  slot : Nat
  wid : Nat
  t : Nat
  rows : List Nat
  act : AcAct
  deriving DecidableEq, Repr

/-- A group barrier (15 R351, R352): members that have arrived in the phase, by their bits, with their handles. -/
structure GBar where
  phase : BitVec 16 := 0
  arrived : List (Nat × FutAt) := []
  deriving DecidableEq, Repr

/-- A cluster (04 R90, 07 R174, R185; 05 R140). -/
structure Cluster where
  lcyc : Nat := 0
  /-- its value at the first bundle of the launch: programs read the difference (04 R90) -/
  base : Nat := 0
  stopped : Bool := false
  /-- accumulator cells that are not +0, by row × 256 + column -/
  acc : Tab W32 := []
  tasks : Tab Task := []
  nextTask : Nat := 0
  /-- its value at the start of the launch (07 R174) -/
  taskBase : Nat := 0
  /-- units of the ring pool in use, and those that return at the end of the cycle (05 R140, 14 R338) -/
  ringUsed : Nat := 0
  ringBack : Nat := 0
  /-- posted-receive entries in use (15 R359) -/
  posts : Nat := 0
  acs : List AcAcc := []
  lands : List Land := []
  /-- the bytes that lane stores and atomics have written at the end of this cycle: core and pool offset (14 R329) -/
  landed : List (Nat × Nat) := []
  outs : List OutWrite := []
  /-- outside events that have arrived, with the warp they concern (04 R92) -/
  arrived : List (Nat × Ev) := []
  /-- leaves and nodes as they stood before changes not yet applied, by physical address (03 R79) -/
  oldLeaves : Tab W64 := []
  /-- futures whose outside events have arrived and an admission point has passed: they count as resolved for tasks (07 R176) -/
  counted : List FutAt := []
  /-- a warp of the cluster is or was at an admission point in this cycle (04 R99) -/
  adm : Bool := false
  nextId : Nat := 1
  deriving DecidableEq, Repr

/-! ### The base -/

/-- A directory entry of a sector (02 R41). -/
structure DirEntry where
  htok : Nat := 512
  hown : Bool := true
  /-- 0 none, 1 one token, 2 all 512 -/
  host : Nat := 0
  dmask : BitVec 16 := 0
  ocore : Nat := 0
  /-- the sector is locked (02 R57, R61) -/
  locked : Bool := false
  /-- the lock is a directory error's: the recall is judged under 02 R61 -/
  error : Bool := false
  /-- a back-invalidate snoop to the host is outstanding -/
  snooped : Bool := false
  /-- the recall of a directory error has found more than 512 tokens, or a second owner token (02 R61) -/
  extra : Bool := false
  deriving DecidableEq, Repr

/-- Bits [39:0] of an entry (02 R41). -/
def DirEntry.word (d : DirEntry) : BitVec 40 :=
  BitVec.ofNat 40 (d.htok % 1024 * 2 ^ 30 + (if d.hown then 2 ^ 29 else 0) + d.host % 4 * 2 ^ 27 + d.dmask.toNat * 2 ^ 11 + d.ocore % 256 * 8)

/-- Its check bits (02 R41): the spec names the code and not its bits (log entry 7). -/
def DirEntry.ecc (d : DirEntry) : BitVec 8 := Config.secded d.word

/-- A value that no entry may hold is an uncorrectable error (02 R41). -/
def DirEntry.broken (d : DirEntry) : Bool := decide (d.htok > Config.nTokens) || decide (d.host > 2)

/-- A waiter of a pending way (01 R31), with its kind. -/
structure Waiter where
  kind : Nat
  req : HomeReq
  deriving DecidableEq, Repr

/-- A line of an LLC way (01 R21, R31). While it is pending, only its waiters stand. -/
structure LLine where
  line : Nat
  ecls : EvCls
  pending : Bool
  waiters : List Waiter
  valid : BitVec 4
  dirty : BitVec 4
  psn : BitVec 4
  bytes : List Byte
  /-- the coherence class of the request that came for it last (02 R47, R61) -/
  cls : Cls := .non
  /-- the line for which it has to leave, while the tokens of its sectors are gathered: its way is as good as pending (02 R44) -/
  leaving : Option Nat := none
  deriving DecidableEq, Repr

/-- A write-back in the slice's buffer (01 R30). -/
structure WbEntry where
  line : Nat
  dirty : BitVec 4
  psn : BitVec 4
  bytes : List Byte
  deriving DecidableEq, Repr

/-- An entry of the persistent-request table (02 R46). -/
structure Persist where
  req : HomeReq
  own : Bool
  active : Bool
  deriving DecidableEq, Repr

/-- An LLC slice with its home logic (01 R26 to R34). -/
structure Slice where
  /-- by set × 16 + way -/
  lines : Tab LLine := []
  /-- recency of the allocatable ways of a set, most recent first, by set -/
  recent : Tab (List Nat) := []
  wb : List WbEntry := []
  /-- the bypass entries: requests that go to memory alone (01 R34) -/
  bypass : List Waiter := []
  /-- requests that wait at the input, in arrival order, with their kinds -/
  input : List Waiter := []
  persist : List Persist := []
  persistWait : List Persist := []
  ways : Nat := 0
  pool : List Host.Cell := []
  psn : List Nat := []
  fencedWays : List Nat := []
  /-- the slice's copies of the dies' incarnation numbers (02 R56) -/
  incs : Tab (BitVec 16) := []
  deriving DecidableEq, Repr

/-- A synchronisation object (09 R210): mode 0 unused, 1 lock, 2 arrival barrier, 3 byte count. -/
structure Obj where
  ten : Option Nat := none
  md : BitVec 2 := 0
  lost : Bool := false
  phase : BitVec 16 := 0
  count : Nat := 0
  expected : Nat := 0
  /-- waiters in arrival order: the handle and the phase it waits to leave (none: the lock) -/
  waiters : List (FutAt × Option (BitVec 16)) := []
  /-- the phase of the latest release by each warp (09 R216) -/
  rels : Tab (BitVec 16) := []
  /-- the warp that holds the lock -/
  holder : Option Nat := none
  /-- the waiters that are `bcwait`s (15 R354) -/
  bcs : List FutAt := []
  /-- by phase, the lines of memory that hold the bytes counted into it (09 R226) -/
  counted : Tab (List Nat) := []
  deriving DecidableEq, Repr

/-- A mailbox (15 R360, R362). -/
structure Mail where
  posts : List RecvRec := []
  queue : List MsgRec := []
  waiting : List MsgRec := []
  deriving DecidableEq, Repr

/-- A user group of a launch (16 R375): members by (die × 4 + clus) × 64 + warp. -/
structure UGroup where
  g : Nat
  home : Bool
  members : List Nat
  deriving DecidableEq, Repr

/-- Where a node stands (16 R372 to R382). -/
inductive NodeSt where
  | pool | held | prepared | running
  deriving DecidableEq, Repr

/-- A node: a launch record that the base has accepted (16 R367 to R374). -/
structure Node where
  nid : Nat
  ten : Nat
  raw : BitVec 512
  args : List W64
  plen : Nat
  segs : List (BitVec 256)
  groups : List UGroup
  root : Nat
  levels : Nat
  st : NodeSt
  /-- when it became ready, in order -/
  ready : Option Nat
  /-- predecessors that have not ended -/
  preds : List Nat
  /-- physical cluster of launch cluster die × C + clus, in order -/
  places : List Nat
  fut : Option FutAt
  queue : Nat
  /-- its entry of the host ring -/
  entry : Option Nat
  killed : Bool := false
  /-- it has completed, and stays for its responders that still run (08 R202) -/
  ended : Bool := false
  /-- exit releases not yet complete (12 R275) -/
  exits : Nat := 0
  /-- members that have exited or been killed, by (die × 4 + clus) × 64 + warp (16 R376) -/
  gone : List Nat := []
  /-- order of its placement, for 16 R380 -/
  placed : Nat := 0
  /-- a gang's `prepare` has come, and when -/
  prepAt : Option Nat := none
  deriving DecidableEq, Repr

/-- A record that waits in a device list (16 R372). -/
structure DevRec where
  raw : BitVec 512
  fut : FutAt
  ten : Nat
  gang : Bool
  /-- the reference to it was malformed: reason 2 (12 R281) -/
  bad : Bool := false
  deriving DecidableEq, Repr

/-- An entry of a host ring (16 R371): its 64 bytes and whether its node has ended. -/
structure RingEntry where
  raw : BitVec 512 := 0
  ended : Bool := false
  taken : Bool := false
  deriving DecidableEq, Repr

/-- A tenant work queue (16 R369, R371). -/
structure Queue where
  ten : Option Nat := none
  root : Nat := 0
  levels : Nat := 0
  ring : Tab RingEntry := []
  tail : BitVec 8 := 0
  head : BitVec 8 := 0
  /-- the next entry of the ring that acceptance takes -/
  take : BitVec 8 := 0
  done : W64 := 0
  device : List DevRec := []
  /-- launches whose record found the list full (12 R281) -/
  waiting : List DevRec := []
  /-- the side served last was the host ring -/
  hostLast : Bool := false
  deriving DecidableEq, Repr

/-- A `tmove` in progress (08 R196). -/
structure TMove where
  fut : FutAt
  core : Nat
  entry : Nat
  dcore : Nat
  dentry : Nat
  /-- the destination's record, its number, the position -/
  dbuf : BitVec 256
  dnum : Nat
  dpos : Nat
  /-- censuses whose responders from the source entry have not replied -/
  waits : List Nat
  copying : Bool := false
  /-- earlier stores of the warp that had not reached their points at the trigger: the tile is read after them (09 R221) -/
  behind : List Nat := []
  deriving DecidableEq, Repr

/-- An open census (08 R193, R199 to R207). -/
structure Census where
  num : BitVec 24
  fut : FutAt
  asker : WarpAt
  adie : Nat
  ten : Nat
  key : BitVec 48
  arg : W64
  scope : Nat
  cmb : Nat
  core : Nat
  at_ : List Nat
  /-- cores in scope that have not acknowledged -/
  unheard : List Nat
  /-- responders owed and not counted: core and entry -/
  owed : List (Nat × Nat)
  /-- replies: core, entry, value; none for a failed one -/
  replies : List (Nat × Nat × Option W64)
  cancelled : Bool := false
  deriving DecidableEq, Repr

/-- A home group that was pre-empted (17 R394 to R396): its warps with the core that held them, and the core state saved. -/
structure Saved where
  nid : Nat
  grp : Nat
  warps : List (WarpAt × Warp)
  bars : List (Nat × Nat × Bar)
  rings : List (Nat × Nat × Ring)
  arrived : List (Nat × Ev)
  /-- tasks numbered so far, by launch cluster die × 4 + clus -/
  tasks : Tab Nat
  deriving DecidableEq, Repr

/-- A `preq` that waits for pages: its record, and the positions that it needs (03 R85). -/
structure Preq where
  fut : FutAt
  core : Nat
  ten : Nat
  record : BitVec 256
  at_ : List Nat
  /-- its pages are resident, and its resolution waits for its admission (14 R324) -/
  sent : Bool := false
  deriving DecidableEq, Repr

/-- A gang descriptor (16 R382) and the coordinator's progress. -/
structure Gang where
  peers : List Nat := []
  /-- the coordinator's node, peers that have acknowledged, when `prepare` went out -/
  coord : Option Nat := none
  acked : List Nat := []
  since : Option Nat := none
  /-- a node of the descriptor has been committed and runs (16 R383) -/
  committed : Bool := false
  deriving DecidableEq, Repr

/-! ### Dies, fabric and firmware -/

/-- A compute die (02 R50 to R56; 19 R418; 17 R401). -/
structure Die where
  powered : Bool := false
  dead : Bool := false
  fenced : Bool := false
  inc : BitVec 16 := 0
  /-- the lease's expiry, at the lease unit and as the die knows it -/
  expiry : Nat := 0
  known : Nat := 0
  mhz : Nat := 800
  slowest : Nat := 800
  leaseStop : Bool := false
  nextRenewal : Nat := 0
  debugHold : Bool := false
  debugEnable : Bool := false
  /-- root time at which a relock ends (19 R418) -/
  relock : Nat := 0
  /-- the die's copy of the almanac counter (02 R49) -/
  almanac : Nat := 0
  /-- core failures for which a self-test fenced it: it stays fenced until the next power-up (17 R399) -/
  failures : Nat := 0
  /-- out of reset, and no renewal accepted yet (02 R50) -/
  fresh : Bool := false
  deriving DecidableEq, Repr

/-- A fabric port (18 R402, R403). -/
inductive FabPort where
  | down
  /-- direct to a host, its fenced lanes, and whether it runs at half width -/
  | up (direct : Bool) (fencedLanes : List Nat) (half : Bool)
  | fenced
  deriving DecidableEq, Repr

/-- A message class of the network (01 R35). -/
inductive NetClass where
  | request | forward | response
  deriving DecidableEq, Repr

/-- An entry of the base error log (17 R400). The class of a stale message (02 R59) stands beside its 32 bytes, whose layout has no bits
for it. -/
structure LogEntry where
  time : Nat
  kind : Nat
  src : Nat
  sidx : Nat
  aux : Nat
  addr : Nat
  mcls : Option NetClass := none
  deriving DecidableEq, Repr

/-- What crosses the package's edge outward: the answers to the host and messages to peers (18). -/
inductive Emit where
  | hostData (ld pa : Nat) (data : List Byte) (psn : Bool)
  | hostGrant (sector tokens : Nat)
  | snoop (sector : Nat)
  | peer (dev : Nat) (m : MsgRec)
  | gang (gangId : Nat) (what : Nat)
  | beat (peer : Nat)
  /-- the old values of a peer's atomic on a word (18 R410) -/
  | oldValue (pa : Nat) (data : List Byte)
  /-- an attestation report: its leaf, the hashes of the vigil image, the service image and the trims, the certificate and the signature (19
  R426) -/
  | report (leaf : Nat) (vigil service trims cert sig : List Byte)
  /-- a step of the bring-up that is complete, or that has failed, with the cause (19 R421) -/
  | bringUp (step : Nat) (cause : Option Nat)
  /-- the busy status of a refused change of a slice's pinned pool (01 R27) -/
  | poolBusy (slice : Nat)
  /-- the error with which a slice answers a host write that it refuses (01 R20) -/
  | hostError (ld pa : Nat)
  /-- the completion error of a request through a logical device that is not bound (18 R407) -/
  | completionError (ld : Nat)
  /-- a CXL.cache request of the home slice for a sector of host memory, shared or exclusive (18 R404, R409) -/
  | cacheRequest (sector : Nat) (exclusive : Bool)
  /-- bytes written to the memory of the host or of a peer (18 R409, R410) -/
  | farWrite (line : Nat) (bytes : List (Nat × Byte))
  /-- a read of a line in a peer's window, as a CXL.mem request, or of an uncached page of host memory; an atomic on a word in a peer's
  window, as a vendor-defined message (18 R409, R410) -/
  | farRead (line : Nat)
  | peerAtomic (line off : Nat) (wide : Bool) (op : AtOp) (lanes : List AtLane)
  /-- the error with which a peer's atomic is refused (01 R20) -/
  | peerError (pa : Nat)
  /-- what a read of a logical device's BAR0 gives (18 R406) -/
  | barData (ld off : Nat) (v : W64)
  /-- the service firmware is told of a die whose current exceeds its limit (19 R418) -/
  | overcurrent (die : Nat)
  deriving DecidableEq, Repr

/-! ### The whole package -/

/-- A request to the memory of the host or of a peer whose answer is awaited (18 R409, R410). Kinds 2 to 5 are those of 01 R31, for pages
that are not cached, and for writes that the host has to accept; with 8 and 9 a slice obtains sectors, shared or exclusive; 10 is an engine's
read, which waits as 11 for its engine once it has been answered. -/
structure FarReq where
  kind : Nat
  req : HomeReq
  /-- a write or an atomic that the home has carried out, which the host has still to accept: its reply (18 R409) -/
  reply : Option (List Byte) := none
  /-- the copy of which it is a write -/
  copy : Option CopyPart := none
  /-- the port through which it has left the package; none while it waits for credits (18 R405) -/
  port : Option Nat := none
  deriving DecidableEq, Repr

/-- A message or an action of the base on its way: within a class, from one source to one destination, in the order sent (01 R35). -/
structure Flight where
  cls : NetClass
  src : Nat
  dst : Nat
  ev : Ev
  deriving DecidableEq, Repr

/-- What the outside world, or the network's timing, chooses next. -/
inductive Choice where
  | deliver (k : Nat)
  | advance
  | tick
  | event (e : Ev)
  /-- the message k on its way arrives with an uncorrectable error (02 R62) -/
  | corrupt (k : Nat)
  /-- a burst of a stack holds a double-bit error from now on: the sector reads as uncorrectable (01 R25) -/
  | dramError (sector : Nat)
  /-- system software sets or clears a die's debug enable (12 R279) -/
  | debugEnable (d : Nat) (on : Bool)
  /-- the manager's and the host's own settings: device n of a gang's peers (16 R382) -/
  | gang (id : Nat) (peers : List Nat)
  /-- the step of the bring-up that is under way fails, for a cause (19 R421) -/
  | stepFails (cause : Nat)
  /-- the host or a peer answers request k of those that wait for it (18 R409, R410) -/
  | farAnswer (k : Nat)
  /-- the memory of the host or of a peer changes (18 R409, R410) -/
  | farMemory (pa : Nat) (bytes : List Byte)
  /-- decoder i of a logical device is set: host addresses from a base, a size, the device address (18 R404) -/
  | hdm (ld i base size dpa : Nat)
  /-- a host reads or writes 8 bytes of BAR0 of a logical device (18 R404, R406) -/
  | barRead (ld off : Nat)
  | barWrite (ld off : Nat) (v : W64)
  /-- a part reports an error: its self-test begins (17 R399) -/
  | errorIn (r : Resource)
  deriving DecidableEq, Repr

/-- Where the clusters' clocks stand: the cluster whose turn it is, and the core whose turn to issue it is, 4 for the cycle's end. -/
structure Cursor where
  cluster : Nat
  phase : Nat
  deriving DecidableEq, Repr

/-- How the last move, trigger or control operation issued (05 R146): it took effect; it waits for a result, at an admission point, for
a neighbour (05 R144) or for room; it raised a fault. -/
inductive Verdict where
  | done | waits | admission | neighbour | room
  | faulted (cause : Nat) (info : W64)
  /-- the poison fault of a read of a unit's result (17 R398) -/
  | poisoned (u : Un) (info : W64)
  /-- a fault after a walker read that lies in no window, at this address (01 R20) -/
  | walkRefused (pa cause : Nat) (info : W64)
  deriving DecidableEq, Repr

/-- What the parts of the bundle that is issuing read: the warp's context, its core's rings and tags as they stood at the start of the
cycle, and the number from which on the accesses of its core are its own (05 R124). -/
structure Snap where
  ctx : Ctx
  vregs : Tab (List W32)
  rings : Tab Ring
  ctag : BitVec 64
  nextId : Nat
  deriving DecidableEq, Repr

/-- The machine. -/
structure State where
  /-- almanac root (02 R49); the base cycle count follows it, 8 for 5 ticks (00 R11) -/
  root : Nat
  /-- DRAM, peer and host windows, by physical address: the bytes that are not zero -/
  mem : List Host.Cell
  /-- DRAM sectors that read with an uncorrectable error (01 R25), by PA / 64 -/
  badDram : List Nat
  /-- steps of the bring-up that are complete, and the step that failed (19 R421) -/
  bringUp : Nat
  upFailed : Option Nat
  /-- the base fields that have power: a seam to a field without it is isolated (19 R420) -/
  fields : List Nat
  /-- the verified image, which base field 0 keeps (19 R423, R425) -/
  image : Option Image
  controlDie : Bool
  /-- system software has fenced the control die (00 R3) -/
  controlFenced : Bool
  /-- the copies of the almanac counter of the 64 slices, the lease unit and the control die; an absent one is 0 (02 R49) -/
  almanacs : List Nat
  /-- the control die's copies of the dies' incarnation numbers (02 R57) -/
  controlIncs : Tab (BitVec 16)
  /-- resources under a self-test: requests to them wait (17 R399) -/
  testing : List Resource
  /-- next unused leaf in the serial flash, and in the running firmware (19 R426) -/
  flashLeaf : Nat
  leaf : Nat
  /-- the attestation key's certificate in the serial flash, and the leaf of a report whose signature is still to be released (19 R426) -/
  flashCert : List Byte
  signing : Option Nat
  limits : List Nat
  stacksFenced : List Nat
  errLog : List LogEntry
  /-- isolation tables (18 R408, R413): tenant of each die and frame (64 + t: of none, and t's before), peer or host windows by
  tenant × 512 + window -/
  dieTen : Tab Nat
  frameTen : Tab Nat
  windows : List Nat
  fab : Tab FabPort
  /-- the hierarchy a logical device is bound to (18 R407), the hosts allowed per tenant are the windows' -/
  lds : Tab Nat
  /-- logical devices whose unbinding waits for requests accepted before it (18 R407) -/
  unbinding : List Nat
  /-- the host decoders: by logical device × 16 + decoder, base, size and device address (18 R404) -/
  hdm : Tab (Nat × Nat × Nat)
  /-- the registers of the logical devices that are not 0, by device × 2^17 + offset / 8 (18 R406) -/
  ldRegs : Tab W64
  /-- requests from outside that wait for link credits or for a path (18 R405, 19 R420) -/
  linkWait : List Ev
  /-- fenced lanes of each port (18 R403) -/
  badLanes : Tab (List Nat)
  gangs : Tab Gang
  /-- peers: root time of the last heartbeat, and the dead ones (18 R412) -/
  beats : Tab Nat
  nextBeat : Nat
  deadPeers : List Nat
  dies : Tab Die
  clusters : Tab Cluster
  cores : Tab Core
  /-- live warps by core × 16 + slot -/
  warps : Tab Warp
  nextWid : Nat
  /-- the cores on which warps that have ended ran, by warp number -/
  ghosts : Tab Nat
  slices : Tab Slice
  /-- directory entries by sector number; an absent entry has all tokens at the home -/
  dir : Tab DirEntry
  /-- sectors of host memory that the home slices have obtained, true for those held exclusive (18 R409) -/
  hostHeld : Tab Bool
  /-- requests to the host's and the peers' memory that wait for their answers (18 R409, R410) -/
  farWait : List FarReq
  objs : Tab Obj
  /-- mailboxes and group barriers by node × 256 + group, the cluster of an implicit group counted in -/
  mails : Tab Mail
  gbars : Tab GBar
  queues : Tab Queue
  /-- the queue that acceptance visits next (16 R372) -/
  nextQueue : Nat
  nodes : List Node
  nextNid : Nat
  nextReady : Nat
  saved : List Saved
  /-- open censuses by their own number, the next 24-bit census number, solicits that wait at the root (08 R193) -/
  censuses : Tab Census
  nextCensus : Nat
  censusWait : List CensusItem
  tmoves : Tab TMove
  nextMove : Nat
  preqs : List Preq
  /-- requests to peers and messages whose answer is awaited (18 R410, R411), by device -/
  peerSends : List (Nat × FutAt)
  /-- what has crossed the package's edge, newest first -/
  out : List Emit
  /-- the model's own, here to `snap`: what happens next (log entry 1) -/
  agenda : List Ev
  tape : List Choice
  flight : List Flight
  /-- actions of the base that wait for tokens or for a peer -/
  parked : List Flight
  cursor : Cursor
  cur : WarpAt
  mslot : Nat
  snap : Option Snap
  /-- the event at hand: what the step of the package that runs next carries -/
  ev : Option Ev
  verdict : Verdict
  deriving DecidableEq, Repr

/-- The island limits of 19 R416. -/
def figures : List Nat := (List.range 37).map Config.islandFigure

/-- The machine before power: nothing is up, no lease is held, every table is empty. -/
def State.reset : State where
  root := 0
  mem := []
  badDram := []
  bringUp := 0
  upFailed := none
  fields := []
  image := none
  controlDie := false
  controlFenced := false
  almanacs := []
  controlIncs := []
  testing := []
  flashLeaf := 0
  leaf := 0
  flashCert := []
  signing := none
  limits := figures
  stacksFenced := []
  errLog := []
  dieTen := []
  frameTen := []
  windows := []
  fab := []
  lds := []
  unbinding := []
  hdm := []
  ldRegs := []
  linkWait := []
  badLanes := []
  gangs := []
  beats := []
  nextBeat := 0
  deadPeers := []
  dies := []
  clusters := []
  cores := []
  warps := []
  nextWid := 1
  ghosts := []
  slices := []
  dir := []
  hostHeld := []
  farWait := []
  objs := []
  mails := []
  gbars := []
  queues := []
  nextQueue := 0
  nodes := []
  nextNid := 1
  nextReady := 0
  saved := []
  censuses := []
  nextCensus := 0
  censusWait := []
  tmoves := []
  nextMove := 1
  preqs := []
  peerSends := []
  out := []
  agenda := []
  tape := []
  flight := []
  parked := []
  cursor := ⟨0, 0⟩
  cur := ⟨0, 0⟩
  mslot := 7
  snap := none
  ev := none
  verdict := .done

end Sys2Proof.Machine
end

