-- ==== Sys2Proof/Machine/Events.lean ====
section
/-! DEFINITION. The row of the opcode table to which each event belongs. -/

namespace Sys2Proof

/-- The row of an event. -/
def Ev.row : Ev → Instr
  | .unitResult _ _ _ _ => .unitResult
  | .instructionCacheMiss _ _ _ => .instructionCacheMiss
  | .loadLineArrival _ _ _ _ => .loadLineArrival
  | .loadDue _ _ => .loadDue
  | .laneStoreLanding _ _ => .laneStoreLanding
  | .outsideWriteLanding _ => .outsideWriteLanding
  | .outsideEventAdmission _ => .outsideEventAdmission
  | .futureResolution _ _ _ => .futureResolution
  | .skip _ => .skip
  | .moduloInitiation _ => .moduloInitiation
  | .copyChunkTranslate _ _ => .copyChunkTranslate
  | .copyChunkLanding _ _ => .copyChunkLanding
  | .unpacedChunkDelivery _ _ => .unpacedChunkDelivery
  | .copyFinalStatus _ _ _ => .copyFinalStatus
  | .taskDispatch _ _ _ => .taskDispatch
  | .taskOperandLineDue _ _ _ => .taskOperandLineDue
  | .taskRetire _ _ => .taskRetire
  | .acAccess _ _ => .acAccess
  | .claimGrant _ => .claimGrant
  | .spawn _ _ => .spawn
  | .ringCheck _ => .ringCheck
  | .claimCheck _ => .claimCheck
  | .engineArrival _ _ _ => .engineArrival
  | .trapEntry _ _ _ _ => .trapEntry
  | .readShared _ => .readShared
  | .readForOwnership _ => .readForOwnership
  | .writeAtHome _ => .writeAtHome
  | .atomicAtHome _ => .atomicAtHome
  | .copyRead _ => .copyRead
  | .uncachedRead _ => .uncachedRead
  | .retryReissue _ _ => .retryReissue
  | .lineFill _ => .lineFill
  | .writeBackDrain _ => .writeBackDrain
  | .forwardedRead _ _ _ => .forwardedRead
  | .demandForAllTokens _ _ _ => .demandForAllTokens
  | .ownerRecall _ _ => .ownerRecall
  | .tokenTransfer _ => .tokenTransfer
  | .l1Eviction _ _ => .l1Eviction
  | .requestTimeout _ _ => .requestTimeout
  | .persistentRequest _ _ => .persistentRequest
  | .deactivation _ _ _ => .deactivation
  | .almanacTick => .almanacTick
  | .renewalSend _ => .renewalSend
  | .renewal _ _ _ => .renewal
  | .acknowledgement _ _ => .acknowledgement
  | .leaseStop _ => .leaseStop
  | .declaredDead _ => .declaredDead
  | .recallTimeout _ => .recallTimeout
  | .directoryError _ _ => .directoryError
  | .hostCxlMemRead _ _ _ _ _ => .hostCxlMemRead
  | .hostCxlMemWrite _ _ _ _ _ => .hostCxlMemWrite
  | .backInvalidateSnoop _ _ => .backInvalidateSnoop
  | .hostSnoop _ _ => .hostSnoop
  | .pageResident _ _ => .pageResident
  | .leafChange _ _ => .leafChange
  | .keyArrival _ _ => .keyArrival
  | .censusOrder _ => .censusOrder
  | .insertCommit _ _ _ => .insertCommit
  | .deleteCommit _ _ _ => .deleteCommit
  | .dropCommit _ _ _ => .dropCommit
  | .tmoveCopy _ => .tmoveCopy
  | .moveCommit _ => .moveCommit
  | .reply _ _ _ _ => .reply
  | .censusCompletion _ => .censusCompletion
  | .releaseAtObject _ => .releaseAtObject
  | .acquireWake _ => .acquireWake
  | .byteCountAdd _ _ _ _ => .byteCountAdd
  | .groupBarrierCompletion _ _ => .groupBarrierCompletion
  | .messageArrival _ => .messageArrival
  | .postArrival _ => .postArrival
  | .probeRequest _ => .probeRequest
  | .overflowTimeout _ => .overflowTimeout
  | .tail _ _ => .tail
  | .queueRegisterWrite _ _ _ _ => .queueRegisterWrite
  | .acceptance => .acceptance
  | .nodePlacement => .nodePlacement
  | .nodeCompletion _ => .nodeCompletion
  | .preEmption _ _ => .preEmption
  | .preEmptionTimeout _ _ => .preEmptionTimeout
  | .preEmptionSave _ _ => .preEmptionSave
  | .resume _ => .resume
  | .gangAbort _ => .gangAbort
  | .prepare _ => .prepare
  | .commit _ => .commit
  | .abort _ => .abort
  | .gangTimeout _ => .gangTimeout
  | .heartbeatSend => .heartbeatSend
  | .heartbeat _ => .heartbeat
  | .peerDeath _ => .peerDeath
  | .vendorDefinedMessage _ => .vendorDefinedMessage
  | .peerAtomic _ => .peerAtomic
  | .bind _ _ => .bind
  | .linkTraining _ _ => .linkTraining
  | .retrain _ => .retrain
  | .tenantReset _ => .tenantReset
  | .isolationTableWrite _ => .isolationTableWrite
  | .dieReset _ _ => .dieReset
  | .controlDieReset _ => .controlDieReset
  | .debugHold _ => .debugHold
  | .debugHoldEnd _ => .debugHoldEnd
  | .pinnedPoolSet _ _ => .pinnedPoolSet
  | .clockChange _ _ => .clockChange
  | .overcurrent _ => .overcurrent
  | .currentLimit _ _ => .currentLimit
  | .selfTest _ _ => .selfTest
  | .baseField0PowerUp => .baseField0PowerUp
  | .firmwareDownload _ => .firmwareDownload
  | .controlDiePowerUp => .controlDiePowerUp
  | .baseFieldsPowerUp => .baseFieldsPowerUp
  | .stackTraining _ => .stackTraining
  | .computeDiePowerUp _ => .computeDiePowerUp
  | .powerDown => .powerDown
  | .attestation _ => .attestation
  | .pageError _ => .pageError
  | .prepareDecline _ => .prepareDecline
  | .heldRecordRemoval _ => .heldRecordRemoval
  | .powerLoss => .powerLoss

end Sys2Proof
end

