-- ==== Sys2Proof/Machine/Records.lean ====
section
/-! DEFINITION. The fields of the records that stand in memory: buffer records (03 R67), leaves and nodes (03 R76), policy words
(03 R87), shape records and completion words (04 R101, R102), task records (07 R171), launch records (16 R367). -/

namespace Sys2Proof.Machine

/-- Field [hi:lo] of a record, as a number. -/
def fld {n : Nat} (x : BitVec n) (hi lo : Nat) : Nat := x.toNat / 2 ^ lo % 2 ^ (hi - lo + 1)

/-- One bit of a record. -/
def bit {n : Nat} (x : BitVec n) (k : Nat) : Bool := x.toNat / 2 ^ k % 2 == 1

/-- A two's complement field of w bits. -/
def signed (w v : Nat) : Int := if v < 2 ^ (w - 1) then (v : Int) else (v : Int) - 2 ^ w

/-- The number of little-endian bytes (00 R10). -/
def leNat : List Byte → Nat
  | [] => 0
  | b :: r => b.toNat + 256 * leNat r

/-- n little-endian bytes of a number. -/
def leBytes (n v : Nat) : List Byte := (List.range n).map fun k => BitVec.ofNat 8 (v / 256 ^ k)

/-! ### Buffer records (03 R67) -/

/-- The class of a 2-bit code; 3 is reserved. -/
def clsOf : Nat → Option Cls
  | 0 => some .non
  | 1 => some .device
  | 2 => some .system
  | _ => none

abbrev BufRec := BitVec 256

def brPbase (r : BufRec) : Nat := fld r 243 192
def brLvl (r : BufRec) : Nat := fld r 183 181
def brHidx (r : BufRec) : Nat := fld r 180 173
def brHome (r : BufRec) : Nat := fld r 172 171
def brCls (r : BufRec) : Nat := fld r 170 169
def brSwp (r : BufRec) : Nat := fld r 168 164
def brSwm (r : BufRec) : Nat := fld r 163 160
def brStride (r : BufRec) : Nat := fld r 159 128
def brSobj (r : BufRec) : Nat := fld r 127 112
def brExtent (r : BufRec) : Nat := fld r 111 64
def brVal (r : BufRec) : Bool := bit r 63
def brPg (r : BufRec) : Bool := bit r 62
def brClamp (r : BufRec) : Bool := bit r 61
def brRead (r : BufRec) : Bool := bit r 58
def brWrite (r : BufRec) : Bool := bit r 59
def brAtomic (r : BufRec) : Bool := bit r 60
def brEsz (r : BufRec) : Nat := fld r 57 56
def brSize (r : BufRec) : Nat := 2 ^ brEsz r
def brVbase (r : BufRec) : Nat := fld r 55 0

/-- The checks of 03 R68 on one valid record. -/
def brRefused (r : BufRec) : Bool :=
  fld r 255 244 != 0 || fld r 191 184 != 0 || brVbase r % 256 != 0 || (brPg r && brVbase r % 65536 != 0) ||
  (if brPg r then brPbase r % 512 != 0 else brPbase r % 256 != 0) || brExtent r > 2 ^ 46 ||
  (brPg r && (brLvl r < 1 || brLvl r > 5 || brExtent r > 2 ^ (16 + 6 * brLvl r))) ||
  (brPg r && (brHome r != 0 || brCls r != 0 || brHidx r != 0)) || (!brPg r && brLvl r != 0) || brCls r == 3 ||
  (brHome r == 2 && brHidx r > 63) || (!brPg r && brCls r == 2 && brHome r == 3) || brSwm r > 3 ||
  (brSwm r != 0 && brSwp r < 8) || (brSwm r != 0 && brExtent r % 256 != 0)

/-- The swizzle of 03 R72. -/
def swizzle (r : BufRec) (p : Nat) : Nat :=
  let k := brSwp r
  match brSwm r with
  | 1 => p ^^^ (p / 2 ^ k % 4 * 16)
  | 2 => p ^^^ (p / 2 ^ k % 8 * 16)
  | 3 => p ^^^ (p / 2 ^ k % 16 * 16)
  | _ => p

/-! ### Page tables (03 R75, R76) -/

def ptValid (e : W64) : Bool := bit e 63
def ptLeaf (e : W64) : Bool := bit e 62
def ptNext (e : W64) : Nat := fld e 42 0 * 512
def ptCls (e : W64) : Nat := fld e 61 60
def ptHome (e : W64) : Nat := fld e 59 58
def ptHidx (e : W64) : Nat := fld e 57 50
def ptRead (e : W64) : Bool := bit e 47
def ptWrite (e : W64) : Bool := bit e 48
def ptAtomic (e : W64) : Bool := bit e 49
def ptFrame (e : W64) : Nat := fld e 35 0

/-! ### The policy word (03 R87) -/

/-- The 8-bit hash of a line's VA under a policy word's seed. -/
def polHash (pol : W32) (va : Nat) : Nat :=
  let x := va / 256 % 2 ^ 48
  let y := x ^^^ (fld pol 15 8 * 0x010101010101)
  y * 0x9E3779B97F4B % 2 ^ 48 / 2 ^ 40

def polClass (pol : W32) (va : Nat) : EvCls :=
  let h := polHash pol va
  if h < fld pol 31 24 then .keep else if h < fld pol 23 16 then .normal else .stream

def polNl1 (pol : W32) : Bool := bit pol 3
def polNllc (pol : W32) : Bool := bit pol 2

/-! ### Copies (04 R101, R102) -/

abbrev Shape := BitVec 1024

def shMcl (r : Shape) (j : Nat) : Nat := fld r (903 + 8 * j) (896 + 8 * j)
/-- Count of a dimension, 1 where dimensions 1 to 5 are absent. -/
def shBnd (r : Shape) (d : Nat) : Nat :=
  let b := fld r (255 + 128 * d) (224 + 128 * d)
  if d > 0 ∧ b = 0 then 1 else b
def shSstr (r : Shape) (d : Nat) : Int := signed 48 (fld r (223 + 128 * d) (176 + 128 * d))
def shDstr (r : Shape) (d : Nat) : Int := signed 48 (fld r (175 + 128 * d) (128 + 128 * d))
def shSbuf (r : Shape) : Nat := fld r 127 122
def shDbuf (r : Shape) : Nat := fld r 121 116
def shSoff (r : Shape) : Nat := fld r 93 47
def shDoff (r : Shape) : Nat := fld r 46 0

/-- The bytes of a copy's stream (04 R103). -/
def shBytes (r : Shape) : Nat := shBnd r 0 * shBnd r 1 * shBnd r 2 * shBnd r 3 * shBnd r 4 * shBnd r 5

/-- The position of stream byte n: the start and the strides of dimensions 1 to 5, dimension 0 running fastest. -/
def shPos (r : Shape) (off : Nat) (str : Nat → Int) (n : Nat) : Int :=
  let i0 := n % shBnd r 0
  let n1 := n / shBnd r 0
  let i1 := n1 % shBnd r 1
  let n2 := n1 / shBnd r 1
  let i2 := n2 % shBnd r 2
  let n3 := n2 / shBnd r 2
  let i3 := n3 % shBnd r 3
  let n4 := n3 / shBnd r 3
  let i4 := n4 % shBnd r 4
  let i5 := n4 / shBnd r 4
  (off : Int) + i0 + i1 * str 1 + i2 * str 2 + i3 * str 3 + i4 * str 4 + i5 * str 5

def cwBce (c : W64) : Bool := bit c 32
def cwBobj (c : W64) : Nat := fld c 31 16
def cwTge (c : W64) : Bool := bit c 6
def cwTag (c : W64) : Nat := fld c 5 0

/-! ### Tasks (07 R171) -/

abbrev TaskRec := BitVec 512

def tkDexp (r : TaskRec) : Nat := fld r 471 466
def tkDscm (r : TaskRec) : Bool := bit r 465
def tkQtyp (r : TaskRec) : Nat := fld r 464 463
def tkDfmt (r : TaskRec) : Nat := fld r 462 460
def tkClr (r : TaskRec) : Bool := bit r 459
def tkInit (r : TaskRec) : Bool := bit r 458
def tkDlt (r : TaskRec) : Int := signed 10 (fld r 457 448)
def tkRnd (r : TaskRec) : Nat := fld r 443 439
def tkDly (r : TaskRec) : Nat := max 8 (min 4095 (fld r 438 427))
def tkProw (r : TaskRec) : Nat := fld r 426 414
def tkAccrow (r : TaskRec) : Nat := fld r 413 401
def tkKb (r : TaskRec) : Nat := fld r 400 393
def tkM (r : TaskRec) : Nat := fld r 392 384
def tkTcon (r : TaskRec) : W32 := BitVec.ofNat 32 (fld r 383 352)
def tkDstr (r : TaskRec) : Nat := fld r 351 320
def tkBstr (r : TaskRec) : Nat := fld r 319 288
def tkAstr (r : TaskRec) : Nat := fld r 287 256
def tkDpos (r : TaskRec) : Nat := fld r 238 192
def tkSpos (r : TaskRec) : Nat := fld r 174 128
def tkDbuf (r : TaskRec) : Nat := fld r 122 117
def tkSbuf (r : TaskRec) : Nat := fld r 116 111
def tkBpos (r : TaskRec) : Nat := fld r 110 64
def tkBbuf (r : TaskRec) : Nat := fld r 58 53
def tkAbuf (r : TaskRec) : Nat := fld r 52 47
def tkApos (r : TaskRec) : Nat := fld r 46 0
/-- A reserved field is not zero. -/
def tkReserved (r : TaskRec) : Bool :=
  fld r 511 472 != 0 || fld r 447 444 != 0 || fld r 255 239 != 0 || fld r 191 175 != 0 || fld r 127 123 != 0 || fld r 63 59 != 0

/-! ### Launch records (16 R367) -/

abbrev LaunchRec := BitVec 512

def lrTag (r : LaunchRec) : Nat := fld r 511 480
def lrPreds (r : LaunchRec) : List Nat := [fld r 383 352, fld r 415 384, fld r 447 416, fld r 479 448]
def lrSeed (r : LaunchRec) : W64 := BitVec.ofNat 64 (fld r 351 288)
def lrPva (r : LaunchRec) : Nat := fld r 287 240 * 256
def lrSva (r : LaunchRec) : Nat := fld r 239 192 * 256
def lrGva (r : LaunchRec) : Nat := fld r 191 144 * 256
def lrAva (r : LaunchRec) : Nat := fld r 143 96 * 256
def lrGang (r : LaunchRec) : Nat := fld r 95 80
def lrDmask (r : LaunchRec) : Nat := fld r 79 64
def lrIc (r : LaunchRec) : Nat := fld r 63 56
def lrPri (r : LaunchRec) : Nat := fld r 55 54
def lrQueue (r : LaunchRec) : Nat := fld r 53 48
def lrEes (r : LaunchRec) : Bool := bit r 47
def lrPre (r : LaunchRec) : Bool := bit r 46
def lrPst (r : LaunchRec) : Bool := bit r 45
def lrGlead (r : LaunchRec) : Bool := bit r 44
def lrPages (r : LaunchRec) : Nat := fld r 43 37
def lrQuota (r : LaunchRec) : Nat := fld r 36 24
def lrRegs (r : LaunchRec) : Nat := fld r 23 15
def lrW (r : LaunchRec) : Nat := fld r 14 8
def lrC (r : LaunchRec) : Nat := fld r 7 5
def lrD (r : LaunchRec) : Nat := fld r 4 0

/-- The quota Q: 0 means the whole pool (05 R137). -/
def lrQ (r : LaunchRec) : Nat := if lrQuota r = 0 then Config.poolRegs else lrQuota r

end Sys2Proof.Machine
end

