-- ==== Sys2Proof/Machine/Ops.lean ====
section
/-! DEFINITION. Named operations over the state: tables, memory cells, warps and cores, futures, arrivals, the end of a warp, and the
entry into and the return from a trap handler (17_traps_and_preemption). -/

namespace Sys2Proof

/-- The entry of a number, if there is one. -/
def Tab.look {α : Type} (t : Tab α) (k : Nat) : Option α :=
  match t with
  | [] => none
  | (a, v) :: r => if a = k then some v else Tab.look r k

/-- The table with entry k set to v, its numbers rising. -/
def Tab.put {α : Type} (t : Tab α) (k : Nat) (v : α) : Tab α :=
  match t with
  | [] => [(k, v)]
  | (a, w) :: r => if a = k then (k, v) :: r else if k < a then (k, v) :: (a, w) :: r else (a, w) :: Tab.put r k v

/-- The table without entry k. -/
def Tab.del {α : Type} (t : Tab α) (k : Nat) : Tab α :=
  match t with
  | [] => []
  | (a, w) :: r => if a = k then r else (a, w) :: Tab.del r k

/-- The entry of a number, a default where there is none. -/
def Tab.get {α : Type} (t : Tab α) (d : α) (k : Nat) : α := (Tab.look t k).getD d

/-- Every entry changed by a function of its number. -/
def Tab.mapAll {α β : Type} (t : Tab α) (f : Nat → α → β) : Tab β := t.map fun (k, v) => (k, f k v)

/-- The lowest of n numbers that has no entry. -/
def Tab.lowestFree {α : Type} (t : Tab α) (n : Nat) : Option Nat :=
  (List.range n).find? fun k => (Tab.look t k).isNone

namespace Machine

open Host (Outcome Cell)

/-! ### Memory in its canonical form: addresses rising, no byte that is 0 (the byte an unlisted address reads as) -/

/-- The byte at an address; an unlisted address reads as 0 (log entry 3). -/
def readCell : List Cell → Nat → Byte
  | [], _ => 0
  | (a, v) :: r, k => if a = k then v else readCell r k

/-- Write a byte, keeping the canonical form. -/
def writeCell : List Cell → Nat → Byte → List Cell
  | [], k, b => if b = 0 then [] else [(k, b)]
  | (a, v) :: r, k, b =>
    if a = k then (if b = 0 then r else (k, b) :: r)
    else if k < a then (if b = 0 then (a, v) :: r else (k, b) :: (a, v) :: r)
    else (a, v) :: writeCell r k b

/-- The canonical form of a memory, every address above a bound. -/
def cellsFrom (lo : Nat) : List Cell → Bool
  | [] => true
  | (a, v) :: r => decide (lo ≤ a) && v != 0 && cellsFrom (a + 1) r

/-- The canonical form of a memory: addresses strictly rising, no entry equal to what an unlisted address reads as. -/
def cellsWf (m : List Cell) : Bool := cellsFrom 0 m

/-- n bytes from an address, lowest first. -/
def readCells (m : List Cell) (a n : Nat) : List Byte := (List.range n).map fun k => readCell m (a + k)

/-- Write bytes at their addresses, in order. -/
def writeCells (m : List Cell) (l : List (Nat × Byte)) : List Cell := l.foldl (fun m (a, b) => writeCell m a b) m

/-- Bytes at consecutive addresses. -/
def placed (a : Nat) (l : List Byte) : List (Nat × Byte) := (List.range l.length).zip l |>.map fun (k, b) => (a + k, b)

/-! ### Parts of the state -/

def clusterOf (core : Nat) : Nat := core / 4
def dieOf (core : Nat) : Nat := core / 16

def State.core (s : State) (n : Nat) : Core := Tab.get s.cores {} n
def State.cluster (s : State) (n : Nat) : Cluster := Tab.get s.clusters {} n
def State.die (s : State) (n : Nat) : Die := Tab.get s.dies {} n
def State.slice (s : State) (n : Nat) : Slice := Tab.get s.slices {} n
def State.dirOf (s : State) (n : Nat) : DirEntry := Tab.get s.dir {} n
def State.obj (s : State) (n : Nat) : Obj := Tab.get s.objs {} n
def State.queue (s : State) (n : Nat) : Queue := Tab.get s.queues {} n
def State.mail (s : State) (n : Nat) : Mail := Tab.get s.mails {} n

def State.putCore (s : State) (n : Nat) (c : Core) : State := { s with cores := Tab.put s.cores n c }
def State.putCluster (s : State) (n : Nat) (c : Cluster) : State := { s with clusters := Tab.put s.clusters n c }
def State.putDie (s : State) (n : Nat) (d : Die) : State := { s with dies := Tab.put s.dies n d }
def State.putSlice (s : State) (n : Nat) (x : Slice) : State := { s with slices := Tab.put s.slices n x }
def State.putDir (s : State) (n : Nat) (x : DirEntry) : State := { s with dir := Tab.put s.dir n x }
def State.putObj (s : State) (n : Nat) (x : Obj) : State := { s with objs := Tab.put s.objs n x }
def State.putQueue (s : State) (n : Nat) (x : Queue) : State := { s with queues := Tab.put s.queues n x }
def State.putMail (s : State) (n : Nat) (x : Mail) : State := { s with mails := Tab.put s.mails n x }

def State.updCore (s : State) (n : Nat) (f : Core → Core) : State := s.putCore n (f (s.core n))
def State.updCluster (s : State) (n : Nat) (f : Cluster → Cluster) : State := s.putCluster n (f (s.cluster n))
def State.updDie (s : State) (n : Nat) (f : Die → Die) : State := s.putDie n (f (s.die n))
def State.updSlice (s : State) (n : Nat) (f : Slice → Slice) : State := s.putSlice n (f (s.slice n))

def warpKey (w : WarpAt) : Nat := w.core * 16 + w.slot

/-- The live warp of a slot, if there is one. -/
def State.warp? (s : State) (w : WarpAt) : Option Warp := Tab.look s.warps (warpKey w)
def State.putWarp (s : State) (w : WarpAt) (x : Warp) : State := { s with warps := Tab.put s.warps (warpKey w) x }
def State.updWarp (s : State) (w : WarpAt) (f : Warp → Warp) : State :=
  match s.warp? w with
  | none => s
  | some x => s.putWarp w (f x)

/-- The live warps with their places. -/
def State.live (s : State) : List (WarpAt × Warp) := s.warps.map fun (k, w) => (⟨k / 16, k % 16⟩, w)
def State.liveOn (s : State) (core : Nat) : List (WarpAt × Warp) := s.live.filter fun (a, _) => a.core == core
def State.liveIn (s : State) (cluster : Nat) : List (WarpAt × Warp) := s.live.filter fun (a, _) => clusterOf a.core == cluster
/-- Where the warp of a number lives. -/
def State.findWid (s : State) (wid : Nat) : Option (WarpAt × Warp) := s.live.find? fun (_, w) => w.wid == wid

/-- The logical cycle of a core's cluster (04 R90). -/
def State.lcycOf (s : State) (core : Nat) : Nat := (s.cluster (clusterOf core)).lcyc

def State.node? (s : State) (nid : Nat) : Option Node := s.nodes.find? fun n => n.nid == nid
def State.updNode (s : State) (nid : Nat) (f : Node → Node) : State :=
  { s with nodes := s.nodes.map fun n => if n.nid == nid then f n else n }

/-- An action of the present cycle, after those already waiting. -/
def State.later (s : State) (l : List Ev) : State := { s with agenda := s.agenda ++ l }
/-- A message or an action of the base. -/
def State.send (s : State) (cls : NetClass) (src dst : Nat) (ev : Ev) : State :=
  { s with flight := s.flight ++ [⟨cls, src, dst, ev⟩] }
/-- Ports of the network: cores by number, slices from 256, the base's own units from 512. -/
def slicePort (n : Nat) : Nat := 256 + n
def basePort : Nat := 512
def State.emit (s : State) (e : Emit) : State := { s with out := e :: s.out }
/-- An entry of the base error log, the oldest of 4,096 overwritten (17 R400). -/
def State.log (s : State) (kind src sidx aux addr : Nat) : State :=
  { s with errLog := ({ time := s.root, kind := kind, src := src, sidx := sidx, aux := aux, addr := addr } :: s.errLog).take 4096 }
/-- A message of a dead incarnation is dropped and logged with its class (02 R59). -/
def State.logStale (s : State) (cls : NetClass) (die : Nat) (inc : BitVec 16) (addr : Nat) : State :=
  { s with errLog := ({ time := s.root, kind := 3, src := 2, sidx := die, aux := inc.toNat, addr := addr, mcls := some cls } :: s.errLog).take 4096 }

/-- The slice hash of a line number taken modulo 2^33 (01 R22, 18 R409). -/
def lineQ (line : Nat) : Nat := line % 2 ^ 33 / 64
def sliceOf (line : Nat) : Nat :=
  let q := lineQ line
  let h := (q % 64) ^^^ (q / 64 % 64) ^^^ (q / 4096 % 64) ^^^ (q / 2 ^ 18 % 64) ^^^ (q / 2 ^ 24 % 8)
  (line % 64) ^^^ h

/-- A walker read that lies in no window is refused at its slice and logged (01 R20). DESIGN CHOICE (log entry 66): the kind and the source
class of the entry. -/
def State.logWalk (s : State) (pa : Nat) : State := s.log 0 1 (sliceOf (pa / 256)) 0 pa

/-- The almanac copy that a die reads (02 R49). -/
def State.wtime (s : State) (core : Nat) : Nat := (s.die (dieOf core)).almanac

/-! ### Nodes and groups (16 R375, R376) -/

def Node.D (n : Node) : Nat := lrD n.raw
def Node.C (n : Node) : Nat := lrC n.raw
def Node.W (n : Node) : Nat := lrW n.raw
def Node.tag (n : Node) : Nat := lrTag n.raw

/-- A warp's bit in a member bitmap (16 R375). -/
def memberIx (die clus warp : Nat) : Nat := (die * 4 + clus) * 64 + warp
def Warp.ix (w : Warp) : Nat := memberIx w.die w.clus w.warp

/-- The physical cluster of a launch cluster. -/
def Node.clusterAt (n : Node) (die clus : Nat) : Nat := n.places.getD (die * n.C + clus) 64

/-- Every warp of the node by its bit. -/
def Node.all (n : Node) : List Nat :=
  (List.range n.D).flatMap fun d => (List.range n.C).flatMap fun c => (List.range n.W).map fun w => memberIx d c w

/-- The members of group g as a warp of launch cluster (die, clus) sees it. -/
def Node.members (n : Node) (g die clus : Nat) : List Nat :=
  if g = 252 then n.all.filter fun i => i / 64 == die * 4 + clus
  else if g = 253 then n.all.filter fun i => i / 256 == die
  else if g = 254 then n.all
  else match n.groups.find? fun u => u.g == g with
    | some u => u.members
    | none => []

/-- A group's key: user groups by number; the implicit group of a cluster, and of a die, apart for each. -/
def groupKey (g die clus : Nat) : Nat :=
  if g = 252 then 1024 + die * 4 + clus else if g = 253 then 2048 + die else g

/-- The members of a group by its key. -/
def Node.keyed (n : Node) (key : Nat) : List Nat :=
  if key ≥ 2048 then n.members 253 (key - 2048) 0
  else if key ≥ 1024 then n.members 252 ((key - 1024) / 4) ((key - 1024) % 4)
  else n.members key 0 0

/-- The home group of a warp (16 R375). -/
def Node.home (n : Node) (i : Nat) : Nat :=
  match n.groups.find? fun u => u.home && u.members.contains i with
  | some u => u.g
  | none => 252

def Node.homeKey (n : Node) (die clus warp : Nat) : Nat := groupKey (n.home (memberIx die clus warp)) die clus

/-- A warp's home group by its key; a responder's is the group that owns its tile (08 R202). -/
def State.homeKey (s : State) (w : Warp) : Nat :=
  match w.responder with
  | some r => r.grp
  | none => match s.node? w.nid with
    | some n => n.homeKey w.die w.clus w.warp
    | none => 1024

/-- The key of a mailbox or group barrier. -/
def mailKey (nid key : Nat) : Nat := nid * 4096 + key

/-! ### Futures (12 R269 to R272) -/

/-- The handle of an entry and serial number. -/
def handleOf (unit ent : Nat) (ser : W32) : W64 :=
  BitVec.ofNat 64 (0xF7 * 2 ^ 56 + unit * 2 ^ 48 + ent * 2 ^ 32 + ser.toNat)

/-- The units that place handles: engines 16 to 26, `launch`, `gang`. -/
def handleUnit (u : Nat) : Bool := (16 ≤ u && u ≤ 26) || u == 0xC0 || u == 0xC1

/-- Is the value a handle of a warp whose serial counter is `c`: mark, unit and serial number decide it (12 R269)? -/
def isHandle (c : W32) (v : W64) : Bool :=
  fld v 63 56 == 0xF7 && handleUnit (fld v 55 48) && 1 ≤ fld v 31 0 && fld v 31 0 ≤ c.toNat

/-- Is the value a handle that is outstanding in this context? -/
def Ctx.outstanding (x : Ctx) (v : W64) : Bool :=
  isHandle x.fser v && Tab.look x.futs (fld v 37 32) == some (BitVec.ofNat 32 (fld v 31 0))

def Ctx.sreg (x : Ctx) (n : Nat) : W64 := if n = 0 then 0 else Tab.get x.sregs 0 n
/-- Write a scalar register; s0 discards writes (05 R134). -/
def Ctx.putSreg (x : Ctx) (n : Nat) (v : W64) : Ctx := if n = 0 then x else { x with sregs := Tab.put x.sregs n v }
def watchBit (w : BitVec 64) (n : Nat) : Bool := w.toNat / 2 ^ n % 2 == 1
def setWatch (w : BitVec 64) (n : Nat) (on : Bool) : BitVec 64 :=
  if n = 0 then w else if on then w ||| (1#64 <<< n) else w &&& ~~~(1#64 <<< n)
/-- Is the register watched and outstanding (12 R258, R273)? -/
def Ctx.watched (x : Ctx) (n : Nat) : Bool := watchBit x.watch n && x.outstanding (x.sreg n)

/-- Does a value name the entry and serial number of a future? -/
def names (f : FutAt) (v : W64) : Bool :=
  fld v 63 56 == 0xF7 && handleUnit (fld v 55 48) && fld v 37 32 == f.ent && fld v 31 0 == f.ser.toNat

def splat (v : W64) : Lanes := List.replicate nLanes v

/-- A status word put into every place of a context that holds the handle (12 R272): the watched registers, the result port of the handle's
own unit, and, in a saved context, every result port. -/
def Ctx.resolve (x : Ctx) (f : FutAt) (v : W64) (saved : Bool := false) : Ctx :=
  let hit (n : Nat) : Bool := watchBit x.watch n && names f (x.sreg n)
  let sub (u : Nat) (l : Lanes) : Lanes := l.map fun y => if names f y && (saved || fld y 55 48 == u) then v else y
  { x with
    sregs := x.sregs.map fun (n, y) => (n, if hit n then v else y)
    watch := (List.range 64).foldl (fun w n => if hit n then setWatch w n false else w) x.watch
    futs := if Tab.look x.futs f.ent == some f.ser then Tab.del x.futs f.ent else x.futs
    ports := x.ports.map fun (u, p) => (u, { p with res := sub u p.res, nres := sub u p.nres }) }

/-- Resolution in a warp, in the handler's live state and in the saved context (12 R272). -/
def Warp.resolve (w : Warp) (f : FutAt) (v : W64) : Warp :=
  { w with
    ctx := w.ctx.resolve f v
    handler := w.handler.map fun h => { h with saved := h.saved.resolve f v true }
    gbars := w.gbars.filter fun (_, g) => g != f }

/-- A new outstanding future: the warp and the handle, none when the table is full (12 R270). -/
def Warp.newFuture (w : Warp) (unit : Nat) : Option (Warp × W64 × FutAt) :=
  match Tab.lowestFree w.ctx.futs 64 with
  | none => none
  | some e =>
    let ser : W32 := if w.ctx.fser = 0xFFFFFFFF then 1 else w.ctx.fser + 1
    some ({ w with ctx := { w.ctx with fser := ser, futs := Tab.put w.ctx.futs e ser } }, handleOf unit e ser, ⟨w.wid, e, ser⟩)

/-- Is the future still outstanding for its warp? -/
def State.stillOut (s : State) (f : FutAt) : Bool :=
  match s.findWid f.wid with
  | some (_, w) => Tab.look w.ctx.futs f.ent == some f.ser
  | none => s.saved.any fun g => g.warps.any fun (_, w) => w.wid == f.wid && Tab.look w.ctx.futs f.ent == some f.ser

/-- Has the warp of a number ended? -/
def State.gone (s : State) (wid : Nat) : Bool :=
  (s.findWid wid).isNone && !(s.saved.any fun g => g.warps.any fun (_, w) => w.wid == wid)

/-- The core on which a warp that has ended ran, a given one where none has been kept. -/
def State.coreOf (s : State) (core wid : Nat) : Nat := Tab.get s.ghosts core wid

/-- A resolved future in the mask of engine arrivals (15 R346): warp number 0 stands for no warp. -/
def futDone : FutAt := ⟨0, 0, 0⟩

/-- Tasks of a cluster whose predecessor has resolved (07 R176). -/
def State.predsMet (s : State) (core : Nat) (f : FutAt) : State :=
  s.updCluster (clusterOf core) fun c => { c with tasks := c.tasks.map fun (q, t) =>
    (q, { t with p0 := if t.p0 == some f then none else t.p0, p1 := if t.p1 == some f then none else t.p1 }) }

/-- Engine arrivals and predecessors that wait for a future, now that it has resolved in a cluster (15 R346, 07 R176). The arrivals are
counted at the end of the cycle. -/
def State.resolved (s : State) (core : Nat) (f : FutAt) : State :=
  let cl := clusterOf core
  let mark (x : Bar) : Bar := { x with emask := x.emask.map fun (e, g) => (e, if g == f then futDone else g) }
  let s := (List.range 4).foldl (fun s k =>
    if (s.core (cl * 4 + k)).bars.any fun (_, x) => x.emask.any fun (_, g) => g == f then
      s.updCore (cl * 4 + k) fun c => { c with bars := c.bars.map fun (b, x) => (b, mark x) }
    else s) s
  s.predsMet core f

/-- The future resolves at the end of the present cycle (12 R272). For an exited warp only what hangs on it is done, on its core. -/
def State.resolveFut (s : State) (core : Nat) (f : FutAt) (v : W64) : State :=
  match s.findWid f.wid with
  | some (a, w) => (s.putWarp a (w.resolve f v)).resolved a.core f
  | none => s.resolved (s.coreOf core f.wid) f

/-- An outside event that concerns a warp arrives at the cluster of that warp, of a pre-empted warp's save area, or, for a warp that has
exited, of the core where it ran (04 R92, 17 R396). -/
def State.arrive (s : State) (core wid : Nat) (ev : Ev) : State :=
  match s.findWid wid with
  | some (a, _) => s.updCluster (clusterOf a.core) fun c => { c with arrived := c.arrived ++ [(wid, ev)] }
  | none =>
    if s.saved.any fun g => g.warps.any fun (_, w) => w.wid == wid then
      { s with saved := s.saved.map fun g =>
          if g.warps.any fun (_, w) => w.wid == wid then { g with arrived := g.arrived ++ [(wid, ev)] } else g }
    else s.updCluster (clusterOf (s.coreOf core wid)) fun c => { c with arrived := c.arrived ++ [(wid, ev)] }

/-- The resolution of a future by an outside event. -/
def State.arriveFut (s : State) (core : Nat) (f : FutAt) (v : W64) (eff : ResEff := .nothing) : State :=
  s.arrive core f.wid (.futureResolution f v eff)

/-- A future that a fixed logical cycle resolves (04 R93). That of a warp which has ended counts for tasks from the next cycle on, and for a
named barrier at the first admission point after it (07 R176, 15 R346); that of a pre-empted warp waits for its resume (17 R396). -/
def State.resolvesNow (s : State) (core : Nat) (f : FutAt) (v : W64) (eff : ResEff := .nothing) : State :=
  if s.gone f.wid then (s.predsMet core f).arriveFut core f v eff
  else if (s.findWid f.wid).isNone then s.arriveFut core f v eff else s.later [.futureResolution f v eff]

/-! ### Ports -/

def Ctx.port (x : Ctx) (u : Un) : Port := Tab.get x.ports {} u.code
def Ctx.putPort (x : Ctx) (u : Un) (p : Port) : Ctx := { x with ports := Tab.put x.ports u.code p }

def laneAt (l : Lanes) (i : Nat) : W64 := l.getD i 0
def maskBit (m : W32) (i : Nat) : Bool := m.toNat / 2 ^ i % 2 == 1
/-- The 32 lanes of a function of the lane's number. -/
def lanesOf (f : Nat → W64) : Lanes := (List.range nLanes).map f
/-- A mask of the lanes that satisfy a test. -/
def maskOf (f : Nat → Bool) : W32 :=
  BitVec.ofNat 32 ((List.range nLanes).foldl (fun m i => if f i then m + 2 ^ i else m) 0)

/-- The pending result becomes the readable one. -/
def Port.commit (p : Port) : Port :=
  if p.pend = 0 then p
  else { p with
    res := lanesOf fun i => if maskBit p.pend i then laneAt p.nres i else laneAt p.res i
    sec := lanesOf fun i => if maskBit p.pend i then laneAt p.nsec i else laneAt p.sec i
    psn := (p.psn &&& ~~~p.pend) ||| (p.npsn &&& p.pend)
    pva := if p.npsn == 0 then p.pva else lanesOf fun i => if maskBit p.npsn i then laneAt p.npva i else laneAt p.pva i
    npsn := 0, npva := [], pend := 0, due := none, op := 0, nres := [], nsec := [] }

/-- Is the pending result readable by a bundle that issues in cycle t (05 R128)? -/
def Port.readyAt (p : Port) (t : Nat) : Bool :=
  match p.due with
  | some d => d ≤ t
  | none => p.pend == 0

/-- The port as a bundle that issues in cycle t reads it. -/
def Port.seen (p : Port) (t : Nat) : Port := if p.readyAt t then p.commit else p

/-- A trigger's result: the lanes it starts are pending until `due`, and an earlier result still pending is lost (05 R128, R129). -/
def Port.start (p : Port) (t : Nat) (started : W32) (res sec : Lanes) (due : Option Nat) (op : Nat := 0) : Port :=
  { p.seen t with pend := started, nres := res, nsec := sec, due := due, op := op, npsn := 0 }

/-- Have all pending results been produced by the end of cycle t (17 R387)? -/
def Warp.drained (w : Warp) (t : Nat) : Bool :=
  w.ctx.ports.all fun (_, p) => p.pend == 0 || (p.op == 0 && p.readyAt t)

/-- The warp with every result produced by the end of cycle t in place, and its flags set (05 R132, log entry 12). -/
def Warp.settle (w : Warp) : Warp :=
  { w with
    units := []
    ctx := { w.ctx with
      ports := w.ctx.ports.map fun (u, p) => (u, p.commit)
      flags := w.units.foldl (fun f (_, _, b) => f ||| b.setWidth 64) w.ctx.flags } }

/-! ### The end of a warp (12 R275, 16 R376, 17 R389) -/

/-- Is any warp of the launch left on the core? -/
def State.launchOn (s : State) (core nid : Nat) : Bool := (s.liveOn core).any fun (_, w) => w.nid == nid

/-- 256-byte units of a ring's storage (05 R140). -/
def ringSize (scalar : Bool) (depth : Nat) : Nat := (depth * (if scalar then 8 else 128) + 255) / 256

/-- The named barriers and rings of a launch on a core that its last live warp leaves, when groups of the launch that stood there are pre-empted,
are saved with them (17 R395). -/
def State.stow (s : State) (core nid : Nat) : State :=
  let c := s.core core
  let bars := (c.bars.filter fun (_, x) => x.own == some nid).map fun (b, x) => (core, b, { x with wmask := 0 })
  let rings := (c.rings.filter fun (_, x) => x.nid == nid).map fun (i, x) => (core, i, x)
  let stood (g : Saved) : Bool := g.nid == nid && g.warps.any fun (a, w) => a.core == core && w.responder.isNone
  { s with saved := s.saved.map fun g => if stood g then { g with bars := g.bars ++ bars, rings := g.rings ++ rings } else g }

/-- What leaves a core with the last warp of a launch: its rings (14 R338) and its named barriers (15 R344). -/
def State.leaveCore (s : State) (core nid : Nat) : State :=
  if s.launchOn core nid then s else
  let s := s.stow core nid
  let c := s.core core
  let freed := (c.rings.filter fun (_, r) => r.nid == nid).map fun (_, r) => ringSize r.scalar r.depth
  let s := s.putCore core { c with
    rings := c.rings.filter fun (_, r) => r.nid != nid
    held := Tab.del c.held nid
    bars := c.bars.map fun (b, x) => (b, if x.own == some nid then { x with own := none, exp := 0, cnt := 0, wmask := 0, emask := [] } else x) }
  s.updCluster (clusterOf core) fun x => { x with ringUsed := x.ringUsed - freed.sum }

/-- An entry that a commit is about to change: programs see it as it stands until their cluster's next admission (00 R4; log entry 74). -/
def Core.keepTile (c : Core) (e : Nat) : Core := match Tab.look c.oldTiles e, Tab.look c.tiles e with
  | none, some t => { c with oldTiles := Tab.put c.oldTiles e t }
  | _, _ => c

def State.keepTile (s : State) (core e : Nat) : State :=
  if (s.liveIn (clusterOf core)).isEmpty then s else s.updCore core fun c => c.keepTile e

/-- Does the group of a key lie wholly in the cluster of a core? -/
def State.groupWithin (s : State) (nid key core : Nat) : Bool := match s.node? nid with
  | some n => (n.keyed key).all fun i => n.clusterAt (i / 256) (i / 64 % 4) == clusterOf core
  | none => true

/-- The pages of a group that has ended become void, and its tiles depart (03 R80, 08 R192). -/
def State.endGroup (s : State) (nid key : Nat) : State :=
  let voided (x : PoolPage) : PoolPage := if x.nid == nid && x.grp == key then { x with void := true, away := false } else x
  let mine (t : Tile) : Bool := t.nid == nid && t.grp == key && !t.orphan
  let leaving (t : Tile) : Tile := if mine t then { t with st := .departing, orphan := true } else t
  let ofCore (c : Core) : Core := { c with pages := c.pages.map fun (p, x) => (p, voided x), tiles := c.tiles.map fun (e, t) => (e, leaving t) }
  let drops := s.cores.flatMap fun (k, c) => (c.tiles.filter fun (_, t) => mine t).map fun (e, t) => (k, e, t.fut)
  let s := drops.foldl (fun s (k, e, _) => if s.groupWithin nid key k then s else s.keepTile k e) s
  let s := { s with cores := s.cores.map fun (k, c) => (k, ofCore c) }
  drops.foldl (fun s (k, e, f) => s.send .request k basePort (.censusOrder (.drop k e f))) s

/-- The warp's locks pass on (09 R216). -/
def State.passLocks (s : State) (wid : Nat) : State :=
  s.objs.foldl (fun s (o, x) =>
    if x.holder == some wid then
      (s.putObj o { x with holder := none, count := 0, lost := true }).send .request basePort basePort (.acquireWake o)
    else s) s

/-- Has every warp of the node gone and every exit release completed (16 R374)? Then its completion is on its way. -/
def State.nodeDone (s : State) (nid : Nat) : State :=
  match s.node? nid with
  | none => s
  | some n =>
    if !n.ended && n.exits = 0 && !n.places.isEmpty && n.all.all fun i => n.gone.contains i then
      s.send .request basePort basePort (.nodeCompletion nid)
    else s

/-- The scope of a group by its key (15 R352): cluster, die, or device. -/
def Node.groupScope (n : Node) (key : Nat) : Scope :=
  let ms := n.keyed key
  match ms with
  | [] => .cl
  | i :: _ => if ms.all fun j => j / 64 == i / 64 then .cl else if ms.all fun j => j / 256 == i / 256 then .die else .dev

/-- A group barrier counts the members that have gone as arrived (15 R351): is the phase complete? One that is held in a cluster is
looked at when the cluster's cycle ends. -/
def State.groupBarrierCheck (s : State) (nid : Nat) : State :=
  match s.node? nid with
  | none => s
  | some n => s.gbars.foldl (fun s (k, b) =>
      if k / 4096 == nid && !b.arrived.isEmpty && n.groupScope (k % 4096) != .cl then
        s.send .request basePort basePort (.groupBarrierCompletion nid (k % 4096))
      else s) s

/-- A load of a warp that has ended delivers nothing; its landing slots are free after its due cycle (04 R96). -/
def Load.ended (l : Load) : Load := { l with lanes := [], lines := [] }

/-- A warp leaves its slot: registers, future table and the results of its loads go with it; what it has triggered runs on (12 R275). -/
def State.dropWarp (s : State) (a : WarpAt) (w : Warp) : State :=
  let s := { s with warps := Tab.del s.warps (warpKey a), ghosts := Tab.put s.ghosts w.wid a.core }
  let s := s.updCore a.core fun c => { c with
    free := c.free + w.regs
    held := Tab.put c.held w.nid (Tab.get c.held 0 w.nid - w.regs)
    loads := c.loads.map fun l => if l.wid == w.wid && !l.atomic then l.ended else l
    memq := c.memq.filter fun m => m.wid != w.wid || (match m.act with | .load _ => false | _ => true)
    claims := c.claims.filter fun (k, _) => k != a.slot
    bars := c.bars.map fun (b, x) => (b, { x with wmask := x.wmask &&& ~~~(1#16 <<< a.slot) }) }
  s.leaveCore a.core w.nid

/-- A failed reply of a responder that ends without one (08 R203). -/
def State.failReply (s : State) (a : WarpAt) (w : Warp) : State :=
  match w.responder with
  | some r => s.send .request a.core basePort (.reply r.cen a.core r.entry none)
  | none => s

/-- The disposition of a message goes to its sender: a future's status, or a message to the peer it came from (15 R362, 18 R411). -/
def State.dispose (s : State) (m : MsgRec) (code : Nat) : State :=
  match m.sender with
  | some f => s.arriveFut (match s.node? m.snid with
      | some n => n.clusterAt m.sdie m.sclus * 4
      | none => 0) f (BitVec.ofNat 64 code)
  | none => s.emit (.peer m.sdev { m with ddev := m.sdev, sdev := Config.deviceNumber m.sdev, tag := BitVec.ofNat 32 code, payload := [] })

/-- Is a part of the node pre-empted? -/
def State.wasSaved (s : State) (nid : Nat) : Bool := s.saved.any fun g => g.nid == nid

/-- A node whose last live warp has gone while groups of it are pre-empted has no place any more: it resumes where R378 places it (17 R395,
R396). -/
def State.awayCheck (s : State) (nid : Nat) : State :=
  if s.wasSaved nid && !(s.live.any fun (_, w) => w.nid == nid && w.responder.isNone) then
    s.updNode nid fun n => if n.st == .running then { n with st := .pool } else n
  else s

/-- The launches that have not completed. -/
def State.launches (s : State) : List Node := s.nodes.filter fun n => !n.ended

/-- Is the group of a mailbox pre-empted? -/
def State.mailAway (s : State) (k : Nat) : Bool := s.saved.any fun g => mailKey g.nid g.grp == k

/-- Messages that wait for room in a mailbox's queue enter it as entries free, in order; they match no receive (15 R362). -/
def State.mailAdmits (s : State) (k : Nat) : State :=
  let x := s.mail k
  let n := 256 - x.queue.length
  if x.waiting.isEmpty || n = 0 || s.mailAway k then s
  else
    let now := x.waiting.take n
    let fresh (m : MsgRec) : MsgRec := { m with since := none }
    now.foldl (fun s m => s.dispose m 1) (s.putMail k { x with queue := x.queue ++ now.map fresh, waiting := x.waiting.drop n })

/-- Bytes of a message or a result that reach the landing path of the core of a future's warp: they land when the future is admitted (04
R98, R100; 15 R361). Those of a pre-empted warp wait with its events. -/
def State.intoPath (s : State) (core : Nat) (f : FutAt) (bytes : List (Nat × Byte)) : State :=
  let lands (k : Nat) : State := s.updCluster (clusterOf k) fun c => { c with
    outs := c.outs ++ [{ core := k, bytes := bytes, psn := [], atom := none, pinned := some f }] }
  if bytes.isEmpty then s
  else match s.findWid f.wid with
    | some (a, _) => lands a.core
    | none => if s.gone f.wid then lands core else s

/-- A warp that ends leaves its mailbox: its receives go, messages queued for it are discarded, those that wait are dropped with
code 3 (15 R362). The entries of its receives are free from an admission on. -/
def State.dropMail (s : State) (core : Nat) (w : Warp) : State :=
  let toMe (m : MsgRec) : Bool := m.nid == w.nid && m.ddie == w.die && m.dclus == w.clus && m.dwarp == w.warp
  let mine (r : RecvRec) : Bool := r.fut.wid == w.wid
  let lost := s.mails.flatMap fun (_, x) => x.waiting.filter toMe
  let posts := s.mails.flatMap fun (_, x) => x.posts.filter mine
  let without (x : Mail) : Mail := { x with
    posts := x.posts.filter (!mine ·), queue := x.queue.filter (!toMe ·), waiting := x.waiting.filter (!toMe ·) }
  let s := { s with mails := s.mails.map fun (k, x) => (k, without x) }
  let s := posts.foldl (fun s r => s.arriveFut core r.fut 5 (.block core [] true)) s
  let s := lost.foldl (fun s m => s.dispose m 3) s
  (s.mails.map Prod.fst).foldl State.mailAdmits s

/-- A warp has gone from its launch: groups all of whose members have gone end (16 R376). A responder is a member of none. -/
def State.leaveGroups (s : State) (w : Warp) : State := match w.responder with
  | some _ => s
  | none =>
    let s := s.updNode w.nid fun n => { n with gone := w.ix :: n.gone }
    let s := match s.node? w.nid with
      | none => s
      | some n =>
        let keys : List Nat := groupKey 252 w.die w.clus :: n.groups.map UGroup.g
        keys.eraseDups.foldl (fun s k => if (n.keyed k).contains w.ix && (n.keyed k).all fun i => n.gone.contains i then s.endGroup w.nid k else s) s
    (s.groupBarrierCheck w.nid).nodeDone w.nid

/-- The record of a launch that has completed goes with the last of its responders (08 R202). -/
def State.reap (s : State) (nid : Nat) : State :=
  if (s.live.any fun (_, w) => w.nid == nid) || s.saved.any fun g => g.warps.any fun (_, w) => w.nid == nid then s
  else { s with nodes := s.nodes.filter fun n => !(n.nid == nid && n.ended) }

/-- The end of a warp: its locks pass on, its groups are left. -/
def State.endWarp (s : State) (a : WarpAt) : State :=
  match s.warp? a with
  | none => s
  | some w => (((((s.passLocks w.wid).dropWarp a w).dropMail a.core w).leaveGroups w).awayCheck w.nid).reap w.nid

/-- The end of a warp whose group is pre-empted, as a kill ends it. -/
def State.endSaved (s : State) (a : WarpAt) (w : Warp) : State :=
  let without (g : Saved) : Saved := { g with warps := g.warps.filter fun (_, x) => x.wid != w.wid, arrived := g.arrived.filter fun (i, _) => i != w.wid }
  let s := { s with saved := (s.saved.map without).filter fun g => !g.warps.isEmpty, ghosts := Tab.put s.ghosts w.wid a.core }
  ((((s.failReply a w).passLocks w.wid).dropMail a.core w).leaveGroups w).reap w.nid

/-- A kill of one warp (17 R389): copies and tasks that are suspended end with it (04 R112, 15 R342). -/
def State.killWarp (s : State) (a : WarpAt) : State :=
  match s.warp? a with
  | none => s
  | some w => (s.failReply a w).endWarp a

/-- The copies and tasks of a warp that are suspended end, and free their slots; the tags of such copies are set (04 R111, R112; 07 R189). -/
def State.dropSuspended (s : State) (core wid : Nat) : State :=
  let ends (x : Copy) : Bool := x.fut.wid == wid && x.st != .running
  let s := s.updCore core fun c => { c with
    copies := c.copies.filter fun (_, x) => !ends x
    ctag := (c.copies.filter fun (_, x) => ends x && cwTge x.comp).foldl (fun t (_, x) => t ||| (1#64 <<< cwTag x.comp)) c.ctag }
  s.updCluster (clusterOf core) fun c => { c with tasks := c.tasks.filter fun (_, t) =>
    !(t.wid == wid && (match t.st with | .suspended _ => true | _ => false)) }

/-- Does a kill of a group by its key reach a warp: a member, which of the implicit group of a cluster is every warp of the launch there, or
a responder of a tile that the group owns (17 R389)? -/
def State.inKill (s : State) (nid key : Nat) (w : Warp) : Bool := w.nid == nid && (match w.responder with
  | some r => r.grp == key
  | none => s.homeKey w == key || (match s.node? nid with
    | some n => (n.keyed key).contains w.ix
    | none => false))

/-- A kill of a home group by its key, of its warps that are saved too, and of the responders of its tiles (17 R389). -/
def State.killGroup (s : State) (nid key cause : Nat) : State :=
  let live := s.live.filter fun (_, w) => s.inKill nid key w
  let stored := s.saved.flatMap fun g => g.warps.filter fun (_, w) => s.inKill nid key w
  let core := ((live ++ stored).head?.map fun (a, _) => a.core).getD 0
  let s := (s.updNode nid fun n => { n with killed := true }).log 6 0 core cause 0
  let s := live.foldl (fun s (a, w) => (s.dropSuspended a.core w.wid).killWarp a) s
  stored.foldl (fun s (a, w) => s.endSaved a w) s

/-! ### Traps (17 R384 to R390) -/

/-- The location word (17 R385). -/
def locWord (slot lane detail : Nat) : W64 := BitVec.ofNat 64 (slot * 2 ^ 61 + lane * 2 ^ 56 + detail % 2 ^ 56)

/-- The warp's supervisor kills what an unhandled trap kills: the responder alone, or the home group (17 R389). -/
def State.escalate (s : State) (a : WarpAt) (w : Warp) (cause : Nat) : State :=
  match w.responder with
  | some _ => ((s.dropSuspended a.core w.wid).killWarp a).log 6 0 a.core cause 0
  | none => s.killGroup w.nid (s.homeKey w) cause

/-- Where a trap's handler stands. -/
def State.handlerEntry (s : State) (w : Warp) (k : TrapKind) : W64 :=
  let pva := match s.node? w.nid with
    | some n => lrPva n.raw
    | none => 0
  match k with
  | .user | .gangAbort => w.fhnd
  | .preempt => Config.preemptEntry pva
  | .resume => Config.resumeEntry pva

/-- A warp is no longer counted as held: its claim goes ungranted, a barrier clears its wmask bit (17 R387). -/
def Core.unhold (c : Core) (slot : Nat) : Core :=
  { c with
    claims := c.claims.filter fun (k, _) => k != slot
    bars := c.bars.map fun (b, x) => (b, { x with wmask := x.wmask &&& ~~~(1#16 <<< slot) }) }

/-- The hold of a warp is withdrawn (17 R387). -/
def State.unhold (s : State) (a : WarpAt) : State :=
  (s.updCore a.core fun c => c.unhold a.slot).updWarp a fun w => { w with ctx := { w.ctx with hold := none, claimAt := none } }

/-- The state in which a handler starts (17 R388), with what is saved: the small context and the program counter to return to. -/
def Warp.enter (w : Warp) (entry : W64) (r : TrapReq) : Warp :=
  let w := w.settle
  { w with
    entering := none
    waiting := false
    blocked := false
    handler := some ⟨r, { w.ctx with pc := r.tpc }⟩
    ctx := { w.ctx with pc := entry, mask := 0xFFFFFFFF, toks := [], loop := none, hold := none, claimAt := none, skip := none } }

/-- A trap is taken: the warp issues no further bundle, a hold is withdrawn, and the handler is entered at the end of a cycle
(17 R387). A pre-emption and a gang abort keep the hold in the context (17 R394). -/
def State.takeTrap (s : State) (a : WarpAt) (r : TrapReq) : State :=
  (if r.kind == .user then s.unhold a else s.updCore a.core fun c => c.unhold a.slot).updWarp a fun w => { w with entering := some r, waiting := false, blocked := false }

/-- A trap inside a handler, or without a handler, is the supervisor's: it kills (17 R387, R389). -/
def State.mustKill (s : State) (w : Warp) (r : TrapReq) : Bool :=
  (w.handler.isSome && r.kind == .user) || (s.handlerEntry w r.kind == 0 && r.kind != .resume)

/-- May the trap that a warp takes be entered at the end of the present cycle: no result is pending (17 R387)? -/
def State.mayEnter (s : State) (a : WarpAt) (w : Warp) : Bool := match w.entering with
  | none => false
  | some r => s.mustKill w r || w.drained (s.lcycOf a.core)

/-- The entry into a handler: the small context is saved and the handler's state set; or the kill (17 R387 to R389). -/
def State.enterTrap (s : State) (a : WarpAt) : State :=
  match s.warp? a with
  | none => s
  | some w => match w.entering with
    | none => s
    | some r =>
      if !s.mayEnter a w then s
      else if s.mustKill w r then s.escalate a w r.cause
      else (s.updCore a.core fun c => c.unhold a.slot).putWarp a (w.enter (s.handlerEntry w r.kind) r)

/-- A fault at the bundle the warp would issue, precise: nothing of the bundle has taken effect (17 R386). -/
def State.raiseTrap (s : State) (a : WarpAt) (cause : Nat) (info : W64) : State :=
  match s.warp? a with
  | none => s
  | some w => s.takeTrap a ⟨.user, cause, info, w.ctx.pc⟩

/-- The poison fault at the first read of a result that came from poisoned sectors: later reads give what the port holds (17 R398). -/
def State.raisePoison (s : State) (a : WarpAt) (u : Un) (info : W64) : State :=
  (s.updWarp a fun w => { w with ctx := w.ctx.putPort u { w.ctx.port u with psn := 0, npsn := 0 } }).raiseTrap a 0x15 info

/-- A fault after a walker read that a slice refuses, since it lies in no window, with its entry in the error log (01 R20). -/
def State.raiseWalk (s : State) (a : WarpAt) (pa cause : Nat) (info : W64) : State := (s.logWalk pa).raiseTrap a cause info

/-- An asynchronous trap is admitted: it waits for the open one; without one the warp takes it in its core's turn of the cycle, unless a fault of that
cycle comes first (17 R390). -/
def State.asyncTrap (s : State) (a : WarpAt) (k : TrapKind) (cause : Nat) (info : W64) : State :=
  s.updWarp a fun w => { w with asyncs := w.asyncs ++ [⟨k, cause, info, w.ctx.pc⟩] }

/-- Has the warp an asynchronous trap to take, with none open? -/
def Warp.called (w : Warp) : Bool := w.handler.isNone && w.entering.isNone && w.leaving.isNone && !w.asyncs.isEmpty

/-- The first asynchronous trap that waits is taken, to return to the bundle that the warp would issue next (17 R386). -/
def State.takeAsync (s : State) (a : WarpAt) : State := match s.warp? a with
  | none => s
  | some w => match w.asyncs with
    | [] => s
    | r :: rest => (s.putWarp a { w with asyncs := rest }).takeTrap a { r with tpc := w.ctx.pc }

/-- The return from a handler: the small context as it stands in the save, with what a handler keeps (17 R388, 12 R277). -/
def Warp.leave (w : Warp) : Warp :=
  match w.handler with
  | none => w
  | some h => { w with handler := none, units := [], ctx := { h.saved with
      futs := h.saved.futs.filter fun (e, ser) => Tab.look w.ctx.futs e == some ser } }

/-! ### Issuing one move, trigger or control operation -/

/-- What an instruction does at its issue: it waits, raises a fault, or takes effect. -/
inductive Act where
  | wait (v : Verdict)
  | fault (cause : Nat) (info : W64)
  | poison (u : Un) (info : W64)
  /-- a fault after a walker read in no window, which the base logs (01 R20) -/
  | walkRefused (pa cause : Nat) (info : W64)
  | next (s : State)

/-- Every move, trigger and control operation issues for the warp that the cursor names (05 R124, R146; 17 R386). -/
def issue (s : State) (f : Warp → Act) : Outcome State Fault Refusal :=
  match s.warp? s.cur with
  | none => .fault .noWarp
  | some w => match f w with
    | .wait v => .next { s with verdict := v }
    | .fault c i => .next { s.raiseTrap s.cur c i with verdict := .faulted c i }
    | .poison u i => .next { s.raisePoison s.cur u i with verdict := .poisoned u i }
    | .walkRefused pa c i => .next { s.raiseWalk s.cur pa c i with verdict := .walkRefused pa c i }
    | .next t => .next { t with verdict := .done }

/-- The location word of the instruction that is issuing. -/
def State.loc (s : State) (lane detail : Nat) : W64 := locWord s.mslot lane detail

/-- The cycle in which the warp at the cursor issues. -/
def State.now (s : State) : Nat := s.lcycOf s.cur.core

end Machine

end Sys2Proof
end

