-- ==== Sys2Proof/Machine/Operands.lean ====
section
/-! DEFINITION. Operand forms: guards, sources, destinations, and the operands and results of triggers
(05_core_ports_and_registers R121 to R142, 12_control_operations R258, R271, R273). -/

namespace Sys2Proof.Machine

/-- The context that a bundle's moves read: the warp's at the start of the cycle (05 R124). -/
def State.srcCtx (s : State) (w : Warp) : Ctx := match s.snap with
  | some x => x.ctx
  | none => w.ctx
def State.srcVregs (s : State) (w : Warp) : Tab (List W32) := match s.snap with
  | some x => x.vregs
  | none => w.vregs
def State.srcRings (s : State) : Tab Ring := match s.snap with
  | some x => x.rings
  | none => (s.core s.cur.core).rings

/-- The stage predicate p(8 + k) reads 1 (12 R267). -/
def Modulo.stage (l : Modulo) (k : Nat) : Bool := k < l.stages && k ≤ l.j.toNat && l.j.toNat - k < l.n.toNat

/-- A predicate as it is read: p0 the active mask, p8 to p15 stages inside a modulo loop (05 R125, R135). -/
def Ctx.pred (x : Ctx) (n : Nat) : W32 :=
  if n = 0 then x.mask
  else match x.loop with
    | some l => if n ≥ 8 then (if l.stage (n - 8) then x.mask else 0) else Tab.get x.preds 0 n
    | none => Tab.get x.preds 0 n

/-- The lanes in which a guard is true (05 R125). -/
def Ctx.guard (x : Ctx) (g : Guard) : W32 := x.mask &&& (if g.pol then ~~~(x.pred g.pred.toNat) else x.pred g.pred.toNat)

/-- The lowest-numbered lane of a mask. -/
def lowest (m : W32) : Option Nat := (List.range nLanes).find? fun i => maskBit m i

/-- The lanes of a mask, ascending. -/
def lanesIn (m : W32) : List Nat := (List.range nLanes).filter fun i => maskBit m i

/-- The physical register that a name reaches (12 R267, 10 R234). -/
def physReg (rrb : BitVec 5) (n : Nat) : Nat := if n < 224 then n else 224 + (n - 224 + 32 - rrb.toNat) % 32

/-- The 32-bit lanes of a register by its physical number. -/
def vregOf (t : Tab (List W32)) (n i : Nat) : W32 := (Tab.get t [] n).getD i 0

/-- The register-range fault of an access to vN, of vN+1 where it is wide (05 R133). -/
def rangeFault (w : Warp) (n : BitVec 8) (wide : Bool) : Option Nat :=
  let m := if wide then n.toNat + 1 else n.toNat
  if m ≥ w.regs then some m else none

/-- What reading a source gives: lanes, a wait, or a fault. -/
inductive SrcRes where
  | ok (l : Lanes)
  | wait (v : Verdict)
  | fault (cause : Nat) (info : W64)
  | poison (u : Un) (info : W64)

/-- The value of a special register in a lane (05 R136). -/
def State.special (s : State) (w : Warp) (x : Ctx) (n lane : Nat) : W64 :=
  let node := s.node? w.nid
  let num (f : Node → Nat) : W64 := match node with
    | some n => BitVec.ofNat 64 (f n)
    | none => 0
  match n with
  | 0 => BitVec.ofNat 64 lane
  | 1 => BitVec.ofNat 64 w.warp
  | 2 => BitVec.ofNat 64 (s.cur.core % 4)
  | 3 => BitVec.ofNat 64 w.clus
  | 4 => BitVec.ofNat 64 w.die
  | 5 => BitVec.ofNat 64 (dieOf s.cur.core)
  | 6 => num Node.D
  | 7 => num Node.C
  | 8 => num Node.W
  | 9 => BitVec.ofNat 64 (s.now - (s.cluster (clusterOf s.cur.core)).base)
  | 10 => BitVec.ofNat 64 (s.wtime s.cur.core)
  | 11 => x.mode
  | 12 => x.flags
  | 13 => x.mask.setWidth 64
  | 14 => match s.snap with
    | some t => t.ctag
    | none => (s.core s.cur.core).ctag
  | _ => match node with
    | some n => lrSeed n.raw
    | none => 0

/-- A port's result or secondary result as a source (05 R128, 17 R398): it waits until the lanes of the guard are ready. -/
def State.portSrc (s : State) (x : Ctx) (u : Un) (g : W32) (sec : Bool) : SrcRes :=
  let p := x.port u
  if !p.readyAt s.now && (p.pend &&& g) != 0 then .wait .waits
  else
    let q := p.seen s.now
    if !sec && (q.psn &&& g) != 0 then
      let k := (lowest (q.psn &&& g)).getD 0
      .poison u (s.loc k (laneAt q.pva k).toNat)
    else .ok (lanesOf fun i => laneAt (if sec then q.sec else q.res) i)

/-- A move's source in all lanes, given the lanes of its guard (05 R123, R128, R142; 11 R240; 12 R273). -/
def State.source (s : State) (w : Warp) (src : Src) (g : W32) (wide : Bool) : SrcRes :=
  let x := s.srcCtx w
  match src with
  | .vreg n =>
    match rangeFault w n wide with
    | some m => .fault 0x03 (s.loc 0 m)
    | none =>
      let t := s.srcVregs w
      .ok (lanesOf fun i =>
        let lo := (vregOf t (physReg x.rrb n.toNat) i).toNat
        let hi := if wide then (vregOf t (physReg x.rrb (n.toNat + 1)) i).toNat else 0
        BitVec.ofNat 64 (lo + hi * 2 ^ 32))
  | .sreg n => if g != 0 && x.watched n.toNat then .wait .admission else .ok (splat (x.sreg n.toNat))
  | .pred n => .ok (lanesOf fun i => if maskBit (x.pred n.toNat) i then 1 else 0)
  | .ring n =>
    if g == 0 then .ok (splat 0)
    else match Tab.look s.srcRings n.toNat with
      | none => .fault 0x0F (s.loc 0 n.toNat)
      | some r => match r.elems with
        | [] => .wait .neighbour
        | e :: _ => .ok (lanesOf fun i => laneAt e i)
  | .res u => if g == 0 then .ok (splat 0) else s.portSrc x u g false
  | .sec u => if g == 0 then .ok (splat 0) else s.portSrc x u g true
  | .special n => .ok (lanesOf fun i => s.special w x n.toNat i)
  | .litZ v => .ok (splat (v.setWidth 64))
  | .litS v => .ok (splat (v.signExtend 64))
  | .imm v => .ok (splat (v.signExtend 64))

/-- A move that acts: its guard's lanes and its source's value, given to what follows. -/
def State.withMove (s : State) (w : Warp) (m : Mv) (wide : Bool) (f : W32 → Lanes → Act) : Act :=
  let g := (s.srcCtx w).guard m.g
  match s.source w m.src g wide with
  | .wait v => .wait v
  | .fault c i => .fault c i
  | .poison u i => .poison u i
  | .ok l => f g l

/-- Lanes written where a mask is set. -/
def mergeLanes (g : W32) (new old : Lanes) : Lanes := lanesOf fun i => if maskBit g i then laneAt new i else laneAt old i

/-- The units whose ports are scalar destinations: scalar class and engines (05 R120, R126). -/
def unScalar (u : Un) : Bool := match u with
  | .sa | .sb | .sm | .sl | .cp | .mx | .sy | .so | .ms | .rg => true
  | _ => false

/-- What an operand port holds after a move (05 R121, R125, R126). -/
def portWrite (u : Un) (g : W32) (new old : Lanes) : Lanes :=
  if unScalar u then match lowest g with
    | some k => splat (laneAt new k)
    | none => old
  else mergeLanes g new old

def Port.setOperand (p : Port) (k : PortIx) (f : Lanes → Lanes) : Port := match k with
  | .a => { p with a := f p.a }
  | .b => { p with b := f p.b }
  | .c => { p with c := f p.c }

/-- A state in which the warp at the cursor is changed. -/
def State.setMe (s : State) (w : Warp) : State := s.putWarp s.cur w

/-- What a function gives in one lane: its result, its secondary result, the flags it sets (05 R121, R129, R132). -/
structure LaneOut where
  res : W64
  sec : W64 := 0
  fl : BitVec 8 := 0

/-- The results of a trigger: the started lanes pend until now + latency, and the flags are set at the end of that cycle. -/
def State.startUnit (s : State) (w : Warp) (u : Un) (g : W32) (lat : Nat) (res sec : Lanes) (fl : BitVec 8) : State :=
  let due := s.now + lat
  let p := (w.ctx.port u).start s.now g res sec (some due)
  s.setMe { w with
    ctx := w.ctx.putPort u p
    units := (w.units.filter fun (v, d, _) => v != u || d ≤ s.now) ++ [(u, due, fl)] }

/-- A trigger of a lane-class unit, lane by lane: the function sees the operands a, b, c and the value moved to t. -/
def State.laneTrig (s : State) (w : Warp) (u : Un) (lat : Nat) (m : Mv) (wide : Bool)
    (f : W64 → W64 → W64 → W64 → LaneOut) : Act :=
  s.withMove w m wide fun g t =>
    if g == 0 then .next s
    else
      let p := w.ctx.port u
      let outs := (List.range nLanes).map fun i => f (laneAt p.a i) (laneAt p.b i) (laneAt p.c i) (laneAt t i)
      let fl := (lanesIn g).foldl (fun x i => x ||| (match outs[i]? with | some o => o.fl | none => 0)) 0
      .next (s.startUnit w u g lat (outs.map LaneOut.res) (outs.map LaneOut.sec) fl)

/-- A trigger of a scalar-class unit (05 R126). -/
def State.scalarTrig (s : State) (w : Warp) (u : Un) (lat : Nat) (m : Mv) (wide : Bool)
    (f : W64 → W64 → W64 → W64 → LaneOut) : Act :=
  s.withMove w m wide fun g t =>
    match lowest g with
    | none => .next s
    | some k =>
      let p := w.ctx.port u
      let o := f (laneAt p.a 0) (laneAt p.b 0) (laneAt p.c 0) (laneAt t k)
      .next (s.startUnit w u 0xFFFFFFFF lat (splat o.res) (splat o.sec) o.fl)

/-- A trigger of an engine unit: operands from the lowest lane of the guard (05 R126, 04 R101); nothing fires without one. -/
def State.engineTrig (s : State) (w : Warp) (u : Un) (m : Mv) (f : Port → W64 → Nat → Act) : Act :=
  s.withMove w m false fun g t =>
    match lowest g with
    | none => .next s
    | some k => f (w.ctx.port u) (laneAt t k) k

/-- An engine's value in all 32 lanes of its result port, readable in the next cycle; the secondary result is 0 (05 R126, R129). -/
def Warp.engineResult (w : Warp) (now : Nat) (u : Un) (v : W64) : Warp :=
  { w with ctx := w.ctx.putPort u ((w.ctx.port u).start now 0xFFFFFFFF (splat v) (splat 0) (some (now + 1))) }

/-- An engine trigger that returns a future: it waits while the future table is full, an admission point (12 R270). -/
def State.withFuture (s : State) (w : Warp) (u : Un) (f : State → Warp → FutAt → State) : Act :=
  match w.newFuture u.code with
  | none => .wait .admission
  | some (w, h, fut) =>
    let w := w.engineResult s.now u h
    .next (f (s.setMe w) w fut)

/-- The warp passes to its next bundle; after the last slot of a modulo kernel the next initiation follows (12 R267). -/
def State.advance (s : State) (a : WarpAt) : State :=
  match s.warp? a with
  | none => s
  | some w =>
    match w.ctx.loop with
    | none => s.putWarp a { w with ctx := { w.ctx with pc := w.ctx.pc + 32 } }
    | some l =>
      if l.s + 1 < l.ii then
        s.putWarp a { w with ctx := { w.ctx with loop := some { l with s := l.s + 1 }, pc := w.ctx.pc + 32 } }
      else (s.putWarp a { w with ctx := { w.ctx with loop := some { l with s := l.ii } } }).later [.moduloInitiation a]

/-- Scalar operands are read as unsigned numbers. -/
def opA (p : Port) : Nat := (laneAt p.a 0).toNat
def opB (p : Port) : Nat := (laneAt p.b 0).toNat
def opC (p : Port) : Nat := (laneAt p.c 0).toNat

end Sys2Proof.Machine
end

