-- ==== Sys2Proof/Machine/Flags.lean ====
section
/-! DEFINITION. The exception flags, the rounding control that a trigger takes from its modifier and from `mode`, and the lane generators
(06_numbers R155, R156, R160 to R164). -/

namespace Sys2Proof.Machine

/-- Invalid (06 R163). -/
def flNv : BitVec 8 := 0x01
/-- A finite nonzero value divided by zero. -/
def flDz : BitVec 8 := 0x02
/-- Overflow. -/
def flOf : BitVec 8 := 0x04
/-- Underflow. -/
def flUf : BitVec 8 := 0x08
/-- Inexact. -/
def flNx : BitVec 8 := 0x10
/-- Clamped by saturation. -/
def flSat : BitVec 8 := 0x20
/-- An integer division by 0. -/
def flIdz : BitVec 8 := 0x40
/-- A NaN block read. -/
def flQnb : BitVec 8 := 0x80

def flIf (b : Bool) (f : BitVec 8) : BitVec 8 := if b then f else 0

/-- The rounding modes of 06 R155, in the order of their codes from 1. -/
inductive RMode where
  | rne | rtz | rup | rdn | rna | sr
  deriving DecidableEq, Repr

def RMode.ofCode : Nat → RMode
  | 2 => .rtz
  | 3 => .rup
  | 4 => .rdn
  | 5 => .rna
  | 6 => .sr
  | _ => .rne

/-- The rounding, saturation and flushing that a trigger applies. -/
structure RCtl where
  rm : RMode
  sat : Bool
  ftz : Bool
  deriving DecidableEq, Repr

/-- Modifier bits [4:0] with the default of `mode` (06 R156). -/
def rctl (mode : W64) (md : Nat) : RCtl :=
  { rm := RMode.ofCode (if md % 8 = 0 then fld mode 2 0 else md % 8)
    sat := md / 8 % 2 == 1 || bit mode 3
    ftz := md / 16 % 2 == 1 || bit mode 4 }

/-- The control of a warp's trigger. -/
def Warp.rctl (w : Warp) (md : BitVec 8) : RCtl := Machine.rctl w.ctx.mode md.toNat

/-- Does a function marked "sat" saturate (13 R289)? -/
def satOn (w : Warp) (md : BitVec 8) : Bool := bit md 3 || bit w.ctx.mode 3

/-- One draw: the 16-bit value and the generator's next state (06 R161). -/
def draw (st : W32) : Nat × W32 :=
  let x := st ^^^ (st <<< 13)
  let x := x ^^^ (x >>> 17)
  let x := x ^^^ (x <<< 5)
  (x.toNat / 65536, x)

/-- The seed of a generator from the launch seed and an id (06 R161). -/
def genSeed (seed : W64) (id : Nat) : W32 :=
  let t : W32 := BitVec.ofNat 32 (fld seed 31 0) ^^^ BitVec.ofNat 32 (fld seed 63 32) ^^^ BitVec.ofNat 32 (id * 0x9E3779B9)
  if t = 0 then 0x6D2B79F5 else t

/-- The generators of a warp at its start (06 R161). -/
def seedGens (seed : W64) (base : Nat) : List W32 := (List.range nLanes).map fun i => genSeed seed (base + i)

/-- n draws when the rounding is stochastic, none otherwise: the values, 0 in their place, and the next state. -/
def draws (rm : RMode) : Nat → W32 → List Nat × W32
  | 0, st => ([], st)
  | n + 1, st =>
    if rm = .sr then
      let d := draw st
      let r := draws rm n d.2
      (d.1 :: r.1, r.2)
    else
      let r := draws rm n st
      (0 :: r.1, r.2)

/-- A trigger of a lane unit that rounds n times in each started lane: the function sees the operands a, b, c, t and the draws
(06 R162, R164). -/
def State.roundTrig (s : State) (w : Warp) (u : Un) (lat : Nat) (t : Trig) (wide : Bool) (n : Nat)
    (f : RCtl → W64 → W64 → W64 → W64 → List Nat → LaneOut) : Act :=
  s.withMove w t.mv wide fun g v =>
    if g == 0 then .next s
    else
      let r := w.rctl t.md
      let p := w.ctx.port u
      let lane (i : Nat) : LaneOut × W32 :=
        let st := w.ctx.gens.getD i 0
        if maskBit g i then
          let d := draws r.rm n st
          (f r (laneAt p.a i) (laneAt p.b i) (laneAt p.c i) (laneAt v i) d.1, d.2)
        else (⟨0, 0, 0⟩, st)
      let outs := (List.range nLanes).map lane
      let w := { w with ctx := { w.ctx with gens := if r.rm = .sr then outs.map Prod.snd else w.ctx.gens } }
      .next (s.startUnit w u g lat (outs.map fun o => o.1.res) (outs.map fun o => o.1.sec) (outs.foldl (fun x o => x ||| o.1.fl) 0))

end Sys2Proof.Machine
end

