-- ==== Sys2Proof/Machine/Integer.lean ====
section
/-! DEFINITION. The integer functions: integer ALU, multiplier, shifter and bit unit, scalar ALU, scalar multiply and divide
(13_lane_and_scalar_functions R286 to R296, R310, R311). -/

namespace Sys2Proof.Machine

open Host (Outcome)

/-- The width of a type (13 R286). -/
def tyWidth (ty : Ty) : Nat := match ty with
  | .b64 | .s64 | .f64 => 64
  | .b8 | .s8 | .b32 | .s32 | .f32 | .f16x2 | .bf16x2 => 32
  | .f16 | .bf16 => 16
  | .e4m3 | .e5m2 => 8
  | .q4 => 4
  | .untyped => 64

/-- An operand read at the width of its type, as a plain number (13 R286). -/
def uOf (ty : Ty) (x : W64) : Nat := x.toNat % 2 ^ tyWidth ty

/-- An operand as its type means it: two's complement for `.s`, plain for `.b` (06 R150). -/
def iOf (ty : Ty) (x : W64) : Int := if ty.isSigned then signed (tyWidth ty) (uOf ty x) else (uOf ty x : Int)

/-- A number's low bits at a type's width (13 R287). -/
def wrapTo (ty : Ty) (x : Int) : W64 := BitVec.ofNat 64 (x % 2 ^ tyWidth ty).toNat

/-- The least and the greatest value of an integer format. -/
def minOf (ty : Ty) : Int := if ty.isSigned then -(2 ^ (tyWidth ty - 1)) else 0
def maxOf (ty : Ty) : Int := if ty.isSigned then 2 ^ (tyWidth ty - 1) - 1 else 2 ^ tyWidth ty - 1

/-- Does the exact value lie outside the signed range? -/
def outside (ty : Ty) (x : Int) : Bool := x < minOf ty || maxOf ty < x

/-- An exact integer reduced to its type: wrapped, or clamped with the sat flag for `.s` under saturation (13 R290). -/
def reduce (ty : Ty) (sat : Bool) (x : Int) : W64 × BitVec 8 :=
  if ty.isSigned && sat && outside ty x then (wrapTo ty (if x < 0 then minOf ty else maxOf ty), flSat)
  else (wrapTo ty x, 0)

def bool64 (b : Bool) : W64 := if b then 1 else 0

/-- A result without a secondary result or flags. -/
def plain (v : W64) : LaneOut := ⟨v, 0, 0⟩

/-- A reduced result with its secondary result. -/
def reduced (ty : Ty) (sat : Bool) (x : Int) (sec : Bool) : LaneOut :=
  let r := reduce ty sat x
  ⟨r.1, bool64 sec, r.2⟩

/-! ### The functions, on one lane's operands (13 R291, R292, R294 to R296, R310, R311) -/

def fnAdd (ty : Ty) (sat : Bool) (a t : W64) : LaneOut :=
  reduced ty sat (iOf ty a + iOf ty t) (outside ty (iOf ty a + iOf ty t))
def fnSub (ty : Ty) (sat : Bool) (a t : W64) : LaneOut :=
  reduced ty sat (iOf ty a - iOf ty t) (outside ty (iOf ty a - iOf ty t))
def fnMin (ty : Ty) (a t : W64) : LaneOut := plain (wrapTo ty (min (iOf ty a) (iOf ty t)))
def fnMax (ty : Ty) (a t : W64) : LaneOut := plain (wrapTo ty (max (iOf ty a) (iOf ty t)))
def fnAnd (ty : Ty) (a t : W64) : LaneOut := plain (wrapTo ty (uOf ty a &&& uOf ty t : Nat))
def fnOr (ty : Ty) (a t : W64) : LaneOut := plain (wrapTo ty (uOf ty a ||| uOf ty t : Nat))
def fnXor (ty : Ty) (a t : W64) : LaneOut := plain (wrapTo ty (uOf ty a ^^^ uOf ty t : Nat))
def fnAndn (ty : Ty) (a t : W64) : LaneOut := plain (wrapTo ty ((a &&& ~~~t).toNat : Int))
def fnEq (ty : Ty) (a t : W64) : LaneOut := plain (bool64 (uOf ty a == uOf ty t))
def fnNe (ty : Ty) (a t : W64) : LaneOut := plain (bool64 (uOf ty a != uOf ty t))
def fnLt (ty : Ty) (a t : W64) : LaneOut := plain (bool64 (iOf ty a < iOf ty t))
def fnLe (ty : Ty) (a t : W64) : LaneOut := plain (bool64 (iOf ty a ≤ iOf ty t))
def fnSel (ty : Ty) (a b t : W64) : LaneOut := plain (wrapTo ty (if uOf ty t != 0 then uOf ty a else uOf ty b : Nat))
def fnAbs (ty : Ty) (sat : Bool) (t : W64) : LaneOut := reduced ty sat (iOf ty t).natAbs (iOf ty t == minOf ty)
def fnNeg (ty : Ty) (sat : Bool) (t : W64) : LaneOut := reduced ty sat (-(iOf ty t)) (iOf ty t == minOf ty)
def fnMov (ty : Ty) (t : W64) : LaneOut := plain (wrapTo ty (uOf ty t : Nat))

def fnMul (ty : Ty) (sat : Bool) (a t : W64) : LaneOut := reduced ty sat (iOf ty a * iOf ty t) false
def fnMulhi (ty : Ty) (a t : W64) : LaneOut := plain (wrapTo ty ((iOf ty a * iOf ty t) / 2 ^ tyWidth ty))
def fnMad (ty : Ty) (sat : Bool) (a b t : W64) : LaneOut := reduced ty sat (iOf ty a * iOf ty b + iOf ty t) false
def fnMulw (ty : Ty) (a t : W64) : LaneOut := plain (wrapTo .b64 (iOf ty a * iOf ty t))
def fnMadw (ty : Ty) (a b t : W64) : LaneOut := plain (wrapTo .b64 (iOf ty a * iOf ty b + t.toNat))
/-- Byte n of a packed operand, signed for `.s8`. -/
def byteOf (ty : Ty) (x : W64) (n : Nat) : Int :=
  let v := x.toNat / 256 ^ n % 256
  if ty.isSigned then signed 8 v else (v : Int)
def fnDp4 (ty : Ty) (a b t : W64) : LaneOut :=
  plain (wrapTo .b32 ((uOf .b32 b : Int) + byteOf ty a 0 * byteOf ty t 0 + byteOf ty a 1 * byteOf ty t 1 + byteOf ty a 2 * byteOf ty t 2 +
    byteOf ty a 3 * byteOf ty t 3))

def fnShl (ty : Ty) (a t : W64) : LaneOut :=
  plain (if uOf ty t ≥ tyWidth ty then 0 else wrapTo ty (uOf ty a * 2 ^ uOf ty t : Nat))
def fnShr (ty : Ty) (a t : W64) : LaneOut :=
  plain (if uOf ty t ≥ tyWidth ty then 0 else wrapTo ty (uOf ty a / 2 ^ uOf ty t : Nat))
def fnSar (ty : Ty) (a t : W64) : LaneOut :=
  plain (wrapTo ty (signed (tyWidth ty) (uOf ty a) / 2 ^ min (uOf ty t) (tyWidth ty)))
def fnRol (ty : Ty) (a t : W64) : LaneOut :=
  let k := uOf ty t % tyWidth ty
  plain (wrapTo ty (uOf ty a * 2 ^ k + uOf ty a / 2 ^ (tyWidth ty - k) : Nat))
def fnRor (ty : Ty) (a t : W64) : LaneOut :=
  let k := uOf ty t % tyWidth ty
  plain (wrapTo ty (uOf ty a / 2 ^ k + uOf ty a % 2 ^ k * 2 ^ (tyWidth ty - k) : Nat))
def bitsSet (ty : Ty) (t : W64) : List Nat := (List.range (tyWidth ty)).filter fun k => t.toNat / 2 ^ k % 2 == 1
def fnPopc (ty : Ty) (t : W64) : LaneOut := plain (BitVec.ofNat 64 (bitsSet ty t).length)
def fnClz (ty : Ty) (t : W64) : LaneOut := plain (BitVec.ofNat 64 (match (bitsSet ty t).getLast? with
  | some k => tyWidth ty - 1 - k
  | none => tyWidth ty))
def fnCtz (ty : Ty) (t : W64) : LaneOut := plain (BitVec.ofNat 64 (match (bitsSet ty t).head? with
  | some k => k
  | none => tyWidth ty))
def fnBrev (ty : Ty) (t : W64) : LaneOut :=
  plain (BitVec.ofNat 64 ((bitsSet ty t).map fun k => 2 ^ (tyWidth ty - 1 - k)).sum)

/-- The length of a field clipped to the word, 0 where there is none (13 R295). -/
def clip (ty : Ty) (pos len : Nat) : Nat := if pos ≥ tyWidth ty then 0 else min len (tyWidth ty - pos)
def fnBfx (ty : Ty) (a b t : W64) : LaneOut :=
  let len := clip ty (uOf ty b) (uOf ty t)
  plain (BitVec.ofNat 64 (if len = 0 then 0 else uOf ty a / 2 ^ uOf ty b % 2 ^ len))
def fnBfxs (ty : Ty) (a b t : W64) : LaneOut :=
  let len := clip ty (uOf ty b) (uOf ty t)
  plain (if len = 0 then 0 else wrapTo ty (signed len (uOf ty a / 2 ^ uOf ty b % 2 ^ len)))
def fnBfi (ty : Ty) (a b c t : W64) : LaneOut :=
  let pos := uOf ty c
  let len := clip ty pos (uOf ty t)
  plain (BitVec.ofNat 64 (if len = 0 then uOf ty a
    else uOf ty a - uOf ty a / 2 ^ pos % 2 ^ len * 2 ^ pos + uOf ty b % 2 ^ len * 2 ^ pos))
/-- The bytes chosen by 4-bit selectors (13 R296). -/
def fnPerm (ty : Ty) (a b t : W64) : LaneOut :=
  let n := tyWidth ty / 8
  let table (k : Nat) : Nat := if k < n then a.toNat / 256 ^ k % 256 else b.toNat / 256 ^ (k - n) % 256
  let sel (k : Nat) : Nat := t.toNat / 16 ^ k % 16
  plain (BitVec.ofNat 64 ((List.range n).map fun k =>
    (if n = 4 then (if sel k ≥ 8 then 0 else table (sel k)) else table (sel k)) * 256 ^ k).sum)

/-- Quotient truncated toward zero, remainder with the sign of the dividend, and the flag of a zero divisor (13 R311). -/
def divRem (ty : Ty) (a t : W64) : W64 × W64 × BitVec 8 :=
  if t = 0 then (0xFFFFFFFFFFFFFFFF, a, flIdz)
  else (wrapTo ty ((iOf ty a).tdiv (iOf ty t)), wrapTo ty ((iOf ty a).tmod (iOf ty t)), 0)
def fnDiv (ty : Ty) (a t : W64) : LaneOut := ⟨(divRem ty a t).1, (divRem ty a t).2.1, (divRem ty a t).2.2⟩
def fnRem (ty : Ty) (a t : W64) : LaneOut := ⟨(divRem ty a t).2.1, (divRem ty a t).1, (divRem ty a t).2.2⟩

/-! ### Integer ALU, ia and ib: latency 1 (05 R120, 13 R291) -/

/-- `add` of ia and ib (13 R291). -/
def execIaAdd (u : Which) (ty : Ty) (t : Trig) (s : State) : Outcome State Fault Refusal :=
  issue s fun w => s.laneTrig w (u.pick .ia .ib) 1 t.mv ty.is64 fun a _ _ x => fnAdd ty (satOn w t.md) a x

/-- `sub` of ia and ib (13 R291). -/
def execIaSub (u : Which) (ty : Ty) (t : Trig) (s : State) : Outcome State Fault Refusal :=
  issue s fun w => s.laneTrig w (u.pick .ia .ib) 1 t.mv ty.is64 fun a _ _ x => fnSub ty (satOn w t.md) a x

/-- `min` of ia and ib (13 R291). -/
def execIaMin (u : Which) (ty : Ty) (t : Trig) (s : State) : Outcome State Fault Refusal :=
  issue s fun w => s.laneTrig w (u.pick .ia .ib) 1 t.mv ty.is64 fun a _ _ x => fnMin ty a x

/-- `max` of ia and ib (13 R291). -/
def execIaMax (u : Which) (ty : Ty) (t : Trig) (s : State) : Outcome State Fault Refusal :=
  issue s fun w => s.laneTrig w (u.pick .ia .ib) 1 t.mv ty.is64 fun a _ _ x => fnMax ty a x

/-- `and` of ia and ib (13 R291). -/
def execIaAnd (u : Which) (ty : Ty) (t : Trig) (s : State) : Outcome State Fault Refusal :=
  issue s fun w => s.laneTrig w (u.pick .ia .ib) 1 t.mv ty.is64 fun a _ _ x => fnAnd ty a x

/-- `or` of ia and ib (13 R291). -/
def execIaOr (u : Which) (ty : Ty) (t : Trig) (s : State) : Outcome State Fault Refusal :=
  issue s fun w => s.laneTrig w (u.pick .ia .ib) 1 t.mv ty.is64 fun a _ _ x => fnOr ty a x

/-- `xor` of ia and ib (13 R291). -/
def execIaXor (u : Which) (ty : Ty) (t : Trig) (s : State) : Outcome State Fault Refusal :=
  issue s fun w => s.laneTrig w (u.pick .ia .ib) 1 t.mv ty.is64 fun a _ _ x => fnXor ty a x

/-- `andn` of ia and ib (13 R291). -/
def execIaAndn (u : Which) (ty : Ty) (t : Trig) (s : State) : Outcome State Fault Refusal :=
  issue s fun w => s.laneTrig w (u.pick .ia .ib) 1 t.mv ty.is64 fun a _ _ x => fnAndn ty a x

/-- `eq` of ia and ib (13 R291). -/
def execIaEq (u : Which) (ty : Ty) (t : Trig) (s : State) : Outcome State Fault Refusal :=
  issue s fun w => s.laneTrig w (u.pick .ia .ib) 1 t.mv ty.is64 fun a _ _ x => fnEq ty a x

/-- `ne` of ia and ib (13 R291). -/
def execIaNe (u : Which) (ty : Ty) (t : Trig) (s : State) : Outcome State Fault Refusal :=
  issue s fun w => s.laneTrig w (u.pick .ia .ib) 1 t.mv ty.is64 fun a _ _ x => fnNe ty a x

/-- `lt` of ia and ib (13 R291). -/
def execIaLt (u : Which) (ty : Ty) (t : Trig) (s : State) : Outcome State Fault Refusal :=
  issue s fun w => s.laneTrig w (u.pick .ia .ib) 1 t.mv ty.is64 fun a _ _ x => fnLt ty a x

/-- `le` of ia and ib (13 R291). -/
def execIaLe (u : Which) (ty : Ty) (t : Trig) (s : State) : Outcome State Fault Refusal :=
  issue s fun w => s.laneTrig w (u.pick .ia .ib) 1 t.mv ty.is64 fun a _ _ x => fnLe ty a x

/-- `sel` of ia and ib (13 R291). -/
def execIaSel (u : Which) (ty : Ty) (t : Trig) (s : State) : Outcome State Fault Refusal :=
  issue s fun w => s.laneTrig w (u.pick .ia .ib) 1 t.mv ty.is64 fun a b _ x => fnSel ty a b x

/-- `abs` of ia and ib (13 R291). -/
def execIaAbs (u : Which) (ty : Ty) (t : Trig) (s : State) : Outcome State Fault Refusal :=
  issue s fun w => s.laneTrig w (u.pick .ia .ib) 1 t.mv ty.is64 fun _ _ _ x => fnAbs ty (satOn w t.md) x

/-- `neg` of ia and ib (13 R291). -/
def execIaNeg (u : Which) (ty : Ty) (t : Trig) (s : State) : Outcome State Fault Refusal :=
  issue s fun w => s.laneTrig w (u.pick .ia .ib) 1 t.mv ty.is64 fun _ _ _ x => fnNeg ty (satOn w t.md) x

/-- `mov` of ia and ib (13 R291). -/
def execIaMov (u : Which) (ty : Ty) (t : Trig) (s : State) : Outcome State Fault Refusal :=
  issue s fun w => s.laneTrig w (u.pick .ia .ib) 1 t.mv ty.is64 fun _ _ _ x => fnMov ty x

/-! ### Integer multiplier, im: latency 3 (13 R292, R293) -/

/-- `mul` of im (13 R292). -/
def execImMul (ty : Ty) (t : Trig) (s : State) : Outcome State Fault Refusal :=
  issue s fun w => s.laneTrig w .im 3 t.mv ty.is64 fun a _ _ x => fnMul ty (satOn w t.md) a x

/-- `mulhi` of im (13 R292). -/
def execImMulhi (ty : Ty) (t : Trig) (s : State) : Outcome State Fault Refusal :=
  issue s fun w => s.laneTrig w .im 3 t.mv ty.is64 fun a _ _ x => fnMulhi ty a x

/-- `mad` of im (13 R292). -/
def execImMad (ty : Ty) (t : Trig) (s : State) : Outcome State Fault Refusal :=
  issue s fun w => s.laneTrig w .im 3 t.mv ty.is64 fun a b _ x => fnMad ty (satOn w t.md) a b x

/-- `mulw` of im (13 R292). -/
def execMulw (ty : Ty) (t : Trig) (s : State) : Outcome State Fault Refusal :=
  issue s fun w => s.laneTrig w .im 3 t.mv ty.is64 fun a _ _ x => fnMulw ty a x

/-- `madw` of im (13 R292). -/
def execMadw (ty : Ty) (t : Trig) (s : State) : Outcome State Fault Refusal :=
  issue s fun w => s.laneTrig w .im 3 t.mv true fun a b _ x => fnMadw ty a b x

/-- `dp4` of im (13 R292). -/
def execDp4 (ty : Ty) (t : Trig) (s : State) : Outcome State Fault Refusal :=
  issue s fun w => s.laneTrig w .im 3 t.mv ty.is64 fun a b _ x => fnDp4 ty a b x

/-! ### Shifter and bit unit, sh: latency 1 (13 R294 to R296) -/

/-- `shl` of sh (13 R294). -/
def execShShl (ty : Ty) (t : Trig) (s : State) : Outcome State Fault Refusal :=
  issue s fun w => s.laneTrig w .sh 1 t.mv ty.is64 fun a _ _ x => fnShl ty a x

/-- `shr` of sh (13 R294). -/
def execShShr (ty : Ty) (t : Trig) (s : State) : Outcome State Fault Refusal :=
  issue s fun w => s.laneTrig w .sh 1 t.mv ty.is64 fun a _ _ x => fnShr ty a x

/-- `sar` of sh (13 R294). -/
def execShSar (ty : Ty) (t : Trig) (s : State) : Outcome State Fault Refusal :=
  issue s fun w => s.laneTrig w .sh 1 t.mv ty.is64 fun a _ _ x => fnSar ty a x

/-- `rol` of sh (13 R294). -/
def execRol (ty : Ty) (t : Trig) (s : State) : Outcome State Fault Refusal :=
  issue s fun w => s.laneTrig w .sh 1 t.mv ty.is64 fun a _ _ x => fnRol ty a x

/-- `ror` of sh (13 R294). -/
def execRor (ty : Ty) (t : Trig) (s : State) : Outcome State Fault Refusal :=
  issue s fun w => s.laneTrig w .sh 1 t.mv ty.is64 fun a _ _ x => fnRor ty a x

/-- `popc` of sh (13 R294). -/
def execPopc (ty : Ty) (t : Trig) (s : State) : Outcome State Fault Refusal :=
  issue s fun w => s.laneTrig w .sh 1 t.mv ty.is64 fun _ _ _ x => fnPopc ty x

/-- `clz` of sh (13 R294). -/
def execClz (ty : Ty) (t : Trig) (s : State) : Outcome State Fault Refusal :=
  issue s fun w => s.laneTrig w .sh 1 t.mv ty.is64 fun _ _ _ x => fnClz ty x

/-- `ctz` of sh (13 R294). -/
def execCtz (ty : Ty) (t : Trig) (s : State) : Outcome State Fault Refusal :=
  issue s fun w => s.laneTrig w .sh 1 t.mv ty.is64 fun _ _ _ x => fnCtz ty x

/-- `brev` of sh (13 R294). -/
def execBrev (ty : Ty) (t : Trig) (s : State) : Outcome State Fault Refusal :=
  issue s fun w => s.laneTrig w .sh 1 t.mv ty.is64 fun _ _ _ x => fnBrev ty x

/-- `bfx` of sh (13 R295). -/
def execBfx (ty : Ty) (t : Trig) (s : State) : Outcome State Fault Refusal :=
  issue s fun w => s.laneTrig w .sh 1 t.mv ty.is64 fun a b _ x => fnBfx ty a b x

/-- `bfxs` of sh (13 R295). -/
def execBfxs (ty : Ty) (t : Trig) (s : State) : Outcome State Fault Refusal :=
  issue s fun w => s.laneTrig w .sh 1 t.mv ty.is64 fun a b _ x => fnBfxs ty a b x

/-- `bfi` of sh (13 R295). -/
def execBfi (ty : Ty) (t : Trig) (s : State) : Outcome State Fault Refusal :=
  issue s fun w => s.laneTrig w .sh 1 t.mv ty.is64 fun a b c x => fnBfi ty a b c x

/-- `perm` of sh (13 R296). -/
def execPerm (ty : Ty) (t : Trig) (s : State) : Outcome State Fault Refusal :=
  issue s fun w => s.laneTrig w .sh 1 t.mv ty.is64 fun a b _ x => fnPerm ty a b x

/-! ### Scalar ALU, sa and sb: latency 1 (13 R310) -/

/-- `add` of sa and sb (13 R310). -/
def execSaAdd (u : Which) (ty : Ty) (t : Trig) (s : State) : Outcome State Fault Refusal :=
  issue s fun w => s.scalarTrig w (u.pick .sa .sb) 1 t.mv ty.is64 fun a _ _ x => fnAdd ty (satOn w t.md) a x

/-- `sub` of sa and sb (13 R310). -/
def execSaSub (u : Which) (ty : Ty) (t : Trig) (s : State) : Outcome State Fault Refusal :=
  issue s fun w => s.scalarTrig w (u.pick .sa .sb) 1 t.mv ty.is64 fun a _ _ x => fnSub ty (satOn w t.md) a x

/-- `min` of sa and sb (13 R310). -/
def execSaMin (u : Which) (ty : Ty) (t : Trig) (s : State) : Outcome State Fault Refusal :=
  issue s fun w => s.scalarTrig w (u.pick .sa .sb) 1 t.mv ty.is64 fun a _ _ x => fnMin ty a x

/-- `max` of sa and sb (13 R310). -/
def execSaMax (u : Which) (ty : Ty) (t : Trig) (s : State) : Outcome State Fault Refusal :=
  issue s fun w => s.scalarTrig w (u.pick .sa .sb) 1 t.mv ty.is64 fun a _ _ x => fnMax ty a x

/-- `and` of sa and sb (13 R310). -/
def execSaAnd (u : Which) (ty : Ty) (t : Trig) (s : State) : Outcome State Fault Refusal :=
  issue s fun w => s.scalarTrig w (u.pick .sa .sb) 1 t.mv ty.is64 fun a _ _ x => fnAnd ty a x

/-- `or` of sa and sb (13 R310). -/
def execSaOr (u : Which) (ty : Ty) (t : Trig) (s : State) : Outcome State Fault Refusal :=
  issue s fun w => s.scalarTrig w (u.pick .sa .sb) 1 t.mv ty.is64 fun a _ _ x => fnOr ty a x

/-- `xor` of sa and sb (13 R310). -/
def execSaXor (u : Which) (ty : Ty) (t : Trig) (s : State) : Outcome State Fault Refusal :=
  issue s fun w => s.scalarTrig w (u.pick .sa .sb) 1 t.mv ty.is64 fun a _ _ x => fnXor ty a x

/-- `andn` of sa and sb (13 R310). -/
def execSaAndn (u : Which) (ty : Ty) (t : Trig) (s : State) : Outcome State Fault Refusal :=
  issue s fun w => s.scalarTrig w (u.pick .sa .sb) 1 t.mv ty.is64 fun a _ _ x => fnAndn ty a x

/-- `eq` of sa and sb (13 R310). -/
def execSaEq (u : Which) (ty : Ty) (t : Trig) (s : State) : Outcome State Fault Refusal :=
  issue s fun w => s.scalarTrig w (u.pick .sa .sb) 1 t.mv ty.is64 fun a _ _ x => fnEq ty a x

/-- `ne` of sa and sb (13 R310). -/
def execSaNe (u : Which) (ty : Ty) (t : Trig) (s : State) : Outcome State Fault Refusal :=
  issue s fun w => s.scalarTrig w (u.pick .sa .sb) 1 t.mv ty.is64 fun a _ _ x => fnNe ty a x

/-- `lt` of sa and sb (13 R310). -/
def execSaLt (u : Which) (ty : Ty) (t : Trig) (s : State) : Outcome State Fault Refusal :=
  issue s fun w => s.scalarTrig w (u.pick .sa .sb) 1 t.mv ty.is64 fun a _ _ x => fnLt ty a x

/-- `le` of sa and sb (13 R310). -/
def execSaLe (u : Which) (ty : Ty) (t : Trig) (s : State) : Outcome State Fault Refusal :=
  issue s fun w => s.scalarTrig w (u.pick .sa .sb) 1 t.mv ty.is64 fun a _ _ x => fnLe ty a x

/-- `sel` of sa and sb (13 R310). -/
def execSaSel (u : Which) (ty : Ty) (t : Trig) (s : State) : Outcome State Fault Refusal :=
  issue s fun w => s.scalarTrig w (u.pick .sa .sb) 1 t.mv ty.is64 fun a b _ x => fnSel ty a b x

/-- `shl` of sa and sb (13 R310). -/
def execSaShl (u : Which) (ty : Ty) (t : Trig) (s : State) : Outcome State Fault Refusal :=
  issue s fun w => s.scalarTrig w (u.pick .sa .sb) 1 t.mv ty.is64 fun a _ _ x => fnShl ty a x

/-- `shr` of sa and sb (13 R310). -/
def execSaShr (u : Which) (ty : Ty) (t : Trig) (s : State) : Outcome State Fault Refusal :=
  issue s fun w => s.scalarTrig w (u.pick .sa .sb) 1 t.mv ty.is64 fun a _ _ x => fnShr ty a x

/-- `sar` of sa and sb (13 R310). -/
def execSaSar (u : Which) (ty : Ty) (t : Trig) (s : State) : Outcome State Fault Refusal :=
  issue s fun w => s.scalarTrig w (u.pick .sa .sb) 1 t.mv ty.is64 fun a _ _ x => fnSar ty a x

/-! ### Scalar multiply and divide, sm: latency 3, and 12 for the divisions (05 R120, 13 R311) -/

/-- `mul` of sm (13 R311). -/
def execSmMul (ty : Ty) (t : Trig) (s : State) : Outcome State Fault Refusal :=
  issue s fun w => s.scalarTrig w .sm 3 t.mv ty.is64 fun a _ _ x => fnMul ty false a x

/-- `mulhi` of sm (13 R311). -/
def execSmMulhi (ty : Ty) (t : Trig) (s : State) : Outcome State Fault Refusal :=
  issue s fun w => s.scalarTrig w .sm 3 t.mv ty.is64 fun a _ _ x => fnMulhi ty a x

/-- `mad` of sm (13 R311). -/
def execSmMad (ty : Ty) (t : Trig) (s : State) : Outcome State Fault Refusal :=
  issue s fun w => s.scalarTrig w .sm 3 t.mv ty.is64 fun a b _ x => fnMad ty false a b x

/-- `div` of sm (13 R311). -/
def execDiv (ty : Ty) (t : Trig) (s : State) : Outcome State Fault Refusal :=
  issue s fun w => s.scalarTrig w .sm 12 t.mv ty.is64 fun a _ _ x => fnDiv ty a x

/-- `rem` of sm (13 R311). -/
def execRem (ty : Ty) (t : Trig) (s : State) : Outcome State Fault Refusal :=
  issue s fun w => s.scalarTrig w .sm 12 t.mv ty.is64 fun a _ _ x => fnRem ty a x

end Sys2Proof.Machine
end

