-- ==== Sys2Proof/Machine/Home.lean ====
section
/-! DEFINITION. The home of a line: the address hash (01 R22), the home copy in the LLC, the write-back buffer and memory (01 R21, R30),
windows (01 R20, 18 R408), the pools, and the gathering of tokens (02 R42, R57). -/

namespace Sys2Proof.Machine

open Host (Cell)

/-! ### Addresses (01 R20 to R23) -/

/-- The pseudo-channel and row of a line (01 R22). -/
def stackOf (line : Nat) : Nat := sliceOf line / 4
def pchOf (line : Nat) : Nat := sliceOf line % 4 * 48 + lineQ line % 48
def rowOf (line : Nat) : Nat := lineQ line / 48
def llcSet (line : Nat) : Nat := lineQ line % Config.llcSets

/-- The window that holds a physical address: 0 DRAM, n a peer, 256 the host (18 R408). -/
def windowOf (pa : Nat) : Option Nat :=
  if pa < Config.dramEnd then some 0
  else if 2 ^ 51 ≤ pa ∧ pa < 2 ^ 52 then some 256
  else if 2 ^ 48 ≤ pa ∧ pa < 2 ^ 48 + 256 * 2 ^ 40 then
    let n := (pa - 2 ^ 48) / 2 ^ 40
    if n ≥ 1 then some n else none
  else none

/-- Is the address in a window programmed for the tenant (01 R20, 18 R408)? -/
def State.inWindow (s : State) (ten pa : Nat) : Bool := match windowOf pa with
  | some n => s.windows.contains (ten * 512 + n)
  | none => false

/-! ### The home copy -/

/-- The LLC way that holds a line and its content. -/
def Slice.find (x : Slice) (line : Nat) : Option (Nat × LLine) := x.lines.find? fun (_, l) => l.line == line

def bit4 (m : BitVec 4) (k : Nat) : Bool := m.toNat / 2 ^ k % 2 == 1
def set4 (m : BitVec 4) (k : Nat) (on : Bool) : BitVec 4 := if on then m ||| (1#4 <<< k) else m &&& ~~~(1#4 <<< k)

/-- The LLC way that holds a sector, if it stands there (01 R21). -/
def Slice.held (x : Slice) (sector : Nat) : Option (Nat × LLine) := match x.find (sector / 4) with
  | some (w, l) => if !l.pending && bit4 l.valid (sector % 4) then some (w, l) else none
  | none => none

/-- The write-back that holds a sector, if it stands there (01 R30). -/
def Slice.buffered (x : Slice) (sector : Nat) : Option WbEntry := x.wb.find? fun e => e.line == sector / 4 && bit4 e.dirty (sector % 4)

/-- The home copy's byte at a physical address: in the LLC, in the write-back buffer, or in memory. -/
def State.homeByte (s : State) (pa : Nat) : Byte :=
  let x := s.slice (sliceOf (pa / 256))
  match x.held (pa / 64) with
  | some (_, l) => l.bytes.getD (pa % 256) 0
  | none => match x.buffered (pa / 64) with
    | some e => e.bytes.getD (pa % 256) 0
    | none => readCell s.mem pa

def State.homeBytes (s : State) (pa n : Nat) : List Byte := (List.range n).map fun k => s.homeByte (pa + k)

/-- The home copy's bytes of a line. -/
def State.homeLine (s : State) (line : Nat) : List Byte := s.homeBytes (line * 256) 256

/-- Is a sector's stack fenced (19 R421)? DESIGN CHOICE (log entry 72): what such a stack would hold reads as uncorrectable. -/
def State.stackLost (s : State) (sector : Nat) : Bool :=
  decide (sector * 64 < Config.dramEnd) && s.stacksFenced.contains (sliceOf (sector / 4) / 4)

/-- Is a sector of the home copy poisoned (01 R21, R25)? -/
def State.homePsn (s : State) (sector : Nat) : Bool :=
  let x := s.slice (sliceOf (sector / 4))
  match x.held sector with
  | some (_, l) => bit4 l.psn (sector % 4)
  | none => match x.buffered sector with
    | some e => bit4 e.psn (sector % 4)
    | none => s.badDram.contains sector || s.stackLost sector

def State.homePsn4 (s : State) (line : Nat) : BitVec 4 :=
  BitVec.ofNat 4 ((List.range 4).foldl (fun m k => if s.homePsn (line * 4 + k) then m + 2 ^ k else m) 0)

/-- A byte of the home copy written where it stands. -/
def State.homePut (s : State) (pa : Nat) (b : Byte) : State :=
  let n := sliceOf (pa / 256)
  let x := s.slice n
  match x.held (pa / 64) with
  | some _ => s.putSlice n { x with lines := x.lines.map fun (w, l) =>
      (w, if l.line == pa / 256 then { l with bytes := l.bytes.set (pa % 256) b, dirty := set4 l.dirty (pa / 64 % 4) true } else l) }
  | none => match x.buffered (pa / 64) with
    | some _ => s.putSlice n { x with wb := x.wb.map fun e => if e.line == pa / 256 then { e with bytes := e.bytes.set (pa % 256) b } else e }
    | none => { s with mem := writeCell s.mem pa b }

/-- Bytes written into the home copy, by offset within the line. -/
def State.homeWrite (s : State) (line : Nat) (bytes : List (Nat × Byte)) : State :=
  bytes.foldl (fun s (k, b) => s.homePut (line * 256 + k) b) s

/-- The poison bit of a home sector set or cleared, where the sector stands; the LLC's copy then differs from memory. -/
def State.setHomePsn (s : State) (sector : Nat) (on : Bool) : State :=
  let n := sliceOf (sector / 4)
  let x := s.slice n
  let k := sector % 4
  match x.held sector with
  | some _ => s.putSlice n { x with lines := x.lines.map fun (w, l) =>
      (w, if l.line == sector / 4 then { l with psn := set4 l.psn k on, dirty := if on then set4 l.dirty k true else l.dirty } else l) }
  | none => match x.buffered sector with
    | some _ => s.putSlice n { x with wb := x.wb.map fun e => if e.line == sector / 4 then { e with psn := set4 e.psn k on } else e }
    | none => { s with badDram := if on then sector :: s.badDram.filter fun y => y != sector else s.badDram.filter fun y => y != sector }

/-- Every byte of these offsets' sectors is written: those sectors are whole (17 R398). -/
def wholeSectors (bytes : List (Nat × Byte)) : List Nat :=
  (List.range 4).filter fun k => ((List.range 64).all fun j => bytes.any fun (o, _) => o == k * 64 + j)

/-- A store at the home: the bytes, and the poison of sectors written whole is cleared (17 R398). -/
def State.homeStore (s : State) (line : Nat) (bytes : List (Nat × Byte)) : State :=
  (wholeSectors bytes).foldl (fun s k => s.setHomePsn (line * 4 + k) false) (s.homeWrite line bytes)

/-! ### Pools (01 R27, 03 R80, R89) -/

def poolBytes (s : State) (sp : Space) (a n : Nat) : List Byte := match sp with
  | .pa => s.homeBytes a n
  | .slice k => readCells (s.slice k).pool a n
  | .core k => readCells (s.core k).pool a n

/-- Is an address in the window of a dead peer (18 R412)? -/
def State.deadAt (s : State) (pa : Nat) : Bool := match windowOf pa with
  | some n => 1 ≤ n && n ≤ 255 && s.deadPeers.contains n
  | none => false

/-- The byte at a place, as its home holds it; 0 in the window of a dead peer (18 R412). -/
def State.placeByte (s : State) (p : Place) : Byte := match p.space with
  | .pa => if s.deadAt p.addr then 0 else s.homeByte p.addr
  | .slice k => readCell (s.slice k).pool p.addr
  | .core k => readCell (s.core k).pool p.addr

/-- The poison of the 64-byte block of a place. -/
def State.placePsn (s : State) (p : Place) : Bool := match p.space with
  | .pa => s.deadAt p.addr || s.homePsn (p.addr / 64)
  | .slice k => (s.slice k).psn.contains (p.addr / 64)
  | .core k => (s.core k).psn.contains (p.addr / 64)

/-- Bytes written into a core's pool; blocks written whole lose their poison (17 R398). -/
def Core.poolWrite (c : Core) (bytes : List (Nat × Byte)) : Core :=
  let blocks := (bytes.map fun (a, _) => a / 64).eraseDups
  let whole := blocks.filter fun b => (List.range 64).all fun j => bytes.any fun (a, _) => a == b * 64 + j
  { c with pool := writeCells c.pool bytes, psn := c.psn.filter fun b => !whole.contains b }

def Slice.poolWrite (c : Slice) (bytes : List (Nat × Byte)) : Slice :=
  let blocks := (bytes.map fun (a, _) => a / 64).eraseDups
  let whole := blocks.filter fun b => (List.range 64).all fun j => bytes.any fun (a, _) => a == b * 64 + j
  { c with pool := writeCells c.pool bytes, psn := c.psn.filter fun b => !whole.contains b }

/-! ### Tokens gathered at the home in one transaction (02 R42, R44, R57; log entry 14) -/

def Core.sect (c : Core) (sector : Nat) : Option Sect := match Tab.look c.l1 (sector / 4) with
  | some l => l.sects[sector % 4]?
  | none => none

/-- A sector without data and without tokens is invalid (02 R40). -/
def Sect.idle (x : Sect) : Bool := !x.val && x.tok == 0

/-- A sector of an L1 line changes. A line none of whose sectors is valid leaves its way invalid: the way is free to be taken (01 R29, 03
R88). -/
def Core.putSect (c : Core) (sector : Nat) (x : Sect) : Core := match Tab.look c.l1 (sector / 4) with
  | some l =>
    let sects := l.sects.set (sector % 4) x
    if sects.all Sect.idle then { c with l1 := Tab.del c.l1 (sector / 4), recent := c.recent.filter fun y => y != sector / 4 }
    else { c with l1 := Tab.put c.l1 (sector / 4) { l with sects := sects } }
  | none => c

/-- The bytes of a sector in an L1. -/
def Core.sectBytes (c : Core) (sector : Nat) : List Byte := match Tab.look c.l1 (sector / 4) with
  | some l => (l.bytes.drop (sector % 4 * 64)).take 64
  | none => []

/-- Is a core, or a way of its SRAM, under a self-test (17 R399)? -/
def State.coreTested (s : State) (core : Nat) : Bool := s.testing.any fun r => match r with
  | .sramWay k _ | .coreLogic k => k == core
  | _ => false

/-- May the core's L1 answer now: its die is not stopped (02 R52, R54), and nothing of it is under test (17 R399)? -/
def State.answers (s : State) (core : Nat) : Bool :=
  let d := s.die (dieOf core)
  !d.leaseStop && !d.debugHold && !s.coreTested core

def sectorsIn (m : BitVec 4) : List Nat := (List.range 4).filter fun k => bit4 m k

/-- Cores whose L1 holds tokens of a sector. -/
def State.holders (s : State) (sector : Nat) : List Nat :=
  (s.cores.filter fun (_, c) => match c.sect sector with
    | some x => x.tok > 0
    | none => false).map Prod.fst

/-- One holder gives up all its tokens of a sector; the owner's dirty data goes to the home. -/
def State.takeAll (s : State) (core sector : Nat) : State :=
  let c := s.core core
  match c.sect sector with
  | none => s
  | some x =>
    let s := s.putCore core (c.putSect sector {})
    if x.own && x.dty then
      let s := s.homeWrite (sector / 4) (placed (sector % 4 * 64) (c.sectBytes sector))
      s.setHomePsn sector x.psn
    else s

/-- Is this message one of tokens for a sector? -/
def tokensOf (sector : Nat) (f : Flight) : Bool := match f.ev with
  | .tokenTransfer m => m.sector == sector
  | _ => false

/-- Are tokens of a sector on their way, or do they wait before a die that takes none in (02 R52, R54)? -/
def State.tokensMove (s : State) (sector : Nat) : Bool := s.flight.any (tokensOf sector) || s.parked.any (tokensOf sector)

/-- The core whose L1 holds the owner token of a sector. -/
def State.owner (s : State) (sector : Nat) : Option Nat :=
  (s.cores.find? fun (_, c) => match c.sect sector with
    | some x => x.own
    | none => false).map Prod.fst

/-- Is the entry locked, or an uncorrectable error to be met (02 R41, R57)? -/
def DirEntry.barred (d : DirEntry) : Bool := d.locked || d.broken

/-- The tokens of a sector that L1s hold. -/
def State.tokensHeld (s : State) (sector : Nat) : Nat :=
  (s.cores.map fun (_, c) => match c.sect sector with
    | some x => x.tok
    | none => 0).sum

/-- May all tokens be gathered now: the sector is not locked, none are on their way, every holder answers, the host holds none, and all 512
are there? No gather makes up for tokens that a message has lost (02 R38, R62). -/
def State.canGather (s : State) (sector : Nat) : Bool :=
  !(s.dirOf sector).barred && (s.holders sector).all s.answers && (s.dirOf sector).host == 0 && !s.tokensMove sector &&
    (s.dirOf sector).htok + s.tokensHeld sector == Config.nTokens

/-- May the owner be recalled now (02 R42 kind 4): the home has the owner token, or an L1 that answers? -/
def State.canRecall (s : State) (sector : Nat) : Bool :=
  !(s.dirOf sector).barred && ((s.dirOf sector).hown || (match s.owner sector with
    | some k => s.answers k
    | none => false))

/-- A back-invalidate snoop goes to a host that holds tokens (02 R42, R65), once. -/
def State.askHost (s : State) (sector : Nat) : State :=
  let d := s.dirOf sector
  if d.host == 0 || d.snooped then s else (s.putDir sector { d with snooped := true }).emit (.snoop sector)

/-- An action of the base that cannot go on now waits, and is tried again after the next tick of the almanac. -/
def State.park (s : State) (src dst : Nat) (ev : Ev) : State := { s with parked := s.parked ++ [⟨.request, src, dst, ev⟩] }

/-- The home holds every token and the current data; dmask is empty (02 R42 kinds 2 and 3). -/
def State.gather (s : State) (sector : Nat) : State :=
  ((s.holders sector).foldl (fun s c => s.takeAll c sector) s).putDir sector {}

/-- The owner sends the owner token and the data to the home and keeps its other tokens (02 R42 kind 4). -/
def State.recallOwner (s : State) (sector : Nat) : State :=
  let d := s.dirOf sector
  if d.hown then s
  else match s.owner sector with
    | none => s
    | some k =>
      let c := s.core k
      match c.sect sector with
      | none => s
      | some x =>
        let s := s.putCore k (c.putSect sector { x with own := false, dty := false, tok := x.tok - 1, val := x.val && x.tok > 1 })
        let s := if x.dty then (s.homeWrite (sector / 4) (placed (sector % 4 * 64) (c.sectBytes sector))).setHomePsn sector x.psn else s
        s.putDir sector { d with hown := true, htok := d.htok + 1 }

/-- The latest value of a sector for an engine or the host, the owner recalled (02 R42 kind 4). -/
def State.freshSector (s : State) (cls : Cls) (sector : Nat) : State := match cls with
  | .non => s
  | _ => s.recallOwner sector

/-- A write of an engine, the host or an L1 at the home of a line: coherent sectors are gathered first (02 R42 kind 2). -/
def State.writeHome (s : State) (cls : Cls) (line : Nat) (bytes : List (Nat × Byte)) : State :=
  let secs := (bytes.map fun (k, _) => line * 4 + k / 64).eraseDups
  let s := match cls with
    | .non => s
    | _ => secs.foldl State.gather s
  s.homeStore line bytes

end Sys2Proof.Machine
end

