-- ==== Sys2Proof/Machine/Far.lean ====
section
/-! DEFINITION. The memory of the host and of peers: requests that leave the package, and what a home slice has obtained of host memory
(18_host_and_fabric R405, R409, R410). -/

namespace Sys2Proof.Machine

/-- The core of a request; the host's stands beyond them. -/
def reqCore (r : HomeReq) : Nat := match r.agent with
  | .core c => c
  | .host => 256

/-- The sectors of a request by their numbers. -/
def reqSectors (r : HomeReq) : List Nat := (sectorsIn r.smask).map fun k => r.line * 4 + k

/-- Is a line in the host's window? -/
def hostLine (line : Nat) : Bool := windowOf (line * 256) == some 256

/-- Is a line in the host's or a peer's window? -/
def farLine (line : Nat) : Bool := match windowOf (line * 256) with
  | some n => n != 0
  | none => false

/-- Is the line in the window of a dead peer (18 R412)? -/
def State.deadWindow (s : State) (r : HomeReq) : Bool := match r.space, windowOf (r.line * 256) with
  | .pa, some n => 1 ≤ n && n ≤ 255 && s.deadPeers.contains n
  | _, _ => false

/-! ### Requests on their way out (18 R404, R405) -/

/-- The ports that are up (18 R402). -/
def State.portsUp (s : State) : List Nat := (s.fab.filter fun (_, p) => match p with
  | .up _ _ _ => true
  | _ => false).map Prod.fst

/-- Is a lane of a port under a self-test (17 R399)? -/
def State.portTested (s : State) (p : Nat) : Bool := s.testing.any fun r => match r with
  | .lane q _ => q == p
  | _ => false

/-- The port through which a request leaves. No more than 2,048 CXL.cache requests are outstanding at one. DESIGN CHOICE (log entry 69): the
lowest that is up and has a credit carries it, since no rule says which port does. -/
def State.portFor (s : State) (x : FarReq) : Option Nat := s.portsUp.find? fun p =>
  !s.portTested p && (!hostLine x.req.line || decide ((s.farWait.filter fun y => hostLine y.req.line && y.port == some p).length < 2048))

/-- What leaves the package for a request (18 R404, R409, R410). -/
def FarReq.asks (x : FarReq) : List Emit := match x.kind with
  | 2 => [.farWrite x.req.line x.req.bytes]
  | 3 => if x.reply.isSome then [.farWrite x.req.line x.req.bytes]
    else if hostLine x.req.line then (reqSectors x.req).map fun k => .cacheRequest k true
    else match x.req.atom with
      | some (off, wide, op, lanes) => [.peerAtomic x.req.line off wide op lanes]
      | none => []
  | 8 => (reqSectors x.req).map fun k => .cacheRequest k false
  | 9 => (reqSectors x.req).map fun k => .cacheRequest k true
  | _ => [.farRead x.req.line]

/-- One request leaves if a port can carry it. -/
def State.issueOne (s : State) (i : Nat) : State := match s.farWait[i]? with
  | none => s
  | some x =>
    if x.port.isSome then s
    else match s.portFor x with
      | none => s
      | some p => x.asks.foldl State.emit { s with farWait := s.farWait.set i { x with port := some p } }

/-- The requests that wait for credits leave as there are any, in order (18 R405). -/
def State.issueFar (s : State) : State := (List.range s.farWait.length).foldl State.issueOne s

/-- A request to the memory of the host or of a peer. -/
def State.far (s : State) (x : FarReq) : State := { s with farWait := s.farWait ++ [x] }.issueFar

/-! ### What the home slices have obtained of host memory (18 R409) -/

/-- Does a request of this kind need its sectors exclusive: a read for ownership, a write, an atomic? -/
def needsOwn (kind : Nat) : Bool := kind == 1 || kind == 2 || kind == 3

/-- Has the home a sector of host memory, exclusive where asked? -/
def State.hostHas (s : State) (own : Bool) (sector : Nat) : Bool := match Tab.look s.hostHeld sector with
  | some x => x || !own
  | none => false

/-- The sectors of a request for a cached page of host memory that the home has not obtained. -/
def State.lacks (s : State) (kind : Nat) (r : HomeReq) : List Nat :=
  if hostLine r.line && r.cls != .non then (reqSectors r).filter fun k => !s.hostHas (needsOwn kind) k else []

/-- Is a sector being obtained, exclusive where asked? -/
def State.obtaining (s : State) (own : Bool) (sector : Nat) : Bool := s.farWait.any fun x =>
  (x.kind == 9 || (x.kind == 8 && !own)) && (reqSectors x.req).contains sector

/-- The home obtains from the host what a request lacks (18 R409). -/
def State.obtain (s : State) (kind : Nat) (r : HomeReq) : State :=
  let own := needsOwn kind
  let ks := (s.lacks kind r).filter fun k => !s.obtaining own k
  if ks.isEmpty then s
  else s.far { kind := if own then 9 else 8, req := { r with agent := .host, bytes := [], atom := none, smask := ks.foldl (fun m k => set4 m (k % 4) true) 0 } }

/-- Sectors of host memory that the home no longer has. -/
def State.letGo (s : State) (ks : List Nat) : State := { s with hostHeld := ks.foldl Tab.del s.hostHeld }

/-- A write that the home has carried out in host memory commits when the host has accepted it (18 R409): is it one? -/
def State.mustAccept (_s : State) (r : HomeReq) : Bool := hostLine r.line && r.cls != .non

/-! ### Engines that read what is not cached -/

/-- Is an engine's read of a line under way, or answered? -/
def State.farReading (s : State) (line : Nat) : Bool := s.farWait.any fun x => (x.kind == 10 || x.kind == 11) && x.req.line == line

/-- An engine takes the answer to its read of a line, if it has come. -/
def State.farTake (s : State) (line : Nat) : Option State :=
  let i := s.farWait.findIdx fun x => x.kind == 11 && x.req.line == line
  if i < s.farWait.length then some { s with farWait := s.farWait.eraseIdx i } else none

end Sys2Proof.Machine
end

