-- ==== Sys2Proof/Machine/Slices.lean ====
section
/-! DEFINITION. The home slice: the answers to requests, the LLC's ways, fills, write-backs, recalls and directory errors
(01_stacks_and_base R26 to R34, 02_coherence R41, R42, R57, R61). -/

namespace Sys2Proof.Machine

/-! ### Atomic operations (14 R326, R327) -/

/-- The new value and the success bit; W is 32 or 64. -/
def atOp (op : AtOp) (wide : Bool) (m v w : Nat) : Nat × Bool :=
  let width := if wide then 64 else 32
  let lim := 2 ^ width
  match op with
  | .add => ((m + v) % lim, true)
  | .umin => (min m v, true)
  | .umax => (max m v, true)
  | .smin => (if signed width m ≤ signed width v then m else v, true)
  | .smax => (if signed width m ≤ signed width v then v else m, true)
  | .and => (m &&& v, true)
  | .or => (m ||| v, true)
  | .exch => (v, true)
  | .cas => if m = w then (v, true) else (m, false)
  | .incw => (if m ≥ w then 0 else m + 1, true)
  | .decw => (if m = 0 ∨ m > w then w else m - 1, true)
  | .addb => if m + v < lim ∧ m + v ≤ w then (m + v, true) else (m, false)

/-- The lanes of one word, in order: the word afterwards, and each lane's old value and success (14 R327). -/
def atGroup (op : AtOp) (wide : Bool) : Nat → List AtLane → Nat × List (Nat × W64 × Bool)
  | m, [] => (m, [])
  | m, l :: r =>
    let width := if wide then 64 else 32
    let o := atOp op wide m (l.v.toNat % 2 ^ width) (l.w.toNat % 2 ^ width)
    let rest := atGroup op wide o.1 r
    (rest.1, (l.lane, BitVec.ofNat 64 m, o.2) :: rest.2)

/-! ### Answers -/

/-- The answer to a request: a core's request is matched by its tag. -/
def State.answer (s : State) (src : Nat) (r : HomeReq) (data : List Byte) (psn : BitVec 4) : State := match r.agent with
  | .core c => s.send .response src c (.loadLineArrival c r.id data psn)
  | .host => s

/-- Does a message to slice n carry another incarnation than the slice holds for its sender's die (R56, R59)? -/
def State.staleAt (s : State) (n die : Nat) (inc : BitVec 16) : Bool := Tab.get (s.slice n).incs 0 die != inc

/-- A request with a stale incarnation is dropped and logged (R59); the host's carries none. -/
def State.staleFrom (s : State) (n core : Nat) (inc : BitVec 16) : Bool := core < 256 && s.staleAt n (dieOf core) inc

/-! ### Recalls (02 R57, R61) -/

/-- Dies that a bitmap names and that live. -/
def State.liveDies (s : State) (m : BitVec 16) : List Nat :=
  (List.range 16).filter fun k => m.toNat / 2 ^ k % 2 == 1 && (s.die k).powered && !(s.die k).dead

/-- A demand for all tokens goes to a die: one message to each cluster's port (01 R35). -/
def State.demands (s : State) (port die sector : Nat) (requester : Option Nat) : State :=
  (List.range 4).foldl (fun s c => s.send .forward port (16 * die + 4 * c) (.demandForAllTokens (4 * die + c) sector requester)) s

/-- A locked sector's recall goes to the live dies of its bitmap, and to the host. -/
def State.recall (s : State) (sector : Nat) : State :=
  let port := slicePort (sliceOf (sector / 4))
  let s := (s.liveDies (s.dirOf sector).dmask).foldl (fun s k => s.demands port k sector none) s
  (s.askHost sector).send .request basePort basePort (.recallTimeout sector)

/-- Is a message of the sector's tokens, or one that asks for them, on its way? -/
def aboutTokens (sector : Nat) (f : Flight) : Bool := match f.ev with
  | .tokenTransfer m => m.sector == sector
  | .demandForAllTokens _ x _ => x == sector
  | .forwardedRead _ x _ => x == sector
  | .ownerRecall _ x => x == sector
  | _ => false

/-- Does the recall still wait for a holder? -/
def State.recallOpen (s : State) (sector : Nat) : Bool :=
  (s.flight.any (aboutTokens sector)) || (s.parked.any (aboutTokens sector)) || (s.dirOf sector).host != 0 || (s.dirOf sector).snooped

/-- Is the sector system-coherent, as the requests for its line have it (R61)? A line that no way holds has all its tokens at the home. -/
def State.sysSector (s : State) (sector : Nat) : Bool := match (s.slice (sliceOf (sector / 4))).find (sector / 4) with
  | some (_, l) => l.cls == .system
  | none => false

/-- Ways of a set that may be allocated: not pinned, not fenced (01 R27). -/
def Slice.allocatable (x : Slice) : List Nat :=
  (List.range Config.nWays).filter fun k => decide (k + x.ways < Config.nWays) && !x.fencedWays.contains k

/-- A targeted self-test of a resource begins; repeated core failures of a die have none (17 R399). -/
def State.testBegins (s : State) (r : Resource) : State := match r with
  | .dieFailures _ => s
  | r => { s with testing := if s.testing.contains r then s.testing else s.testing ++ [r] }

/-- The bank that holds a sector's directory entry is tested: the way of its line (R61, 17 R399). DESIGN CHOICE (log entry 51): for a line that no
way holds, the lowest way that is sound. -/
def State.testBank (s : State) (sector : Nat) : State :=
  let n := sliceOf (sector / 4)
  s.testBegins (.llcWay n (match (s.slice n).find (sector / 4) with
    | some (w, _) => w % 16
    | none => (s.slice n).allocatable.headD 0))

/-- A single-bit error is corrected and logged; an uncorrectable one locks the sector and starts a recall of every live die and, for a
system-coherent sector, of the host, whatever the entry says of it (R61). `host` itself stays what the host holds. -/
def State.dirError (s : State) (sector : Nat) (hard : Bool) : State :=
  if hard then
    let s := s.putDir sector { s.dirOf sector with dmask := 0xFFFF, ocore := 0, locked := true, error := true, extra := false }
    let d := s.dirOf sector
    let s := if s.sysSector sector && d.host == 0 && !d.snooped then (s.putDir sector { d with snooped := true }).emit (.snoop sector) else s
    (s.testBank sector).recall sector
  else s.log 1 1 (sliceOf (sector / 4)) 0 (sector * 64)

/-! ### Tokens sent by the home (02 R42) -/

def dieBit (core : Nat) : BitVec 16 := 1#16 <<< dieOf core

/-- Tokens of a sector from the home to a core's L1, with the home data when asked. -/
def State.tokensTo (s : State) (core sector n : Nat) (own data : Bool) : State :=
  let m : TokMsg := ⟨some core, sector, n, own, if data then some (s.homeBytes (sector * 64) 64) else none, false, data && s.homePsn sector, none⟩
  s.send .response (slicePort (sliceOf (sector / 4))) core (.tokenTransfer m)

/-- Kind 0 at one sector: data and a token, or a forward to the owner. -/
def State.readSector (s : State) (core sector : Nat) : State :=
  let d := s.dirOf sector
  if d.hown then
    if d.htok ≥ 2 then
      (s.tokensTo core sector 1 false true).putDir sector { d with htok := d.htok - 1, dmask := d.dmask ||| dieBit core }
    else
      (s.tokensTo core sector 1 true true).putDir sector { d with htok := 0, hown := false, dmask := d.dmask ||| dieBit core, ocore := core }
  else (s.putDir sector { d with dmask := d.dmask ||| dieBit core }).send .forward (slicePort (sliceOf (sector / 4))) d.ocore
      (.forwardedRead d.ocore sector core)

/-- Kind 1 at one sector: the home's tokens, and a demand for all others. -/
def State.ownSector (s : State) (core sector : Nat) : State :=
  let d := s.dirOf sector
  let port := slicePort (sliceOf (sector / 4))
  let s := if d.htok > 0 then s.tokensTo core sector d.htok d.hown d.hown else s
  let s := ((List.range 16).filter fun k => d.dmask.toNat / 2 ^ k % 2 == 1).foldl
    (fun s k => s.demands port k sector (some core)) s
  let s := s.askHost sector
  let d := s.dirOf sector
  s.putDir sector { d with htok := 0, hown := false, dmask := dieBit core, ocore := core }

/-! ### The home line served (01 R33, 02 R42) -/

/-- Must a request wait: for sectors of host memory; at a locked sector; as a write or an atomic whose tokens cannot be gathered; as a copy
read whose owner cannot be recalled? -/
def State.mustWait (s : State) (kind : Nat) (r : HomeReq) : Bool :=
  !(s.lacks kind r).isEmpty || (reqSectors r).any fun x => (s.dirOf x).barred ||
    (r.cls != .non && ((kind == 2 || kind == 3) && !s.canGather x || kind == 4 && !s.canRecall x))

/-- Entries of a request's sectors that cannot be are uncorrectable errors, found as the request reads them (R41, R61). -/
def State.checkEntries (s : State) (r : HomeReq) : State :=
  (reqSectors r).foldl (fun s x => if (s.dirOf x).broken && !(s.dirOf x).locked then s.dirError x true else s) s

/-- A slice refuses a request, answers with an error, and the service firmware logs the refusal (01 R20; log entry 44). -/
def State.refusedAt (s : State) (r : HomeReq) : State :=
  (s.log 0 1 (sliceOf r.line) 0 (r.line * 256)).answer (slicePort (sliceOf r.line)) r [] 0

/-- An atomic on a word of a home line (14 R327): the bytes written, and the reply. -/
def atomicAt (line : List Byte) (x : Nat × Bool × AtOp × List AtLane) : List (Nat × Byte) × List Byte :=
  let n := if x.2.1 then 8 else 4
  let g := atGroup x.2.2.1 x.2.1 (leNat ((line.drop x.1).take n)) x.2.2.2
  (placed x.1 (leBytes n g.1), g.2.flatMap fun (y : Nat × W64 × Bool) => leBytes 8 y.2.1.toNat ++ [if y.2.2 then (1 : Byte) else 0])

/-- The bytes of the dirty sectors of a line in its way. -/
def State.dirtyBytes (s : State) (line : Nat) : List (Nat × Byte) := match (s.slice (sliceOf line)).find line with
  | some (_, l) => (sectorsIn l.dirty).flatMap fun k => placed (k * 64) ((l.bytes.drop (k * 64)).take 64)
  | none => []

/-- The answer to a write or an atomic that the home has carried out; in host memory the host has to accept it first (18 R409): what a request
without bytes wrote ahead stands in the line's dirty sectors (09 R214). -/
def State.committed (s : State) (kind : Nat) (r : HomeReq) (bytes : List (Nat × Byte)) (reply : List Byte) : State :=
  if s.mustAccept r then
    s.far { kind := kind, req := { r with bytes := if bytes.isEmpty then s.dirtyBytes r.line else bytes }, reply := some reply }
  else s.answer (slicePort (sliceOf r.line)) r reply 0

/-- The home answers a request of each kind. -/
def State.serve (s : State) (kind : Nat) (r : HomeReq) : State :=
  let port := slicePort (sliceOf r.line)
  match kind with
  | 0 => if r.cls == .non then s.answer port r (s.homeLine r.line) (s.homePsn4 r.line)
    else (reqSectors r).foldl (fun s x => s.readSector (reqCore r) x) s
  | 1 => if r.cls == .non then s.answer port r (s.homeLine r.line) (s.homePsn4 r.line)
    else (reqSectors r).foldl (fun s x => s.ownSector (reqCore r) x) s
  | 2 => (if s.deadWindow r then s
      else (sectorsIn r.psn).foldl (fun s k => s.setHomePsn (r.line * 4 + k) true) (s.writeHome r.cls r.line r.bytes)).committed 2 r r.bytes []
  | 3 => match r.atom with
    | none => s
    | some a =>
      let s := if r.cls == .non then s else (reqSectors r).foldl State.gather s
      let x := atomicAt (s.homeLine r.line) a
      (if s.deadWindow r then s else s.homeStore r.line x.1).committed 3 r x.1 x.2
  | 4 =>
    let s := (reqSectors r).foldl (fun s x => s.freshSector r.cls x) s
    s.answer port r (s.homeLine r.line) (s.homePsn4 r.line)
  | _ => if r.cls == .non then
      (if s.deadWindow r then s.answer port r (List.replicate 256 0) 0xF else s.answer port r (s.homeLine r.line) (s.homePsn4 r.line))
    else s.refusedAt r

/-! ### The slice (01 R28 to R34) -/

/-- Is a way of the slice under test (17 R399)? -/
def State.underTest (s : State) (n way : Nat) : Bool := s.testing.contains (.llcWay n way)

/-- A way becomes the most recent of its set (R29). -/
def Slice.use (x : Slice) (set way : Nat) : Slice :=
  { x with recent := Tab.put x.recent set (way :: (Tab.get x.recent [] set).filter fun k => k != way) }

/-- A way without a valid sector is invalid (R29). -/
def LLine.empty (l : LLine) : Bool := !l.pending && l.leaving.isNone && l.valid == 0

/-- The way that a line takes in a set, among those that are free to be taken: the lowest invalid one, else the victim (R29); none while all
are pending. -/
def Slice.choose (x : Slice) (set : Nat) (free : Nat → Bool) : Option Nat :=
  let at_ (k : Nat) : Option LLine := Tab.look x.lines (set * 16 + k)
  let ways := x.allocatable.filter free
  match ways.find? fun k => (at_ k).all LLine.empty with
  | some k => some k
  | none =>
    let old := (Tab.get x.recent [] set).reverse.filter fun k => ways.contains k
    let ofClass (e : EvCls) : Option Nat := old.find? fun k => match at_ k with
      | some l => !l.pending && l.leaving.isNone && l.ecls == e
      | none => false
    match ofClass .stream with
    | some k => some k
    | none => match ofClass .normal with
      | some k => some k
      | none => ofClass .keep

/-- Sectors of a line whose directory shows tokens outside the home (R44). -/
def State.awaySectors (s : State) (line : Nat) : List Nat :=
  ((List.range 4).map fun k => line * 4 + k).filter fun x => (s.dirOf x).htok != Config.nTokens || !(s.dirOf x).hown

/-- Room is made in a way: the victim's tokens are gathered, its dirty sectors go to the write-back buffer (R30, R44); none where that
has to wait. -/
def State.vacate (s : State) (n way : Nat) : Option State :=
  match Tab.look (s.slice n).lines way with
  | none => some s
  | some l =>
    let away := s.awaySectors l.line
    if !(away.all s.canGather) then none
    else
      let s := away.foldl State.gather s
      match Tab.look (s.slice n).lines way with
      | none => some s
      | some l =>
        let s := if hostLine l.line then s.letGo (((List.range 4).filter fun k => !bit4 l.dirty k).map fun k => l.line * 4 + k) else s
        if l.dirty == 0 then some (s.updSlice n fun x => { x with lines := Tab.del x.lines way })
        else if (s.slice n).wb.length ≥ 16 then none
        else
          let e : WbEntry := ⟨l.line, l.dirty, l.psn, l.bytes⟩
          let s := s.updSlice n fun x => { x with lines := Tab.del x.lines way, wb := x.wb ++ [e] }
          some (s.send .request basePort (slicePort n) (.writeBackDrain n))

/-- Does a way of the set still have to leave for a line (R44)? -/
def Slice.awaits (x : Slice) (line : Nat) : Bool := x.lines.any fun (_, l) => l.leaving == some line

/-- The way that a line may take in its set (R29), vacated; none where the request has to wait at the input. -/
def State.makeRoom (s : State) (line : Nat) : Option (State × Nat) :=
  let n := sliceOf line
  let set := llcSet line
  if (s.slice n).awaits line then none
  else match (s.slice n).choose set fun k => !s.underTest n k with
  | none => none
  | some k => (s.vacate n (set * 16 + k)).map fun t => (t, set * 16 + k)

/-- Lines that have to leave do so as soon as the tokens of all their sectors have been gathered (R44). -/
def State.leaves (s : State) (n : Nat) : State :=
  ((s.slice n).lines.filter fun (_, l) => l.leaving.isSome).foldl (fun s (w, _) => (s.vacate n w).getD s) s

/-- A request takes a way, pending with it as the first waiter (R31). -/
def State.takeWay (s : State) (w kind : Nat) (r : HomeReq) : State :=
  let n := sliceOf r.line
  let l : LLine := ⟨r.line, r.ecls, true, [⟨kind, r⟩], 0, 0, 0, [], r.cls, none⟩
  s.updSlice n fun x => ({ x with lines := Tab.put x.lines w l }).use (w / 16) (w % 16)

/-- A hit: the way becomes the most recent and takes the request's classes (R28, R29). -/
def State.hitWay (s : State) (w : Nat) (l : LLine) (r : HomeReq) : State :=
  s.updSlice (sliceOf r.line) fun x =>
    ({ x with lines := Tab.put x.lines w { l with ecls := r.ecls, cls := r.cls } }).use (llcSet r.line) (w % 16)

/-- One request at its slice: served on a hit, joined to a pending line's list, allocated, or sent to memory alone; none where it waits
at the input. DESIGN CHOICES (log entry 57): where every way of the set is pinned or fenced (R27, R29) the request is served from memory at
once; one that does not allocate and whose line stands in the write-back buffer (R30, R34) takes a bypass entry, reads that buffer, and the
line is not allocated again. -/
def State.tryAtSlice (s : State) (kind : Nat) (r : HomeReq) : Option State :=
  let n := sliceOf r.line
  let x := s.slice n
  match x.find r.line with
  | some (w, l) =>
    if l.pending then
      if l.waiters.length ≥ 32 then match r.agent with
        | .core c => if s.staleFrom n c r.inc then none else some (s.send .response (slicePort n) c (.retryReissue c r.id))
        | .host => none
      else some (s.putSlice n { x with lines := Tab.put x.lines w { l with waiters := l.waiters ++ [⟨kind, r⟩] } })
    else if l.leaving.isSome || s.mustWait kind r || s.underTest n (w % 16) then none
    else some ((s.hitWay w l r).serve kind r)
  | none =>
    if r.nllc then
      if x.bypass.length ≥ 32 then none
      else some ((s.putSlice n { x with bypass := x.bypass ++ [⟨kind, r⟩] }).send .request basePort (slicePort n) (.lineFill r.line))
    else if x.allocatable.isEmpty then
      if s.mustWait kind r then none else some (s.serve kind r)
    else (s.makeRoom r.line).map fun (s, w) => (s.takeWay w kind r).send .request basePort (slicePort n) (.lineFill r.line)

/-- The line that a request would drive out, with its way. -/
def State.victimOf (s : State) (r : HomeReq) : Option (Nat × LLine) :=
  let n := sliceOf r.line
  let x := s.slice n
  if (x.find r.line).isSome || r.nllc || x.awaits r.line then none
  else match x.choose (llcSet r.line) fun k => !s.underTest n k with
    | some k => (Tab.look x.lines (llcSet r.line * 16 + k)).map fun l => (llcSet r.line * 16 + k, l)
    | none => none

/-- A victim whose directory shows tokens outside the home cannot leave at once: its way stays pending for the request, whose line it has to
make room for, until every sector is gathered; the host is asked for the tokens that it holds (R44). -/
def State.startLeaving (s : State) (r : HomeReq) : State := match s.victimOf r with
  | some (w, l) =>
    let away := s.awaySectors l.line
    if away.isEmpty then s
    else (away.foldl State.askHost s).updSlice (sliceOf r.line) fun x => { x with lines := Tab.put x.lines w { l with leaving := some r.line } }
  | none => s

/-- The host is asked for what keeps a request waiting: tokens (R42, R65), sectors of its memory (18 R409). -/
def State.askFor (s : State) (kind : Nat) (r : HomeReq) : State :=
  let s := s.obtain kind r
  let own := if r.cls == .non then [] else (reqSectors r).filter fun x => kind == 2 || kind == 3 || (s.dirOf x).host == 2
  own.foldl State.askHost s

/-- A request waits at the input of its slice. -/
def State.atInput (s : State) (kind : Nat) (r : HomeReq) : State :=
  (s.askFor kind r).updSlice (sliceOf r.line) fun x => { x with input := x.input ++ [⟨kind, r⟩] }

/-- A request that finds no room or not its tokens waits at the input, and its victim begins to leave. -/
def State.mustQueue (s : State) (kind : Nat) (r : HomeReq) : State := (s.startLeaving r).atInput kind r

/-- The requests at a slice's input are tried in arrival order; one waits behind an earlier one to its line. -/
def State.retryInput (s : State) (n : Nat) : State :=
  let s := s.leaves n
  let q := (s.slice n).input
  if q.isEmpty then s else
  q.foldl (fun s w =>
    if (s.slice n).input.any fun e => e.req.line == w.req.line then s.updSlice n fun x => { x with input := x.input ++ [w] }
    else match s.tryAtSlice w.kind w.req with
      | some t => t
      | none => s.mustQueue w.kind w.req) (s.updSlice n fun x => { x with input := [] })

def State.retryInputs (s : State) : State := ((s.slices.filter fun (_, x) => !x.input.isEmpty).map Prod.fst).foldl State.retryInput s

/-! ### Fills and write-backs (01 R30, R33) -/

/-- A request that a fill answers, or that now waits at the input. An engine or the host, which comes last in its list, goes on by itself. -/
def State.afterFill (s : State) (e : Waiter) : State :=
  let s := s.checkEntries e.req
  if e.req.agent == .host then s
  else if ((s.slice (sliceOf e.req.line)).input.any fun y => y.req.line == e.req.line) || s.mustWait e.kind e.req then s.atInput e.kind e.req
  else s.serve e.kind e.req

/-- The order in which a fill reads the sectors: the requested one first, the others ascending from it, wrapping (01 R24). -/
def fillOrder (l : LLine) : List Nat :=
  let k := match l.waiters with
    | w :: _ => (sectorsIn w.req.smask).headD 0
    | [] => 0
  (List.range 4).map fun i => (k + i) % 4

/-- The sectors that a fill brings: all of a line, of host memory those that the home has obtained (18 R409). -/
def State.fillMask (s : State) (line : Nat) : BitVec 4 :=
  if hostLine line then (List.range 4).foldl (fun m k => set4 m k (s.hostHas false (line * 4 + k))) 0 else 0xF

/-- The pending way of a line takes the line, from memory or the write-back buffer; poison in it is logged (01 R24, R25, R30). -/
def State.fillWay (s : State) (n w : Nat) (l : LLine) : State :=
  let x := s.slice n
  let line := l.line
  let psn := s.homePsn4 line
  let dirty : BitVec 4 := match x.wb.find? (fun (e : WbEntry) => e.line == line) with
    | some e => e.dirty
    | none => 0
  let whole : LLine := ⟨line, l.ecls, false, [], s.fillMask line, dirty, psn, s.homeLine line, l.cls, none⟩
  let rest := x.wb.filter fun (e : WbEntry) => e.line != line
  let s := s.putSlice n ({ x with lines := Tab.put x.lines w whole, wb := rest }.use (w / 16) (w % 16))
  ((fillOrder l).filter fun k => bit4 psn k && bit4 whole.valid k).foldl (fun (s : State) k => s.log 5 1 n 0 (line * 256 + k * 64)) s

/-- A fill is complete: a request that went alone is answered, oldest first (such a request came before a pending way of its line, R34); else
the way holds the line and its waiters are answered in order. -/
def State.filled (s : State) (line : Nat) : State :=
  let n := sliceOf line
  let s := match (s.slice n).bypass.find? fun e => e.req.line == line with
    | some e =>
      let i := (s.slice n).bypass.findIdx fun (e : Waiter) => e.req.line == line
      (s.updSlice n fun x => { x with bypass := x.bypass.eraseIdx i }).afterFill e
    | none => match (s.slice n).find line with
      | some (w, l) => if l.pending then l.waiters.foldl State.afterFill (s.fillWay n w l) else s
      | none => s
  s.retryInput n

/-- The dirty sectors of a line go to memory in ascending order, their poison with them (R24); those of host memory go to the host, and the
home has them no longer (18 R409). -/
def State.toMemory (s : State) (e : WbEntry) : State :=
  let ks := (sectorsIn e.dirty).map fun k => e.line * 4 + k
  let s := if hostLine e.line then (s.letGo ks).emit (.farWrite e.line ((sectorsIn e.dirty).flatMap fun k => placed (k * 64) ((e.bytes.drop (k * 64)).take 64)))
    else s
  (sectorsIn e.dirty).foldl (fun s k =>
    let sec := e.line * 4 + k
    { s with
      mem := writeCells s.mem (placed (sec * 64) ((e.bytes.drop (k * 64)).take 64))
      badDram := if bit4 e.psn k then sec :: (s.badDram.filter fun y => y != sec) else s.badDram.filter fun y => y != sec }) s

/-- What a line of a way has to write back. -/
def LLine.entry (l : LLine) : WbEntry := ⟨l.line, if l.pending then 0 else l.dirty, l.psn, l.bytes⟩

/-- The first entry of the write-back buffer drains (R30). -/
def State.drainWb (s : State) (n : Nat) : State :=
  match (s.slice n).wb with
  | [] => s
  | e :: rest => ((s.updSlice n fun x => { x with wb := rest }).toMemory e).retryInput n


/-! ### Accesses of engines and of the host (01 R28 to R31; log entry 14) -/

/-- The fill of a pending line comes now, behind those of the line's requests that went alone, which came before it (01 R34). -/
def State.fillNow (s : State) (line : Nat) : State :=
  (List.range (((s.slice (sliceOf line)).bypass.filter fun e => e.req.line == line).length + 1)).foldl (fun s _ => s.filled line) s

/-- A pending way of a set (01 R30). -/
def Slice.pendingIn (x : Slice) (set : Nat) : Option LLine := (x.lines.find? fun (w, l) => w / 16 == set && l.pending).map Prod.snd

/-- A way for an access of an engine or of the host: while every way of the set is pending it waits at the input, in arrival order, and the
fills of the set come (01 R29). -/
def State.roomFor (s : State) (line : Nat) : Nat → Option (State × Nat)
  | 0 => none
  | k + 1 => match s.makeRoom line with
    | some x => some x
    | none => match (s.slice (sliceOf line)).pendingIn (llcSet line) with
      | some l => if (s.slice (sliceOf line)).awaits line then none else (s.fillNow l.line).roomFor line k
      | none => none

/-- An access of an engine or of the host comes to its line at its home slice, in one transaction: it joins the list of a pending way, whose fill comes and
answers its earlier waiters in order (01 R31, R33); it takes a way for a line that is not there; or it goes alone (01 R34). None where the
list or the bypass entries are full, a request to the line waits at the input, or the access has to wait: it is then still on its way, and no
rule orders it against requests from other ports (01 R35; log entry 14). -/
def State.reachHome (s : State) (r : HomeReq) : Option State :=
  let n := sliceOf r.line
  let blocked (s : State) : Bool := (s.slice n).input.any fun e => e.req.line == r.line
  let full := match (s.slice n).find r.line with
    | some (_, l) => l.pending && decide (l.waiters.length ≥ 32)
    | none => false
  if blocked s || full then none
  else
    let s := match (s.slice n).find r.line with
      | some (w, l) => if l.pending then
          (s.updSlice n fun x => { x with lines := Tab.put x.lines w { l with waiters := l.waiters ++ [⟨4, r⟩] } }).fillNow r.line else s
      | none => s
    if blocked s then none
    else match (s.slice n).find r.line with
      | some (w, l) => if l.leaving.isSome || s.underTest n (w % 16) then none else some (s.hitWay w l r)
      | none =>
        if r.nllc then (if (s.slice n).bypass.length ≥ 32 then none else some s)
        else if (s.slice n).allocatable.isEmpty then some s
        else (s.roomFor r.line ((s.slice n).input.length + 17)).bind fun (s, w) =>
          if blocked s then none
          else some ((s.takeWay w 4 r).fillWay n w ⟨r.line, r.ecls, true, [⟨4, r⟩], 0, 0, 0, [], r.cls, none⟩)

/-- An access of an engine or of the host comes to its line, to write it or to read it. Of host memory that is cached the home has to have the
sector; what is not cached there, or lies in a peer's window, is read there before, and written there (18 R409, R410). -/
def State.reach (s : State) (r : HomeReq) (write : Bool := false) : Option State :=
  if !farLine r.line then s.reachHome r
  else if r.nllc || !hostLine r.line then (if write || s.deadWindow r then some s else s.farTake r.line)
  else if (s.lacks (if write then 2 else 4) r).isEmpty then s.reachHome r
  else none

/-- An access to a line under a class, with its page's home and first byte. DESIGN CHOICE (log entry 73): an engine's and the host's requests,
which carry no policy word, have the eviction class stream. -/
def lineReq : Nat × Cls × Bool × Nat → HomeReq
  | (line, cls, uncached, k) => ⟨0, .host, .pa, line, set4 0 (k / 64) true, cls, uncached, .stream, 0, [], none, 0⟩

/-- Engines and the host come to several lines. None where one has to wait. -/
def State.reachAll (s : State) (l : List (Nat × Cls × Bool × Nat)) (write : Bool := false) : Option State :=
  l.foldl (fun s x => s.bind fun s => s.reach (lineReq x) write) (some s)

/-- What an access to a line of host memory or in a peer's window needs is asked for. -/
def State.askFar (s : State) (r : HomeReq) (write : Bool) : State :=
  if !farLine r.line then s
  else if r.nllc || !hostLine r.line then
    (if write || s.deadWindow r || s.farReading r.line then s else s.far { kind := 10, req := r })
  else s.obtain (if write then 2 else 4) r

/-- What keeps an engine or the host from its lines goes: the host is asked for sectors that it owns, victims begin to leave (02 R42, R44),
what lies beyond the package is asked for (18 R409, R410). -/
def State.askAhead (s : State) (sectors : List Nat) (lines : List (Nat × Cls × Bool × Nat)) (write : Bool := false) : State :=
  let owned := sectors.filter fun x => (s.dirOf x).host == 2
  lines.foldl (fun s x => let r := lineReq x; if farLine r.line && (r.nllc || !hostLine r.line) then s.askFar r write else (s.askFar r write).startLeaving r)
    (owned.foldl State.askHost s)

end Sys2Proof.Machine
end

