-- ==== Sys2Proof/Machine/Translate.lean ====
section
/-! DEFINITION. From lane to line: bounds, rights, swizzle, the page walk, residency, and the choice of the reported fault
(03_buffer_records_and_translation R69 to R84). -/

namespace Sys2Proof.Machine

/-- What a page is: class, home code, rights. -/
structure Page where
  cls : Cls
  home : Nat
  read : Bool
  write : Bool
  atomic : Bool
  deriving DecidableEq, Repr

/-- What the translation of a byte gives (03 R74 to R82). -/
inductive Tr where
  | ok (p : Place) (page : Page)
  /-- not resident; a pinned page of a pre-empted group has its place -/
  | absent (p : Option (Place × Page))
  | refused
  | void (p : Place) (page : Page)
  deriving DecidableEq, Repr

def Tr.isVoid : Tr → Bool
  | .void _ _ => true
  | _ => false
def Tr.isAbsent : Tr → Bool
  | .absent _ => true
  | _ => false
/-- The place and page that a byte has, resident or not. -/
def Tr.where? : Tr → Option (Place × Page)
  | .ok p g => some (p, g)
  | .void p g => some (p, g)
  | .absent x => x
  | .refused => none

/-- A leaf or node entry as a mapping holds it, given the entries as they stood before changes that do not count for it (03 R79). -/
def State.entryAt (s : State) (old : Tab W64) (pa : Nat) : W64 :=
  match Tab.look old pa with
  | some v => v
  | none => BitVec.ofNat 64 (leNat (s.homeBytes pa 8))

/-- What a walk finds: a leaf with its height, a page that is not resident, or a refusal. -/
inductive Walk where
  | leaf (e : W64) (height : Nat)
  | absent
  | refused
  deriving DecidableEq, Repr

/-- The walk from a node that resolves height j downward, for a segment offset x (03 R75 to R77). -/
def State.walk (s : State) (old : Tab W64) (ten x : Nat) : Nat → Nat → Walk
  | _, 0 => .refused
  | node, j + 1 =>
    let pa := node + x / 2 ^ (16 + 6 * j) % 64 * 8
    if !s.inWindow ten pa then .refused
    else
      let e := s.entryAt old pa
      if !ptValid e then .absent
      else if ptLeaf e then .leaf e j
      else if fld e 61 43 != 0 || j = 0 then .refused
      else s.walk old ten x (ptNext e) j

/-- The walker's read that lies in no window and ends a walk, if one does (01 R20). -/
def State.walkStop (s : State) (old : Tab W64) (ten x : Nat) : Nat → Nat → Option Nat
  | _, 0 => none
  | node, j + 1 =>
    let pa := node + x / 2 ^ (16 + 6 * j) % 64 * 8
    if !s.inWindow ten pa then some pa
    else
      let e := s.entryAt old pa
      if !ptValid e || ptLeaf e || fld e 61 43 != 0 || j = 0 then none else s.walkStop old ten x (ptNext e) j

/-- The walker's read in no window that the translation of a position under a record meets. -/
def State.walkBad (s : State) (old : Tab W64) (ten : Nat) (r : BufRec) (p : Nat) : Option Nat :=
  if brPg r then s.walkStop old ten p (brPbase r) (brLvl r) else none

/-- A physical address under a page: in a window, and a host or peer page as 18 R409 and R410 demand. -/
def State.physOk (s : State) (ten pa : Nat) (cls : Cls) (home : Nat) : Bool :=
  s.inWindow ten pa && (match windowOf pa with
    | some 0 => true
    | some 256 => cls == .system
    | some _ => cls == .system && home == 1
    | none => false)

/-- A byte of a pool: beyond it refused; void or away as the page's owner says (03 R74, R80, R81). -/
def State.poolTr (s : State) (home hidx a : Nat) (page : Page) : Tr :=
  if home = 2 then
    if a < (s.slice hidx).ways * 524288 then .ok ⟨.slice hidx, a⟩ page else .refused
  else
    let c := s.core hidx
    if a < c.ways * 262144 then
      match Tab.look c.pages (a / 65536) with
      | none => .void ⟨.core hidx, a⟩ page
      | some p =>
        if p.void then .void ⟨.core hidx, a⟩ page else if p.away then .absent (some (⟨.core hidx, a⟩, page)) else .ok ⟨.core hidx, a⟩ page
    else .refused

/-- A leaf's page (03 R76, R77). -/
def State.leafTr (s : State) (ten x : Nat) (e : W64) (j : Nat) : Tr :=
  let home := ptHome e
  let size := 2 ^ (16 + 6 * j)
  match clsOf (ptCls e) with
  | none => .refused
  | some cls =>
    if (cls == .system && home == 3) || fld e 46 36 != 0 then .refused
    else
      let page : Page := ⟨cls, home, ptRead e, ptWrite e, ptAtomic e⟩
      if home < 2 then
        if ptFrame e * 65536 % size != 0 then .refused
        else
          let pa := ptFrame e * 65536 + x % size
          if s.physOk ten pa cls home then .ok ⟨.pa, pa⟩ page else .refused
      else if j != 0 || (home == 2 && ptHidx e > 63) then .refused
      else s.poolTr home (ptHidx e) (ptFrame e * 65536 + x % 65536) page

/-- The byte at swizzled position p′ of a record's region, under a mapping (03 R74, R75). -/
def State.translate (s : State) (old : Tab W64) (ten : Nat) (r : BufRec) (p : Nat) : Tr :=
  if brPg r then
    match s.walk old ten p (brPbase r) (brLvl r) with
    | .leaf e j => s.leafTr ten p e j
    | .absent => .absent none
    | .refused => .refused
  else
    match clsOf (brCls r) with
    | none => .refused
    | some cls =>
      let page : Page := ⟨cls, brHome r, brRead r, brWrite r, brAtomic r⟩
      let a := brPbase r + p
      if brHome r < 2 then (if s.physOk ten a cls (brHome r) then .ok ⟨.pa, a⟩ page else .refused)
      else s.poolTr (brHome r) (brHidx r) a page

/-- The causes in the order of report: translation, class-scope, bounds, shape-placement, peer-void, residency (03 R84, 13 R312,
14 R325). -/
def causeRank (c : Nat) : Nat := match c with
  | 0x08 => 0
  | 0x0C => 1
  | 0x09 => 2
  | 0x0D => 3
  | 0x0A => 4
  | _ => 5

/-- A lane after translation. -/
inductive LaneRes where
  /-- clamped out of bounds -/
  | clamped
  | fault (cause : Nat) (va : Nat)
  /-- a page of it is not resident: its first VA, that of the first byte not resident, the VA lines it touches, and its resident bytes by
  their number within it -/
  | absent (va first : Nat) (lines : List Nat) (bytes : List (Nat × Place × Page))
  /-- its bytes' places and pages, its first VA, the VA lines it touches -/
  | at (bytes : List (Place × Page)) (va : Nat) (lines : List Nat)
  deriving DecidableEq, Repr

/-- What a function needs of a record and its pages, and whether it looks at residency. -/
structure Need where
  ok : Bool → Bool → Bool → Bool
  /-- an atomic: a misaligned element is out of bounds under every swizzle mode (14 R325) -/
  align : Bool := false

/-- The swizzled positions of an element's bytes. -/
def elemPos (r : BufRec) (p n : Nat) : List Nat := (List.range n).map fun k => swizzle r p + k

/-- Does a byte's translation lack a permission: its page's own, resident or not, void or not (03 R71)? -/
def Tr.denied (need : Need) (t : Tr) : Bool := match t with
  | .refused => true
  | _ => match t.where? with
    | some (_, g) => !need.ok g.read g.write g.atomic
    | none => false

/-- One lane's element at index a and byte offset o (03 R69 to R75): of several failures the first of 03 R84 counts. -/
def State.laneAddr (s : State) (old : Tab W64) (ten : Nat) (r : BufRec) (need : Need) (a o : Nat) : LaneRes :=
  let size := brSize r
  let p := a * brStride r + o
  let inBounds := p + size ≤ brExtent r && ((brSwm r == 0 && !need.align) || p % size == 0)
  if !inBounds then
    if brClamp r then .clamped
    else .fault 0x09 (brVbase r + (if p < brExtent r && brSwm r == 0 && p + size > brExtent r then brExtent r else swizzle r p))
  else if !need.ok (brRead r) (brWrite r) (brAtomic r) then .fault 0x08 (brVbase r + swizzle r p)
  else
    let ps := elemPos r p size
    let va := brVbase r + swizzle r p
    let lines := (ps.map fun q => (brVbase r + q) / 256).eraseDups
    let trs := ps.map fun q => (q, s.translate old ten r q)
    let bad (f : Tr → Bool) : Option Nat := (trs.find? fun (_, t) => f t).map Prod.fst
    match bad (Tr.denied need) with
    | some q => .fault 0x08 (brVbase r + q)
    | none => match bad Tr.isVoid with
      | some q => .fault 0x0A (brVbase r + q)
      | none => match bad Tr.isAbsent with
        | some q => .absent va (brVbase r + q) lines
            (((List.range trs.length).zip trs).filterMap fun (k, _, t) => match t with
              | .ok x g => some (k, x, g)
              | _ => none)
        | none => .at (trs.filterMap fun (_, t) => t.where?) va lines

def needRead : Need := ⟨fun r _ _ => r, false⟩
def needWrite : Need := ⟨fun _ w _ => w, false⟩
def needAtomic : Need := ⟨fun r _ a => r && a, true⟩
def needEither : Need := ⟨fun r w _ => r || w, false⟩

/-- The faults of the lanes: cause, lane, VA. -/
def laneFaults (l : List (Nat × LaneRes)) (residency : Bool) : List (Nat × Nat × Nat) :=
  l.filterMap fun (i, x) => match x with
    | .fault c va => some (c, i, va)
    | .absent _ first _ _ => if residency then some (0x0B, i, first) else none
    | _ => none

/-- The fault that a trigger reports: the first in the order, of the lowest lane that raises it (03 R84). -/
def firstFault : List (Nat × Nat × Nat) → Option (Nat × Nat × Nat)
  | [] => none
  | f :: r => some (r.foldl (fun b x => if causeRank x.1 < causeRank b.1 then x else b) f)

def reported (l : List (Nat × LaneRes)) (residency : Bool) : Option (Nat × Nat × Nat) := firstFault (laneFaults l residency)

/-- The mapping that a core's cluster holds: leaves as they stood before changes it has not admitted (03 R79). -/
def State.mapping (s : State) (core : Nat) : Tab W64 := (s.cluster (clusterOf core)).oldLeaves

/-- The buffer record that a trigger names, none when it is not valid (03 R66). -/
def State.bufRec (s : State) (core n : Nat) : Option BufRec :=
  let r := (s.core core).segs.getD n 0
  if brVal r then some r else none

/-- The tenant of a warp's launch. -/
def State.tenOf (s : State) (nid : Nat) : Nat := match s.node? nid with
  | some n => n.ten
  | none => 0

/-- Bytes of a record's region at a raw position, whole in pinned pages of a core (04 R102, R104): their pool offset. -/
def State.pinnedAt (s : State) (core ten : Nat) (r : BufRec) (p n : Nat) : Option Nat :=
  if p + n > brExtent r then none
  else
    let ok (k : Nat) : Option Nat := match s.translate (s.mapping core) ten r (p + k) with
      | .ok q g => if q.space == .core core && g.home == 3 then some q.addr else none
      | _ => none
    match ok 0 with
    | none => none
    | some a => if (List.range ((n + 255) / 256 + 1)).all fun k =>
        let d := min (k * 256) (n - 1)
        ok d == some (a + d) then some a else none

/-- The pool offset of the byte at a position of a record's region under a mapping, if it stands in a pinned page of the core. -/
def State.pinnedByte (s : State) (old : Tab W64) (core ten : Nat) (r : BufRec) (p : Nat) : Option Nat :=
  if !brVal r || p ≥ brExtent r then none
  else match s.translate old ten r (swizzle r p) with
    | .ok q g => if q.space == .core core && g.home == 3 then some q.addr else none
    | _ => none

/-- Positions of which each 256-byte block has one: the first of the span, and the first of every further block. -/
def blockHeads (p n : Nat) : List Nat :=
  if n = 0 then [] else (List.range ((p + n - 1) / 256 - p / 256 + 1)).map fun k => max p ((p / 256 + k) * 256)

/-- The first position of n bytes that is not in a pinned page of the core, or in one that another than the owner given holds: a page
holds whole 256-byte blocks. -/
def State.pinnedBad (s : State) (old : Tab W64) (core ten : Nat) (r : BufRec) (p n : Nat) (owner : Option (Nat × Nat)) : Option Nat :=
  let owned (a : Nat) : Bool := match owner with
    | none => true
    | some (nid, grp) => match Tab.look (s.core core).pages (a / 65536) with
      | some x => x.nid == nid && x.grp == grp
      | none => false
  match (blockHeads p n).find? fun q => match s.pinnedByte old core ten r q with
    | some a => !owned a
    | none => true with
  | some q => some q
  | none => if p + n > brExtent r then some (brExtent r) else none

/-- The shape-placement fault of a record or buffer at a position (swizzled) that is not placed as it must be; a walk on the way to it that
reads in no window is logged too (01 R20). -/
def State.placeFault (s : State) (core ten : Nat) (r : BufRec) (q : Nat) (info : W64) : Act :=
  match (if brVal r && q < brExtent r then s.walkBad (s.mapping core) ten r q else none) with
  | some pa => .walkRefused pa 0x0D info
  | none => .fault 0x0D info

/-- The pool offsets of n bytes, all in pinned pages of the core. -/
def State.pinnedSpan (s : State) (old : Tab W64) (core ten : Nat) (r : BufRec) (p n : Nat) : List Nat :=
  (List.range n).map fun k => (s.pinnedByte old core ten r (p + k)).getD 0

end Sys2Proof.Machine
end

