-- ==== Sys2Proof/Machine/Caches.lean ====
section
/-! DEFINITION. The L1 of a core, its requests to the homes, the accesses that wait in it, and releases
(02_coherence R39 to R45, 03 R88, 09 R214 to R218, 14 R316, R321, R327). -/

namespace Sys2Proof.Machine

/-! ### L1 lines (02 R39, R40, 03 R88) -/

def emptySects : List Sect := [{}, {}, {}, {}]

/-- The line becomes the most recent. -/
def Core.use (c : Core) (line : Nat) : Core := { c with recent := line :: c.recent.filter fun l => l != line }

def L1Line.sect (l : L1Line) (k : Nat) : Sect := l.sects.getD k {}

/-- May the L1 read the sector (02 R39)? -/
def readable (cls : Cls) (x : Sect) : Bool := x.val && (cls == .non || x.tok ≥ 1)
/-- May it write it? -/
def writable (cls : Cls) (x : Sect) : Bool := x.val && (cls == .non || x.tok == Config.nTokens)

def Core.sectOf (c : Core) (line k : Nat) : Sect := match Tab.look c.l1 line with
  | some l => l.sect k
  | none => {}

/-- A request of a core to a home is sent (02 R45). -/
def State.request (s : State) (core wid kind : Nat) (msg : HomeReq) (why : ReqFor) (persistent : Bool := false) : State :=
  let c := s.core core
  let id := c.nextId
  let msg := { msg with id := id, agent := .core core, inc := (s.die (dieOf core)).inc }
  let s := s.putCore core { c with nextId := id + 1, reqs := Tab.put c.reqs id ⟨wid, msg, kind, why, 0, persistent, false, s.root, false⟩ }
  let dst := match msg.space with
    | .pa => slicePort (sliceOf msg.line)
    | .slice n => slicePort n
    | .core n => n
  let peerAtom := kind == 3 && (match msg.space, windowOf (msg.line * 256) with
    | .pa, some n => 1 ≤ n && n ≤ 255
    | _, _ => false)
  let ev : Ev := match kind with
    | 0 => .readShared msg
    | 1 => .readForOwnership msg
    | 2 => .writeAtHome msg
    | 3 => if peerAtom then .peerAtomic msg else .atomicAtHome msg
    | 4 => .copyRead msg
    | _ => .uncachedRead msg
  s.send .request core dst ev

def homeReq (space : Space) (line : Nat) (smask : BitVec 4) (cls : Cls) (nllc : Bool) (ecls : EvCls) : HomeReq :=
  ⟨0, .host, space, line, smask, cls, nllc, ecls, 0, [], none, 0⟩

/-- Tokens of a sector sent to the home, with its data where they carry it (02 R43, R44). -/
def State.tokensHome (s : State) (core sector : Nat) (x : Sect) (bytes : List Byte) : State :=
  let m : TokMsg := ⟨none, sector, x.tok, x.own, if x.own then some bytes else none, x.dty, x.psn, some (dieOf core, (s.die (dieOf core)).inc)⟩
  s.send .response core (slicePort (sliceOf (sector / 4))) (.tokenTransfer m)

/-- The sectors of a line that satisfy a test, as a mask. -/
def L1Line.which (l : L1Line) (f : Sect → Bool) : BitVec 4 := (List.range 4).foldl (fun m k => if f (l.sect k) then set4 m k true else m) 0

/-- The bytes of some sectors of a line by their offsets. -/
def L1Line.bytesOf (l : L1Line) (ks : List Nat) : List (Nat × Byte) := ks.flatMap fun k => placed (k * 64) ((l.bytes.drop (k * 64)).take 64)

/-- A write-back of the dirty sectors of a non-coherent line, or of coherent ones whose tokens stay (02 R44, 09 R214): the request that
carries them; its acceptance is awaited. The home takes a coherent sector's bytes in the same step (log entry 14): the tokens may be
gathered before the request is there, and the sector's order is kept (09 R232). -/
def State.writeBack (s : State) (core wid line : Nat) : State :=
  match Tab.look (s.core core).l1 line with
  | none => s
  | some l =>
    let ds := (List.range 4).filter fun k => (l.sect k).dty
    if ds.isEmpty then s
    else
      let mask := l.which Sect.dty
      let s := s.updCore core fun c => { c with l1 := Tab.put c.l1 line { l with sects := l.sects.map fun x => { x with dty := false } } }
      match l.cls with
      | .non =>
        s.request core wid 2 { homeReq .pa line mask .non (ds.length == 4 && l.nllc) l.ecls with
          bytes := l.bytesOf ds, psn := l.which fun x => x.dty && x.psn } .write
      | cls =>
        let s := ds.foldl (fun s k => (s.homeWrite line (l.bytesOf [k])).setHomePsn (line * 4 + k) (l.sect k).psn) s
        s.request core wid 2 (homeReq .pa line 0 cls false l.ecls) .write

/-- An L1 line leaves: tokens return to the home with dirty data, dirty non-coherent sectors are written back (02 R44). -/
def State.evict (s : State) (core wid line : Nat) : State :=
  match Tab.look (s.core core).l1 line with
  | none => s
  | some l =>
    let s := if l.cls == .non then s.writeBack core wid line
      else (List.range 4).foldl (fun s k =>
        let x := l.sect k
        if x.tok > 0 then s.tokensHome core (line * 4 + k) x ((l.bytes.drop (k * 64)).take 64) else s) s
    s.updCore core fun c => { c with l1 := Tab.del c.l1 line, recent := c.recent.filter fun y => y != line }

/-- The victim of a full set, in the order of 01 R29: stream, normal, keep, the least recent of each. -/
def Core.victim (c : Core) (set : Nat) : Option Nat :=
  let mine := c.recent.reverse.filter fun l => Config.l1Set l % Config.l1Sets == set
  let ofClass (e : EvCls) : Option Nat := mine.find? fun l => match Tab.look c.l1 l with
    | some x => x.ecls == e
    | none => false
  match ofClass .stream with
  | some l => some l
  | none => match ofClass .normal with
    | some l => some l
    | none => ofClass .keep

/-- The pinned ways for a way count: from way 15 downward, fenced ways left out (03 R89). -/
def Core.pinned (c : Core) (n : Nat) : List Nat :=
  (((List.range Config.nWays).reverse).filter fun k => !c.fencedWays.contains k).take n

/-- Ways that the L1 may use: not fenced, not pinned, not about to be pinned (03 R89). -/
def Core.l1Ways (c : Core) : List Nat :=
  let n := max c.ways (c.csize.getD 0)
  (List.range Config.nWays).filter fun k => !c.fencedWays.contains k && !(c.pinned n).contains k

/-- The lines of a set. -/
def Core.inSet (c : Core) (set : Nat) : List (Nat × L1Line) := c.l1.filter fun (l, _) => Config.l1Set l % Config.l1Sets == set

/-- A line takes a way of the L1: the lowest that is free in its set, else that of the victim, which leaves; an L1 without ways holds
nothing. -/
def State.allocate (s : State) (core wid line : Nat) (cls : Cls) (ecls : EvCls) (nllc : Bool) : State :=
  match Tab.look (s.core core).l1 line with
  | some l => s.updCore core fun c => ({ c with l1 := Tab.put c.l1 line { l with ecls := ecls } }).use line
  | none =>
    let c := s.core core
    let put (s : State) (way : Nat) : State :=
      s.updCore core fun c => ({ c with l1 := Tab.put c.l1 line ⟨way, cls, ecls, emptySects, List.replicate 256 0, nllc⟩ }).use line
    let set := Config.l1Set line % Config.l1Sets
    let way := (c.l1Ways.find? fun k => (c.inSet set).all fun (_, l) => l.way != k).getD 16
    if c.l1.length < c.l1Ways.length then put s way
    else if (c.inSet set).length < c.l1Ways.length then put s way
    else match c.victim set with
      | some v => match Tab.look c.l1 v with
        | some l => put (s.evict core wid v) l.way
        | none => s
      | none => s

/-! ### Loads (04 R94 to R97) -/

def State.updLoad (s : State) (core id : Nat) (f : Load → Load) : State :=
  s.updCore core fun c => { c with loads := c.loads.map fun l => if l.id == id then f l else l }

/-- The bytes of a load's line have come. -/
def State.lineCame (s : State) (core id : Nat) (space : Space) (line : Nat) (data : List Byte) (psn : BitVec 4) : State :=
  s.updLoad core id fun l => { l with lines := l.lines.map fun x =>
    if x.space == space && x.line == line && x.data.isNone then { x with data := some data, psn := psn } else x }

/-- The old values and successes of an atomic word have come. -/
def State.oldCame (s : State) (core id : Nat) (r : List (Nat × W64 × Bool)) : State :=
  s.updLoad core id fun l => { l with old := l.old ++ r, left := l.left - 1 }

/-! ### Accesses that wait in the L1 (14 R316, R321, R328) -/

/-- The sectors of a line for which a fill is outstanding, for ownership where `own`, and is kept when it comes. -/
def Core.filling (c : Core) (line : Nat) (own : Bool) : BitVec 4 := c.reqs.foldl (fun m (_, r) =>
  if r.msg.space == .pa && r.msg.line == line && !r.stale && (match r.why with
    | .fill o => o || !own
    | _ => false) then m ||| r.msg.smask else m) 0

/-- Ask for the sectors of a line for which no fill is outstanding: a read for ownership or a read shared; a fill for a non-coherent page (14
R316, R319, R321). -/
def State.askFill (s : State) (core : Nat) (m : MemOp) (own : Bool) : State :=
  let own := own && m.cls != .non
  let mask := m.smask &&& ~~~((s.core core).filling m.line own)
  if mask == 0 then s
  else s.request core m.wid (if own then 1 else 0) (homeReq .pa m.line mask m.cls m.nllc m.ecls) (.fill own)

/-- What a fill of a non-coherent line that is under way brings is older than what its core now sends home, or than a release that it has
acquired: it is not kept (09 R215; 14 R316). -/
def Core.staleFills (c : Core) (covers : Nat → Bool) : Core :=
  let old (r : Req) : Req := match r.why with
    | .fill _ => if r.msg.space == .pa && r.msg.cls == .non && covers r.msg.line then { r with stale := true } else r
    | _ => r
  { c with reqs := c.reqs.map fun (k, r) => (k, old r) }

/-- The sector that a word stands in leaves the L1, its dirty bytes written back first (09 R231). -/
def State.dropSector (s : State) (core wid line k : Nat) : State :=
  let s := s.updCore core fun c => c.staleFills fun n => n == line
  match Tab.look (s.core core).l1 line with
  | none => s
  | some l =>
    let x := l.sect k
    let s := s.updCore core fun c => c.putSect (line * 4 + k) {}
    if x.dty then
      s.request core wid 2 { homeReq .pa line (set4 0 k true) .non false l.ecls with bytes := l.bytesOf [k], psn := if x.psn then set4 0 k true else 0 } .write
    else s

/-- Bytes of a store written into sectors of an L1 line (03 R83, 17 R398). -/
def State.writeL1 (s : State) (core : Nat) (m : MemOp) (ks : List Nat) (bytes : List (Nat × Byte)) : State :=
  match Tab.look (s.core core).l1 m.line with
  | none => s
  | some l =>
    let mine := bytes.filter fun (o, _) => ks.contains (o / 64)
    let whole := wholeSectors mine
    let sects := (List.range 4).map fun k =>
      let x := l.sect k
      if ks.contains k then { x with dty := true, psn := x.psn && !whole.contains k } else x
    let bs := mine.foldl (fun b (k, v) => b.set k v) l.bytes
    s.updCore core fun c => ({ c with l1 := Tab.put c.l1 m.line { l with ecls := m.ecls, sects := sects, bytes := bs } }).use m.line

/-- The part of an access that touches some sectors. -/
def MemOp.part (m : MemOp) (ks : List Nat) (bytes : List (Nat × Byte)) : MemOp :=
  { m with smask := ks.foldl (fun x k => set4 x k true) 0, act := .store (bytes.filter fun (o, _) => ks.contains (o / 64)) }

/-- The write of a store past the L1: its request to the home, and what waits for it (14 R321). -/
def State.storePast (s : State) (core : Nat) (m : MemOp) (bytes : List (Nat × Byte)) : State × MemOp :=
  let s := s.updCore core fun c => c.staleFills fun n => n == m.line
  let req := (s.core core).nextId
  (s.request core m.wid 2 { homeReq .pa m.line m.smask m.cls m.nllc m.ecls with bytes := bytes } .write, { m with act := .awaits req })

/-- A store is tried sector by sector: one that the L1 may write is written, one that is not present goes to the home where the store passes
the L1, and the others are asked for (14 R321). -/
def State.tryStore (s : State) (core : Nat) (m : MemOp) (past : Bool) (bytes : List (Nat × Byte)) : State × List MemOp :=
  let sec (k : Nat) : Sect := (s.core core).sectOf m.line k
  let ks := sectorsIn m.smask
  let now := ks.filter fun k => writable m.cls (sec k)
  let far := if past then ks.filter fun k => !(sec k).val else []
  let rest := ks.filter fun k => !now.contains k && !far.contains k
  let s := if now.isEmpty then s else s.writeL1 core m now bytes
  let x := if far.isEmpty then (s, []) else
    let y := s.storePast core (m.part far bytes) ((bytes.filter fun (o, _) => far.contains (o / 64)))
    (y.1, [y.2])
  if rest.isEmpty then x
  else
    let r := m.part rest bytes
    (x.1.askFill core r true, x.2 ++ [r])

/-- One access is tried: what remains of it when it must wait. One that goes past the L1 reads or writes at the home (14 R316, R321); dirty
sectors of a non-coherent line go there first. DESIGN CHOICE (log entry 58): a load or store that hits gives the line its eviction class, as
01 R28 says it of the LLC; a touch and an atomic do not. -/
def State.tryOp (s : State) (core : Nat) (m : MemOp) : State × List MemOp :=
  let c := s.core core
  let sec (k : Nat) : Sect := c.sectOf m.line k
  let ks := sectorsIn m.smask
  let past := m.nl1 || c.l1Ways.isEmpty
  match m.act with
  | .load id =>
    if ks.all fun k => readable m.cls (sec k) then
      match Tab.look c.l1 m.line with
      | some l =>
        let psn := ks.foldl (fun b k => set4 b k (l.sect k).psn) 0
        let s := s.updCore core fun c => ({ c with l1 := Tab.put c.l1 m.line { l with ecls := m.ecls } }).use m.line
        (s.lineCame core id .pa m.line l.bytes psn, [])
      | none => (s, [])
    else if past then
      let s := if m.cls == .non then s.writeBack core m.wid m.line else s
      (s.request core m.wid 4 (homeReq .pa m.line m.smask m.cls m.nllc m.ecls) (.load id), [])
    else (s.askFill core m false, [m])
  | .touch =>
    if m.nllc then (s, [])
    else if past then (s.request core m.wid 4 (homeReq .pa m.line m.smask m.cls m.nllc m.ecls) .touch, [])
    else if ks.all fun k => readable m.cls (sec k) then (s.updCore core fun c => c.use m.line, [])
    else (s.askFill core m false, [])
  | .store bytes => s.tryStore core m past bytes
  | .atomic id off wide op lanes =>
    if c.l1Ways.isEmpty then
      let req := c.nextId
      (s.request core m.wid 3 { homeReq .pa m.line m.smask m.cls m.nllc m.ecls with atom := some (off, wide, op, lanes) } (.atomic id),
        [{ m with act := .awaits req }])
    else if ks.all fun k => writable m.cls (sec k) then
      match Tab.look c.l1 m.line with
      | some l =>
        let n := if wide then 8 else 4
        let r := atGroup op wide (leNat ((l.bytes.drop off).take n)) lanes
        let bs := (placed off (leBytes n r.1)).foldl (fun b (k, v) => b.set k v) l.bytes
        let sects := (List.range 4).map fun k => if ks.contains k then { l.sect k with dty := true } else l.sect k
        let s := s.putCore core (({ c with l1 := Tab.put c.l1 m.line { l with sects := sects, bytes := bs } }).use m.line)
        (s.oldCame core id r.2, [])
      | none => (s, [])
    else (s.askFill core m true, [m])
  | .atHome id off wide op lanes =>
    let s := if m.cls == .non then s.dropSector core m.wid m.line (off / 64) else s
    let req := (s.core core).nextId
    (s.request core m.wid 3 { homeReq .pa m.line m.smask m.cls m.nllc m.ecls with atom := some (off, wide, op, lanes) } (.atomic id),
      [{ m with act := .awaits req }])
  | .awaits req => if (Tab.look c.reqs req).isSome then (s, [m]) else (s, [])

/-- The accesses that wait are tried in order; one waits behind an earlier one to its line. -/
def State.runMemq (s : State) (core : Nat) : State :=
  let q := (s.core core).memq
  let r := q.foldl (fun (acc : State × List MemOp) m =>
    if acc.2.any fun e => e.line == m.line then (acc.1, acc.2 ++ [m])
    else
      let t := acc.1.tryOp core m
      (t.1, acc.2 ++ t.2)) (s, [])
  r.1.updCore core fun c => { c with memq := r.2 }

/-! ### Releases (09 R214, R215, R218) -/

/-- Does a line lie in the region of the named records, each page by its own translation, or in every region (09 R211)? -/
def State.inRecords (s : State) (core ten : Nat) (recs : Option (List Nat)) (line : Nat) : Bool := match recs with
  | none => true
  | some rs => (rs.filterMap fun n => s.bufRec core n).any fun r =>
      if brPg r then (List.range ((brExtent r + 65535) / 65536)).any fun pg =>
        match s.translate (s.mapping core) ten r (pg * 65536) with
        | .ok q g => q.space == .pa && g.home == 0 && q.addr / 65536 == line / 256 && decide (pg * 65536 + line % 256 * 256 < brExtent r)
        | _ => false
      else brHome r == 0 && decide (brPbase r / 256 ≤ line) && decide (line * 256 < brPbase r + brExtent r)

/-- The lines of a core's L1 that a release covers. -/
def State.regionLines (s : State) (core ten : Nat) (recs : Option (List Nat)) : List Nat :=
  ((s.core core).l1.map Prod.fst).filter (s.inRecords core ten recs)

/-- The action of an acquire on some lines (09 R215): non-coherent ones leave the L1, dirty sectors written back, and what a fill under way
brings of them is not kept. -/
def State.acquireOver (s : State) (core wid : Nat) (covers : Nat → Bool) : State :=
  let s := ((s.core core).l1.filter fun (k, l) => l.cls == .non && covers k).foldl (fun s (k, _) => s.evict core wid k) s
  s.updCore core fun c => c.staleFills covers

/-- Does the release write this line's dirty sectors to the home (09 R214)? -/
def wbNeeded (sc : Scope) (l : L1Line) : Bool := match l.cls with
  | .non => true
  | _ => sc == .dev || sc == .sys

/-- Does a stage of the release still wait? -/
def State.relWaits (s : State) (core : Nat) (r : Rel) : Bool :=
  let c := s.core core
  let cl := s.cluster (clusterOf core)
  (c.memq.any fun m => r.ops.contains m.id) || (c.reqs.any fun (id, q) => r.ops.contains id && !(r.scope == .wp && q.arrived)) ||
  (cl.lands.any fun l => r.lands.contains l.id) || decide (cl.lcyc < r.after) ||
  (!r.toks.isEmpty && s.flight.any fun f => f.src == core && (match f.ev with
    | .tokenTransfer m => m.dst.isNone && r.toks.contains m.sector
    | _ => false)) ||
  (r.scope == .sys && !r.wb && s.dir.any fun (k, d) => d.snooped && (s.regionLines core (s.tenOf r.nid) r.recs).contains (k / 4))

/-- Requests of the core sent since an id was next. -/
def Core.sentSince (c : Core) (id : Nat) : List Nat := (c.reqs.map Prod.fst).filter fun k => k ≥ id

/-- The division of a core's SRAM changes to a way count: new pages are void (03 R80, R89). -/
def State.setWays (s : State) (core ways : Nat) : State :=
  s.updCore core fun c =>
    let fresh := (List.range (ways * 4)).filter fun p => p ≥ c.ways * 4
    let pages := fresh.foldl (fun t p => Tab.put t p ⟨0, 0, true, false⟩) (c.pages.filter fun (p, _) => p < ways * 4)
    { c with csize := none, ways := ways, pages := pages, pool := c.pool.filter fun (a, _) => a < ways * 262144
             psn := c.psn.filter fun b => b < ways * 4096 }

/-- Is the warp of a number one of a pre-empted group? -/
def State.isSaved (s : State) (wid : Nat) : Bool := s.saved.any fun g => g.warps.any fun (_, w) => w.wid == wid

/-- What a release does when it is complete (09 R214, R216; 08 R199, R203; 12 R275, R281; 15 R349, R352). -/
def State.relDone (s : State) (core : Nat) (r : Rel) : State := match r.act with
  | .object op => s.send .request core basePort (.releaseAtObject op)
  | .done f => s.arriveFut core f 0
  | .census it => s.send .request core basePort (.censusOrder it)
  | .reply cen k e v => s.send .request core basePort (.reply cen k e v)
  | .launch f raw ten gang bad =>
    let q := lrQueue raw
    let x := s.queue q
    let rec_ : DevRec := ⟨raw, f, ten, gang, bad⟩
    if x.device.length < 64 then s.putQueue q { x with device := x.device ++ [rec_] }
    else s.putQueue q { x with waiting := x.waiting ++ [rec_] }
  | .group nid g ix f =>
    let k := mailKey nid g
    let b := Tab.get s.gbars {} k
    let s := { s with gbars := Tab.put s.gbars k { b with arrived := b.arrived ++ [(ix, f)] } }
    if r.scope == .cl then s else s.send .request core basePort (.groupBarrierCompletion nid g)
  | .exit nid => (s.updNode nid fun n => { n with exits := n.exits - 1 }).nodeDone nid
  | .arrive _ _ => s
  | .csize f ways =>
    let v : W64 := BitVec.ofNat 64 (ways * 256)
    -- a warp that is pre-empted has left the core: the division changes at once
    if s.isSaved f.wid then (s.setWays core ways).arriveFut core f v else s.arriveFut core f v (.csize core ways)

/-- Sectors whose tokens a core has sent home and the home has not taken in. -/
def State.tokensHomeward (s : State) (core : Nat) : List Nat := s.flight.filterMap fun f => match f.ev with
  | .tokenTransfer m => if f.src == core && m.dst.isNone then some m.sector else none
  | _ => none

/-- One release is advanced as far as it goes: its write-backs, then its acquire half, then its act, none when it is complete. An
arrival on a named barrier stays until the cycle ends (15 R348, R349). -/
def State.stepRel (s : State) (core : Nat) (r : Rel) : State × Option Rel :=
  if s.relWaits core r then (s, some r)
  else
    let next := (s.core core).nextId
    let lines := s.regionLines core (s.tenOf r.nid) r.recs
    if r.wb then
      let s := lines.foldl (fun s l => match Tab.look (s.core core).l1 l with
        | some x => if wbNeeded r.scope x then s.writeBack core r.wid l else s
        | none => s) s
      -- and what left the L1, or was written back for others, while the release waited (R214)
      (s, some { r with ops := ((s.core core).reqs.filter fun (_, q) => q.why == .write).map Prod.fst, toks := s.tokensHomeward core
                        lands := [], after := 0, wb := false })
    else if r.acq then
      let s := s.acquireOver core r.wid (s.inRecords core (s.tenOf r.nid) r.recs)
      (s, some { r with ops := (s.core core).sentSince next, lands := [], after := 0, acq := false })
    else match r.act with
      | .arrive _ _ => (s, some r)
      | _ => (s.relDone core r, none)

/-- Advance a release through at most n stages. -/
def State.pushRel (core : Nat) : Nat → State × Option Rel → State × Option Rel
  | 0, x => x
  | n + 1, (s, r) => match r with
    | none => (s, none)
    | some r => State.pushRel core n (s.stepRel core r)

/-- Is it a release, or an acquire on its way to its object, that keeps the program order of its warp's releases (09 R220 to R224, RL and AQ
after RL)? What covers no region, and what acts for the warp alone, does not. -/
def Rel.ordered (r : Rel) : Bool := match r.act with
  | .done _ => r.scope != .wp && r.recs.isNone
  | .csize _ _ | .arrive _ _ => false
  | _ => true

/-- It stays behind the releases of its warp that have not taken effect. -/
def Rel.behind (r : Rel) (l : List Rel) : Bool := r.ordered && l.any fun x => x.wid == r.wid && x.ordered

/-- Every release of a core is advanced, oldest first. -/
def State.runRels (s : State) (core : Nat) : State :=
  let rs := (s.core core).rels
  let out := rs.foldl (fun (acc : State × List Rel) r =>
    if r.behind acc.2 then (acc.1, acc.2 ++ [r]) else
    let t := State.pushRel core 4 (acc.1, some r)
    (t.1, acc.2 ++ t.2.toList)) (s.updCore core fun c => { c with rels := [] }, [])
  out.1.updCore core fun c => { c with rels := out.2 ++ c.rels }

/-- The releases of every core are advanced. -/
def State.runAllRels (s : State) : State := (s.cores.filter fun (_, c) => !c.rels.isEmpty).foldl (fun s (k, _) => s.runRels k) s

/-- Accesses and releases of a core go on after an arrival. -/
def State.settleCore (s : State) (core : Nat) : State := (s.runMemq core).runRels core

/-- Was the access of a number made before the bundle that is issuing (05 R124)? -/
def State.isEarlier (s : State) (id : Nat) : Bool := match s.snap with
  | some t => decide (id < t.nextId)
  | none => true

/-- Was the lane store triggered before the bundle that is issuing? -/
def State.earlierLand (s : State) (l : Land) : Bool := s.snap.isNone || decide (l.trig < s.now)

/-- Earlier stores and atomics of a warp that have not reached the L1 or their home. -/
def State.writesOf (s : State) (core wid : Nat) : List Nat :=
  let c := s.core core
  (((c.memq.filter fun m => m.wid == wid && (match m.act with | .load _ | .touch => false | _ => true)).map MemOp.id) ++
    ((c.reqs.filter fun (_, r) => r.wid == wid && (match r.why with | .write | .atomic _ => true | _ => false)).map Prod.fst)).filter s.isEarlier

/-- Has an access of these numbers not reached its point? -/
def State.anyOpen (s : State) (core : Nat) (ids : List Nat) : Bool :=
  ids.any fun id => ((s.core core).memq.any fun m => m.id == id) || (Tab.look (s.core core).reqs id).isSome

/-- Lines of memory that an engine comes to, for `State.reachAll`. -/
def linesOf (l : List (Place × Page)) : List (Nat × Cls × Bool × Nat) :=
  (l.filterMap fun (q, g) => if q.space == .pa then some (q.addr / 256, if g.home == 0 then g.cls else Cls.non, g.home != 0, q.addr % 256 / 64 * 64) else none).eraseDups

/-- Coherent sectors among some places. -/
def coherentOf (l : List (Place × Page)) : List Nat :=
  (l.filterMap fun (q, g) => if q.space == .pa && g.home == 0 && g.cls != .non then some (q.addr / 64) else none).eraseDups

/-- The earlier operations of a warp that a release waits for: its accesses in the L1, its requests that write, its lane stores on the way,
and the last due cycle of its loads; beyond the warp, also the write-backs and tokens of its core that are on their way home, since they may
carry its writes (09 R214). -/
def State.relFor (s : State) (core wid nid : Nat) (recs : Option (List Nat)) (sc : Scope) (acq : Bool) (act : RelAct) : Rel :=
  let c := s.core core
  { wid := wid, nid := nid, recs := recs, scope := sc
    ops := s.writesOf core wid ++ (if sc == .wp then [] else ((c.reqs.filter fun (_, r) => r.wid != wid && r.why == .write).map Prod.fst).filter s.isEarlier)
    lands := ((s.cluster (clusterOf core)).lands.filter fun l => l.wid == wid && l.src == core && s.earlierLand l).map Land.id
    toks := if sc == .wp then [] else s.tokensHomeward core
    after := if sc == .wp then 0 else ((c.loads.filter fun l => l.wid == wid).map Load.due).foldl max 0
    wb := sc != .wp, acq := acq, act := act }

/-- A release enters the core and is advanced at once as far as it goes. -/
def State.addRel (s : State) (core : Nat) (r : Rel) : State :=
  (s.updCore core fun c => { c with rels := c.rels ++ [r] }).runRels core

/-- Have all earlier lane stores of the warp into core SRAM of its cluster landed (04 R98)? -/
def State.storesLanded (s : State) (core wid : Nat) : Bool :=
  !((s.cluster (clusterOf core)).lands.any fun l => l.wid == wid && l.atom.isNone && s.earlierLand l)

/-- Have its earlier lane stores and its atomics into core SRAM of its cluster landed? What ranks as a copy trigger or a task trigger waits for both
(04 R104, 07 R172, 09 R221; log entry 75). -/
def State.writesLanded (s : State) (core wid : Nat) : Bool :=
  !((s.cluster (clusterOf core)).lands.any fun l => l.wid == wid && s.earlierLand l)

end Sys2Proof.Machine
end

