-- ==== Sys2Proof/Machine/LoadStore.lean ====
section
/-! DEFINITION. Loads, stores and cache operations (14_memory_functions R314 to R324, 13 R312), and the atomics' issue (R325 to R329).
-/

namespace Sys2Proof.Machine

open Host (Outcome)

/-! ### Forming the lanes -/

def low32 (v : W64) : Nat := v.toNat % 2 ^ 32

/-- The lanes of a trigger after translation (03 R69). -/
def State.lanesAt (s : State) (w : Warp) (r : BufRec) (need : Need) (p : Port) (t : Lanes) (lanes : List Nat) : List (Nat × LaneRes) :=
  lanes.map fun i => (i, s.laneAddr (s.mapping s.cur.core) (s.tenOf w.nid) r need (low32 (laneAt p.a i)) (low32 (laneAt t i)))

/-- The VA that a lane would have. -/
def laneVa (r : BufRec) (a o : Nat) : Nat := brVbase r + swizzle r (a * brStride r + o)

/-- A translation fault whose walk read outside every window is logged too (01 R20). -/
def State.withWalk (s : State) (w : Warp) (r : BufRec) (need : Need) : Act → Act
  | .fault c i =>
    if c = 0x08 && need.ok (brRead r) (brWrite r) (brAtomic r) then
      match s.walkBad (s.mapping s.cur.core) (s.tenOf w.nid) r (fld i 55 0 - brVbase r) with
      | some pa => .walkRefused pa c i
      | none => .fault c i
    else .fault c i
  | x => x

/-- A trigger of a memory unit: the guard's lanes, or the lowest of them alone, under a record that is valid (03 R66, R69; 14 R317). -/
def State.memTrig (s : State) (w : Warp) (u : Un) (t : MTrig) (one : Bool) (need : BufRec → Need)
    (f : BufRec → W32 → Nat → List (Nat × LaneRes) → Act) : Act :=
  s.withMove w t.mv false fun g v =>
    match lowest g with
    | none => .next s
    | some k =>
      let p := w.ctx.port u
      let r := (s.core s.cur.core).segs.getD t.buf.toNat 0
      if !brVal r then .fault 0x08 (s.loc k (laneVa r (low32 (laneAt p.a k)) (low32 (laneAt v k))))
      else s.withWalk w r (need r) (f r g k (s.lanesAt w r (need r) p v (if one then [k] else lanesIn g)))

/-- A fault of the lanes, or what follows. -/
def State.orFault (s : State) (x : Option (Nat × Nat × Nat)) (f : Act) : Act := match x with
  | some (c, i, va) => .fault c (s.loc i va)
  | none => f

/-- The lines by VA that the in-bounds lanes touch (03 R73), ascending. -/
def insertUp (x : Nat) : List Nat → List Nat
  | [] => [x]
  | y :: r => if x < y then x :: y :: r else if x = y then y :: r else y :: insertUp x r
def laneLines (l : List (Nat × LaneRes)) : List Nat :=
  (l.flatMap fun (_, x) => match x with
    | .absent _ _ ls _ => ls
    | .at _ _ ls => ls
    | _ => []).foldl (fun a x => insertUp x a) []

/-- One byte that a lane reaches: its lane, its number within the element, its place, its page, its VA line. -/
structure LaneByte where
  lane : Nat
  k : Nat
  place : Place
  page : Page
  vline : Nat
  deriving DecidableEq, Repr

/-- The bytes that lanes reach; those of an element of which a page is not resident that are resident themselves, too (03 R73). -/
def laneBytes (l : List (Nat × LaneRes)) : List LaneByte :=
  l.flatMap fun (i, x) => match x with
    | .at bytes va _ => (List.range bytes.length).zip bytes |>.map fun (k, p, page) => ⟨i, k, p, page, (va + k) / 256⟩
    | .absent va _ _ bytes => bytes.map fun (k, p, page) => ⟨i, k, p, page, (va + k) / 256⟩
    | _ => []

/-- A line that a trigger reaches: its space, its number, the sectors, the page, the VA line. -/
structure LineUse where
  space : Space
  line : Nat
  smask : BitVec 4
  page : Page
  vline : Nat
  deriving DecidableEq, Repr

/-- The lines of some bytes, in ascending order of VA line (03 R73). -/
def lineUses (l : List LaneByte) : List LineUse :=
  let vs := (l.map LaneByte.vline).foldl (fun a x => insertUp x a) []
  vs.flatMap fun v =>
    (l.filter fun b => b.vline == v).foldl (fun acc b =>
      let k := b.place.addr % 256 / 64
      if acc.any fun u => u.space == b.place.space && u.line == b.place.addr / 256 then
        acc.map fun u => if u.space == b.place.space && u.line == b.place.addr / 256 then { u with smask := set4 u.smask k true } else u
      else acc ++ [⟨b.place.space, b.place.addr / 256, set4 0 k true, b.page, v⟩]) []

/-- Is the place core SRAM of the cluster of a core? -/
def sameCluster (core : Nat) (sp : Space) : Bool := match sp with
  | .core n => clusterOf n == clusterOf core
  | _ => false

/-- The class of a core pool as a core sees it: own 8, near 12, far 16 cycles (04 R95, R98). -/
def sramLat (src dst : Nat) : Nat := match (src % 4) ^^^ (dst % 4) with
  | 0 => 8
  | 3 => 16
  | _ => 12

/-- Does the line go through the L1? -/
def LineUse.cached (u : LineUse) : Bool := u.space == .pa && u.page.home == 0

/-- Landing slots in use in a cycle (04 R96). -/
def Core.slotsUsed (c : Core) (t : Nat) : Nat := ((c.loads.filter fun l => t ≤ l.due).map Load.slots).sum

/-- An access enters the queue of the core's L1. -/
def State.memAccess (s : State) (core wid : Nat) (u : LineUse) (pol : W32) (act : MemAct) : State :=
  s.updCore core fun c => { c with
    nextId := c.nextId + 1
    memq := c.memq ++ [⟨c.nextId, wid, u.line, u.smask, u.page.cls, polClass pol (u.vline * 256), polNl1 pol, polNllc pol, act⟩] }

/-- A request away from the L1: pools of others, slices, uncached pages, which hold no tokens (02 R48). It has the eviction class of its
policy word (01 R28). -/
def State.farAccess (s : State) (core wid : Nat) (u : LineUse) (kind : Nat) (pol : W32) (bytes : List (Nat × Byte))
    (atom : Option (Nat × Bool × AtOp × List AtLane)) (why : ReqFor) : State :=
  s.request core wid kind { homeReq u.space u.line u.smask .non true (polClass pol (u.vline * 256)) with bytes := bytes, atom := atom } why

/-! ### Loads -/

/-- The peer device in whose window a line lies, if it is dead (18 R412). -/
def State.deadLine (s : State) (u : LineUse) : Bool := match u.space, windowOf (u.line * 256) with
  | .pa, some n => 1 ≤ n && n ≤ 255 && s.deadPeers.contains n
  | _, _ => false

/-- The reads of a load's lines are sent; a line of a dead peer reads zero, poisoned (14 R316, 18 R412). -/
def State.readLines (s : State) (core wid id : Nat) (pol : W32) (us : List LineUse) : State :=
  us.foldl (fun s u =>
    if s.deadLine u then s.lineCame core id u.space u.line (List.replicate 256 0) 0xF
    else if u.cached then s.memAccess core wid u pol (.load id)
    else s.farAccess core wid u 5 pol [] none (.load id)) s

/-- The lane of a load as its record keeps it. -/
def loadLane (i : Nat) (x : LaneRes) : LoadLane := match x with
  | .at bytes va _ => ⟨i, bytes.map Prod.fst, true, BitVec.ofNat 64 va⟩
  | .absent va _ _ _ => ⟨i, [], false, BitVec.ofNat 64 va⟩
  | _ => ⟨i, [], true, 0⟩

/-- A load starts: its record, its reads, its pending result (04 R94, R96; 14 R315). -/
def State.startLoad (s : State) (w : Warp) (u : Un) (started : W32) (due slots : Nat) (sx scalar : Bool) (pol : W32)
    (l : List (Nat × LaneRes)) : State :=
  let core := s.cur.core
  let id := (s.core core).nextId
  let us := (lineUses (laneBytes l)).filter fun x => !sameCluster core x.space
  let rec_ : Load := { id := id, slot := s.cur.slot, wid := w.wid, un := u, due := due, signed := sx
                       lanes := l.map fun (i, x) => loadLane i x, lines := us.map fun x => ⟨x.space, x.line, none, 0⟩
                       slots := slots, started := started, scalar := scalar }
  let p := (w.ctx.port u).start s.now started [] [] (some due) id
  let s := s.setMe { w with ctx := w.ctx.putPort u p, units := w.units.filter fun (v, d, _) => v != u || d ≤ s.now }
  let s := s.updCore core fun c => { c with nextId := id + 1, loads := c.loads ++ [rec_] }
  (s.readLines core w.wid id pol us).settleCore core

def unLa (u : Which) : Un := match u with
  | .first => .la
  | .second => .lb

/-- The due offset of a load (04 R94). -/
def dueOffset (v : W64) : Nat := max 8 (min 4095 v.toNat)

/-- `ld`, `lds` and `ldu`. -/
def State.loadTrig (s : State) (w : Warp) (u : Un) (one sx : Bool) (t : MTrig) : Act :=
  s.memTrig w u t one (fun _ => needRead) fun _ g k l =>
    let n := (laneLines l).length
    if n + (s.core s.cur.core).slotsUsed s.now > Config.landSlots then .wait .room
    else s.orFault (reported l false)
      (let p := w.ctx.port u
       .next (s.startLoad w u g (s.now + dueOffset (laneAt p.c k)) n sx one (BitVec.ofNat 32 (low32 (laneAt p.b k))) l))

/-- `ld` (R315). -/
def execLd (u : Which) (t : MTrig) (s : State) : Outcome State Fault Refusal := issue s fun w => s.loadTrig w (unLa u) false false t
/-- `lds`: sign-extended (R315). -/
def execLds (u : Which) (t : MTrig) (s : State) : Outcome State Fault Refusal := issue s fun w => s.loadTrig w (unLa u) false true t
/-- `ldu`: one element for every started lane (R317). -/
def execLdu (u : Which) (t : MTrig) (s : State) : Outcome State Fault Refusal := issue s fun w => s.loadTrig w (unLa u) true false t

/-- A fault of an `ldc` for an element that does not stand in pinned pages of the issuing core: after bounds and before peer-void
(13 R312). -/
def State.ldcPlace (s : State) (w : Warp) (r : BufRec) (k : Nat) (p : Port) (v : Lanes) (l : List (Nat × LaneRes)) : List (Nat × Nat × Nat) :=
  if l.any fun (_, x) => match x with
    | .clamped => true
    | .fault c _ => c != 0x0A
    | _ => false then []
  else
    let pos := low32 (laneAt p.a k) * brStride r + low32 (laneAt v k)
    match (elemPos r pos (brSize r)).find? fun q =>
      match (s.translate (s.mapping s.cur.core) (s.tenOf w.nid) r q).where? with
      | some (pl, _) => pl.space != .core s.cur.core
      | none => true with
    | some q => [(0x0D, k, brVbase r + q)]
    | none => []

/-- `ldc`: one element of the issuing core's pool, read at issue + 8 (13 R312). -/
def execLdc (t : MTrig) (s : State) : Outcome State Fault Refusal :=
  issue s fun w => s.withMove w t.mv false fun g v =>
    match lowest g with
    | none => .next s
    | some k =>
      s.memTrig w .sl t true (fun _ => needRead) fun r _ _ l =>
        let p := w.ctx.port .sl
        s.orFault (firstFault (laneFaults l false ++ s.ldcPlace w r k p v l))
          (.next (s.startLoad w .sl 0xFFFFFFFF (s.now + 8) 0 false true 0 l))

/-- Positions whose pages a `preq` needs. -/
def preqAt (r : BufRec) (l : List (Nat × LaneRes)) : List Nat :=
  l.flatMap fun (_, x) => match x with
    | .absent va _ _ _ => [va - brVbase r, va - brVbase r + brSize r - 1]
    | .at _ va _ => [va - brVbase r, va - brVbase r + brSize r - 1]
    | _ => []

/-- Are all pages that a `preq` needs resident as the base holds the mapping (03 R85)? DESIGN CHOICE (log entry 62): a page that becomes void,
or whose leaf becomes one that is refused, no longer waits either. -/
def State.preqReady (s : State) (x : Preq) : Bool := x.at_.all fun q => !(s.translate [] x.ten x.record q).isAbsent

/-- The `preq`s whose pages have become resident resolve at their admission; until then `fcancel` may end them (03 R81, R85; 14 R324). -/
def State.checkPreqs (s : State) : State :=
  let ready := s.preqs.filter fun x => !x.sent && s.preqReady x
  let s := { s with preqs := s.preqs.map fun x => if ready.contains x then { x with sent := true } else x }
  ready.foldl (fun s x => s.arriveFut x.core x.fut 0) s

/-- `preq`: residency of the lanes' pages is asked for (R318, 03 R85). -/
def execPreq (u : Which) (t : MTrig) (s : State) : Outcome State Fault Refusal :=
  issue s fun w => s.memTrig w (unLa u) t false (fun _ => needEither) fun r _ _ l =>
    match w.newFuture (unLa u).code with
    | none => .wait .admission
    | some (w, h, f) => s.orFault (reported l false)
      (let s := s.setMe (w.engineResult s.now (unLa u) h)
       .next (State.checkPreqs { s with preqs := s.preqs ++ [⟨f, s.cur.core, s.tenOf w.nid, r, preqAt r l, false⟩] }))

/-- `touch`: the resident, cached lines are asked for (R319). -/
def execTouch (u : Which) (t : MTrig) (s : State) : Outcome State Fault Refusal :=
  issue s fun w => s.memTrig w (unLa u) t false (fun _ => needRead) fun _ _ k l =>
    s.orFault (reported l false)
      (let pol := BitVec.ofNat 32 (low32 (laneAt (w.ctx.port (unLa u)).b k))
       let us := (lineUses (laneBytes l)).filter LineUse.cached
       .next ((us.foldl (fun s x => s.memAccess s.cur.core w.wid x pol .touch) s).settleCore s.cur.core))

/-! ### Stores -/

/-- The bytes that a store writes: place, page, VA line and value of each, in the order of the lanes (R320). -/
def storeBytes (v : Lanes) (l : List (Nat × LaneRes)) : List (LaneByte × Byte) :=
  (laneBytes l).map fun b => (b, BitVec.ofNat 8 ((laneAt v b.lane).toNat / 256 ^ b.k))

/-- A lane store lands in core SRAM of the cluster at its fixed cycle (04 R98). -/
def State.landStore (s : State) (w : Warp) (core : Nat) (bytes : List (Nat × Byte)) : State :=
  let src := s.cur.core
  let t := s.now
  s.updCluster (clusterOf src) fun c => { c with
    nextId := c.nextId + 1
    lands := c.lands ++ [⟨c.nextId, w.wid, t + sramLat src core, t, src, core, bytes, none, []⟩] }

/-- The write of a store, line by line, on the path of its page (R321). -/
def State.storeAll (s : State) (w : Warp) (pol : W32) (bs : List (LaneByte × Byte)) : State :=
  let core := s.cur.core
  let us := lineUses (bs.map Prod.fst)
  let mine (u : LineUse) : List (Nat × Byte) :=
    (bs.filter fun (b, _) => b.place.space == u.space && b.place.addr / 256 == u.line).map fun (b, v) => (b.place.addr % 256, v)
  let s := us.foldl (fun s u =>
    match u.space with
    | .core n =>
      if clusterOf n == clusterOf core then s.landStore w n ((mine u).map fun (o, v) => (u.line * 256 + o, v))
      else s.farAccess core w.wid u 2 pol (mine u) none .write
    | .slice _ => s.farAccess core w.wid u 2 pol (mine u) none .write
    | .pa =>
      if u.page.home == 0 then s.memAccess core w.wid u pol (.store (mine u))
      else s.farAccess core w.wid u 2 pol (mine u) none .write) s
  s.settleCore core

/-- `st` and `stu`: every lane that is checked is free of faults before any lane writes (03 R83, 14 R320). -/
def State.storeTrig (s : State) (w : Warp) (one : Bool) (t : MTrig) : Act :=
  s.memTrig w .st t one (fun _ => needWrite) fun _ _ k l =>
    s.orFault (reported l true)
      (let p := w.ctx.port .st
       .next (s.storeAll w (BitVec.ofNat 32 (low32 (laneAt p.b k))) (storeBytes p.c l)))

/-- `st` (R320). -/
def execSt (t : MTrig) (s : State) : Outcome State Fault Refusal := issue s fun w => s.storeTrig w false t
/-- `stu`: the lowest lane alone (R320). -/
def execStu (t : MTrig) (s : State) : Outcome State Fault Refusal := issue s fun w => s.storeTrig w true t

/-! ### Cache operations (R322 to R324) -/

/-- The lines of cached pages that a cache operation reaches, and that the L1 holds. -/
def State.heldLines (s : State) (l : List (Nat × LaneRes)) : List Nat :=
  (((lineUses (laneBytes l)).filter fun u => u.cached && (Tab.look (s.core s.cur.core).l1 u.line).isSome).map LineUse.line).eraseDups

/-- The sectors of a line that hold tokens. -/
def Core.tokenSectors (c : Core) (line : Nat) : List Nat := match Tab.look c.l1 line with
  | some l => ((List.range 4).filter fun k => (l.sect k).tok > 0).map fun k => line * 4 + k
  | none => []

/-- What waits until the home has accepted the write-backs and returned tokens of some lines that leave. -/
def State.afterEvict (s : State) (core : Nat) (w : Warp) (lines : List Nat) (act : RelAct) : State :=
  let next := (s.core core).nextId
  let toks := lines.flatMap (s.core core).tokenSectors
  let s := lines.foldl (fun s l => s.evict core w.wid l) s
  s.addRel core { wid := w.wid, nid := w.nid, recs := some [], scope := .dev, ops := (s.core core).sentSince next, lands := []
                  after := 0, toks := toks, wb := false, acq := false, act := act }

/-- `wb`: the dirty sectors of the lanes' lines are written to the home (R322). -/
def execWb (t : MTrig) (s : State) : Outcome State Fault Refusal :=
  issue s fun w => s.memTrig w .st t false (fun _ => needEither) fun _ _ _ l =>
    match w.newFuture Un.st.code with
    | none => .wait .admission
    | some (w, h, f) => s.orFault (reported l false)
      (let core := s.cur.core
       let s := s.setMe (w.engineResult s.now .st h)
       let next := (s.core core).nextId
       let s := (s.heldLines l).foldl (fun s x => s.writeBack core w.wid x) s
       .next (s.addRel core { wid := w.wid, nid := w.nid, recs := some [], scope := .dev, ops := (s.core core).sentSince next
                              lands := [], after := 0, wb := false, acq := false, act := .done f }))

/-- `inv`: the lanes' lines are written back and leave (R322). -/
def execInv (t : MTrig) (s : State) : Outcome State Fault Refusal :=
  issue s fun w => s.memTrig w .st t false (fun _ => needEither) fun _ _ _ l =>
    match w.newFuture Un.st.code with
    | none => .wait .admission
    | some (w, h, f) => s.orFault (reported l false)
      (let s := s.setMe (w.engineResult s.now .st h)
       .next (s.afterEvict s.cur.core w (s.heldLines l) (.done f)))

/-- `csize`: the division of core SRAM changes (R323, 03 R89). -/
def execCsize (m : Mv) (s : State) : Outcome State Fault Refusal :=
  issue s fun w => s.withMove w m false fun g v =>
    match lowest g with
    | none => .next s
    | some k => s.withFuture w .st fun s w f =>
      let core := s.cur.core
      let c := s.core core
      let n := (laneAt v k).toNat
      if n > Config.nWays - c.fencedWays.length then s.arriveFut core f 0x106
      else if c.csize.isSome || c.pages.any fun (p, x) => !x.void && p ≥ n * 4 then s.arriveFut core f (BitVec.ofNat 64 (c.ways * 256 + 2))
      else
        let s := s.putCore core { c with csize := some n }
        let leaving := (c.l1.filter fun (_, l) => (c.pinned n).contains l.way).map Prod.fst
        s.afterEvict core w leaving (.csize f n)

end Sys2Proof.Machine
end

