-- ==== Sys2Proof/Machine/Atomics.lean ====
section
/-! DEFINITION. Atomics: their scopes, where each runs, and when its result is due (09_ordering R230 to R232, 14_memory_functions R325 to
R329). -/

namespace Sys2Proof.Machine

open Host (Outcome)

/-- Does the table of 09 R231 refuse the scope for the page? -/
def scopeBad (core : Nat) (sc : Scope) (p : Place) (g : Page) : Bool :=
  sc == .wp ||
  (match p.space with
   | .core n => sc == .sys || (sc == .cl && clusterOf n != clusterOf core) || (sc == .die && dieOf n != dieOf core)
   | .slice _ => sc == .cl || sc == .die || (sc == .sys && g.cls != .system)
   | .pa =>
     if g.home == 0 then match g.cls with
       | .non => sc != .dev
       | .device => sc == .sys
       | .system => false
     else sc == .cl || sc == .die || (sc == .sys && g.cls != .system))

/-- The class-scope faults of the lanes: of those in bounds whose bytes have a place; warp scope is one in every lane (09 R231). -/
def State.scopeFaults (s : State) (w : Warp) (r : BufRec) (sc : Scope) (p : Port) (t : Lanes) (l : List (Nat × LaneRes)) : List (Nat × Nat × Nat) :=
  if sc == .wp then l.map fun (i, _) => (0x0C, i, laneVa r (low32 (laneAt p.a i)) (low32 (laneAt t i)))
  else
  let reached : List Nat := l.filterMap fun (i, x) => match x with
    | .clamped => none
    | .fault c _ => if c == 0x0A then some i else none
    | _ => some i
  reached.filterMap fun i =>
    let q := swizzle r (low32 (laneAt p.a i) * brStride r + low32 (laneAt t i))
    match (s.translate (s.mapping s.cur.core) (s.tenOf w.nid) r q).where? with
    | some (pl, g) => if scopeBad s.cur.core sc pl g then some (0x0C, i, brVbase r + q) else none
    | none => none

/-- The poison of the sector that holds a place, where its data stands: the core's own L1, the owner's, the home (17 R398). -/
def State.sectorPsn (s : State) (core : Nat) (p : Place) : Bool := match p.space with
  | .pa =>
    match (s.core core).sect (p.addr / 64) with
    | some x => if x.val then x.psn else s.homePsn (p.addr / 64)
    | none =>
      match s.cores.find? fun (_, c) => match c.sect (p.addr / 64) with
        | some x => x.own
        | none => false with
      | some (_, c) => ((c.sect (p.addr / 64)).getD {}).psn
      | none => s.homePsn (p.addr / 64)
  | _ => s.placePsn p

/-- The poison faults of an atomic, at its trigger (17 R398, 18 R412). -/
def State.psnFaults (s : State) (l : List (Nat × LaneRes)) : List (Nat × Nat × Nat) :=
  l.filterMap fun (i, x) => match x with
    | .at ((p, g) :: _) va _ =>
      if s.deadLine ⟨p.space, p.addr / 256, 0, g, 0⟩ || s.sectorPsn s.cur.core p then some (0x15, i, va) else none
    | _ => none

/-- One memory word that a trigger reaches, with its lanes in order (R327). -/
structure AtWord where
  place : Place
  page : Page
  vline : Nat
  lanes : List AtLane
  deriving DecidableEq, Repr

/-- A place's rank among places: the spaces one after the other, addresses rising. -/
def placeKey (p : Place) : Nat := match p.space with
  | .pa => p.addr
  | .slice n => 2 ^ 60 + n * 2 ^ 40 + p.addr
  | .core n => 2 ^ 61 + n * 2 ^ 40 + p.addr

def addWord (x : AtWord) : List AtWord → List AtWord
  | [] => [x]
  | y :: r =>
    if y.place == x.place then { y with lanes := y.lanes ++ x.lanes } :: r
    else if placeKey x.place < placeKey y.place then x :: y :: r
    else y :: addWord x r

/-- The words of a trigger, in ascending order of location (R327). -/
def atWords (v w : Lanes) (l : List (Nat × LaneRes)) : List AtWord :=
  (l.filterMap fun (i, x) => match x with
    | .at ((p, g) :: _) va _ => some ⟨p, g, va / 256, [⟨i, laneAt v i, laneAt w i⟩]⟩
    | _ => none).foldl (fun a x => addWord x a) []

/-- The cycles from the trigger to the readable result (R328). -/
def atLatency (core : Nat) (sc : Scope) (x : AtWord) : Nat := match x.place.space with
  | .core n => if clusterOf n == clusterOf core then sramLat core n + 1 else 640
  | .slice _ => 640
  | .pa => if x.page.home == 0 && (sc == .cl || sc == .die) then 24 else 640

/-- One word's atomic goes where 09 R231 places it. -/
def State.sendWord (s : State) (w : Warp) (id : Nat) (op : AtOp) (wide : Bool) (sc : Scope) (x : AtWord) : State :=
  let core := s.cur.core
  let off := x.place.addr % 256
  let u : LineUse := ⟨x.place.space, x.place.addr / 256, set4 0 (off / 64) true, x.page, x.vline⟩
  match x.place.space with
  | .core n =>
    if clusterOf n == clusterOf core then
      let t := s.now
      s.updCluster (clusterOf core) fun c => { c with
        nextId := c.nextId + 1
        lands := c.lands ++ [⟨c.nextId, w.wid, t + sramLat core n, t, core, n, [], some (id, x.place.addr, wide, op, x.lanes), []⟩] }
    else s.farAccess core w.wid u 3 0 [] (some (off, wide, op, x.lanes)) (.atomic id)
  | .slice _ => s.farAccess core w.wid u 3 0 [] (some (off, wide, op, x.lanes)) (.atomic id)
  | .pa =>
    if x.page.home == 0 then
      if sc == .cl || sc == .die then s.memAccess core w.wid u 0 (.atomic id off wide op x.lanes)
      else s.memAccess core w.wid u 0 (.atHome id off wide op x.lanes)
    else s.farAccess core w.wid u 3 0 [] (some (off, wide, op, x.lanes)) (.atomic id)

/-- An atomic that is free of faults: its words leave, its old values and successes are due (R327, R328). -/
def State.startAtomic (s : State) (w : Warp) (r : BufRec) (g : W32) (op : AtOp) (sc : Scope) (words : List AtWord)
    (l : List (Nat × LaneRes)) : State :=
  let core := s.cur.core
  let id := (s.core core).nextId
  let due := s.now + (words.map (atLatency core sc)).foldl max 1
  let rec_ : Load := { id := id, slot := s.cur.slot, wid := w.wid, un := .atm, due := due
                       lanes := l.map fun (i, x) => { loadLane i x with places := [] }, lines := [], slots := words.length
                       started := g, atomic := true, left := words.length }
  let p := (w.ctx.port .atm).start s.now g [] [] (some due) id
  let s := s.setMe { w with ctx := w.ctx.putPort .atm p }
  let s := s.updCore core fun c => { c with nextId := id + 1, loads := c.loads ++ [rec_] }
  (words.foldl (fun s x => s.sendWord w id op (brEsz r == 3) sc x) s).settleCore core

/-- An atomic's trigger: it waits for landing slots; it checks every lane before any acts (R325, R328). -/
def State.atTrig (s : State) (w : Warp) (op : AtOp) (sc : Scope) (t : MTrig) : Act :=
  s.withMove w t.mv false fun _ v =>
    s.memTrig w .atm t false (fun r => ⟨fun rd _ a => brEsz r ≥ 2 && rd && a, true⟩) fun r g _ l =>
      let p := w.ctx.port .atm
      let words := atWords p.b p.c l
      if words.length + (s.core s.cur.core).slotsUsed s.now > Config.landSlots then .wait .room
      else s.orFault (firstFault (laneFaults l true ++ s.scopeFaults w r sc p v l ++ s.psnFaults l))
        (.next (s.startAtomic w r g op sc words l))

def execAtAdd (sc : Scope) (t : MTrig) (s : State) : Outcome State Fault Refusal := issue s fun w => s.atTrig w .add sc t
def execUmin (sc : Scope) (t : MTrig) (s : State) : Outcome State Fault Refusal := issue s fun w => s.atTrig w .umin sc t
def execUmax (sc : Scope) (t : MTrig) (s : State) : Outcome State Fault Refusal := issue s fun w => s.atTrig w .umax sc t
def execSmin (sc : Scope) (t : MTrig) (s : State) : Outcome State Fault Refusal := issue s fun w => s.atTrig w .smin sc t
def execSmax (sc : Scope) (t : MTrig) (s : State) : Outcome State Fault Refusal := issue s fun w => s.atTrig w .smax sc t
def execAtAnd (sc : Scope) (t : MTrig) (s : State) : Outcome State Fault Refusal := issue s fun w => s.atTrig w .and sc t
def execAtOr (sc : Scope) (t : MTrig) (s : State) : Outcome State Fault Refusal := issue s fun w => s.atTrig w .or sc t
def execExch (sc : Scope) (t : MTrig) (s : State) : Outcome State Fault Refusal := issue s fun w => s.atTrig w .exch sc t
def execCas (sc : Scope) (t : MTrig) (s : State) : Outcome State Fault Refusal := issue s fun w => s.atTrig w .cas sc t
def execIncw (sc : Scope) (t : MTrig) (s : State) : Outcome State Fault Refusal := issue s fun w => s.atTrig w .incw sc t
def execDecw (sc : Scope) (t : MTrig) (s : State) : Outcome State Fault Refusal := issue s fun w => s.atTrig w .decw sc t
def execAddb (sc : Scope) (t : MTrig) (s : State) : Outcome State Fault Refusal := issue s fun w => s.atTrig w .addb sc t

end Sys2Proof.Machine
end

