-- ==== Sys2Proof/Machine/CopyEngine.lean ====
section
/-! DEFINITION. The copy engine: triggers, chunks, landings, final statuses, and tag waits (04_copies_and_landing R99 to R116, 14 R330,
R331). -/

namespace Sys2Proof.Machine

open Host (Outcome)

/-! ### The landing path of a core (04 R99) -/

def State.updCopy (s : State) (core slot : Nat) (f : Copy → Copy) : State :=
  s.updCore core fun c => { c with copies := c.copies.map fun (k, x) => (k, if k = slot then f x else x) }

/-- Bytes written into a core's pool with the poison of 64-byte blocks (17 R398). -/
def Core.poolLand (c : Core) (bytes : List (Nat × Byte)) (psn : List Nat) : Core :=
  let c := c.poolWrite bytes
  { c with psn := psn ++ c.psn.filter fun b => !psn.contains b }

/-- Why bytes of a copy may not land in a core's pool, by the groups that owned their pages when they were translated: 3 where a page is
void, 1 where its group is pre-empted, else 0 (04 R109, R114). A page that has been allocated anew since takes them, but for one whose group at
the translation is pre-empted (log entry 27). -/
def State.landCode (s : State) (core : Nat) (bytes : List (Nat × Byte)) (owners : List (Nat × Nat)) : Nat :=
  ((bytes.map fun (a, _) => a / 65536).eraseDups.findSome? fun p => match Tab.look (s.core core).pages p with
    | none => some 3
    | some x =>
      if x.void then some 3
      else if x.away || !owners.contains (x.nid, x.grp) && owners.any fun (n, g) => s.saved.any fun y => y.nid == n && y.grp == g then some 1
      else none).getD 0

/-- The number of chunks of a copy. -/
def Copy.chunks (c : Copy) : Nat := (shBytes c.shape + 255) / 256

/-- The multicast entries of a shape: entry and cluster (04 R102, R114). -/
def mclOf (r : Shape) : List (Nat × Nat) := (List.range 16).filterMap fun j => if shMcl r j = 0xFF then none else some (j, shMcl r j)

/-- Destinations that are reached: one for a `go`. -/
def Copy.reached (c : Copy) : List (Nat × Nat) :=
  if c.mcast then (mclOf c.shape).filter fun (j, _) => !c.lost.contains j else [(0, 0)]

/-- The final code of a copy that has landed everything (04 R110, R114, 17 R398). -/
def Copy.code (c : Copy) : Nat :=
  if c.poison then 7
  else if c.mcast then (if c.reached.isEmpty then 3 else if c.lost.isEmpty then 0 else 4)
  else 0

/-- The status word (04 R110). -/
def Copy.status (c : Copy) (slot code : Nat) : W64 :=
  let detail := if c.mcast then (c.reached.map fun (j, _) => 2 ^ j).sum else 0
  let landed := if c.mcast && c.reached.isEmpty then 0 else c.landed
  BitVec.ofNat 64 (landed * 2 ^ 24 + detail * 2 ^ 8 + slot * 16 + code)

/-- An unpaced copy that has stopped reaches its status once its last landing is in place: an outside event (04 R108, R111). -/
def State.copyCheck (s : State) (core slot : Nat) : State :=
  match Tab.look (s.core core).copies slot with
  | some c => match c.fin with
    | some code => if c.under = 0 && c.st == .running then
        -- an `fcancel` ends it before its suspension shows (R112)
        let code := if c.cancelled && (code = 1 || code = 2) then 5 else if c.mcast && (code = 0 || code = 4) then c.code else code
        (s.updCopy core slot fun c => { c with fin := none, cancelled := false }).arrive core c.fut.wid (.copyFinalStatus core slot code)
      else s
    | none => s
  | none => s

/-- The copy to which a write belongs, while it is in its slot. -/
def State.copyOf (s : State) (p : CopyPart) : Option Copy := match Tab.look (s.core p.core).copies p.slot with
  | some c => if c.fut == p.fut then some c else none
  | none => none

/-- Has a page stopped the copy to which a write belongs (04 R109)? -/
def State.copyStopped (s : State) (p : CopyPart) : Bool := match s.copyOf p with
  | some c => !c.mcast && (c.fin == some 3 || c.fin == some 1)
  | none => false

/-- A write of a copy has landed, or has been refused with a code, or comes after the copy has been stopped: the copy goes on, or ends. -/
def State.partLands (s : State) (p : CopyPart) (code : Nat) (stopped : Bool) : State := match s.copyOf p with
  | none => s
  | some _ =>
    (s.updCopy p.core p.slot fun x =>
      if code == 0 && !stopped then { x with under := x.under - 1, landed := x.landed + p.len }
      else if x.mcast then { x with under := x.under - 1, lost := p.entry :: x.lost }
      else { x with under := x.under - 1, fin := if stopped then x.fin else some code }).copyCheck p.core p.slot

/-- A write lands from the landing path (04 R99, R100): bytes, or an atomic on the word as it stands. -/
def State.landOut (s : State) (o : OutWrite) : State :=
  let c := s.core o.core
  let s := o.next.foldl (fun s (k, e) => s.send .response o.core k e) s
  let s := match o.atom with
    | none => s
    | some r => match r.atom with
      | none => s
      | some (off, wide, op, lanes) =>
        let n := if wide then 8 else 4
        let a := r.line * 256 + off
        let x := atGroup op wide (leNat (readCells c.pool a n)) lanes
        let data := x.2.flatMap fun (y : Nat × W64 × Bool) => leBytes 8 y.2.1.toNat ++ [if y.2.2 then (1 : Byte) else 0]
        let s := s.updCore o.core fun c => c.poolWrite (placed a (leBytes n x.1))
        match r.agent with
        | .core k => s.send .response o.core k (.loadLineArrival k r.id data 0)
        | .host => s
  match o.copy with
  | none => s.updCore o.core fun c => c.poolLand o.bytes o.psn
  | some p =>
    let code := s.landCode o.core o.bytes p.owners
    let stopped := s.copyStopped p
    (if code != 0 || stopped then s else s.updCore o.core fun c => c.poolLand o.bytes o.psn).partLands p code stopped

/-- A write reaches a core's landing path, where it waits for its landing cycle (04 R99). A die that is not up has no cycles: what arrives there
does not land. -/
def State.outArrives (s : State) (o : OutWrite) : State :=
  let d := s.die (dieOf o.core)
  if o.pinned.isNone && (!d.powered || d.dead) then s.landOut o
  else s.updCluster (clusterOf o.core) fun c => { c with outs := c.outs ++ [o] }

/-! ### Chunks (04 R103, R107, R109) -/

def Copy.due (c : Copy) (k : Nat) : Nat := c.t + c.start + 256 * (k - c.k0) / c.rate

/-- Is a source byte read in its chunk's due cycle: of a paced copy, in core SRAM of the issuing cluster (04 R103)? -/
def Copy.readsLate (c : Copy) (core : Nat) (q : Place) : Bool := c.paced && sameCluster core q.space

/-- Where a stream byte comes from: none out of bounds, its place and page, or the code of the failure. A void page stops the copy when the chunk
is read from it (R109). -/
def State.chunkSrc (s : State) (core : Nat) (c : Copy) (n : Nat) : Except Nat (Option (Place × Page)) :=
  let p := shPos c.shape (shSoff c.shape) (shSstr c.shape) n
  if p < 0 || p ≥ brExtent c.src then .ok none
  else match s.translate c.old c.ten c.src (swizzle c.src p.toNat) with
    | .ok q g => if g.read then .ok (some (q, g)) else .error 2
    | .absent _ => .error 1
    | .refused => .error 2
    | .void q g => if !g.read then .error 2 else if c.readsLate core q then .ok (some (q, g)) else .error 3

/-- The group that owns the page of a place in a core's pool. -/
def State.ownerAt (s : State) (p : Place) : Option (Nat × Nat) := match p.space with
  | .core k => (Tab.look (s.core k).pages (p.addr / 65536)).map fun x => (x.nid, x.grp)
  | _ => none

/-- Where a stream byte goes, by entry, with the shares that are cancelled. A void page stops the chunk when it would land there (R109). -/
def State.chunkDst (s : State) (c : Copy) (n : Nat) : Except Nat (List ChunkDst × List Nat) :=
  let p := shPos c.shape (shDoff c.shape) (shDstr c.shape) n
  if p < 0 || p ≥ brExtent c.dst then .ok ([], [])
  else
    let q := swizzle c.dst p.toNat
    let dst (j : Nat) (pl : Place) (g : Page) : ChunkDst := ⟨j, pl, if g.home = 0 then g.cls else .non, g.home != 0, s.ownerAt pl⟩
    if c.mcast then
      c.reached.foldl (fun acc (j, cl) => match acc with
        | .error e => .error e
        | .ok (ds, lost) =>
          match s.poolTr 3 (cl * 4 + brHidx c.dst % 4) (brPbase c.dst + q) ⟨.non, 3, true, true, true⟩ with
          | .ok pl g | .void pl g => .ok (ds ++ [dst j pl g], lost)
          | .refused => .error 2
          | .absent _ => .ok (ds, j :: lost)) (.ok ([], []))
    else match s.translate c.old c.ten c.dst q with
      | .ok pl g | .void pl g => if g.write then .ok ([dst 0 pl g], []) else .error 2
      | .absent _ => .error 1
      | .refused => .error 2

/-- The stream bytes of chunk k. -/
def Copy.range (c : Copy) (k : Nat) : List Nat := (List.range (min 256 (shBytes c.shape - 256 * k))).map fun i => 256 * k + i

/-- The first failure of a chunk, in the order of its stream, source before destination. -/
def State.chunkCode (s : State) (core : Nat) (c : Copy) (k : Nat) : Nat :=
  ((c.range k).findSome? fun n => match s.chunkSrc core c n with
    | .error e => some e
    | .ok _ => match s.chunkDst c n with
      | .error e => some e
      | .ok _ => none).getD 0

/-- The walker's read in no window that the first failure of a chunk comes from, if it does (01 R20). -/
def State.chunkWalk (s : State) (core : Nat) (c : Copy) (k : Nat) : Option Nat :=
  let at_ (r : BufRec) (p : Int) : Option Nat := s.walkBad c.old c.ten r (swizzle r p.toNat)
  ((c.range k).findSome? fun n => match s.chunkSrc core c n with
    | .error _ => some (at_ c.src (shPos c.shape (shSoff c.shape) (shSstr c.shape) n))
    | .ok _ => match s.chunkDst c n with
      | .error _ => some (at_ c.dst (shPos c.shape (shDoff c.shape) (shDstr c.shape) n))
      | .ok _ => none).join

/-- The places that a chunk reads, one for each sector of memory. -/
def State.chunkPlaces (s : State) (core : Nat) (c : Copy) (k : Nat) : List (Place × Page) :=
  ((c.range k).filterMap fun n => match s.chunkSrc core c n with
    | .ok (some (q, g)) => some ({ q with addr := q.addr / 64 * 64 }, g)
    | _ => none).eraseDups

/-- The bytes of a chunk: core SRAM of the issuing cluster is read later when the copy is paced (04 R103), the rest now. -/
def State.chunkBytes (s : State) (core : Nat) (c : Copy) (k : Nat) : List ChunkByte :=
  (c.range k).map fun n =>
    let dst := match s.chunkDst c n with
      | .ok (ds, _) => ds
      | .error _ => []
    match s.chunkSrc core c n with
    | .ok (some (q, _)) =>
      if c.readsLate core q then ⟨some q, 0, false, dst⟩ else ⟨none, s.placeByte q, s.placePsn q, dst⟩
    | _ => ⟨none, 0, false, dst⟩

/-- The copy engine translates the next chunk and reads it; it goes on until 32 chunks are staged, one for an unpaced copy (R109). The read
waits for the warp's stores before the trigger (09 R221), and while an owner does not answer or a line has to wait at its slice. -/
def State.copyTranslate (s : State) (core slot : Nat) : State :=
  match Tab.look (s.core core).copies slot with
  | none => s
  | some c =>
    if c.st != .running || !c.fetching || c.fin.isSome then s
    else if c.cancelled && !c.paced then (s.updCopy core slot fun c => { c with fetching := false, fin := some 5 }).copyCheck core slot
    else
      let lost := (c.range c.k).flatMap fun n => match s.chunkDst c n with
        | .ok (_, l) => l
        | .error _ => []
      let c : Copy := { c with lost := (c.lost ++ lost).eraseDups }
      let code := if c.mcast && c.reached.isEmpty then 3 else s.chunkCode core c c.k
      let places := if code = 0 then s.chunkPlaces core c c.k else []
      let secs := coherentOf places
      let again (s : State) : State := s.park core basePort (.copyChunkTranslate core slot)
      if s.anyOpen core c.behind then again s
      else if !(secs.all s.canRecall) then again (s.askAhead secs [])
      else if code ≠ 0 then
        let s := (if code = 2 then s.chunkWalk core c c.k else none).elim s s.logWalk
        if c.paced then s.updCopy core slot fun _ => { c with k := c.k + 1, staged := c.staged ++ [Chunk.mk c.k [] code], fetching := false }
        else (s.updCopy core slot fun _ => { c with fetching := false, fin := some code }).copyCheck core slot
      else match s.reachAll (linesOf places) with
      | none => again (s.askAhead [] (linesOf places))
      | some s =>
        let s := secs.foldl (fun s x => s.freshSector .device x) s
        let c : Copy := { c with staged := c.staged ++ [⟨c.k, s.chunkBytes core c c.k, 0⟩], k := c.k + 1 }
        let more := c.k < c.chunks && c.staged.length < 32 && c.paced
        let s := s.updCopy core slot fun _ => { c with fetching := more }
        if c.paced then (if more then s.send .request core basePort (.copyChunkTranslate core slot) else s)
        else s.send .request core basePort (.unpacedChunkDelivery core slot)

/-- The bytes of a chunk by destination space, with the poisoned 64-byte blocks. -/
def chunkFor (b : List ChunkByte) (j : Nat) (sp : Space) : List (Nat × Byte) × List Nat :=
  let l := b.flatMap fun x => (x.dst.filter fun d => d.entry == j && d.place.space == sp).map fun d => (d.place.addr, x.val, x.psn)
  (l.map fun (a, v, _) => (a, v), ((l.filter fun (_, _, q) => q).map fun (a, _, _) => a / 64).eraseDups)

/-- Destinations of a chunk: entries with their spaces. -/
def chunkTargets (b : List ChunkByte) : List (Nat × Space) := (b.flatMap fun x => x.dst.map fun d => (d.entry, d.place.space)).eraseDups

/-- The groups that own the pages of a core's pool to which a chunk goes. -/
def chunkOwners (b : List ChunkByte) (j : Nat) (sp : Space) : List (Nat × Nat) :=
  (b.flatMap fun x => (x.dst.filter fun d => d.entry == j && d.place.space == sp).filterMap ChunkDst.owner).eraseDups

/-- Coherent sectors that a chunk writes. -/
def chunkCoherent (b : List ChunkByte) : List Nat :=
  (b.flatMap fun x => (x.dst.filter fun d => d.place.space == .pa && d.cls != .non).map fun d => d.place.addr / 64).eraseDups

/-- The lines of memory that a chunk writes, for `State.reachAll`. -/
def chunkLines (b : List ChunkByte) : List (Nat × Cls × Bool × Nat) :=
  (b.flatMap fun x => (x.dst.filter fun d => d.place.space == .pa).map fun d =>
    (d.place.addr / 256, d.cls, d.uncached, d.place.addr % 256 / 64 * 64)).eraseDups

/-- The lines of the host's and the peers' memory among some bytes. -/
def farLines (bytes : List (Nat × Byte)) : List Nat := ((bytes.map fun (a, _) => a / 256).eraseDups).filter farLine

/-- A copy's write to a line of the host's or a peer's memory: of a cached page it is done at the home slice, and the host has to accept it; else
it is done when it is accepted (18 R409, R410). -/
def State.farLand (s : State) (line : Nat) (cached : Bool) (bytes : List (Nat × Byte)) (psn : List Nat) (p : CopyPart) : State :=
  let mine := (bytes.filter fun (a, _) => a / 256 == line).map fun (a, v) => (a % 256, v)
  let bad := (List.range 4).foldl (fun m k => set4 m k (psn.contains (line * 4 + k))) (0 : BitVec 4)
  let r : HomeReq := ⟨0, .host, .pa, line, 0, if cached then .system else .non, !cached, .stream, 0, mine, none, bad⟩
  if s.deadWindow r then s.partLands p 0 false
  else if cached then
    let s := (sectorsIn bad).foldl (fun s k => s.setHomePsn (line * 4 + k) true) (s.homeStore line mine)
    s.far { kind := 2, req := r, reply := some [], copy := some p }
  else s.far { kind := 2, req := r, copy := some p }

/-- Bytes of memory written at their homes (09 R209), poison with them. -/
def State.homeLand (s : State) (bytes : List (Nat × Byte)) (psn : List Nat) : State :=
  let lines := (bytes.map fun (a, _) => a / 256).eraseDups
  let s := lines.foldl (fun s l => s.homeStore l ((bytes.filter fun (a, _) => a / 256 == l).map fun (a, v) => (a % 256, v))) s
  psn.foldl (fun s x => s.setHomePsn x true) s

/-- A chunk of an unpaced copy is delivered (04 R107, R108, R114). -/
def State.copyDeliver (s : State) (core slot : Nat) : State :=
  match Tab.look (s.core core).copies slot with
  | none => s
  | some c =>
    match c.staged with
    | [] => s
    | ch :: rest =>
      if c.st != .running || c.paced || c.fin.isSome then s
      else if c.cancelled then (s.updCopy core slot fun c => { c with staged := [], fin := some 5 }).copyCheck core slot
      else
        let coh := chunkCoherent ch.bytes
        let again (s : State) : State := s.park core basePort (.unpacedChunkDelivery core slot)
        match s.reachAll (chunkLines ch.bytes) true with
        | none => again (s.askAhead [] (chunkLines ch.bytes) true)
        | some s =>
          if !(coh.all s.canGather) then again (coh.foldl State.askHost s) else
          let s := coh.foldl State.gather s
          let len := (c.range ch.k).length
          let outs := (chunkTargets ch.bytes).filter fun (_, sp) => match sp with
            | .core _ => true
            | _ => false
          let psn := ch.bytes.any ChunkByte.psn
          let last := c.k ≥ c.chunks
          let beyond := farLines (chunkFor ch.bytes 0 .pa).1
          let cached (line : Nat) : Bool := (chunkLines ch.bytes).any fun (l, cl, un, _) => l == line && cl != .non && !un
          let s := s.updCopy core slot fun c => { c with
            staged := rest, poison := c.poison || psn
            lines := (c.lines ++ (chunkLines ch.bytes).filterMap fun (l, cl, un, _) => if cl == .non && !un then some l else none).eraseDups
            under := c.under + outs.length + beyond.length, landed := if outs.isEmpty && beyond.isEmpty || c.mcast then c.landed + len else c.landed
            fetching := !last }
          let s := (chunkTargets ch.bytes).foldl (fun s (j, sp) =>
            let (bytes, bad) := chunkFor ch.bytes j sp
            match sp with
            | .pa =>
              let s := s.homeLand (bytes.filter fun (a, _) => !farLine (a / 256)) (bad.filter fun x => !farLine (x / 4))
              beyond.foldl (fun s l => s.farLand l (cached l) bytes bad
                ⟨core, slot, c.fut, j, if beyond.head? == some l && outs.isEmpty then len else 0, []⟩) s
            | .slice n => s.updSlice n fun x => let y := x.poolWrite bytes; { y with psn := bad ++ y.psn.filter fun b => !bad.contains b }
            | .core n => s.outArrives { core := n, bytes := bytes, psn := bad, atom := none
                                        copy := some ⟨core, slot, c.fut, j, if outs.head? == some (j, sp) && !c.mcast then len else 0, chunkOwners ch.bytes j sp⟩ }) s
          if last then
            (s.updCopy core slot fun c => { c with fin := if c.fin.isSome then c.fin else some c.code }).copyCheck core slot
          else s.send .request core basePort (.copyChunkTranslate core slot)

/-- A chunk with its source bytes in core SRAM read as they stand; a page that is void, or no longer resident, stops the copy (04 R103,
R109). -/
def State.readChunk (s : State) (ch : Chunk) : Chunk :=
  let gone := ch.bytes.findSome? fun b => match b.src with
    | some ⟨.core n, a⟩ => match Tab.look (s.core n).pages (a / 65536) with
      | some x => if x.void then some 3 else if x.away then some 1 else none
      | none => some 3
    | _ => none
  { k := ch.k
    code := if ch.code = 0 then gone.getD 0 else ch.code
    bytes := ch.bytes.map fun b => match b.src with
      | some q => { b with src := none, val := s.placeByte q, psn := s.placePsn q }
      | none => b }

/-- The source bytes in core SRAM of the cluster are read in their chunk's due cycle, before that cycle's landings (04 R103). -/
def State.readDueChunks (s : State) (cluster : Nat) : State :=
  let t := (s.cluster cluster).lcyc
  let ofCopy (s : State) (core slot : Nat) (c : Copy) : State :=
    if c.paced && c.st == .running then
      s.updCopy core slot fun x => { x with staged := x.staged.map (fun ch => if c.due ch.k ≤ t then s.readChunk ch else ch) }
    else s
  (List.range 4).foldl (fun s k =>
    (s.core (cluster * 4 + k)).copies.foldl (fun s (slot, c) => ofCopy s (cluster * 4 + k) slot c) s) s

/-- Has the copy a chunk due by cycle t that is not staged? Then the cluster's clock stops (04 R90, R97, R109). -/
def Copy.late (c : Copy) (t : Nat) : Bool :=
  c.paced && c.st == .running && c.fetching && decide (c.k < c.chunks) && decide (c.due c.k ≤ t)

/-- Does a paced copy act at the end of cycle t? -/
def Copy.acts (c : Copy) (t : Nat) : Bool :=
  c.paced && c.st == .running && (c.cancelled || c.staged.any fun ch => decide (c.due ch.k ≤ t))

/-- One due chunk of a paced copy lands; the copy's final status or suspension follows in the same cycle (04 R107 to R109). -/
def State.landChunk (s : State) (core slot : Nat) (ch : Chunk) : State :=
  match Tab.look (s.core core).copies slot with
  | none => s
  | some c =>
    if c.fin.isSome then s
    else
      let stop := (chunkTargets ch.bytes).findSome? fun (j, sp) => match sp with
        | .core n => let k := s.landCode n (chunkFor ch.bytes j sp).1 (chunkOwners ch.bytes j sp); if k = 0 then none else some k
        | _ => none
      let code := if ch.code ≠ 0 then ch.code else stop.getD 0
      if code ≠ 0 then s.updCopy core slot fun c => { c with fin := some code }
      else
        let s := (chunkTargets ch.bytes).foldl (fun s (j, sp) => match sp with
          | .core n => s.updCore n fun x => x.poolLand (chunkFor ch.bytes j sp).1 (chunkFor ch.bytes j sp).2
          | _ => s) s
        s.updCopy core slot fun c =>
          let c := { c with landed := c.landed + ch.bytes.length, poison := c.poison || ch.bytes.any ChunkByte.psn }
          { c with fin := if ch.k + 1 ≥ c.chunks then some c.code else none }

/-- The due chunks of a paced copy land, in order; a cancel takes effect after them, before a suspension that falls due with them (04 R112). DESIGN
CHOICE (log entry 27): a copy that lands its last chunk, or meets a void page, in the cancel's cycle ends with that code. After a chunk that has
failed no further one is asked for (R109). -/
def State.copyLand (s : State) (core slot : Nat) : State :=
  match Tab.look (s.core core).copies slot with
  | none => s
  | some c =>
    if c.st != .running || !c.paced then s
    else
      let t := s.lcycOf core
      let (now, later) := c.staged.partition fun ch => decide (c.due ch.k ≤ t)
      let s := s.updCopy core slot fun c => { c with staged := later }
      let s := now.foldl (fun s ch => s.landChunk core slot ch) s
      match Tab.look (s.core core).copies slot with
      | none => s
      | some c =>
        let fin := if c.cancelled && (c.fin.isNone || c.fin == some 1 || c.fin == some 2) then some 5 else c.fin
        match fin with
        | some code => (s.updCopy core slot fun c => { c with fin := none, staged := [], fetching := false, cancelled := false }).later
            [.copyFinalStatus core slot code]
        | none =>
          if !c.fetching && decide (c.k < c.chunks) && c.staged.length < 32 && c.staged.all fun ch => ch.code == 0 then
            (s.updCopy core slot fun c => { c with fetching := true }).send .request core basePort (.copyChunkTranslate core slot)
          else s

/-- A `tmove` ends without a commit: the destination entry returns to free and the source entry to present (08 R196). -/
def State.endMove (s : State) (id code : Nat) : State :=
  match Tab.look s.tmoves id with
  | none => s
  | some m =>
    let s := { s with tmoves := Tab.del s.tmoves id }
    let s := (s.keepTile m.dcore m.dentry).updCore m.dcore fun c => { c with tiles := c.tiles.filter fun (e, t) => !(e == m.dentry && t.fut == m.fut) }
    let s := (s.keepTile m.core m.entry).updCore m.core fun c => { c with tiles := c.tiles.map fun (e, t) =>
      (e, if e = m.entry && t.leave == some m.fut && !t.orphan then { t with st := .present, leave := none } else t) }
    s.arriveFut m.core m.fut (BitVec.ofNat 64 code)

/-- A suspended copy is ended with code 5: its tag is set, its slot freed, no future resolves (04 R112). -/
def State.endSuspended (s : State) (core slot : Nat) : State :=
  match Tab.look (s.core core).copies slot with
  | none => s
  | some c => s.updCore core fun x => { x with
      copies := Tab.del x.copies slot
      ctag := if cwTge c.comp then x.ctag ||| (1#64 <<< cwTag c.comp) else x.ctag }

/-- A copy's status: a suspension keeps the slot, but for a warp that has ended; a final status sets the tag, adds the bytes, frees the slot
(04 R109 to R112). Then what its future takes. -/
def State.copyEnds (s : State) (core slot code : Nat) (tell : State → FutAt → W64 → State) : State :=
  match Tab.look (s.core core).copies slot with
  | none => s
  | some c =>
    let v := c.status slot code
    match c.tmove with
    | some id =>
      let s := s.updCore core fun x => { x with copies := Tab.del x.copies slot }
      if code = 0 || code = 7 then s.send .request core basePort (.censusOrder (.move id))
      else s.endMove id (if code = 1 || code = 5 then 5 else 3)
    | none =>
    if code = 1 || code = 2 then
      let s := s.updCopy core slot fun c => { c with st := .suspended code, k := (c.landed + 255) / 256, staged := [], fetching := false, fin := none }
      tell (if s.gone c.fut.wid then s.endSuspended core slot else s) c.fut v
    else
      let s := s.updCore core fun x => { x with
        copies := Tab.del x.copies slot
        ctag := if cwTge c.comp then x.ctag ||| (1#64 <<< cwTag c.comp) else x.ctag
        tagged := if cwTge c.comp then x.tagged ||| (1#64 <<< cwTag c.comp) else x.tagged }
      let s := if cwBce c.comp && (code = 0 || code = 4) then
          s.send .request core basePort (.byteCountAdd (cwBobj c.comp) (c.landed * c.reached.length) c.ten c.lines)
        else s
      tell s c.fut v

/-- A copy's status in the present cycle. That of an unpaced copy of a warp that has ended is an event whose admission this is: its effects take
place at once (04 R92). -/
def State.copyStatus (s : State) (core slot code : Nat) : State :=
  let unpaced := (Tab.look (s.core core).copies slot).any fun c => !c.paced
  s.copyEnds core slot code fun s f v => if unpaced && s.gone f.wid then s.resolveFut core f v else s.resolvesNow core f v

/-- Tag waits of a core whose condition holds: their futures with their statuses (04 R115). -/
def Core.tagsDue (c : Core) : List (FutAt × W64) :=
  (c.tagWaits.filter fun (_, m, all) => if all then c.ctag &&& m == m else c.ctag &&& m != 0 || m == 0).map fun (f, m, _) => (f, c.ctag &&& m)

/-! ### Triggers (04 R104 to R106) -/

/-- The bytes that a copy or a task touches: runs of bytes at a first position and at strides from it, as often as a count says. -/
structure Foot where
  base : Int
  run : Nat
  dims : List (Int × Nat)
  deriving DecidableEq, Repr

def Foot.lowest (f : Foot) : Int := f.base + (f.dims.map fun (s, n) => min 0 (s * ((n : Int) - 1))).sum
def Foot.highest (f : Foot) : Int := f.base + (f.dims.map fun (s, n) => max 0 (s * ((n : Int) - 1))).sum + (f.run : Int) - 1

/-- Strides in ascending order, without those that repeat nothing. -/
def insertDim (x : Nat × Nat) : List (Nat × Nat) → List (Nat × Nat)
  | [] => [x]
  | y :: r => if x.1 ≤ y.1 then x :: y :: r else y :: insertDim x r
def Foot.steps (f : Foot) : List (Nat × Nat) :=
  (f.dims.filterMap fun (s, n) => if s = 0 ∨ n ≤ 1 then none else some (s.natAbs, n)).foldl (fun l x => insertDim x l) []

/-- Strides within the run make a longer run: the run, and the strides that are left. -/
def joinRuns (run : Nat) : List (Nat × Nat) → Nat × List (Nat × Nat)
  | [] => (run, [])
  | (s, n) :: r => if s ≤ run then joinRuns (run + s * (n - 1)) r else (run, (s, n) :: r)

/-- The least byte from a bound on, of runs at strides in descending order. -/
def leastIn (run : Nat) (lo : Int) : List (Nat × Nat) → Int → Option Int
  | [], b => if lo ≤ b + run - 1 then some (max b lo) else none
  | (s, n) :: r, b =>
    let inner := (r.map fun (x, k) => x * (k - 1)).sum + run - 1
    let first := ((lo - b - inner + s - 1) / s).toNat
    (List.range (min (n - first) (inner / s + 2))).foldl (fun best k =>
      let at_ := b + (s * (first + k) : Nat)
      match best with
      | some x => if x ≤ at_ then best else (match leastIn run lo r at_ with
        | some y => some (min x y)
        | none => best)
      | none => leastIn run lo r at_) none

/-- The least position from a bound on that a footprint touches. -/
def Foot.least (f : Foot) (lo : Int) : Option Int :=
  let x := joinRuns f.run f.steps
  leastIn x.1 lo x.2.reverse f.lowest

/-- Where a footprint fails its record's bounds: the VA reported, of its lowest byte below the region, or of its first byte beyond the extent
(17 R385). -/
def spanBad (r : BufRec) (f : Foot) : Option Nat :=
  if brClamp r then none
  else if f.lowest < 0 then some (((brVbase r : Int) + f.lowest) % 2 ^ 56).toNat
  else if f.highest ≥ brExtent r then (f.least (brExtent r)).map fun p => (brVbase r + swizzle r p.toNat) % 2 ^ 56
  else none

/-- The footprint of a shape: its source or its destination (04 R102). -/
def shFoot (r : Shape) (off : Nat) (str : Nat → Int) : Foot :=
  ⟨off, shBnd r 0, [1, 2, 3, 4, 5].map fun d => (str d, shBnd r d)⟩

/-- The first byte of a footprint that stands in a void page of a core's pool, under a record that is not pageable. -/
def State.voidTouched (s : State) (core : Nat) (r : BufRec) (f : Foot) : Option Nat :=
  let c := s.core core
  (List.range (c.ways * 4)).findSome? fun p =>
    let void := match Tab.look c.pages p with
      | some x => x.void
      | none => true
    let lo := p * 65536 - brPbase r
    let hi := min (p * 65536 + 65536 - brPbase r) (brExtent r)
    if void && decide (lo < hi) then match f.least lo with
      | some x => if x < hi then some x.toNat else none
      | none => none
    else none

/-- The cores whose pinned pages a copy's destination names: the one of a record, or one of each cluster of an `mcast` (04 R114). -/
def destCores (sh : Shape) (dst : BufRec) (mcast : Bool) : List Nat :=
  if mcast then (mclOf sh).filterMap fun (_, cl) => if cl < 64 then some (cl * 4 + brHidx dst % 4) else none else [brHidx dst]

/-- The faults of a `go` or `mcast` on its shape, in their order (04 R104): translation, bounds, peer-void. -/
def State.copyFault (s : State) (sh : Shape) (src dst : BufRec) (mcast : Bool) : Option (Nat × Nat) :=
  if !(brVal src && brRead src) then some (0x08, brVbase src + swizzle src (shSoff sh))
  else if !(brVal dst && brWrite dst) then some (0x08, brVbase dst + swizzle dst (shDoff sh))
  else if shBnd sh 0 = 0 then none
  else
    let b := shFoot sh (shDoff sh) (shDstr sh)
    match spanBad src (shFoot sh (shSoff sh) (shSstr sh)) with
    | some va => some (0x09, va)
    | none => match spanBad dst b with
      | some va => some (0x09, va)
      | none =>
        if !brPg dst && brHome dst == 3 then
          ((destCores sh dst mcast).findSome? fun k => s.voidTouched k dst b).map fun p => (0x0A, brVbase dst + swizzle dst p)
        else none

/-- The reason for which a copy is refused (04 R105). An mcl entry of 64 to 0xFE gives reason 6 (log entry 27). -/
def State.copyReason (s : State) (sh : Shape) (dst : BufRec) (mcast paced : Bool) (start rate : Nat) (comp : W64) (ten : Nat) : Option Nat :=
  let o := s.obj (cwBobj comp)
  let mcl := mclOf sh
  if fld sh 115 94 ≠ 0 || shSstr sh 0 ≠ 0 || shDstr sh 0 ≠ 0 then some 1
  else if shBnd sh 0 = 0 then some 2
  else if shBytes sh > 2 ^ 40 then some 3
  else if paced && (start < 8 || start > 65535 || rate < 1 || rate > 4096) then some 4
  else if cwBce comp && (cwBobj comp = 0xFFFF || o.md != 3 || o.ten != some ten) then some 5
  else if mcast && (mcl.isEmpty || mcl.any (fun (_, c) => c > 63) || decide ((mcl.map Prod.snd).eraseDups.length ≠ mcl.length) ||
      brPg dst || brHome dst != 3) then some 6
  else none

/-- Is a `go` paced (04 R107)? -/
def pacedTo (core : Nat) (dst : BufRec) : Bool := !brPg dst && brHome dst == 3 && brHidx dst / 4 == clusterOf core

/-- `go` and `mcast`: wait for earlier stores, read and judge the shape record, take a slot, start (04 R104 to R107, R111). -/
def State.copyTrig (s : State) (w : Warp) (t : MTrig) (mcast : Bool) : Act :=
  s.engineTrig w .cp t.mv fun p off k =>
    let core := s.cur.core
    let o := off.toNat
    let r := (s.core core).segs.getD t.buf.toNat 0
    if !s.writesLanded core w.wid then .wait .room
    else match w.newFuture Un.cp.code with
      | none => .wait .admission
      | some (w', h, f) =>
        match (if brVal r && o % 128 = 0 then s.pinnedAt core (s.tenOf w.nid) r o 128 else none) with
        | none => s.placeFault core (s.tenOf w.nid) r o (s.loc k (brVbase r + o))
        | some a =>
          let sh : Shape := BitVec.ofNat 1024 (leNat (readCells (s.core core).pool a 128))
          let src := (s.core core).segs.getD (shSbuf sh) 0
          let dst := (s.core core).segs.getD (shDbuf sh) 0
          match s.copyFault sh src dst mcast with
          | some (c, va) => .fault c (s.loc k va)
          | none =>
            let paced := !mcast && pacedTo core dst
            let comp := laneAt p.c 0
            match s.copyReason sh dst mcast paced (opA p) (opB p) comp (s.tenOf w.nid) with
            | some reason =>
              let s := s.setMe (w'.engineResult s.now .cp h)
              .next (s.arriveFut core f (BitVec.ofNat 64 (reason * 256 + 6)))
            | none => match Tab.lowestFree (s.core core).copies 16 with
              | none => .wait .admission
              | some slot =>
                let c : Copy := { fut := f, nid := w.nid, ten := s.tenOf w.nid, shape := sh, src := src, dst := dst, comp := comp
                                  mcast := mcast, paced := paced, t := s.now, start := opA p, rate := opB p, k0 := 0
                                  behind := s.writesOf core w.wid, old := s.mapping core, k := 0, fetching := true }
                let s := s.setMe (w'.engineResult s.now .cp h)
                let s := s.updCore core fun x => { x with
                  copies := Tab.put x.copies slot c
                  ctag := if cwTge comp then x.ctag &&& ~~~(1#64 <<< cwTag comp) else x.ctag }
                .next (s.send .request core basePort (.copyChunkTranslate core slot))

/-- `go` (R330). -/
def execGo (t : MTrig) (s : State) : Outcome State Fault Refusal := issue s fun w => s.copyTrig w t false
/-- `mcast` (R330, 04 R114). -/
def execMcast (t : MTrig) (s : State) : Outcome State Fault Refusal := issue s fun w => s.copyTrig w t true

/-- `resume`: once the warp's earlier stores have landed, a suspended copy of it goes on from its first chunk that has not landed (04 R113, 09
R221; log entry 75). -/
def execCopyResume (m : Mv) (s : State) : Outcome State Fault Refusal :=
  issue s fun w => s.engineTrig w .cp m fun p v _ =>
    if !s.writesLanded s.cur.core w.wid then .wait .room else s.withFuture w .cp fun s w f =>
    let core := s.cur.core
    let slot := fld v 7 4
    let code := fld v 3 0
    match Tab.look (s.core core).copies slot with
    | some c =>
      if !(c.fut.wid == w.wid && c.st == .suspended code) then s.arriveFut core f 0x706
      else if c.paced && (opA p < 8 || opA p > 65535 || opB p < 1 || opB p > 4096) then s.arriveFut core f 0x406
      else
        let s := s.updCopy core slot fun c => { c with
          behind := s.writesOf core w.wid, fut := f, t := s.now, start := opA p, rate := opB p, k0 := c.k, old := s.mapping core, st := .running
          fetching := true, staged := [], fin := none, cancelled := false }
        s.send .request core basePort (.copyChunkTranslate core slot)
    | none => s.arriveFut core f 0x706

/-- A tag wait (04 R115). -/
def State.tagWait (s : State) (w : Warp) (m : Mv) (all : Bool) : Act :=
  s.engineTrig w .cp m fun _ v _ => s.withFuture w .cp fun s _ f =>
    s.updCore s.cur.core fun c => { c with tagWaits := c.tagWaits ++ [(f, v, all)] }

/-- `cwany` (R330). -/
def execCwany (m : Mv) (s : State) : Outcome State Fault Refusal := issue s fun w => s.tagWait w m false
/-- `cwall` (R330). -/
def execCwall (m : Mv) (s : State) : Outcome State Fault Refusal := issue s fun w => s.tagWait w m true

/-- The lowest set bit of a mask, 64 for none. -/
def lowBit (v : W64) : Nat := ((List.range 64).find? fun i => bit v i).getD 64

/-- `cffr`: the lowest tag that is set and asked for, cleared; what a final status has set in this cycle stays set (04 R115, 14 R331). -/
def execCffr (m : Mv) (s : State) : Outcome State Fault Refusal :=
  issue s fun w => s.engineTrig w .cp m fun _ v _ =>
    let k := lowBit ((s.core s.cur.core).ctag &&& v)
    let s := s.setMe (w.engineResult s.now .cp (BitVec.ofNat 64 k))
    .next (s.updCore s.cur.core fun c => { c with ctag := c.ctag &&& ~~~((1#64 <<< k) &&& ~~~c.tagged) })

end Sys2Proof.Machine
end

