-- ==== Sys2Proof/Machine/Numbers.lean ====
section
/-! DEFINITION. Floating-point numbers: formats, exact values, the one rounding function, 4-bit blocks, and exact values of the special
functions (06_numbers R148 to R160, R165; 13 R301, R302). -/

namespace Sys2Proof.Machine

/-- A format: exponent and fraction bits, bias; E4M3 has no infinity (06 R148). -/
structure Fmt where
  eb : Nat
  mb : Nat
  bias : Nat
  e4m3 : Bool := false
  deriving DecidableEq, Repr

def f64 : Fmt := ⟨11, 52, 1023, false⟩
def f32 : Fmt := ⟨8, 23, 127, false⟩
def f16 : Fmt := ⟨5, 10, 15, false⟩
def bf16 : Fmt := ⟨8, 7, 127, false⟩
def e4m3 : Fmt := ⟨4, 3, 7, true⟩
def e5m2 : Fmt := ⟨5, 2, 15, false⟩

/-- The format of one element of a floating-point type. -/
def fmtOf (ty : Ty) : Fmt := match ty with
  | .f64 => f64
  | .f16 | .f16x2 => f16
  | .bf16 | .bf16x2 => bf16
  | .e4m3 => e4m3
  | .e5m2 => e5m2
  | _ => f32

/-- A value: a NaN, signalling or quiet; an infinity; or (−1)^neg × m × 2^e. -/
inductive FVal where
  | nan (signalling : Bool)
  | inf (neg : Bool)
  | fin (neg : Bool) (m : Nat) (e : Int)
  deriving DecidableEq, Repr

/-- The value of an encoding (06 R148). -/
def decodeF (f : Fmt) (b : Nat) : FVal :=
  let fr := b % 2 ^ f.mb
  let ex := b / 2 ^ f.mb % 2 ^ f.eb
  let neg := b / 2 ^ (f.mb + f.eb) % 2 == 1
  let top := 2 ^ f.eb - 1
  if f.e4m3 then
    if ex = top ∧ fr = 7 then .nan false
    else if ex = 0 then .fin neg fr (1 - (f.bias : Int) - f.mb) else .fin neg (fr + 2 ^ f.mb) ((ex : Int) - f.bias - f.mb)
  else if ex = top then
    if fr = 0 then .inf neg else .nan (f.mb > 2 && fr / 2 ^ (f.mb - 1) == 0)
  else if ex = 0 then .fin neg fr (1 - (f.bias : Int) - f.mb) else .fin neg (fr + 2 ^ f.mb) ((ex : Int) - f.bias - f.mb)

/-- Is the encoding a subnormal? -/
def isSub (f : Fmt) (b : Nat) : Bool := b / 2 ^ f.mb % 2 ^ f.eb == 0 && b % 2 ^ f.mb != 0

/-- An operand as a trigger reads it: a subnormal is a zero of its sign under ftz (06 R159). -/
def readF (f : Fmt) (ftz : Bool) (b : Nat) : FVal :=
  match decodeF f b with
  | .fin neg m e => if ftz && isSub f b then .fin neg 0 e else .fin neg m e
  | v => v

/-- The canonical NaN (06 R149). -/
def nanOf (f : Fmt) : Nat := if f.e4m3 then 0x7F else (2 ^ f.eb - 1) * 2 ^ f.mb + 2 ^ (f.mb - 1)
def signOf (f : Fmt) (neg : Bool) : Nat := if neg then 2 ^ (f.mb + f.eb) else 0
def infOf (f : Fmt) (neg : Bool) : Nat := if f.e4m3 then nanOf f else signOf f neg + (2 ^ f.eb - 1) * 2 ^ f.mb
/-- The largest finite magnitude: its encoding. -/
def maxBits (f : Fmt) : Nat := if f.e4m3 then 0x7E else (2 ^ f.eb - 1) * 2 ^ f.mb - 1
def maxFin (f : Fmt) (neg : Bool) : Nat := signOf f neg + maxBits f

/-- A magnitude m × 2^e; with `more`, the true one lies strictly between it and (m + 1) × 2^e. -/
structure Mag where
  m : Nat
  e : Int
  more : Bool := false
  deriving DecidableEq, Repr

/-- A magnitude in units of 2^−16 of the place q, rounded down, and whether that is exact (06 R160). -/
def Mag.units (x : Mag) (q : Int) : Nat × Bool :=
  let d := x.e - q + 16
  if d ≥ 0 then (x.m * 2 ^ d.toNat, !x.more)
  else (x.m / 2 ^ (-d).toNat, x.m % 2 ^ (-d).toNat == 0 && !x.more)

/-- A magnitude rounded to the place q: the multiple, and whether it differs from the magnitude (06 R157, R160). -/
def Mag.roundAt (x : Mag) (rm : RMode) (neg : Bool) (g : Nat) (q : Int) : Nat × Bool :=
  let (u, exact) := x.units q
  let k := u / 65536
  let r := u % 65536
  let nx := r != 0 || !exact
  let up := match rm with
    | .rne => r > 32768 || (r == 32768 && (!exact || k % 2 == 1))
    | .rtz => false
    | .rup => !neg && nx
    | .rdn => neg && nx
    | .rna => r ≥ 32768
    | .sr => r + g ≥ 65536
  (if up then k + 1 else k, nx)

def flog2 (m : Nat) : Nat := Nat.log2 m

/-- The binade of a magnitude that is not 0. -/
def Mag.binade (x : Mag) : Int := (flog2 x.m : Int) + x.e

/-- Is k × 2^q above the format's largest finite value? -/
def above (f : Fmt) (k : Nat) (q : Int) : Bool :=
  let big := if f.e4m3 then 14 else 2 ^ (f.mb + 1) - 1
  let bq : Int := if f.e4m3 then 5 else (2 ^ f.eb - 2 : Nat) - (f.bias : Int) - f.mb
  if q ≥ bq then k * 2 ^ (q - bq).toNat > big else k > big * 2 ^ (bq - q).toNat

/-- The encoding of k × 2^q, a point of the format's grid. -/
def encodeAt (f : Fmt) (neg : Bool) (k : Nat) (q : Int) : Nat :=
  if k = 0 then signOf f neg
  else
    let (k, q) := if k = 2 ^ (f.mb + 1) then (2 ^ f.mb, q + 1) else (k, q)
    signOf f neg + if k < 2 ^ f.mb then k else (q + f.mb + f.bias).toNat * 2 ^ f.mb + (k - 2 ^ f.mb)

/-- `round(x, rm, fmt)` of an exact magnitude that is not 0, with overflow, saturation, underflow and flushing (06 R157 to R160). -/
def roundMag (f : Fmt) (r : RCtl) (g : Nat) (neg : Bool) (x : Mag) : Nat × BitVec 8 :=
  let emin : Int := 1 - (f.bias : Int)
  let b := x.binade
  let q := max b emin - f.mb
  let tiny := b < emin && (let k := (x.roundAt r.rm neg g (b - f.mb)).1; !(b + 1 == emin && k == 2 ^ (f.mb + 1)))
  if r.ftz && tiny then (signOf f neg, flUf ||| flNx)
  else
    let (k, nx) := x.roundAt r.rm neg g q
    if above f k q then
      if r.sat then (maxFin f neg, flOf ||| flNx ||| flSat)
      else
        let toInf := match r.rm with
          | .rtz => false
          | .rup => !neg
          | .rdn => neg
          | _ => true
        (if toInf then infOf f neg else maxFin f neg, flOf ||| flNx)
    else (encodeAt f neg k q, flIf nx flNx ||| flIf (tiny && nx) flUf)

/-- A result: a NaN, an infinity no rounding produced, a signed zero, or a magnitude to round (06 R149, R158, 13 R297). -/
def finish (f : Fmt) (r : RCtl) (g : Nat) (fl : BitVec 8) (x : FVal) (more : Bool := false) : Nat × BitVec 8 :=
  match x with
  | .nan _ => (nanOf f, fl)
  | .inf neg =>
    if r.sat then (maxFin f neg, fl ||| flSat)
    else if f.e4m3 then (nanOf f, fl ||| flNv) else (infOf f neg, fl)
  | .fin neg m e =>
    if m = 0 && !more then (signOf f neg, fl)
    else
      let o := roundMag f r g neg ⟨m, e, more⟩
      (o.1, fl ||| o.2)

def FVal.isNan : FVal → Bool
  | .nan _ => true
  | _ => false
def FVal.isSnan : FVal → Bool
  | .nan x => x
  | _ => false
def FVal.negate : FVal → FVal
  | .inf s => .inf (!s)
  | .fin s m e => .fin (!s) m e
  | v => v

/-- An exact product, none for 0 × ∞ (06 R166). -/
def prodF : FVal → FVal → Option FVal
  | .nan _, _ => some (.nan false)
  | _, .nan _ => some (.nan false)
  | .inf a, .inf b => some (.inf (a != b))
  | .inf a, .fin b m _ => if m = 0 then none else some (.inf (a != b))
  | .fin b m _, .inf a => if m = 0 then none else some (.inf (a != b))
  | .fin a m e, .fin b n k => some (.fin (a != b) (m * n) (e + k))

/-- The product of 06 R166: of two infinities of opposite sign, and of zero and infinity, none (log entry 64). -/
def mulF (x y : FVal) : Option FVal := match x, y with
  | .inf a, .inf b => if a == b then prodF x y else none
  | _, _ => prodF x y

/-- m × 2^e as an integer number of 2^k, for k ≤ e. -/
def scaled (neg : Bool) (m : Nat) (e k : Int) : Int := (if neg then -1 else 1) * (m * 2 ^ (e - k).toNat : Nat)

/-- An exact sum, none for ∞ − ∞; an exact zero of terms of unlike signs takes the sign of 06 R157. -/
def addF (rm : RMode) : FVal → FVal → Option FVal
  | .nan _, _ => some (.nan false)
  | _, .nan _ => some (.nan false)
  | .inf a, .inf b => if a = b then some (.inf a) else none
  | .inf a, .fin _ _ _ => some (.inf a)
  | .fin _ _ _, .inf a => some (.inf a)
  | .fin a m e, .fin b n k =>
    let q := min e k
    let x := scaled a m e q + scaled b n k q
    if x = 0 then some (.fin (if a = b then a else rm == .rdn) 0 q)
    else some (.fin (x < 0) x.natAbs q)

/-- a × b + c exactly, one rounding later (06 R166). -/
def fmaF (rm : RMode) (a b c : FVal) : Option FVal :=
  match mulF a b with
  | none => none
  | some p => addF rm p c

/-- −(a × b) + c exactly (13 R297): the product is that of 06 R166 before it is negated. -/
def fnmaF (rm : RMode) (a b c : FVal) : Option FVal :=
  match mulF a b with
  | none => none
  | some p => addF rm p.negate c

/-- The outcome of an arithmetic function: NaN operands first, then invalid forms, then one rounding (13 R297). -/
def arith (f : Fmt) (r : RCtl) (g : Nat) (ops : List FVal) (x : Option FVal) : Nat × BitVec 8 :=
  let fl := flIf (ops.any FVal.isSnan) flNv
  if ops.any FVal.isNan then (nanOf f, fl)
  else match x with
    | none => (nanOf f, fl ||| flNv)
    | some v => finish f r g fl v

/-- A key that orders finite values and infinities, −0 below +0; NaNs apart. -/
def ordF : FVal → FVal → Bool  -- strictly less, −0 below +0
  | .nan _, _ => false
  | _, .nan _ => false
  | .inf a, .inf b => a && !b
  | .inf a, .fin _ _ _ => a
  | .fin _ _ _, .inf b => !b
  | .fin a m e, .fin b n k =>
    let q := min e k
    let x := scaled a m e q
    let y := scaled b n k q
    x < y || (x == y && m == 0 && a && !b)

/-- Numeric equality; the zeros are equal. -/
def eqF : FVal → FVal → Bool
  | .inf a, .inf b => a == b
  | .fin a m e, .fin b n k => scaled a m e (min e k) == scaled b n k (min e k)
  | _, _ => false

/-- The encoding of a value that the format represents. -/
def exactF (f : Fmt) (v : FVal) : Nat := (finish f ⟨.rne, false, false⟩ 0 0 v).1

/-! ### 4-bit blocks (06 R151 to R154) -/

/-- d(type, code), in eighths (06 R152). -/
def q4Mag (ty c : Nat) : Nat := match ty with
  | 1 => [0, 4, 8, 12, 16, 24, 32, 48].getD c 0
  | 2 => [0, 1, 2, 4, 8, 16, 32, 64].getD c 0
  | _ => [0, 8, 16, 24, 32, 64, 128, 256].getD c 0
def q4Val (ty c : Nat) : FVal :=
  if ty = 0 then
    let v := signed 4 c
    .fin (v < 0) (v.natAbs * 8) (-3)
  else .fin (c ≥ 8) (q4Mag ty (c % 8)) (-3)

/-- The greatest magnitude code and value (in eighths) below and above zero. -/
def q4Top (ty : Nat) : Nat := [2, 2, 3, 5].getD ty 2

/-- The code of a value in units of an eighth with a sign, y = ±m × 2^e, and its flags (06 R153). -/
def q4Encode (ty : Nat) (rm : RMode) (g : Nat) (neg : Bool) (m : Nat) (e : Int) : Nat × BitVec 8 :=
  let code (k : Nat) : Nat := if ty = 0 then (if neg then (16 - k) % 16 else k) else (if neg then 8 + k else k)
  let col (k : Nat) : Nat := if ty = 0 then k * 8 else q4Mag ty k
  let last : Nat := if ty = 0 then (if neg then 8 else 7) else 7
  -- compare |y| with column values, both in units of 2^(min e (-3))
  let q : Int := min e (-3)
  let y := m * 2 ^ (e - q).toNat
  let c (k : Nat) : Nat := col k * 2 ^ (-3 - q).toNat
  if y > c last then (code last, flSat ||| flNx)
  else
    let lo := ((List.range (last + 1)).filter fun k => c k ≤ y).getLast?.getD 0
    if c lo = y then (if y = 0 then (if ty = 0 then 0 else if neg then 8 else 0) else code lo, 0)
    else
      let hi := lo + 1
      let dl := y - c lo
      let gap := c hi - c lo
      let up := match rm with
        | .rne => 2 * dl > gap || (2 * dl == gap && code hi % 2 == 0)
        | .rtz => false
        | .rup => !neg
        | .rdn => neg
        | .rna => 2 * dl ≥ gap
        | .sr => dl * 65536 / gap + g ≥ 65536
      let k := if up then hi else lo
      (if k = 0 then (if ty = 0 then 0 else if neg then 8 else 0) else code k, flNx)

/-- A computed scale exponent from the largest magnitude (06 R154). -/
def q4Scale (ty : Nat) (xs : List FVal) : Nat :=
  let best := xs.foldl (fun b x => match x with
    | .fin _ m e => if m = 0 then b else some (max (b.getD ((flog2 m : Int) + e)) ((flog2 m : Int) + e))
    | _ => b) (none : Option Int)
  match best with
  | none => 0
  | some l => (max 0 (min 62 (l - q4Top ty + 32))).toNat

/-- A block from 32 elements: codes, scale byte, flags (06 R153, R154). DESIGN CHOICE (log entry 78): a scale of 63 given by a task record, which
07 R171 does not list, makes the NaN block of R154. -/
def q4Block (ty : Nat) (scale : Option Nat) (rm : RMode) (gs : List Nat) (xs : List FVal) : List Nat × Nat × BitVec 8 :=
  let bad := xs.any fun x => match x with
    | .fin _ _ _ => false
    | _ => true
  let e := scale.getD (q4Scale ty xs)
  if bad then (xs.map fun _ => 0, ty * 64 + 63, flNv)
  else if e = 63 then (xs.map fun _ => 0, ty * 64 + 63, flNv)
  else
    let r := (xs.zip gs).map fun (x, g) => match x with
      | .fin neg m k => q4Encode ty rm g neg m (k - ((e : Int) - 32))
      | _ => (0, 0)
    (r.map Prod.fst, ty * 64 + e, r.foldl (fun f x => f ||| x.2) 0)

/-! ### Fixed-point evaluation of the special functions (13 R301): values in units of 2^−p, true within 2^16 units -/

/-- atanh(1/n) by its series. -/
def atanhInv (p n : Nat) : Nat :=
  let rec go (fuel k t acc : Nat) : Nat := match fuel with
    | 0 => acc
    | f + 1 => if t = 0 then acc else go f (k + 2) (t / (n * n)) (acc + t / k)
  go p 1 (2 ^ p / n) 0
def ln2Fix (p : Nat) : Nat := 18 * atanhInv p 26 + 8 * atanhInv p 8749 - 2 * atanhInv p 4801

/-- arctan(1/n) by its series, alternating. -/
def atanInv (p n : Nat) : Nat :=
  let rec go (fuel k t : Nat) (plus : Bool) (acc : Int) : Int := match fuel with
    | 0 => acc
    | f + 1 => if t = 0 then acc else go f (k + 2) (t / (n * n)) (!plus) (if plus then acc + (t / k : Nat) else acc - (t / k : Nat))
  (go p 1 (2 ^ p / n) true 0).toNat
def piFix (p : Nat) : Nat := 4 * (4 * atanInv p 5) - 4 * atanInv p 239

/-- e^t for 0 ≤ t < 1. -/
def expFix (p t : Nat) : Nat :=
  let rec go (fuel k x acc : Nat) : Nat := match fuel with
    | 0 => acc
    | f + 1 => if x = 0 then acc else go f (k + 1) (x * t / 2 ^ p / k) (acc + x)
  go p 1 (2 ^ p) 0

/-- ln(n/d) for 1 ≤ n/d < 2. -/
def lnFix (p n d : Nat) : Nat :=
  let z := (n - d) * 2 ^ p / (n + d)
  let z2 := z * z / 2 ^ p
  let rec go (fuel k x acc : Nat) : Nat := match fuel with
    | 0 => acc
    | f + 1 => if x = 0 then acc else go f (k + 2) (x * z2 / 2 ^ p) (acc + x / k)
  2 * go p 1 z 0

/-- sin r and cos r for 0 ≤ r < 2. -/
def sinCosFix (p r : Nat) : Int × Int :=
  let rec go (fuel k x : Nat) (q : Nat) (sn cs : Int) : Int × Int := match fuel with
    | 0 => (sn, cs)
    | f + 1 =>
      if x = 0 then (sn, cs)
      else
        let (sn, cs) := match q % 4 with
          | 0 => (sn, cs + x)
          | 1 => (sn + x, cs)
          | 2 => (sn, cs - x)
          | _ => (sn - x, cs)
        go f (k + 1) (x * r / 2 ^ p / k) (q + 1) sn cs
  go (2 * p) 1 (2 ^ p) 0 0 0

/-- A magnitude from an approximation within 2^16 units of 2^−p, cut to `keep` bits, when every value in that interval is cut alike. -/
def pin (keep p v : Nat) : Option Mag :=
  let lo := v - 65536
  let hi := v + 65536
  let cut := flog2 hi - keep
  if lo / 2 ^ cut = hi / 2 ^ cut ∧ v > 131072 then some ⟨lo / 2 ^ cut, (cut : Int) - p, true⟩ else none

/-- The first precision at which an approximation pins its value down (the values of 13 R301 that are not exact are irrational, so one
does; log entry 13). -/
def firstPin (f : Nat → Nat × Option Nat) : List Nat → Mag
  | [] => ⟨1, 0, true⟩
  | p :: r => match f p with
    | (q, some v) => match pin 48 q v with
      | some m => m
      | none => firstPin f r
    | (_, none) => firstPin f r

def precisions : List Nat := [128, 256, 512, 1024]

/-- 2^x for x = ±m × 2^e that is no integer. -/
def exp2Mag (neg : Bool) (m : Nat) (e : Int) : Mag :=
  if (flog2 m : Int) + e ≥ 11 then (if neg then ⟨1, -3000, true⟩ else ⟨1, 3000, true⟩)
  else firstPin (fun p =>
    let x := scaled neg m e (min e 0)
    let u := (2 : Int) ^ (-(min e 0)).toNat
    let n := x / u
    let fr := x - n * u
    let fx := (fr.toNat * 2 ^ p) / u.toNat
    ((p : Int) - n |>.toNat, some (expFix p (fx * ln2Fix p / 2 ^ p)))) (precisions.map (· + 1024))

/-- log2 of m × 2^e, m no power of two: sign and magnitude. -/
def log2Mag (m : Nat) (e : Int) : Bool × Mag :=
  let k := flog2 m
  let whole : Int := (k : Int) + e
  let neg := whole < 0
  (neg, firstPin (fun p =>
    let l := lnFix p m (2 ^ k) * 2 ^ p / ln2Fix p
    let v := whole * 2 ^ p + l
    (p, some v.natAbs)) precisions)

/-- sin (or cos) of m × 2^e: sign for a positive argument, and magnitude. -/
def trigMag (cosine : Bool) (m : Nat) (e : Int) : Bool × Mag :=
  let val (p : Nat) : Int :=
    let pp := p + 160
    let half := piFix pp / 2
    let x : Nat := if e + pp ≥ 0 then m * 2 ^ (e + pp).toNat else m / 2 ^ (-(e + pp)).toNat
    let k := x / half
    let r := (x % half) / 2 ^ 160
    let (sn, cs) := sinCosFix p r
    match (if cosine then k + 1 else k) % 4 with
    | 0 => sn
    | 1 => cs
    | 2 => -sn
    | _ => -cs
  (val 512 < 0, firstPin (fun p => (p, some (val p).natAbs)) [192, 384, 768])

/-- tanh of m × 2^e for arguments from 2^−20 to 64. -/
def tanhMag (m : Nat) (e : Int) : Mag :=
  firstPin (fun p =>
    let ln2 := ln2Fix p
    let t : Nat := if e + p + 1 ≥ 0 then m * 2 ^ (e + p + 1).toNat else m / 2 ^ (-(e + p + 1)).toNat
    let k := t / ln2
    let ex := expFix p (t % ln2) * 2 ^ k      -- e^(2x), 2^-p units
    (p, some ((ex - 2 ^ p) * 2 ^ p / (ex + 2 ^ p)))) precisions

/-- Integer square root by bits. -/
def isqrt (n : Nat) : Nat :=
  let rec go (k r : Nat) : Nat := match k with
    | 0 => r
    | k + 1 => let c := r + 2 ^ k; go k (if c * c ≤ n then c else r)
  go (flog2 n / 2 + 1) 0

/-- The square root of num/den × 2^(2h), exact or cut at 2^−60 and below. -/
def sqrtMag (num den : Nat) (h : Int) : Mag :=
  let p : Nat := 160
  let y := num * 2 ^ (2 * p) / den
  let r := isqrt y
  ⟨r, h - p, !(num * 2 ^ (2 * p) % den == 0 && r * r == y)⟩

end Sys2Proof.Machine
end

