-- ==== Sys2Proof/Machine/FloatOps.lean ====
section
/-! DEFINITION. The floating-point functions of fa and fb, and the conversions and special functions of cv
(13_lane_and_scalar_functions R297 to R304, 06_numbers R165). -/

namespace Sys2Proof.Machine

open Host (Outcome)

/-- Elements of a packed or plain floating-point type (13 R286). -/
def nElems (ty : Ty) : Nat := match ty with
  | .f16x2 | .bf16x2 => 2
  | _ => 1

/-- Width of one element. -/
def elemBits (ty : Ty) : Nat := let f := fmtOf ty; f.eb + f.mb + 1

/-- Element k of an operand. -/
def elemOf (ty : Ty) (x : W64) (k : Nat) : Nat := x.toNat / 2 ^ (16 * k) % 2 ^ elemBits ty

/-- A function of each element, the results packed and the flags joined (13 R299). -/
def perElem (ty : Ty) (f : Nat → Nat × BitVec 8) : LaneOut :=
  let r := (List.range (nElems ty)).map f
  ⟨BitVec.ofNat 64 (((List.range (nElems ty)).zip r).map fun (k, x) => x.1 * 2 ^ (16 * k)).sum, 0, r.foldl (fun a x => a ||| x.2) 0⟩

/-- Latency of fa and fb: 4, or 8 for FP64 (05 R120). -/
def faLat (ty : Ty) : Nat := if ty = .f64 then 8 else 4

/-- An arithmetic function of two or three operands on every element (13 R297). -/
def faArith (ty : Ty) (op : RMode → FVal → FVal → FVal → List FVal × Option FVal)
    (r : RCtl) (a b t : W64) (gs : List Nat) : LaneOut :=
  perElem ty fun k =>
    let v (x : W64) := readF (fmtOf ty) r.ftz (elemOf ty x k)
    let o := op r.rm (v a) (v b) (v t)
    arith (fmtOf ty) r (gs.getD k 0) o.1 o.2

/-- The operands and the exact value of `add`, `sub`, `mul`, `fma` and `fnma` (13 R297). -/
def opAddF (rm : RMode) (a _ t : FVal) : List FVal × Option FVal := ([a, t], addF rm a t)
def opSubF (rm : RMode) (a _ t : FVal) : List FVal × Option FVal := ([a, t], addF rm a t.negate)
def opMulF (_ : RMode) (a _ t : FVal) : List FVal × Option FVal := ([a, t], mulF a t)
def opFma (rm : RMode) (a b t : FVal) : List FVal × Option FVal := ([a, b, t], fmaF rm a b t)
def opFnma (rm : RMode) (a b t : FVal) : List FVal × Option FVal := ([a, b, t], fnmaF rm a b t)

/-- `add` of fa and fb (13 R297). -/
def execFaAdd (u : Which) (ty : Ty) (t : Trig) (s : State) : Outcome State Fault Refusal :=
  issue s fun w => s.roundTrig w (u.pick .fa .fb) (faLat ty) t ty.is64 (nElems ty) fun r a b _ x gs => faArith ty opAddF r a b x gs

/-- `sub` of fa and fb (13 R297). -/
def execFaSub (u : Which) (ty : Ty) (t : Trig) (s : State) : Outcome State Fault Refusal :=
  issue s fun w => s.roundTrig w (u.pick .fa .fb) (faLat ty) t ty.is64 (nElems ty) fun r a b _ x gs => faArith ty opSubF r a b x gs

/-- `mul` of fa and fb (13 R297). -/
def execFaMul (u : Which) (ty : Ty) (t : Trig) (s : State) : Outcome State Fault Refusal :=
  issue s fun w => s.roundTrig w (u.pick .fa .fb) (faLat ty) t ty.is64 (nElems ty) fun r a b _ x gs => faArith ty opMulF r a b x gs

/-- `fma` of fa and fb (13 R297). -/
def execFma (u : Which) (ty : Ty) (t : Trig) (s : State) : Outcome State Fault Refusal :=
  issue s fun w => s.roundTrig w (u.pick .fa .fb) (faLat ty) t ty.is64 (nElems ty) fun r a b _ x gs => faArith ty opFma r a b x gs

/-- `fnma` of fa and fb (13 R297). -/
def execFnma (u : Which) (ty : Ty) (t : Trig) (s : State) : Outcome State Fault Refusal :=
  issue s fun w => s.roundTrig w (u.pick .fa .fb) (faLat ty) t ty.is64 (nElems ty) fun r a b _ x gs => faArith ty opFnma r a b x gs

/-- The smaller or the larger of two values as encodings, with the flag of a signalling NaN (13 R298). -/
def pickF (f : Fmt) (less : FVal → FVal → Bool) (x y : Nat) : Nat × BitVec 8 :=
  let a := decodeF f x
  let t := decodeF f y
  (if a.isNan || t.isNan then nanOf f else if less a t then x else y, flIf (a.isSnan || t.isSnan) flNv)

/-- A comparison: 1 or 0, and invalid for a signalling NaN, or any NaN where `ordered` (13 R298). -/
def compareF (f : Fmt) (ordered : Bool) (rel : FVal → FVal → Bool) (x y : Nat) : Nat × BitVec 8 :=
  let a := decodeF f x
  let t := decodeF f y
  let nan := a.isNan || t.isNan
  (if !nan && rel a t then 1 else 0, flIf (a.isSnan || t.isSnan || (ordered && nan)) flNv)

def faCompare (ty : Ty) (f : Nat → Nat → Nat × BitVec 8) (a t : W64) : LaneOut := perElem ty fun k => f (elemOf ty a k) (elemOf ty t k)

def ltF (a t : FVal) : Bool := ordF a t && !eqF a t
def leF (a t : FVal) : Bool := ordF a t || eqF a t

/-- `min` of fa and fb (13 R298). -/
def execFaMin (u : Which) (ty : Ty) (t : Trig) (s : State) : Outcome State Fault Refusal :=
  issue s fun w => s.laneTrig w (u.pick .fa .fb) (faLat ty) t.mv ty.is64 fun a _ _ x => faCompare ty (pickF (fmtOf ty) ordF) a x

/-- `max` of fa and fb (13 R298). -/
def execFaMax (u : Which) (ty : Ty) (t : Trig) (s : State) : Outcome State Fault Refusal :=
  issue s fun w => s.laneTrig w (u.pick .fa .fb) (faLat ty) t.mv ty.is64 fun a _ _ x => faCompare ty (pickF (fmtOf ty) fun p q => ordF q p) a x

/-- `eq` of fa and fb (13 R298). -/
def execFaEq (u : Which) (ty : Ty) (t : Trig) (s : State) : Outcome State Fault Refusal :=
  issue s fun w => s.laneTrig w (u.pick .fa .fb) (faLat ty) t.mv ty.is64 fun a _ _ x => faCompare ty (compareF (fmtOf ty) false eqF) a x

/-- `lt` of fa and fb (13 R298). -/
def execFaLt (u : Which) (ty : Ty) (t : Trig) (s : State) : Outcome State Fault Refusal :=
  issue s fun w => s.laneTrig w (u.pick .fa .fb) (faLat ty) t.mv ty.is64 fun a _ _ x => faCompare ty (compareF (fmtOf ty) true ltF) a x

/-- `le` of fa and fb (13 R298). -/
def execFaLe (u : Which) (ty : Ty) (t : Trig) (s : State) : Outcome State Fault Refusal :=
  issue s fun w => s.laneTrig w (u.pick .fa .fb) (faLat ty) t.mv ty.is64 fun a _ _ x => faCompare ty (compareF (fmtOf ty) true leF) a x

/-! ### Conversions (06 R165, 13 R300) -/

/-- The least and greatest value of an integer type of cv, whose 8-bit types are one byte. -/
def cvMin (ty : Ty) : Int := match ty with
  | .s8 => -128
  | .s32 => -(2 ^ 31)
  | .s64 => -(2 ^ 63)
  | _ => 0
def cvMax (ty : Ty) : Int := match ty with
  | .b8 => 255
  | .s8 => 127
  | .b32 => 2 ^ 32 - 1
  | .s32 => 2 ^ 31 - 1
  | .b64 => 2 ^ 64 - 1
  | _ => 2 ^ 63 - 1
def cvBits (ty : Ty) : Nat := match ty with
  | .b8 | .s8 | .e4m3 | .e5m2 => 8
  | .f16 | .bf16 => 16
  | .b64 | .s64 | .f64 => 64
  | _ => 32

/-- An integer source's exact value. -/
def cvInt (ty : Ty) (x : W64) : Int :=
  let v := x.toNat % 2 ^ cvBits ty
  if ty.isSigned then signed (cvBits ty) v else (v : Int)

def cvWord (ty : Ty) (x : Int) : W64 := BitVec.ofNat 64 (x % 2 ^ cvBits ty).toNat

/-- A number clamped to an integer type, and whether it was clamped. -/
def clampTo (ty : Ty) (x : Int) : Int × Bool :=
  if x < cvMin ty then (cvMin ty, true) else if cvMax ty < x then (cvMax ty, true) else (x, false)

/-- `cvt.d.c` on one operand (13 R300). -/
def cvtOut (d c : Ty) (r : RCtl) (x : W64) (g : Nat) : LaneOut :=
  if c.isFloat then
    let v := readF (fmtOf c) r.ftz (x.toNat % 2 ^ cvBits c)
    if d.isFloat then
      let o := finish (fmtOf d) r g (flIf v.isSnan flNv) (if v.isNan then .nan false else v)
      ⟨BitVec.ofNat 64 o.1, 0, o.2⟩
    else match v with
      | .nan _ => ⟨0, 0, flNv⟩
      | .inf neg => ⟨cvWord d (if neg then cvMin d else cvMax d), 0, flNv⟩
      | .fin neg m e =>
        let (k, nx) := (Mag.mk m e false).roundAt r.rm neg g 0
        let (y, out) := clampTo d (if neg then -(k : Int) else k)
        ⟨cvWord d y, 0, if out then flNv else flIf nx flNx⟩
  else
    let v := cvInt c x
    if d.isFloat then
      let o := finish (fmtOf d) r g 0 (.fin (v < 0) v.natAbs 0)
      ⟨BitVec.ofNat 64 o.1, 0, o.2⟩
    else
      let (y, out) := clampTo d v
      ⟨cvWord d y, 0, flIf out flSat⟩

/-- `cvt` of cv, latency 6; the source's type decides a wide read (05 R123, 13 R300). -/
def execCvt (d c : Ty) (t : Trig) (s : State) : Outcome State Fault Refusal :=
  issue s fun w => s.roundTrig w .cv 6 t c.is64 1 fun r _ _ _ x gs => cvtOut d c r x (gs.getD 0 0)

/-! ### Special functions (13 R301, R302) -/

/-- A special function of an FP32 value, NaNs apart (13 R301). -/
def specialOut (f : RCtl → Nat → FVal → Nat × BitVec 8) (r : RCtl) (x : W64) (g : Nat) : LaneOut :=
  let v := readF f32 r.ftz (x.toNat % 2 ^ 32)
  if v.isNan then ⟨BitVec.ofNat 64 (nanOf f32), 0, flIf v.isSnan flNv⟩
  else
    let o := f r g v
    ⟨BitVec.ofNat 64 o.1, 0, o.2⟩

/-- An infinity that a zero operand gives: no overflow; ±max under saturation. -/
def infResult (r : RCtl) (neg : Bool) (fl : BitVec 8) : Nat × BitVec 8 := finish f32 r 0 fl (.inf neg)
def zeroResult (neg : Bool) : Nat × BitVec 8 := (signOf f32 neg, 0)
def nanResult : Nat × BitVec 8 := (nanOf f32, flNv)
/-- A magnitude rounded once. -/
def magResult (r : RCtl) (g : Nat) (neg : Bool) (x : Mag) : Nat × BitVec 8 := roundMag f32 r g neg x

def fnRcp (r : RCtl) (g : Nat) (v : FVal) : Nat × BitVec 8 := match v with
  | .inf neg => zeroResult neg
  | .fin neg m e =>
    if m = 0 then infResult r neg flDz
    else
      let p := flog2 m + 64
      magResult r g neg ⟨2 ^ p / m, -e - p, 2 ^ p % m != 0⟩
  | .nan _ => nanResult

/-- m × 2^e with an even exponent. -/
def evened (m : Nat) (e : Int) : Nat × Int := if e % 2 = 0 then (m, e / 2) else (m * 2, (e - 1) / 2)

def fnRsq (r : RCtl) (g : Nat) (v : FVal) : Nat × BitVec 8 := match v with
  | .inf neg => if neg then nanResult else zeroResult false
  | .fin neg m e =>
    if m = 0 then infResult r neg flDz
    else if neg then nanResult
    else
      let (n, h) := evened m e
      magResult r g false (sqrtMag 1 n (-h))
  | .nan _ => nanResult

def fnSqrt (r : RCtl) (g : Nat) (v : FVal) : Nat × BitVec 8 := match v with
  | .inf neg => if neg then nanResult else infResult r false 0
  | .fin neg m e =>
    if m = 0 then zeroResult neg
    else if neg then nanResult
    else
      let (n, h) := evened m e
      magResult r g false (sqrtMag n 1 h)
  | .nan _ => nanResult

def fnExp (r : RCtl) (g : Nat) (v : FVal) : Nat × BitVec 8 := match v with
  | .inf neg => if neg then zeroResult false else infResult r false 0
  | .fin neg m e =>
    let whole : Bool := m == 0 || e ≥ 0 || m % 2 ^ (-e).toNat == 0
    if whole then
      if m ≠ 0 ∧ (flog2 m : Int) + e ≥ 11 then magResult r g false ⟨1, if neg then -3000 else 3000, false⟩
      else
        let k : Int := if e ≥ 0 then (m * 2 ^ e.toNat : Nat) else (m / 2 ^ (-e).toNat : Nat)
        magResult r g false ⟨1, if neg then -k else k, false⟩
    else magResult r g false (exp2Mag neg m e)
  | .nan _ => nanResult

def fnLog (r : RCtl) (g : Nat) (v : FVal) : Nat × BitVec 8 := match v with
  | .inf neg => if neg then nanResult else infResult r false 0
  | .fin neg m e =>
    if m = 0 then infResult r true flDz
    else if neg then nanResult
    else if m = 2 ^ flog2 m then
      let k : Int := (flog2 m : Int) + e
      finish f32 r g 0 (.fin (k < 0) k.natAbs 0)
    else
      let x := log2Mag m e
      magResult r g x.1 x.2
  | .nan _ => nanResult

/-- Slightly below m × 2^e: what an odd function near 0 gives (13 R301). -/
def justBelow (m : Nat) (e : Int) : Mag := ⟨m * 2 ^ 17 - 1, e - 17, true⟩
/-- Slightly below 1. -/
def belowOne : Mag := ⟨2 ^ 64 - 1, -64, true⟩

def fnSin (r : RCtl) (g : Nat) (v : FVal) : Nat × BitVec 8 := match v with
  | .inf _ => nanResult
  | .fin neg m e =>
    if m = 0 then zeroResult neg
    else if (flog2 m : Int) + e < -20 then magResult r g neg (justBelow m e)
    else
      let x := trigMag false m e
      magResult r g (neg != x.1) x.2
  | .nan _ => nanResult

def fnCos (r : RCtl) (g : Nat) (v : FVal) : Nat × BitVec 8 := match v with
  | .inf _ => nanResult
  | .fin _ m e =>
    if m = 0 then magResult r g false ⟨1, 0, false⟩
    else if (flog2 m : Int) + e < -40 then magResult r g false belowOne
    else
      let x := trigMag true m e
      magResult r g x.1 x.2
  | .nan _ => nanResult

def fnTanh (r : RCtl) (g : Nat) (v : FVal) : Nat × BitVec 8 := match v with
  | .inf neg => magResult r g neg ⟨1, 0, false⟩
  | .fin neg m e =>
    if m = 0 then zeroResult neg
    else if (flog2 m : Int) + e < -20 then magResult r g neg (justBelow m e)
    else if (flog2 m : Int) + e ≥ 6 then magResult r g neg belowOne
    else magResult r g neg (tanhMag m e)
  | .nan _ => nanResult

/-- The largest integer not above m × 2^e with its sign. -/
def floorOf (neg : Bool) (m : Nat) (e : Int) : Int :=
  if e ≥ 0 then (if neg then -1 else 1) * (m * 2 ^ e.toNat : Nat) else ((if neg then -1 else 1) * (m : Int)) / (2 : Int) ^ (-e).toNat

/-- x − ⌊x⌋, rounded; an exact zero of it takes the sign of 06 R157, ±0 gives +0 (13 R302). -/
def fnFrc (r : RCtl) (g : Nat) (v : FVal) : Nat × BitVec 8 := match v with
  | .inf _ => nanResult
  | .fin neg m e =>
    if m = 0 then zeroResult false
    else
      let fr : Int := if e ≥ 0 then 0 else (if neg then -1 else 1) * (m : Int) - floorOf neg m e * (2 : Int) ^ (-e).toNat
      if fr = 0 then zeroResult (r.rm == .rdn) else finish f32 r g 0 (.fin false fr.toNat e)
  | .nan _ => nanResult

def fnRnd (r : RCtl) (g : Nat) (v : FVal) : Nat × BitVec 8 := match v with
  | .inf neg => infResult r neg 0
  | .fin neg m e =>
    if m = 0 then zeroResult neg
    else
      let k := if e ≥ 0 then m * 2 ^ e.toNat else ((Mag.mk m e false).roundAt r.rm neg g 0).1
      (exactF f32 (.fin neg k 0), 0)
  | .nan _ => nanResult

/-- The class of an encoding as one bit (13 R302). -/
def classOf (ftz : Bool) (b : Nat) : Nat :=
  match readF f32 ftz b with
  | .nan sg => if sg then 8 else 9
  | .inf neg => if neg then 0 else 7
  | .fin neg m _ =>
    if m = 0 then (if neg then 3 else 4)
    else if isSub f32 b then (if neg then 2 else 5)
    else if neg then 1 else 6

/-- `rcp` of cv (13 R301). -/
def execRcp (t : Trig) (s : State) : Outcome State Fault Refusal :=
  issue s fun w => s.roundTrig w .cv 6 t false 1 fun r _ _ _ x gs => specialOut fnRcp r x (gs.getD 0 0)

/-- `rsq` of cv (13 R301). -/
def execRsq (t : Trig) (s : State) : Outcome State Fault Refusal :=
  issue s fun w => s.roundTrig w .cv 6 t false 1 fun r _ _ _ x gs => specialOut fnRsq r x (gs.getD 0 0)

/-- `sqrt` of cv (13 R301). -/
def execSqrt (t : Trig) (s : State) : Outcome State Fault Refusal :=
  issue s fun w => s.roundTrig w .cv 6 t false 1 fun r _ _ _ x gs => specialOut fnSqrt r x (gs.getD 0 0)

/-- `exp` of cv, base 2 (13 R301). -/
def execExp (t : Trig) (s : State) : Outcome State Fault Refusal :=
  issue s fun w => s.roundTrig w .cv 6 t false 1 fun r _ _ _ x gs => specialOut fnExp r x (gs.getD 0 0)

/-- `log` of cv, base 2 (13 R301). -/
def execLog (t : Trig) (s : State) : Outcome State Fault Refusal :=
  issue s fun w => s.roundTrig w .cv 6 t false 1 fun r _ _ _ x gs => specialOut fnLog r x (gs.getD 0 0)

/-- `sin` of cv (13 R301). -/
def execSin (t : Trig) (s : State) : Outcome State Fault Refusal :=
  issue s fun w => s.roundTrig w .cv 6 t false 1 fun r _ _ _ x gs => specialOut fnSin r x (gs.getD 0 0)

/-- `cos` of cv (13 R301). -/
def execCos (t : Trig) (s : State) : Outcome State Fault Refusal :=
  issue s fun w => s.roundTrig w .cv 6 t false 1 fun r _ _ _ x gs => specialOut fnCos r x (gs.getD 0 0)

/-- `tanh` of cv (13 R301). -/
def execTanh (t : Trig) (s : State) : Outcome State Fault Refusal :=
  issue s fun w => s.roundTrig w .cv 6 t false 1 fun r _ _ _ x gs => specialOut fnTanh r x (gs.getD 0 0)

/-- `frc` of cv (13 R302). -/
def execFrc (t : Trig) (s : State) : Outcome State Fault Refusal :=
  issue s fun w => s.roundTrig w .cv 6 t false 1 fun r _ _ _ x gs => specialOut fnFrc r x (gs.getD 0 0)

/-- `rnd` of cv (13 R302). -/
def execRnd (t : Trig) (s : State) : Outcome State Fault Refusal :=
  issue s fun w => s.roundTrig w .cv 6 t false 1 fun r _ _ _ x gs => specialOut fnRnd r x (gs.getD 0 0)

/-- `cls` of cv (13 R302). -/
def execCls (t : Trig) (s : State) : Outcome State Fault Refusal :=
  issue s fun w => s.roundTrig w .cv 6 t false 1 fun r _ _ _ x _ => plain (BitVec.ofNat 64 (2 ^ classOf r.ftz (x.toNat % 2 ^ 32)))

/-! ### 4-bit blocks (13 R303, R304) -/

/-- `qpack`: one block from the 32 lanes; unstarted lanes supply +0 (13 R303). -/
def execQpack (t : Trig) (s : State) : Outcome State Fault Refusal :=
  issue s fun w => s.withMove w t.mv false fun g v =>
    match lowest g with
    | none => .next s
    | some k =>
      let r := w.rctl t.md
      let p := w.ctx.port .cv
      let ty := fld (laneAt p.a k) 1 0
      let req := laneAt p.b k
      let scale := if bit req 6 then none else some (fld req 5 0)
      let lane (i : Nat) : FVal × Nat × W32 :=
        let st := w.ctx.gens.getD i 0
        if maskBit g i then
          let d := draws r.rm 1 st
          (readF f32 r.ftz (fld (laneAt v i) 31 0), d.1.getD 0 0, d.2)
        else (.fin false 0 0, 0, st)
      let ls := (List.range nLanes).map lane
      let (codes, byte, fl) := q4Block ty scale r.rm (ls.map fun x => x.2.1) (ls.map fun x => x.1)
      let word (i : Nat) : W64 := BitVec.ofNat 64 ((List.range 8).map fun n => codes.getD (8 * (i % 4) + n) 0 * 16 ^ n).sum
      let w := { w with ctx := { w.ctx with gens := if r.rm = .sr then ls.map fun x => x.2.2 else w.ctx.gens } }
      .next (s.startUnit w .cv g 6 (lanesOf word) (splat (BitVec.ofNat 64 byte)) fl)

/-- One decoded element (06 R152, 13 R304). -/
def qunpackOut (lane : Nat) (a t : W64) : LaneOut :=
  let ty := fld a 7 6
  let e := fld a 5 0
  if e = 63 then ⟨BitVec.ofNat 64 (nanOf f32), 0, flQnb⟩
  else match q4Val ty (t.toNat / 16 ^ (lane % 8) % 16) with
    | .fin neg m k => plain (BitVec.ofNat 64 (exactF f32 (.fin neg m (k + ((e : Int) - 32)))))
    | _ => plain 0

/-- `qunpack` of cv (13 R304). -/
def execQunpack (t : Trig) (s : State) : Outcome State Fault Refusal :=
  issue s fun w => s.withMove w t.mv false fun g v =>
    if g == 0 then .next s
    else
      let p := w.ctx.port .cv
      let outs := (List.range nLanes).map fun i => qunpackOut i (laneAt p.a i) (laneAt v i)
      let fl := (lanesIn g).foldl (fun x i => x ||| (match outs[i]? with | some o => o.fl | none => 0)) 0
      .next (s.startUnit w .cv g 6 (outs.map LaneOut.res) (outs.map LaneOut.sec) fl)

end Sys2Proof.Machine
end

