-- ==== Sys2Proof/Machine/Matrix.lean ====
section
/-! DEFINITION. The matrix engines: task records and triggers, dispatch, operands, the modes and the sum order, drains
(07_matrix_engine R170 to R190, 06 R168, R169, 15 R341, R342). -/

namespace Sys2Proof.Machine

open Host (Outcome)

/-! ### Functions of a task (07 R179 to R183, R190) -/

def fnQ4 : Nat := 6
def fnScacc : Nat := 7
def fnDrain : Nat := 8
def fnHrot : Nat := 9

/-- Bytes of an operand element of a mode: 2 for BF16 and FP16. -/
def mmSize (fn : Nat) : Nat := if fn ≤ 2 then 2 else 1
/-- Rows in one cycle (07 R177). -/
def mmRate (fn : Nat) : Nat := if fn ≤ 2 then 1 else if fn = fnQ4 then 4 else 2

/-- Bytes of a row of A, and of a row (or block row) of B. -/
def rowA (fn kb : Nat) : Nat := if fn = fnQ4 then 16 * kb else 32 * kb * mmSize fn
def rowB (fn : Nat) : Nat := if fn = fnQ4 then 4096 else 256 * mmSize fn
def rowsB (fn kb : Nat) : Nat := if fn = fnQ4 then kb else 32 * kb

/-- Bytes of a drained element, and of a drained row. -/
def drainSize (dfmt : Nat) : Nat := if dfmt = 2 then 1 else 2
def drainRow (dfmt : Nat) : Nat := if dfmt = 3 then 128 else 256 * drainSize dfmt

/-- Rows that a task owns, as intervals from a first row (07 R175, R188). -/
def ownedRows (fn : Nat) (r : TaskRec) (bias row0 : Nat) : List (Nat × Nat) :=
  let acc := (tkAccrow r + bias + row0, tkM r - row0)
  let planes := (tkProw r + bias + row0 * tkKb r, (tkM r - row0) * tkKb r)
  if fn = fnQ4 then [planes] else if fn = fnScacc then [planes, acc] else [acc]

def Task.rows (t : Task) : List (Nat × Nat) := ownedRows t.fn t.record t.bias t.row0

def overlap (a b : List (Nat × Nat)) : Bool := a.any fun (x, n) => b.any fun (y, k) => decide (x < y + k) && decide (y < x + n) && n != 0 && k != 0

/-- Has the task been triggered and not retired? -/
def Task.active (t : Task) : Bool := match t.st with
  | .queued | .dispatched _ _ _ => true
  | _ => false

/-- The status word (07 R186). -/
def taskStatus (prog : Nat) (xf : BitVec 8) (detail q eng code : Nat) : W64 :=
  BitVec.ofNat 64 (prog * 2 ^ 32 + xf.toNat * 2 ^ 24 + detail * 2 ^ 16 + q * 2 ^ 10 + eng * 2 ^ 8 + code)

/-! ### The trigger (07 R170 to R174) -/

/-- Operand and destination records of a function with their permissions: record, first position, whether it is written (07 R172). -/
def taskRecs (fn : Nat) (r : TaskRec) : List (Nat × Nat × Bool) :=
  if fn ≤ 5 then [(tkAbuf r, tkApos r, false), (tkBbuf r, tkBpos r, false)]
  else if fn = fnQ4 then [(tkAbuf r, tkApos r, false), (tkBbuf r, tkBpos r, false), (tkSbuf r, tkSpos r, false)]
  else if fn = fnScacc then [(tkSbuf r, tkSpos r, false)]
  else if tkDfmt r = 3 then [(tkDbuf r, tkDpos r, true), (tkSbuf r, tkSpos r, true)]
  else [(tkDbuf r, tkDpos r, true)]

/-- Rows of bytes at a stride. -/
def rowFoot (pos len str n : Nat) : Foot := ⟨pos, len, [(str, n)]⟩

/-- Footprints of a function, by record. -/
def taskFeet (fn : Nat) (r : TaskRec) : List (Nat × Foot) :=
  let m := tkM r
  let kb := tkKb r
  let opA := (tkAbuf r, rowFoot (tkApos r) (rowA fn kb) (tkAstr r) m)
  let opB := (tkBbuf r, rowFoot (tkBpos r) (rowB fn) (tkBstr r) (rowsB fn kb))
  let scale := (tkSbuf r, rowFoot (tkSpos r) (m * kb + 256 * kb) 0 1)
  if fn ≤ 5 then [opA, opB]
  else if fn = fnQ4 then [opA, opB, scale]
  else if fn = fnScacc then [scale]
  else if tkDfmt r > 3 then []
  else (tkDbuf r, rowFoot (tkDpos r) (drainRow (tkDfmt r)) (tkDstr r) m) ::
    (if tkDfmt r = 3 then [(tkSbuf r, rowFoot (tkSpos r) (8 * m) 0 1)] else [])

/-- m and kb within range (07 R173 reason 2; a drain does not use kb). -/
def taskInRange (fn : Nat) (r : TaskRec) : Bool :=
  decide (1 ≤ tkM r) && decide (tkM r ≤ 256) &&
  (if fn = fnDrain then true else if fn = fnHrot then tkKb r == 8 else decide (1 ≤ tkKb r) && decide (tkKb r ≤ 128))

def rowsFit (l : List (Nat × Nat)) : Bool := l.all fun (x, n) => decide (x + n ≤ Config.accRows)

/-- The first row outside the warp's window. -/
def windowBad (w : Warp) (l : List (Nat × Nat)) : Option Nat :=
  (l.filterMap fun (x, n) =>
    if n = 0 then none else if x < w.base then some x else if x + n > w.limit then some (max x w.limit) else none).foldl
      (fun a x => some (match a with | some y => min x y | none => x)) none

/-- The fault of a trigger, after the placement of its record (07 R172, steps 2 to 4). -/
def State.taskFault (s : State) (w : Warp) (fn : Nat) (r : TaskRec) (bias : Nat) : Option (Nat × Nat) :=
  let seg (n : Nat) : BufRec := (s.core s.cur.core).segs.getD n 0
  let rows := ownedRows fn r bias 0
  let ok := taskInRange fn r && rowsFit rows
  match (if ok then windowBad w rows else none) with
  | some x => some (0x0E, x)
  | none => match (taskRecs fn r).find? fun (n, _, wr) => !(brVal (seg n) && (if wr then brWrite (seg n) else brRead (seg n))) with
    | some (n, p, _) => some (0x08, brVbase (seg n) + swizzle (seg n) p)
    | none =>
      if ok then (taskFeet fn r).findSome? fun (n, f) => (spanBad (seg n) f).map fun va => (0x09, va)
      else none

/-- Is a predecessor value neither 0 nor a handle of the warp (07 R173 reason 5)? -/
def predBad (x : Ctx) (v : W64) : Bool := v != 0 && !isHandle x.fser v

/-- The future that a predecessor value names while it is outstanding, and its scheduler has not counted it as resolved (R176). -/
def predOf (c : Cluster) (w : Warp) (v : W64) : Option FutAt :=
  let f : FutAt := ⟨w.wid, fld v 37 32, BitVec.ofNat 32 (fld v 31 0)⟩
  if w.ctx.outstanding v && !c.counted.contains f then some f else none

/-- The seed of a launch (16 R367). -/
def State.seedOf (s : State) (nid : Nat) : W64 := match s.node? nid with
  | some n => lrSeed n.raw
  | none => 0

/-- The reason for which a task is refused (07 R173). -/
def taskReason (w : Warp) (fn : Nat) (r : TaskRec) (bias : Nat) (p0 p1 : W64) : Option Nat :=
  if tkReserved r then some 1
  else if !taskInRange fn r then some 2
  else if !rowsFit (ownedRows fn r bias 0) then some 3
  else if (tkRnd r % 8 = 7 && fn ≠ fnQ4) || (fn ≥ fnDrain && tkDfmt r > 3) then some 4
  else if predBad w.ctx p0 || predBad w.ctx p1 then some 5
  else none

/-- ftz, sat and rm that a task applies (07 R171). -/
def taskRnd (mode : W64) (r : TaskRec) : BitVec 5 :=
  let x := tkRnd r
  let rm := if x % 8 = 0 then fld mode 2 0 else x % 8
  BitVec.ofNat 5 (rm + (if x / 8 % 2 = 1 || bit mode 3 then 8 else 0) + (if x / 16 % 2 = 1 || bit mode 4 then 16 else 0))

/-- A mode trigger: it waits, reads and judges the record, and enqueues the task (07 R172 to R174). -/
def State.taskTrig (s : State) (w : Warp) (fn : Nat) (tri : Bool) (t : MTrig) : Act :=
  s.engineTrig w .mx t.mv fun p off k =>
    let core := s.cur.core
    let cl := s.cluster (clusterOf core)
    let o := off.toNat
    let rec_ := (s.core core).segs.getD t.buf.toNat 0
    if !s.writesLanded core w.wid then .wait .room
    else match w.newFuture Un.mx.code with
      | none => .wait .admission
      | some (w', h, f) => match Tab.lowestFree cl.tasks 64 with
        | none => .wait .room
        | some q =>
          match (if brVal rec_ && o % 64 = 0 then s.pinnedAt core (s.tenOf w.nid) rec_ o 64 else none) with
          | none => s.placeFault core (s.tenOf w.nid) rec_ o (s.loc k (brVbase rec_ + o))
          | some a =>
            let r : TaskRec := BitVec.ofNat 512 (leNat (readCells (s.core core).pool a 64))
            let bias := opC p
            match s.taskFault w fn r bias with
            | some (c, d) => .fault c (s.loc k d)
            | none =>
              let s := s.setMe (w'.engineResult s.now .mx h)
              match taskReason w fn r bias (laneAt p.a 0) (laneAt p.b 0) with
              | some reason => .next (s.arriveFut core f (BitVec.ofNat 64 (reason * 2 ^ 16 + 6)))
              | none =>
                let seg (n : Nat) : BufRec := (s.core core).segs.getD n 0
                let x : Task := { num := cl.nextTask, seq := cl.nextTask - cl.taskBase, t := s.now, core := core, wid := w.wid, nid := w.nid
                                  ten := s.tenOf w.nid, seed := s.seedOf w.nid, cell := w.die * 4 + w.clus, fut := f, fn := fn, tri := tri
                                  record := r, bias := bias, rnd := taskRnd w.ctx.mode r, p0 := predOf cl w (laneAt p.a 0)
                                  p1 := predOf cl w (laneAt p.b 0), abuf := seg (tkAbuf r), bbuf := seg (tkBbuf r), sbuf := seg (tkSbuf r)
                                  dbuf := seg (tkDbuf r), behind := s.writesOf core w.wid }
                .next (s.updCluster (clusterOf core) fun c => { c with tasks := Tab.put c.tasks q x, nextTask := c.nextTask + 1 })

def execMmBf16 (tri : Bool) (t : MTrig) (s : State) : Outcome State Fault Refusal := issue s fun w => s.taskTrig w 1 tri t
def execMmF16 (tri : Bool) (t : MTrig) (s : State) : Outcome State Fault Refusal := issue s fun w => s.taskTrig w 2 tri t
def execMmE4m3 (tri : Bool) (t : MTrig) (s : State) : Outcome State Fault Refusal := issue s fun w => s.taskTrig w 3 tri t
def execMmE5m2 (tri : Bool) (t : MTrig) (s : State) : Outcome State Fault Refusal := issue s fun w => s.taskTrig w 4 tri t
def execMmS8 (tri : Bool) (t : MTrig) (s : State) : Outcome State Fault Refusal := issue s fun w => s.taskTrig w 5 tri t
def execMmQ4 (tri : Bool) (t : MTrig) (s : State) : Outcome State Fault Refusal := issue s fun w => s.taskTrig w fnQ4 tri t
def execScacc (tri : Bool) (t : MTrig) (s : State) : Outcome State Fault Refusal := issue s fun w => s.taskTrig w fnScacc tri t
def execDrain (tri : Bool) (t : MTrig) (s : State) : Outcome State Fault Refusal := issue s fun w => s.taskTrig w fnDrain tri t
def execHrot (tri : Bool) (t : MTrig) (s : State) : Outcome State Fault Refusal := issue s fun w => s.taskTrig w fnHrot tri t

/-- `resume`: once the warp's earlier stores have landed, a suspended task of it is queued again for its remaining rows (07 R188, 09 R221; log entry
75). DESIGN CHOICE (log entry 27): of the status word the slot and the code are compared, and the task's warp, as 04 R113 has it for copies. -/
def execTaskResume (m : Mv) (s : State) : Outcome State Fault Refusal :=
  issue s fun w => s.engineTrig w .mx m fun _ v _ =>
    if !s.writesLanded s.cur.core w.wid then .wait .room else s.withFuture w .mx fun s w f =>
    let core := s.cur.core
    let cl := s.cluster (clusterOf core)
    let q := fld v 15 10
    match Tab.look cl.tasks q with
    | some t =>
      if t.wid == w.wid && t.st == .suspended (fld v 3 0) then
        let t := { t with behind := s.writesOf core w.wid, fut := f, num := cl.nextTask, seq := cl.nextTask - cl.taskBase, t := s.now, st := .queued, row0 := t.prog, p0 := none, p1 := none, fail := 0 }
        s.putCluster (clusterOf core) { cl with tasks := Tab.put cl.tasks q t, nextTask := cl.nextTask + 1 }
      else s.arriveFut core f 0x60006
    | none => s.arriveFut core f 0x60006

/-! ### Dispatch (07 R175 to R177, R187) -/

/-- The code of a byte range's first failure, one look for each 256-byte block: a page without the permission is a translation failure
(07 R187, 03 R71). -/
def State.probeAt (s : State) (old : Tab W64) (ten : Nat) (wr : Bool) (r : BufRec) (p n : Nat) : Option (Nat × Nat) :=
  let hi := min (p + n) (brExtent r)
  if hi ≤ p then none
  else (List.range ((hi - 1) / 256 - p / 256 + 1)).findSome? fun k =>
    let q := max p ((p / 256 + k) * 256)
    let t := s.translate old ten r q
    if t.denied ⟨fun x y _ => if wr then y else x, false⟩ then some (2, q)
    else if t.isVoid then some (3, q)
    else if t.isAbsent then some (1, q)
    else none

/-- Its code alone, 0 for none. -/
def State.probe (s : State) (old : Tab W64) (ten : Nat) (wr : Bool) (r : BufRec) (p n : Nat) : Nat := ((s.probeAt old ten wr r p n).map Prod.fst).getD 0

/-- The lines translated before the rows: B and scale. -/
def taskPre (t : Task) : List (BufRec × Nat × Nat) :=
  let r := t.record
  let bs := if t.fn ≤ fnQ4 then (List.range (rowsB t.fn (tkKb r))).map fun i => (t.bbuf, tkBpos r + i * tkBstr r, rowB t.fn) else []
  let sc := if t.fn = fnQ4 || t.fn = fnScacc then [(t.sbuf, tkSpos r, tkM r * tkKb r + 256 * tkKb r)]
    else if t.fn ≥ fnDrain && tkDfmt r = 3 then [(t.sbuf, tkSpos r, 8 * tkM r)] else []
  bs ++ sc

/-- The lines of row m: of A, or of the destination. -/
def taskRow (t : Task) (m : Nat) : Option (BufRec × Nat × Nat) :=
  let r := t.record
  if t.fn ≤ fnQ4 then some (t.abuf, tkApos r + m * tkAstr r, rowA t.fn (tkKb r))
  else if t.fn = fnScacc then none
  else some (t.dbuf, tkDpos r + m * tkDstr r, drainRow (tkDfmt r))

/-- The first row not to be done, and the failure there (07 R187). -/
def State.taskProgress (s : State) (t : Task) (old : Tab W64) (ten : Nat) : Nat × Nat :=
  match (taskPre t).findSome? fun (r, p, n) => let c := s.probe old ten (t.fn ≥ fnDrain) r p n; if c = 0 then none else some c with
  | some c => (t.row0, c)
  | none =>
    let m := tkM t.record
    ((List.range (m - t.row0)).findSome? fun k => match taskRow t (t.row0 + k) with
      | some (r, p, n) => let c := s.probe old ten (t.fn ≥ fnDrain) r p n; if c = 0 then none else some (t.row0 + k, c)
      | none => none).getD (m, 0)

/-- The walker's read in no window that a task whose row prog fails has met (01 R20). -/
def State.taskWalk (s : State) (t : Task) (old : Tab W64) (ten prog : Nat) : Option Nat :=
  let spans := (if prog = t.row0 then taskPre t else []) ++ (taskRow t prog).toList
  (spans.findSome? fun (r, p, n) => (s.probeAt old ten (t.fn ≥ fnDrain) r p n).map fun (c, q) =>
    if c = 2 then s.walkBad old ten r q else none).join

def passes (t : Task) : Nat := (32 * tkKb t.record + 255) / 256
def ceilDiv (a b : Nat) : Nat := (a + b - 1) / b
def passStep (t : Task) (rows : Nat) : Nat := 32 + ceilDiv rows (mmRate t.fn)

/-- T of 07 R177 for the rows done. -/
def taskTime (t : Task) (rows : Nat) : Nat :=
  if t.fn ≤ fnQ4 then tkDly t.record + passes t * passStep t rows + 4
  else if t.fn = fnScacc then tkDly t.record + ceilDiv (rows * tkKb t.record) 4 + 4
  else if t.fn = fnDrain then rows + 8 else rows + 40

/-- An engine takes a task in cycle d (07 R175, R177, R187). -/
def State.startTask (s : State) (cluster q eng d : Nat) : State :=
  match Tab.look (s.cluster cluster).tasks q with
  | none => s
  | some t =>
    let old := (s.cluster cluster).oldLeaves
    let (prog, fail) := s.taskProgress t old t.ten
    let s := (if fail = 2 then s.taskWalk t old t.ten prog else none).elim s s.logWalk
    let t := { t with prog := prog, fail := fail, eng := eng, old := old, opA := [], opB := [], opS := []
                      st := .dispatched d (d + taskTime t (prog - t.row0)) eng }
    s.updCluster cluster fun c => { c with tasks := Tab.put c.tasks q t }

/-- Tasks in task order. -/
def Cluster.inOrder (c : Cluster) : List (Nat × Task) :=
  c.tasks.foldl (fun acc x => let (a, b) := acc.partition fun y => decide (y.2.num < x.2.num); a ++ x :: b) []

/-- Engines that are free: on cores not fenced, with no task that has not retired. -/
def State.freeEngines (s : State) (cluster : Nat) : List Nat :=
  (List.range 4).filter fun k => !(s.core (cluster * 4 + k)).fenced && !((s.cluster cluster).tasks.any fun (_, t) => match t.st with
    | .dispatched _ _ e => e == k
    | _ => false)

/-- Has every warp of the home group of a warp yielded to a pre-emption: its queued tasks are not dispatched any more (07 R189, 17 R395)? -/
def State.groupYielded (s : State) (wid : Nat) : Bool := match s.findWid wid with
  | none => false
  | some (_, w) => w.yielded && s.live.all fun (_, x) => x.nid != w.nid || s.homeKey x != s.homeKey w || x.yielded

/-- The tasks to be dispatched in the cycle after the present one, with their engines (07 R175, 14 R336). -/
def State.dispatches (s : State) (cluster : Nat) : List (Nat × Nat) :=
  let c := s.cluster cluster
  let rec go (before : List Task) (free : List Nat) : List (Nat × Task) → List (Nat × Nat)
    | [] => []
    | (q, t) :: rest =>
      match free with
      | [] => []
      | e :: free' =>
        let ready := t.st == .queued && t.p0.isNone && t.p1.isNone && !s.groupYielded t.wid &&
          !(before.any fun b => b.active && overlap b.rows t.rows) &&
          !(c.acs.any fun a => decide (a.t < t.t) && a.rows.any fun r => overlap [(r, 1)] t.rows)
        if ready then (q, e) :: go (before ++ [t]) free' rest else go (before ++ [t]) free rest
  go [] (s.freeEngines cluster) c.inOrder

/-! ### Operands (07 R178) -/

/-- One operand byte as it stands: out of bounds it reads as zero (07 R172). -/
def State.opByte (s : State) (t : Task) (r : BufRec) (p : Nat) : Byte × Bool :=
  if p ≥ brExtent r then (0, false)
  else match (s.translate t.old t.ten r (swizzle r p)).where? with
    | some (q, _) => (s.placeByte q, s.placePsn q)
    | none => (0, false)

def State.opBytes (s : State) (t : Task) (r : BufRec) (p n : Nat) : List (Byte × Bool) :=
  (List.range n).map fun k => s.opByte t r (p + k)

/-- What pass p reads: record, key, first position, length; A rows, then B rows; the scale bytes with pass 0. -/
def taskReads (t : Task) (p : Nat) : List (Nat × Nat × BufRec × Nat × Nat) :=
  let r := t.record
  let kb := tkKb r
  let unit := if t.fn = fnQ4 then 16 else mmSize t.fn
  let per := if t.fn = fnQ4 then 8 else 256
  let total := rowsB t.fn kb
  let lo := per * p
  let hi := min total (lo + per)
  let ops := if t.fn ≤ fnQ4 then
      ((List.range (t.prog - t.row0)).map fun k => (0, t.row0 + k, t.abuf, tkApos r + (t.row0 + k) * tkAstr r + lo * unit, (hi - lo) * unit)) ++
      ((List.range (hi - lo)).map fun k => (1, lo + k, t.bbuf, tkBpos r + (lo + k) * tkBstr r, rowB t.fn))
    else []
  let sc := if p = 0 && (t.fn = fnQ4 || t.fn = fnScacc) then [(2, 0, t.sbuf, tkSpos r, tkM r * kb + 256 * kb)] else []
  ops ++ sc

/-- Places of memory that a pass reads, one for each sector of its operands. -/
def State.passPlaces (s : State) (t : Task) (p : Nat) : List (Place × Page) :=
  ((taskReads t p).flatMap fun (_, _, r, pos, n) => (List.range n).filterMap fun k =>
    if pos + k ≥ brExtent r || ((pos + k) % 64 != 0 && k != 0) then none
    else match s.translate t.old t.ten r (swizzle r (pos + k)) with
      | .ok q g => if q.space == .pa then some (q, g) else none
      | _ => none).eraseDups

/-- The due cycle of a pass (07 R178). -/
def passDue (t : Task) (p : Nat) : Option Nat := match t.st with
  | .dispatched d _ _ => some (d + tkDly t.record + p * passStep t (t.prog - t.row0))
  | _ => none

/-- The passes of a task: a `scacc` reads its scale bytes alone. -/
def taskPasses (t : Task) : Nat := if t.fn ≤ fnQ4 then passes t else if t.fn = fnScacc then 1 else 0

/-- Passes of a cluster's tasks that are due in the present cycle. -/
def State.passesDue (s : State) (cluster : Nat) : List (Nat × Nat) :=
  let c := s.cluster cluster
  c.tasks.flatMap fun (q, t) => ((List.range (taskPasses t)).filter fun p => passDue t p == some c.lcyc).map fun p => (q, p)

/-- May a pass be read now: the warp's earlier stores have reached their points (09 R221), no owner of a sector is stopped, and no line has to
wait at its slice (log entry 14)? -/
def State.passReady (s : State) (cluster q p : Nat) : Bool := match Tab.look (s.cluster cluster).tasks q with
  | some t =>
    let l := s.passPlaces t p
    !s.anyOpen t.core t.behind && (coherentOf l).all s.canRecall && (s.reachAll (linesOf l)).isSome
  | none => true

/-- The host is asked for what keeps the passes that are due from their lines (02 R42, R44). -/
def State.askPasses (s : State) (cluster : Nat) : State :=
  (s.passesDue cluster).foldl (fun s (q, p) => match Tab.look (s.cluster cluster).tasks q with
    | some t => s.askAhead (coherentOf (s.passPlaces t p)) (linesOf (s.passPlaces t p))
    | none => s) s

/-- The operand lines of a pass are read (07 R178). -/
def State.readPass (s : State) (cluster q p : Nat) : State :=
  match Tab.look (s.cluster cluster).tasks q with
  | none => s
  | some t =>
    let l := s.passPlaces t p
    let s := (s.reachAll (linesOf l)).getD s
    let s := (coherentOf l).foldl (fun s x => s.freshSector .device x) s
    let t := (taskReads t p).foldl (fun t (which, key, r, pos, n) =>
      let b := s.opBytes t r pos n
      match which with
      | 0 => { t with opA := Tab.put t.opA key (Tab.get t.opA [] key ++ b) }
      | 1 => { t with opB := Tab.put t.opB key b }
      | _ => { t with opS := b }) t
    s.updCluster cluster fun c => { c with tasks := Tab.put c.tasks q t }

/-! ### Elements and sums (06 R168) -/

def quiet : FVal := .nan false

/-- Elements of an operand row: a poisoned byte makes its element a NaN (07 R189). -/
def elemsOf (fn : Nat) (ftz : Bool) : List (Byte × Bool) → List FVal
  | [] => []
  | (b, x) :: r =>
    if fn ≤ 2 then match r with
      | [] => []
      | (c, y) :: r' =>
        (if x || y then quiet else readF (if fn = 1 then bf16 else f16) ftz (b.toNat + 256 * c.toNat)) :: elemsOf fn ftz r'
    else
      (if x then quiet
       else if fn = 5 then (let v := signed 8 b.toNat; .fin (v < 0) v.natAbs 0)
       else readF (if fn = 3 then e4m3 else e5m2) ftz b.toNat) :: elemsOf fn ftz r

/-- One draw of a generator when the rounding is stochastic. -/
def draw1 (r : RCtl) (g : W32) : Nat × W32 := if r.rm = .sr then draw g else (0, g)

/-- A product of integers: its zero has no sign (06 R150). -/
def intProd (a b : FVal) : Option FVal := match prodF a b with
  | some (.fin s m e) => some (.fin (s && m != 0) m e)
  | x => x

/-- One block of 32 products: its sum before the accumulation, the generator after it, and flags: a sum that is rounded draws (06 R168,
R169). -/
def blockSum (r : RCtl) (g : W32) (prod : FVal → FVal → Option FVal) (ps : List (FVal × FVal)) : FVal × W32 × BitVec 8 :=
  let xs := ps.map fun (a, b) => prod a b
  let nv := (ps.any fun (a, b) => a.isSnan || b.isSnan) || xs.any Option.isNone
  let pos := xs.contains (some (.inf false))
  let neg := xs.contains (some (.inf true))
  let fl := flIf (nv || (pos && neg)) flNv
  if (xs.any fun x => match x with | none => true | some v => v.isNan) || (pos && neg) then (quiet, g, fl)
  else if pos || neg then (.inf neg, g, fl)
  else
    let fin := xs.filterMap fun x => match x with
      | some (.fin s m e) => some (s, m, e)
      | _ => none
    let nz := fin.filter fun (_, m, _) => m != 0
    match nz with
    | [] => (.fin (fin.all fun (s, _, _) => s) 0 0, g, fl)
    | (_, m0, e0) :: _ =>
      let top := nz.foldl (fun (a : Int) (_, m, e) => max a ((flog2 m : Int) + e)) ((flog2 m0 : Int) + e0)
      let q := top - 56
      let sum := nz.foldl (fun (a : Int) (s, m, e) =>
        let v : Nat := if e ≥ q then m * 2 ^ (e - q).toNat else m / 2 ^ (q - e).toNat
        if s then a - v else a + v) 0
      let v : FVal := if sum = 0 then .fin (r.rm == .rdn) 0 q else .fin (decide (sum < 0)) sum.natAbs q
      let d := draw1 r g
      let o := finish f32 r d.1 0 v
      (decodeF f32 o.1, d.2, fl ||| o.2)

/-- An accumulator element after one addition, rounded (06 R168). -/
def accAdd (r : RCtl) (g acc : Nat) (x : FVal) : Nat × BitVec 8 :=
  let a := readF f32 r.ftz acc
  arith f32 r g [a, x] (addF r.rm a x)

/-- Split into blocks of 32. -/
def blocks32 {α : Type} (n : Nat) (l : List α) : List (List α) := match n with
  | 0 => []
  | n + 1 => l.take 32 :: blocks32 n (l.drop 32)

/-- One output element: the blocks enter the accumulator one by one. -/
def dotAcc (r : RCtl) (prod : FVal → FVal → Option FVal) : List (List (FVal × FVal)) → Nat → W32 → BitVec 8 → Nat × W32 × BitVec 8
  | [], acc, g, fl => (acc, g, fl)
  | b :: rest, acc, g, fl =>
    let s := blockSum r g prod b
    let d := draw1 r s.2.1
    let o := accAdd r d.1 acc s.1
    dotAcc r prod rest o.1 d.2 (fl ||| s.2.2 ||| o.2)

/-! ### The triangular mask (07 R184) -/

def Task.masked (t : Task) (m j : Nat) : Bool := t.tri && decide ((j : Int) > (m : Int) + tkDlt t.record)
/-- Is every element of the tile masked? -/
def Task.tileGone (t : Task) (m j : Nat) : Bool :=
  t.tri && decide ((32 * (j / 32) : Nat) > (min (m / 32 * 32 + 31) (tkM t.record - 1) : Nat) + tkDlt t.record)

/-! ### The accumulator store (07 R185) -/

/-- A row of the store: 256 cells. -/
def fillRow (base : Nat) : Nat → Tab W32 → List W32
  | 0, _ => []
  | n + 1, t => match t with
    | (k, v) :: r => if k = base then v :: fillRow (base + 1) n r else 0 :: fillRow (base + 1) n t
    | [] => 0 :: fillRow (base + 1) n t
def accRow (acc : Tab W32) (row : Nat) : List W32 :=
  fillRow (row * 256) 256 (acc.filter fun (k, _) => decide (row * 256 ≤ k) && decide (k < row * 256 + 256))

/-- Cells written, their numbers rising; a +0 has no entry. -/
def accMerge : Nat → Tab W32 → Tab W32 → Tab W32
  | 0, t, _ => t
  | _ + 1, t, [] => t
  | _ + 1, [], w => w.filter fun (_, v) => v != 0
  | n + 1, (a, x) :: t, (b, y) :: w =>
    if a < b then (a, x) :: accMerge n t ((b, y) :: w)
    else
      let t := if a = b then t else (a, x) :: t
      if y = 0 then accMerge n t w else (b, y) :: accMerge n t w
def Cluster.accPut (c : Cluster) (w : Tab W32) : Cluster := { c with acc := accMerge (c.acc.length + w.length + 1) c.acc w }

/-! ### The modes (07 R179 to R183) -/

/-- What a task does at its retire: cells written, flags, bytes drained by record position (true for the scale record). -/
structure TaskOut where
  cells : Tab W32
  fl : BitVec 8
  bytes : List (Bool × Nat × Byte)
  deriving DecidableEq, Repr

/-- The rows that a task does. -/
def Task.doing (t : Task) : List Nat := (List.range (t.prog - t.row0)).map fun k => t.row0 + k

def tconOf (t : Task) : W32 := tkTcon t.record

/-- A column of some rows: each row gives a value or leaves the cell, with the generator and the flags passed on. -/
def column (rows : List Nat) (g : W32) (f : Nat → W32 → Option W32 × W32 × BitVec 8) : List (Option W32) × BitVec 8 :=
  let r := rows.foldl (fun (acc : List (Option W32) × W32 × BitVec 8) m =>
    let o := f m acc.2.1
    (o.1 :: acc.1, o.2.1, acc.2.2 ||| o.2.2)) ([], g, 0)
  (r.1.reverse, r.2.2)

/-- Cells from columns: row by row, rising. -/
def cellsFromCols (rows : List Nat) (at_ : Nat → Nat) (cols : List (List (Option W32))) : Tab W32 :=
  (List.range rows.length).flatMap fun i =>
    ((List.range cols.length).zip cols).filterMap fun (j, col) => match col.getD i none with
      | some v => some (at_ (rows.getD i 0) * 256 + j, v)
      | none => none

/-- `mm` (07 R179). -/
def runMm (t : Task) (r : RCtl) (gens : List W32) (acc : Tab W32) : TaskOut :=
  let rows := t.doing
  let kb := tkKb t.record
  let base := tkAccrow t.record + t.bias
  let as : Tab (List FVal) := t.opA.map fun (m, b) => (m, elemsOf t.fn r.ftz b)
  let bs : List (List FVal) := (List.range (32 * kb)).map fun k => elemsOf t.fn r.ftz (Tab.get t.opB [] k)
  let start : Tab (List W32) := rows.map fun m => (m, if tkInit t.record then [] else accRow acc (base + m))
  let cols := (List.range 256).map fun j =>
    let bc := bs.map fun row => row.getD j quiet
    column rows (gens.getD j 0) fun m g =>
      if t.tileGone m j then (none, g, 0)
      else if t.masked m j then (some (tconOf t), g, 0)
      else
        let o := dotAcc r (if t.fn = 5 then intProd else prodF) (blocks32 kb ((Tab.get as [] m).zip bc)) ((Tab.get start [] m).getD j 0).toNat g 0
        (some (BitVec.ofNat 32 o.1), o.2.1, o.2.2)
  ⟨cellsFromCols rows (fun m => base + m) (cols.map Prod.fst), cols.foldl (fun f c => f ||| c.2) 0, []⟩

/-- A 4-bit code of a block's bytes (06 R151). -/
def nibbleAt (l : List (Byte × Bool)) (n : Nat) : Nat × Bool := match l[n / 2]? with
  | some (b, x) => (b.toNat / 16 ^ (n % 2) % 16, x)
  | none => (0, false)

/-- The exact plane value of two blocks: the sum of products in 2^−6 (07 R180). A block of integer codes has no −0 (06 R152), and its exact
zero sum is +0 (06 R157). -/
def planeSum (ta tb : Nat) (a b : List (Byte × Bool)) : FVal :=
  let xs := (List.range 32).map fun n => prodF (q4Val ta (nibbleAt a n).1) (q4Val tb (nibbleAt b n).1)
  let sum := xs.foldl (fun (v : Int) x => match x with
    | some (.fin s m _) => if s then v - m else v + m
    | _ => v) 0
  let allNeg := xs.all fun x => match x with
    | some (.fin s m _) => s && m == 0
    | _ => false
  .fin (if sum = 0 then allNeg && ta != 0 && tb != 0 else decide (sum < 0)) sum.natAbs (-6)

/-- `mm.q4` (07 R180). -/
def runQ4 (t : Task) : TaskOut :=
  let kb := tkKb t.record
  let m0 := tkM t.record
  let base := tkProw t.record + t.bias
  let sAt (k : Nat) : Nat × Bool := match t.opS[k]? with
    | some (b, x) => (b.toNat, x)
    | none => (0, false)
  let rows := t.doing.flatMap fun m => (List.range kb).map fun b => m * kb + b
  let one (x j : Nat) : Option W32 × BitVec 8 :=
    let m := x / kb
    let b := x % kb
    if t.tileGone m j then (none, 0)
    else if t.masked m j then (some (tconOf t), 0)
    else
      let a := ((Tab.get t.opA [] m).drop (16 * b)).take 16
      let c := ((Tab.get t.opB [] b).drop (16 * j)).take 16
      let sa := sAt (m * kb + b)
      let sb := sAt (m0 * kb + 256 * b + j)
      let bad := sa.2 || sb.2 || a.any Prod.snd || c.any Prod.snd
      if sa.1 % 64 = 63 || sb.1 % 64 = 63 then (some (BitVec.ofNat 32 (nanOf f32)), flQnb)
      else if bad then (some (BitVec.ofNat 32 (nanOf f32)), 0)
      else (some (BitVec.ofNat 32 (exactF f32 (planeSum (sa.1 / 64) (sb.1 / 64) a c))), 0)
  let out := rows.map fun x => (List.range 256).map fun j => one x j
  let cells := (rows.zip out).flatMap fun (x, cols) => ((List.range 256).zip cols).filterMap fun (j, o) => match o.1 with
    | some v => some ((base + x) * 256 + j, v)
    | none => none
  ⟨cells, out.foldl (fun f cols => cols.foldl (fun f o => f ||| o.2) f) 0, []⟩

/-- x × 2^k. -/
def scaleF (x : FVal) (k : Int) : FVal := match x with
  | .fin s m e => .fin s m (e + k)
  | v => v

/-- `scacc` (07 R181). -/
def runScacc (t : Task) (r : RCtl) (gens : List W32) (acc : Tab W32) : TaskOut :=
  let kb := tkKb t.record
  let m0 := tkM t.record
  let base := tkAccrow t.record + t.bias
  let pbase := tkProw t.record + t.bias
  let rows := t.doing
  let planes : Tab (List W32) := rows.flatMap fun m => (List.range kb).map fun b => (m * kb + b, accRow acc (pbase + m * kb + b))
  let start : Tab (List W32) := rows.map fun m => (m, if tkInit t.record then [] else accRow acc (base + m))
  let sAt (k : Nat) : Nat × Bool := match t.opS[k]? with
    | some (b, x) => (b.toNat % 64, x)
    | none => (0, false)
  let cols := (List.range 256).map fun j => column rows (gens.getD j 0) fun m g =>
    if t.tileGone m j then (none, g, 0)
    else if t.masked m j then (some (tconOf t), g, 0)
    else
      let o := (List.range kb).foldl (fun (a : Nat × W32 × BitVec 8) b =>
        let ea := sAt (m * kb + b)
        let eb := sAt (m0 * kb + 256 * b + j)
        let isNan := ea.1 = 63 || eb.1 = 63
        let x := if isNan || ea.2 || eb.2 then quiet
          else scaleF (readF f32 r.ftz ((Tab.get planes [] (m * kb + b)).getD j 0).toNat) ((ea.1 : Int) + eb.1 - 64)
        let d := draw1 r a.2.1
        let y := accAdd r d.1 a.1 x
        (y.1, d.2, a.2.2 ||| y.2 ||| flIf isNan flQnb)) (((Tab.get start [] m).getD j 0).toNat, g, 0)
      (some (BitVec.ofNat 32 o.1), o.2.1, o.2.2)
  ⟨cellsFromCols rows (fun m => base + m) (cols.map Prod.fst), cols.foldl (fun f c => f ||| c.2) 0, []⟩

/-- B of `hrot` (07 R183). -/
def hadamard (k j : Nat) : FVal :=
  let x := k &&& j
  let odd := ((List.range 8).filter fun i => x / 2 ^ i % 2 == 1).length % 2 == 1
  .fin odd 1 (-4)

/-- The values that a drain converts, by column and row, each with the draw of its conversion (07 R182, R183; 06 R169). -/
def drainValue (t : Task) (r : RCtl) (src : List FVal) (raw : W32) (m j : Nat) (g : W32) : Option (W32 × Nat) × W32 × BitVec 8 :=
  if t.tileGone m j then (none, g, 0)
  else
    let y : W32 × W32 × BitVec 8 :=
      if t.masked m j then (tconOf t, g, 0)
      else if t.fn = fnHrot then
        let o := dotAcc r prodF (blocks32 8 (src.zip ((List.range 256).map fun k => hadamard k j))) 0 g 0
        (BitVec.ofNat 32 o.1, o.2.1, o.2.2)
      else (raw, g, 0)
    let d := draw1 r y.2.1
    (some (y.1, d.1), d.2, y.2.2)

/-- The drain's conversion type for a destination format. -/
def drainFmt (dfmt : Nat) : Ty := match dfmt with
  | 0 => .bf16
  | 1 => .f16
  | _ => .e4m3

/-- A row's bytes from its values (07 R182): position from the row's start, or in the scale record. -/
def drainBytes (t : Task) (r : RCtl) (m : Nat) (vals : List (Option (W32 × Nat))) : List (Bool × Nat × Byte) × BitVec 8 :=
  let rc := t.record
  let dfmt := tkDfmt rc
  let row := tkDpos rc + m * tkDstr rc
  if dfmt = 3 then
    let bl := (List.range 8).map fun c =>
      match ((vals.drop (32 * c)).take 32).mapM id with
      | none => ([], 0)
      | some xs =>
        let o := q4Block (tkQtyp rc) (if tkDscm rc then none else some (tkDexp rc)) r.rm (xs.map Prod.snd)
          (xs.map fun x => readF f32 r.ftz x.1.toNat)
        let bytes := (List.range 16).map fun k => (false, row + 16 * c + k, BitVec.ofNat 8 (o.1.getD (2 * k) 0 + 16 * o.1.getD (2 * k + 1) 0))
        (bytes ++ [(true, tkSpos rc + 8 * m + c, BitVec.ofNat 8 o.2.1)], o.2.2)
    (bl.flatMap Prod.fst, bl.foldl (fun f b => f ||| b.2) 0)
  else
    let sz := drainSize dfmt
    let el := ((List.range 256).zip vals).map fun (j, v) => match v with
      | none => ([], 0)
      | some (x, g) =>
        let o := cvtOut (drainFmt dfmt) .f32 r (x.setWidth 64) g
        (((List.range sz).zip (leBytes sz o.res.toNat)).map fun (k, b) => (false, row + j * sz + k, b), o.fl)
    (el.flatMap Prod.fst, el.foldl (fun f b => f ||| b.2) 0)

/-- `drain` and `hrot` (07 R182 to R184). -/
def runDrain (t : Task) (r : RCtl) (gens : List W32) (acc : Tab W32) : TaskOut :=
  let base := tkAccrow t.record + t.bias
  let rows := t.doing
  let out := rows.foldl (fun (a : List W32 × List (Bool × Nat × Byte) × BitVec 8 × Tab W32) m =>
    let src := accRow acc (base + m)
    let fs := src.map fun v => readF f32 r.ftz v.toNat
    let vs := ((List.range 256).zip (src.zip a.1)).map fun (j, raw, g) => drainValue t r fs raw m j g
    let b := drainBytes t r m (vs.map Prod.fst)
    let clr := if tkClr t.record then ((List.range 256).filter fun j => !t.tileGone m j).map fun j => ((base + m) * 256 + j, (0 : W32)) else []
    (vs.map fun v => v.2.1, a.2.1 ++ b.1, vs.foldl (fun f v => f ||| v.2.2) (a.2.2.1 ||| b.2), a.2.2.2 ++ clr)) (gens, [], 0, [])
  ⟨out.2.2.2, out.2.2.1, out.2.1⟩

/-- The generators of a task's columns (06 R169). -/
def taskGens (seed : W64) (die clus num : Nat) : List W32 :=
  (List.range 256).map fun j => genSeed seed (2 ^ 31 + (die * 4 + clus) * 2 ^ 25 + j * 2 ^ 17 + num % 2 ^ 17)

/-- What a task does at its retire. -/
def State.taskOut (s : State) (cluster : Nat) (t : Task) : TaskOut :=
  let c := s.cluster cluster
  let r := rctl 1 t.rnd.toNat
  let gens := if r.rm = .sr then taskGens t.seed (t.cell / 4) (t.cell % 4) t.seq else List.replicate 256 0
  if t.fn ≤ 5 then runMm t r gens c.acc
  else if t.fn = fnQ4 then runQ4 t
  else if t.fn = fnScacc then runScacc t r gens c.acc
  else runDrain t r gens c.acc

/-- Was an operand sector of the rows done poisoned (07 R189)? -/
def Task.poisoned (t : Task) : Bool :=
  (t.opA.any fun (_, l) => l.any Prod.snd) || (t.opB.any fun (_, l) => l.any Prod.snd) || t.opS.any Prod.snd

/-- Where a drained byte goes, with the class and whether the page is uncached; none out of bounds, or where the page no longer
translates. -/
def State.drainPlace (s : State) (t : Task) (scale : Bool) (p : Nat) : Option (Place × Cls × Bool) :=
  let r := if scale then t.sbuf else t.dbuf
  if p ≥ brExtent r then none
  else match (s.translate t.old t.ten r (swizzle r p)).where? with
    | some (q, g) => some (q, if g.home = 0 then g.cls else .non, g.home != 0)
    | none => none

/-- A line of a drain leaves the cluster: a write at its home, which allocates unless its page is uncached (01 R28; log entry 73), or the landing
path of another cluster's core (07 R177). -/
def State.sendDrain (s : State) (t : Task) (q : Nat) (v : W64) (sp : Space) (line : Nat) (cls : Cls) (uncached : Bool) (bytes : List (Nat × Byte)) : State :=
  let mask := (bytes.map fun (o, _) => o / 64).eraseDups.foldl (fun m k => set4 m k true) 0
  s.request t.core t.wid 2 { homeReq sp line mask cls uncached .stream with bytes := bytes } (.drain t.fut v q t.num)

/-- After its retire a task is suspended, keeping its slot, or ended, as one of a warp that has exited is (15 R342, 07 R188). -/
def State.taskEnds (s : State) (cluster q num code : Nat) : State :=
  s.updCluster cluster fun c => match Tab.look c.tasks q with
    | some t =>
      if t.num != num then c
      else if (code = 1 || code = 2) && !s.gone t.wid then { c with tasks := Tab.put c.tasks q { t with st := .suspended code } }
      else { c with tasks := Tab.del c.tasks q }
    | none => c

/-- A task retires: its cells, its drained bytes, its status (07 R177, R186, R187). -/
def State.retireTask (s : State) (cluster q : Nat) : State :=
  match Tab.look (s.cluster cluster).tasks q with
  | none => s
  | some t =>
    let o := if t.prog > t.row0 then s.taskOut cluster t else ⟨[], 0, []⟩
    let xf := t.xf ||| o.fl
    let bad := t.poison || (decide (t.prog > t.row0) && t.poisoned)
    let code := if t.prog < tkM t.record then t.fail else if bad then 7 else 0
    let v := taskStatus t.prog xf 0 q t.eng code
    let placedBytes := o.bytes.filterMap fun (sc, p, b) => (s.drainPlace t sc p).map fun (pl, c) => (pl, c, b)
    let here := placedBytes.filter fun (pl, _, _) => sameCluster t.core pl.space
    let far := placedBytes.filter fun (pl, _, _) => !sameCluster t.core pl.space
    let s := s.updCluster cluster fun c => c.accPut o.cells
    let s := (List.range 4).foldl (fun s k =>
      let n := cluster * 4 + k
      let mine := (here.filter fun (pl, _, _) => pl.space == .core n).map fun (pl, _, b) => (pl.addr, b)
      if mine.isEmpty then s else s.updCore n fun c => c.poolWrite mine) s
    let lines := (far.map fun (pl, c, _) => (pl.space, pl.addr / 256, c)).eraseDups
    let t := { t with xf := xf, poison := bad, opA := [], opB := [], opS := [] }
    if lines.isEmpty then
      let s := s.updCluster cluster fun c => { c with tasks := Tab.put c.tasks q t }
      (s.taskEnds cluster q t.num code).resolvesNow (cluster * 4) t.fut v
    else
      let s := s.updCluster cluster fun c => { c with tasks := Tab.put c.tasks q { t with st := .delivering code } }
      lines.foldl (fun s (sp, line, c, u) =>
        s.sendDrain t q v sp line c u ((far.filter fun (pl, _, _) => pl.space == sp && pl.addr / 256 == line).map fun (pl, _, b) => (pl.addr % 256, b))) s

/-- A queued task ends with code 5 and frees its slot (07 R189). DESIGN CHOICE (log entry 79): at once, so that a later trigger of the same cycle can
take the slot and the rows. -/
def State.cancelTask (s : State) (cluster q : Nat) : State :=
  match Tab.look (s.cluster cluster).tasks q with
  | some t =>
    if t.st == .queued then
      (s.updCluster cluster fun c => { c with tasks := Tab.del c.tasks q }).later
        [.futureResolution t.fut (taskStatus t.row0 t.xf 0 q t.eng 5) .nothing]
    else s
  | none => s

end Sys2Proof.Machine
end

