-- ==== Sys2Proof/Machine/Accumulator.lean ====
section
/-! DEFINITION. The accumulator unit: windows, reads, writes, and the cycle in which each access takes effect
(14_memory_functions R332 to R336, 07 R185). -/

namespace Sys2Proof.Machine

open Host (Outcome)

/-! ### Triggers -/

/-- The members of a group in the warp's own cluster that are left (07 R185); a responder belongs to none (08 R202). -/
def State.membersHere (s : State) (w : Warp) (g : Nat) : List Nat :=
  match w.responder, s.node? w.nid with
  | none, some n => (n.members g w.die w.clus).filter fun i => i / 64 == w.die * 4 + w.clus && !n.gone.contains i
  | _, _ => []

/-- An accumulator access enters the cluster. -/
def State.addAcc (s : State) (w : Warp) (rows : List Nat) (act : AcAct) : State :=
  s.updCluster (clusterOf s.cur.core) fun c => { c with
    nextId := c.nextId + 1
    acs := c.acs ++ [⟨c.nextId, s.cur.core, s.cur.slot, w.wid, s.now, rows, act⟩] }

/-- `win`: the leader of a group sets the window of its members in the cluster (R333); every operand from the lowest lane (05 R126). -/
def execWin (m : Mv) (s : State) : Outcome State Fault Refusal :=
  issue s fun w => s.engineTrig w .ac m fun p limit k =>
    let base := (laneAt p.a k).toNat
    let g := (laneAt p.b k).toNat
    let mem := if g ≥ 255 then [] else s.membersHere w g
    if !mem.contains w.ix || (mem.any fun i => decide (i < w.ix)) || base > limit.toNat || limit.toNat > Config.accRows then
      .fault 0x0E (s.loc k base)
    else .next (s.addAcc w [] (.win base limit.toNat w.nid mem))

/-- The lanes' cells: lane, row, column (R334). -/
def acCells (p : Port) (g : W32) (t : Lanes) : List (Nat × Nat × Nat) :=
  (lanesIn g).map fun i => (i, (laneAt t i).toNat, ((laneAt p.a i).toNat + i) % 256)

/-- A trigger of lanes' cells: every row is checked against the window before any lane acts (R334). -/
def State.acTrig (s : State) (w : Warp) (m : Mv) (f : Port → W32 → List (Nat × Nat × Nat) → Act) : Act :=
  s.withMove w m false fun g t =>
    if g == 0 then .next s
    else
      let p := w.ctx.port .ac
      let cells := acCells p g t
      match cells.find? fun (_, r, _) => decide (r < w.base) || decide (r ≥ w.limit) with
      | some (i, r, _) => .fault 0x0E (s.loc i r)
      | none => f p g cells

/-- `rd`: the started lanes' results wait for the access (R334, R335). -/
def execAcRd (m : Mv) (s : State) : Outcome State Fault Refusal :=
  issue s fun w => s.acTrig w m fun p g cells =>
    let id := (s.cluster (clusterOf s.cur.core)).nextId
    let s := s.addAcc w (cells.map fun (_, r, _) => r).eraseDups (.rd cells)
    .next (s.setMe { w with ctx := w.ctx.putPort .ac (p.start s.now g [] [] none id) })

/-- `wr`: raw bits into the cells (R334). -/
def execAcWr (m : Mv) (s : State) : Outcome State Fault Refusal :=
  issue s fun w => s.acTrig w m fun p _ cells =>
    .next (s.addAcc w (cells.map fun (_, r, _) => r).eraseDups
      (.wr (cells.map fun (i, r, c) => (r, c, BitVec.ofNat 32 (fld (laneAt p.b i) 31 0)))))

/-- `zero`: whole rows (R334). -/
def execAcZero (m : Mv) (s : State) : Outcome State Fault Refusal :=
  issue s fun w => s.engineTrig w .ac m fun p r k =>
    let n := (laneAt p.a k).toNat
    match windowBad w [(r.toNat, n)] with
    | some x => .fault 0x0E (s.loc k x)
    | none =>
      if n = 0 then .next s
      else .next (s.addAcc w ((List.range n).map fun i => r.toNat + i) (.zero r.toNat n))

/-! ### The access cycle (R335) -/

/-- Does a task that has not retired, triggered no later than the access, own one of its rows? -/
def Cluster.acHeld (c : Cluster) (a : AcAcc) : Bool :=
  c.tasks.any fun (_, t) => t.active && decide (t.t ≤ a.t) && a.rows.any fun r => overlap [(r, 1)] t.rows

/-- The accesses that take effect in the present cycle: not held, none of the same warp before them held; the reads first, then the
windows, then the writes in ascending core index. -/
def Cluster.acsDue (c : Cluster) : List Nat :=
  let free := c.acs.filter fun a =>
    (match a.act with
     | .win _ _ _ _ => true
     | _ => !(c.acs.any fun b => b.wid == a.wid && decide (b.id ≤ a.id) && c.acHeld b))
  let isRd (a : AcAcc) : Bool := match a.act with
    | .rd _ => true
    | _ => false
  let isWin (a : AcAcc) : Bool := match a.act with
    | .win _ _ _ _ => true
    | _ => false
  let writes := free.filter fun a => !isRd a && !isWin a
  ((free.filter isRd) ++ (free.filter isWin) ++
    ((List.range 4).flatMap fun k => writes.filter fun a => a.core % 4 == k)).map AcAcc.id

/-- The cell of the store. -/
def Cluster.cell (c : Cluster) (row col : Nat) : W32 := Tab.get c.acc 0 (row * 256 + col)

/-- An access takes effect: a read's result is readable four cycles on (R332), a write stands, a window is set. -/
def State.acAccess (s : State) (cluster id : Nat) : State :=
  let c := s.cluster cluster
  match c.acs.find? fun a => a.id == id with
  | none => s
  | some a =>
    let s := s.putCluster cluster { c with acs := c.acs.filter fun b => b.id != id }
    match a.act with
    | .win base limit nid mem =>
      (s.liveIn cluster).foldl (fun s (at_, w) =>
        if w.nid == nid && w.responder.isNone && mem.contains w.ix then s.putWarp at_ { w with base := base, limit := limit } else s) s
    | .rd cells =>
      match s.findWid a.wid with
      | none => s
      | some (at_, w) =>
        let p := w.ctx.port .ac
        if p.op != id || p.pend == 0 then s
        else
          let v := lanesOf fun i => match cells.find? fun (k, _, _) => k == i with
            | some (_, r, col) => (c.cell r col).setWidth 64
            | none => 0
          s.putWarp at_ { w with ctx := w.ctx.putPort .ac { p with nres := v, nsec := splat 0, due := some (c.lcyc + 4), op := 0 } }
    | .wr cells =>
      let tab : Tab W32 := cells.foldl (fun t (r, col, v) => Tab.put t (r * 256 + col) v) []
      s.updCluster cluster fun c => c.accPut tab
    | .zero row n =>
      s.updCluster cluster fun c => { c with acc := c.acc.filter fun (k, _) => decide (k / 256 < row) || decide (k / 256 ≥ row + n) }

end Sys2Proof.Machine
end

