-- ==== Sys2Proof/Machine/CrossLane.lean ====
section
/-! DEFINITION. The cross-lane and the predicate-logic functions (13_lane_and_scalar_functions R305 to R309, 06_numbers R167). -/

namespace Sys2Proof.Machine

open Host (Outcome)

/-- A trigger that sees all its started lanes at once: from the mask, the port and the values moved to t come the results, the flags
and the generators after it (13 R288). -/
def State.crossTrig (s : State) (w : Warp) (u : Un) (lat : Nat) (m : Mv) (wide : Bool)
    (f : W32 → Port → Lanes → Lanes × BitVec 8 × List W32) : Act :=
  s.withMove w m wide fun g v =>
    if g == 0 then .next s
    else
      let (res, fl, gens) := f g (w.ctx.port u) v
      .next (s.startUnit { w with ctx := { w.ctx with gens := gens } } u g lat res [] fl)

/-- One addition of `sum` and `scan`: integers wrap, floating-point values round (06 R167, 13 R305). -/
def addOut (ty : Ty) (r : RCtl) (x y : W64) (g : Nat) : W64 × BitVec 8 :=
  if ty.isFloat then
    let o := faArith ty opAddF r x 0 y [g]
    (o.res, o.fl)
  else (wrapTo ty ((uOf ty x : Int) + uOf ty y), 0)

/-- The working values of a reduction: one for each lane or absent, the flags so far, the generators. -/
structure Tree where
  w : List (Option W64)
  fl : BitVec 8
  gens : List W32

/-- One addition of the tree, at place i with the value `step` above it; an absent operand passes the other (06 R167). -/
def Tree.join (ty : Ty) (r : RCtl) (step : Nat) (t : Tree) (i : Nat) : Tree :=
  match t.w.getD i none, t.w.getD (i + step) none with
  | some x, some y =>
    let float := ty.isFloat && r.rm == .sr
    let d := draw (t.gens.getD i 0)
    let o := addOut ty r x y (if float then d.1 else 0)
    { w := t.w.set i (some o.1), fl := t.fl ||| o.2, gens := if float then t.gens.set i d.2 else t.gens }
  | none, y => { t with w := t.w.set i y }
  | x, none => { t with w := t.w.set i x }

/-- The fixed tree of 06 R167 over the started lanes. -/
def sumTree (ty : Ty) (r : RCtl) (g : W32) (v : Lanes) (gens : List W32) : Tree :=
  [16, 8, 4, 2, 1].foldl (fun t step => (List.range step).foldl (Tree.join ty r step) t)
    ⟨(List.range nLanes).map fun i => if maskBit g i then some (BitVec.ofNat 64 (uOf ty (laneAt v i))) else none, 0, gens⟩

/-- A value that every started lane's operand folds into, two at a time. -/
def foldStarted (g : W32) (v : Lanes) (f : W64 → W64 → W64) : W64 :=
  match (lanesIn g).map (laneAt v) with
  | [] => 0
  | x :: r => r.foldl f x

/-- The smallest or largest started value, −0 below +0 and NaNs canonical for floating-point types (13 R305). -/
def extreme (ty : Ty) (least : Bool) (g : W32) (v : Lanes) : W64 × BitVec 8 :=
  if ty.isFloat then
    let f := fmtOf ty
    let xs := (lanesIn g).map fun i => elemOf ty (laneAt v i) 0
    let vs := xs.map (decodeF f)
    let best := match xs with
      | [] => 0
      | x :: r => r.foldl (fun b y => if (if least then ordF (decodeF f y) (decodeF f b) else ordF (decodeF f b) (decodeF f y)) then y else b) x
    (BitVec.ofNat 64 (if vs.any FVal.isNan then nanOf f else best), flIf (vs.any FVal.isSnan) flNv)
  else
    (foldStarted g v fun x y => (if least then fnMin ty x y else fnMax ty x y).res, 0)

/-- `sum` of xl, latency 2 (13 R305). -/
def execXlSum (ty : Ty) (t : Trig) (s : State) : Outcome State Fault Refusal :=
  issue s fun w => s.crossTrig w .xl 2 t.mv ty.is64 fun g _ v =>
    let r := sumTree ty (w.rctl t.md) g v w.ctx.gens
    (splat ((r.w.getD 0 none).getD 0), r.fl, r.gens)

/-- `min` of xl (13 R305). -/
def execXlMin (ty : Ty) (t : Trig) (s : State) : Outcome State Fault Refusal :=
  issue s fun w => s.crossTrig w .xl 2 t.mv ty.is64 fun g _ v =>
    let r := extreme ty true g v
    (splat (fnMov ty r.1).res, r.2, w.ctx.gens)

/-- `max` of xl (13 R305). -/
def execXlMax (ty : Ty) (t : Trig) (s : State) : Outcome State Fault Refusal :=
  issue s fun w => s.crossTrig w .xl 2 t.mv ty.is64 fun g _ v =>
    let r := extreme ty false g v
    (splat (fnMov ty r.1).res, r.2, w.ctx.gens)

/-- `and` of xl (13 R305). -/
def execXlAnd (ty : Ty) (t : Trig) (s : State) : Outcome State Fault Refusal :=
  issue s fun w => s.crossTrig w .xl 2 t.mv ty.is64 fun g _ v =>
    (splat (fnMov ty (foldStarted g v fun x y => x &&& y)).res, 0, w.ctx.gens)

/-- `or` of xl (13 R305). -/
def execXlOr (ty : Ty) (t : Trig) (s : State) : Outcome State Fault Refusal :=
  issue s fun w => s.crossTrig w .xl 2 t.mv ty.is64 fun g _ v =>
    (splat (fnMov ty (foldStarted g v fun x y => x ||| y)).res, 0, w.ctx.gens)

/-- One lane of the inclusive prefix (13 R306). -/
def scanStep (ty : Ty) (r : RCtl) (g : W32) (v : Lanes)
    (acc : Option W64 × Lanes × BitVec 8 × List W32) (i : Nat) : Option W64 × Lanes × BitVec 8 × List W32 :=
  let (p, out, fl, gens) := acc
  if !maskBit g i then (p, out ++ [0], fl, gens)
  else
    let x : W64 := BitVec.ofNat 64 (uOf ty (laneAt v i))
    match p with
    | none => (some x, out ++ [x], fl, gens)
    | some y =>
      let float := ty.isFloat && r.rm == .sr
      let d := draw (gens.getD i 0)
      let o := addOut ty r y x (if float then d.1 else 0)
      (some o.1, out ++ [o.1], fl ||| o.2, if float then gens.set i d.2 else gens)

/-- `scan` of xl (13 R306). -/
def execScan (ty : Ty) (t : Trig) (s : State) : Outcome State Fault Refusal :=
  issue s fun w => s.crossTrig w .xl 2 t.mv ty.is64 fun g _ v =>
    let r := (List.range nLanes).foldl (scanStep ty (w.rctl t.md) g v) (none, [], 0, w.ctx.gens)
    (r.2.1, r.2.2.1, r.2.2.2)

/-- Started lane i receives the value of source lane j, 0 where that lane is not started (13 R307). -/
def moveLanes (ty : Ty) (g : W32) (v : Lanes) (j : Nat → Nat) : Lanes :=
  lanesOf fun i => if maskBit g (j i) && j i < nLanes then (fnMov ty (laneAt v (j i))).res else 0

/-- `shfl` of xl (13 R307). -/
def execShfl (ty : Ty) (t : Trig) (s : State) : Outcome State Fault Refusal :=
  issue s fun w => s.crossTrig w .xl 2 t.mv ty.is64 fun g p v =>
    (moveLanes ty g v fun i => uOf ty (laneAt p.a i) % 32, 0, w.ctx.gens)

/-- `up` of xl (13 R307). -/
def execUp (ty : Ty) (t : Trig) (s : State) : Outcome State Fault Refusal :=
  issue s fun w => s.crossTrig w .xl 2 t.mv ty.is64 fun g p v =>
    (moveLanes ty g v fun i => if uOf ty (laneAt p.a i) > i then i else i - uOf ty (laneAt p.a i), 0, w.ctx.gens)

/-- `down` of xl (13 R307). -/
def execDown (ty : Ty) (t : Trig) (s : State) : Outcome State Fault Refusal :=
  issue s fun w => s.crossTrig w .xl 2 t.mv ty.is64 fun g p v =>
    (moveLanes ty g v fun i => if i + uOf ty (laneAt p.a i) > 31 then i else i + uOf ty (laneAt p.a i), 0, w.ctx.gens)

/-- `bfly` of xl (13 R307). -/
def execBfly (ty : Ty) (t : Trig) (s : State) : Outcome State Fault Refusal :=
  issue s fun w => s.crossTrig w .xl 2 t.mv ty.is64 fun g p v =>
    (moveLanes ty g v fun i => i ^^^ (uOf ty (laneAt p.a i) % 32), 0, w.ctx.gens)

/-- `bcast` of xl (13 R307). -/
def execBcast (ty : Ty) (t : Trig) (s : State) : Outcome State Fault Refusal :=
  issue s fun w => s.crossTrig w .xl 2 t.mv ty.is64 fun g p v =>
    (moveLanes ty g v fun _ => uOf ty (laneAt p.a ((lowest g).getD 0)) % 32, 0, w.ctx.gens)

/-- `ballot` of xl (13 R308). -/
def execBallot (ty : Ty) (t : Trig) (s : State) : Outcome State Fault Refusal :=
  issue s fun w => s.crossTrig w .xl 2 t.mv ty.is64 fun g _ v =>
    (splat ((maskOf fun i => maskBit g i && fld (laneAt v i) 31 0 != 0).setWidth 64), 0, w.ctx.gens)

/-- `and` of pl, latency 1 (13 R309). -/
def execPlAnd (t : Trig) (s : State) : Outcome State Fault Refusal :=
  issue s fun w => s.laneTrig w .pl 1 t.mv false fun a _ _ x => plain (bool64 (a != 0 && x != 0))

/-- `or` of pl, latency 1 (13 R309). -/
def execPlOr (t : Trig) (s : State) : Outcome State Fault Refusal :=
  issue s fun w => s.laneTrig w .pl 1 t.mv false fun a _ _ x => plain (bool64 (a != 0 || x != 0))

/-- `xor` of pl, latency 1 (13 R309). -/
def execPlXor (t : Trig) (s : State) : Outcome State Fault Refusal :=
  issue s fun w => s.laneTrig w .pl 1 t.mv false fun a _ _ x => plain (bool64 ((a != 0) != (x != 0)))

/-- `andn` of pl, latency 1 (13 R309). -/
def execPlAndn (t : Trig) (s : State) : Outcome State Fault Refusal :=
  issue s fun w => s.laneTrig w .pl 1 t.mv false fun a _ _ x => plain (bool64 (a != 0 && x == 0))

/-- `not` of pl (13 R309). -/
def execPlNot (t : Trig) (s : State) : Outcome State Fault Refusal :=
  issue s fun w => s.laneTrig w .pl 1 t.mv false fun _ _ _ x => plain (bool64 (x == 0))

/-- `any` of pl (13 R309). -/
def execPlAny (t : Trig) (s : State) : Outcome State Fault Refusal :=
  issue s fun w => s.crossTrig w .pl 1 t.mv false fun g _ v =>
    (splat (bool64 ((lanesIn g).any fun i => laneAt v i != 0)), 0, w.ctx.gens)

/-- `all` of pl (13 R309). -/
def execPlAll (t : Trig) (s : State) : Outcome State Fault Refusal :=
  issue s fun w => s.crossTrig w .pl 1 t.mv false fun g _ v =>
    (splat (bool64 ((lanesIn g).all fun i => laneAt v i != 0)), 0, w.ctx.gens)

end Sys2Proof.Machine
end

