-- ==== Sys2Proof/Machine/Moves.lean ====
section
/-! DEFINITION. The moves: to operand ports, registers, predicates, special registers and ring tails (05_core_ports_and_registers R121
to R142, 14 R339), and the bundle without moves (10 R233). -/

namespace Sys2Proof.Machine

open Host (Outcome)

/-- An empty bundle changes only the program counter (10 R233). -/
def execNoOperation (s : State) : Outcome State Fault Refusal :=
  issue s fun _ => .next (s.advance s.cur)

/-- A move to an operand port: scalar units and engines take the lowest lane, the others each lane of the guard (05 R121, R126). -/
def execMoveToPort (u : Un) (k : PortIx) (wide : Bool) (m : Mv) (s : State) : Outcome State Fault Refusal :=
  issue s fun w => s.withMove w m wide fun g v =>
    .next (s.setMe { w with ctx := w.ctx.putPort u ((w.ctx.port u).setOperand k (portWrite u g v)) })

/-- The lanes of a vector register with those of a mask replaced by 32 bits of a value. -/
def writeVreg (t : Tab (List W32)) (n : Nat) (g : W32) (v : Lanes) (lo : Nat) : Tab (List W32) :=
  if g == 0 then t
  else Tab.put t n ((List.range nLanes).map fun i =>
    if maskBit g i then BitVec.ofNat 32 ((laneAt v i).toNat / 2 ^ lo) else vregOf t n i)

/-- The watch bit of a scalar register after a move into it: set when the source is a result port that holds an outstanding handle
(12 R271). -/
def watchAfter (x : Ctx) (src : Src) (v : W64) : Bool := match src with
  | .res _ => x.outstanding v
  | _ => false

/-- A move to a vector or scalar register (05 R123, R126, R133, R134). -/
def execMoveToRegister (d : RegDst) (m : Mv) (s : State) : Outcome State Fault Refusal :=
  issue s fun w =>
    match d with
    | .vreg n wide => s.withMove w m wide fun g v =>
      match rangeFault w n wide with
      | some k => .fault 0x03 (s.loc 0 k)
      | none =>
        let rrb := (s.srcCtx w).rrb
        let t := writeVreg w.vregs (physReg rrb n.toNat) g v 0
        let t := if wide then writeVreg t (physReg rrb (n.toNat + 1)) g v 32 else t
        .next (s.setMe { w with vregs := t })
    | .sreg n => s.withMove w m false fun g v =>
      match lowest g with
      | none => .next s
      | some k =>
        let x := laneAt v k
        .next (s.setMe { w with ctx := { w.ctx.putSreg n.toNat x with watch := setWatch w.ctx.watch n.toNat (watchAfter w.ctx m.src x) } })

/-- A move to a predicate: in each lane of the guard, 1 when the value is not zero (05 R135). -/
def execMoveToPredicate (n : BitVec 4) (m : Mv) (s : State) : Outcome State Fault Refusal :=
  issue s fun w => s.withMove w m false fun g v =>
    let old : W32 := Tab.get w.ctx.preds 0 n.toNat
    .next (s.setMe { w with ctx := { w.ctx with
      preds := Tab.put w.ctx.preds n.toNat (maskOf fun i => if maskBit g i then laneAt v i != 0 else maskBit old i) } })

/-- `mode` as it is stored: reserved bits 0, an rm of 0b000 or 0b111 replaced by 0b001 (06 R156). -/
def modeStored (v : W64) : W64 :=
  let rm := fld v 2 0
  BitVec.ofNat 64 (fld v 4 3 * 8 + if rm = 0 ∨ rm = 7 then 1 else rm)

/-- A move to `mode` or `flags` (05 R136, 06 R156, R163). -/
def execSpecialRegisterWrite (n : BitVec 4) (m : Mv) (s : State) : Outcome State Fault Refusal :=
  issue s fun w => s.withMove w m false fun g v =>
    match lowest g with
    | none => .next s
    | some k =>
      let x := laneAt v k
      if n.toNat = 0xB then .next (s.setMe { w with ctx := { w.ctx with mode := modeStored x } })
      else if n.toNat = 0xC then .next (s.setMe { w with ctx := { w.ctx with flags := x &&& 0xFF } })
      else .next s

/-- The element that a push makes (05 R141, 14 R339). -/
def ringElem (r : Ring) (g : W32) (v : Lanes) : Lanes :=
  if r.scalar then splat (laneAt v ((lowest g).getD 0))
  else lanesOf fun i => if maskBit g i then BitVec.ofNat 64 (fld (laneAt v i) 31 0) else 0

/-- A push to a ring tail: it waits while the ring is full at the start of the cycle (05 R141, R142, R146). -/
def execRingPush (n : BitVec 4) (m : Mv) (s : State) : Outcome State Fault Refusal :=
  issue s fun w => s.withMove w m false fun g v =>
    if g == 0 then .next s
    else match Tab.look s.srcRings n.toNat with
      | none => .fault 0x0F (s.loc 0 n.toNat)
      | some r0 =>
        if r0.elems.length ≥ r0.depth then .wait .neighbour
        else .next (s.updCore s.cur.core fun c => { c with rings := c.rings.map fun (k, r) =>
          (k, if k = n.toNat then { r with elems := r.elems ++ [ringElem r g v] } else r) })

end Sys2Proof.Machine
end

