-- ==== Sys2Proof/Machine/Sync.lean ====
section
/-! DEFINITION. The sy unit: acquire, release, fence, named barriers, group barriers and byte-count barriers
(15_engine_and_sync_functions R343 to R354, 09_ordering R210 to R218). -/

namespace Sys2Proof.Machine

open Host (Outcome)

/-! ### Objects (09 R211 to R217) -/

/-- The records of a core's segment table that bind an object (09 R211). -/
def State.recsOf (s : State) (core o : Nat) : List Nat :=
  (List.range 64).filter fun n => let r := (s.core core).segs.getD n 0; brVal r && brSobj r == o

/-- The reason for which an `acq`, or a `rel`, is refused (09 R217). -/
def State.objReason (s : State) (w : Warp) (o : Nat) (rel : Bool) : Option Nat :=
  let x := s.obj o
  if o = 0xFFFF || x.ten != some (s.tenOf w.nid) then some 1
  else if x.md == 0 || (rel && (x.md == 3 || (x.md == 1 && x.holder != some w.wid))) then some 2
  else none

/-- A refusal with its reason in bits [15:8]. -/
def refusal (reason : Nat) : W64 := BitVec.ofNat 64 (reason * 256 + 6)

/-- The phase field of a status word: the object's phase in its barrier modes, 0 otherwise (09 R213). -/
def Obj.phaseField (x : Obj) : Nat := if x.md == 2 || x.md == 3 then x.phase.toNat else 0

/-- The refusal of a request to an object, with its phase (09 R213, R217). -/
def Obj.refusal (x : Obj) (reason : Nat) : W64 :=
  BitVec.ofNat 64 (x.phaseField * 2 ^ 48 + reason * 256 + 6)

/-- A release without write-backs: what it does waits for nothing but its turn. -/
def atOnce (w : Warp) (sc : Scope) (act : RelAct) : Rel :=
  { wid := w.wid, nid := w.nid, recs := some [], scope := sc, ops := [], lands := [], after := 0, wb := false, acq := false, act := act }

/-- `acq` (09 R215, R216). -/
def execAcq (sc : Scope) (m : Mv) (s : State) : Outcome State Fault Refusal :=
  issue s fun w => s.engineTrig w .sy m fun _ v _ => s.withFuture w .sy fun s w f =>
    let core := s.cur.core
    let o := fld v 15 0
    match s.objReason w o false with
    | some r => s.arriveFut core f ((s.obj o).refusal r)
    | none => s.addRel core (atOnce w sc (.object (.acq f o (s.obj o).phase)))

/-- `rel` (09 R214, R216). -/
def execRel (sc : Scope) (m : Mv) (s : State) : Outcome State Fault Refusal :=
  issue s fun w => s.engineTrig w .sy m fun _ v _ => s.withFuture w .sy fun s w f =>
    let core := s.cur.core
    let o := fld v 15 0
    match s.objReason w o true with
    | some r => s.arriveFut core f ((s.obj o).refusal r)
    | none => s.addRel core (s.relFor core w.wid w.nid (some (s.recsOf core o)) sc false (.object (.rel f o)))

/-- `fence`: a release of every region and an acquire of every region (09 R218). -/
def execFence (sc : Scope) (m : Mv) (s : State) : Outcome State Fault Refusal :=
  issue s fun w => s.engineTrig w .sy m fun _ _ _ => s.withFuture w .sy fun s w f =>
    let core := s.cur.core
    s.addRel core (s.relFor core w.wid w.nid none sc (sc != .wp) (.done f))

/-! ### Named barriers (R344 to R349) -/

def Core.bar (c : Core) (b : Nat) : Bar := Tab.get c.bars {} b
def State.updBar (s : State) (core b : Nat) (f : Bar → Bar) : State :=
  s.updCore core fun c => { c with bars := Tab.put c.bars b (f (c.bar b)) }

/-- `bar.set` (R345). -/
def execBarSet (m : Mv) (s : State) : Outcome State Fault Refusal :=
  issue s fun w => s.engineTrig w .sy m fun p v k =>
    let b := v.toNat
    let e := opA p
    let x := (s.core s.cur.core).bar b
    if b > 47 || e = 0 || e > 255 || (x.own.isSome && x.own != some w.nid) || x.cnt != 0 || x.wmask != 0 || !x.emask.isEmpty then
      .fault 0x12 (s.loc k b)
    else .next ((s.setMe (w.engineResult s.now .sy 0)).updBar s.cur.core b fun x => { x with exp := e, cnt := 0, own := some w.nid })

/-- Is the barrier one at which the warp may not arrive (R346)? -/
def Core.barBad (c : Core) (nid b : Nat) : Bool := decide (b > 47) || (c.bar b).exp == 0 || (c.bar b).own != some nid

/-- The arrival of a warp itself, that waits for its stores (R349). -/
def State.barRel (s : State) (w : Warp) (b : Nat) : Rel := s.relFor s.cur.core w.wid w.nid none .wp false (.arrive s.cur.slot b)

/-- `bar.arr`: a warp arrival, or an engine arrival at a future's resolution (R346). -/
def execBarArr (m : Mv) (s : State) : Outcome State Fault Refusal :=
  issue s fun w => s.engineTrig w .sy m fun p v k =>
    let b := v.toNat
    let core := s.cur.core
    let x := (s.core core).bar b
    let h := laneAt p.a 0
    let phase : W64 := x.phase.setWidth 64
    if w.ctx.outstanding h && b ≤ 47 && x.emask.length ≥ 16 then .wait .room
    else if (s.core core).barBad w.nid b || (h != 0 && !isHandle w.ctx.fser h) then .fault 0x12 (s.loc k b)
    else
      let r := s.barRel w b
      let s := s.setMe (w.engineResult s.now .sy phase)
      if w.ctx.outstanding h then match Tab.lowestFree x.emask 16 with
        | some e => .next (s.updBar core b fun x => { x with emask := Tab.put x.emask e ⟨w.wid, fld h 37 32, BitVec.ofNat 32 (fld h 31 0)⟩ })
        | none => .wait .room
      else .next (s.updCore core fun c => { c with rels := c.rels ++ [r] })

/-- The warp is held on a barrier until its phase differs from q: its wmask bit is set at the end of the cycle, unless the phase differs by then
(R347). -/
def State.holdOn (s : State) (w : Warp) (b : Nat) (q : BitVec 16) : State :=
  s.setMe { w with ctx := { w.ctx with hold := some (.bar b q) } }

/-- `bar.wait` (R347). -/
def execBarWait (m : Mv) (s : State) : Outcome State Fault Refusal :=
  issue s fun w => s.engineTrig w .sy m fun p v k =>
    let b := v.toNat
    if b > 47 || ((s.core s.cur.core).bar b).exp == 0 then .fault 0x12 (s.loc k b)
    else .next (s.holdOn w b (BitVec.ofNat 16 (fld (laneAt p.a 0) 15 0)))

/-- `bar.sync`: it issues once the warp's stores have reached their points, arrives, and holds (R347, R349). -/
def execBarSync (m : Mv) (s : State) : Outcome State Fault Refusal :=
  issue s fun w => s.engineTrig w .sy m fun _ v k =>
    let b := v.toNat
    let core := s.cur.core
    let r := s.barRel w b
    if s.relWaits core r then .wait .waits
    else if (s.core core).barBad w.nid b then .fault 0x12 (s.loc k b)
    else
      .next ((s.holdOn w b ((s.core core).bar b).phase).updCore core fun c => { c with rels := c.rels ++ [r] })

/-- One arrival is counted; the phase flips when it completes (R348). -/
def Bar.count (x : Bar) : Bar :=
  if x.exp = 0 then x
  else if x.cnt + 1 ≥ x.exp then { x with phase := x.phase + 1, cnt := 0, wmask := 0 }
  else { x with cnt := x.cnt + 1 }

/-- The warp arrivals of a core that are due at the end of the cycle are counted (R348, R349). -/
def State.warpArrivals (s : State) (core : Nat) : State :=
  let (now, rest) := (s.core core).rels.partition fun r => (match r.act with
    | .arrive _ _ => true
    | _ => false) && !s.relWaits core r
  if now.isEmpty then s else
  let s := s.updCore core fun c => { c with rels := rest }
  now.foldl (fun s r => match r.act with
    | .arrive _ b => if ((s.core core).bar b).own == some r.nid then s.updBar core b Bar.count else s
    | _ => s) s

/-- Engine arrivals of a core whose futures have resolved: barrier and bit (R346, R348). -/
def Core.enginesDue (c : Core) : List (Nat × Nat) :=
  c.bars.flatMap fun (b, x) => (x.emask.filter fun (_, f) => f == futDone).map fun (e, _) => (b, e)

/-- An engine arrival is counted and its bit freed (R346, R348). -/
def State.engineArrives (s : State) (core b e : Nat) : State :=
  match Tab.look ((s.core core).bar b).emask e with
  | none => s
  | some _ => s.updBar core b fun x => ({ x with emask := Tab.del x.emask e }).count

/-- Warps held on a barrier whose phase differs from theirs go on in the next cycle, with the phase as their result; the others have their wmask
bit set (R347). -/
def State.releaseHeld (s : State) (cluster : Nat) : State :=
  (s.liveIn cluster).foldl (fun s (a, w) => match if w.entering.isSome then none else w.ctx.hold with
    | some (.bar b q) =>
      let x := (s.core a.core).bar b
      if x.phase != q then
        s.putWarp a (({ w with ctx := { w.ctx with hold := none } }).engineResult (s.lcycOf a.core) .sy (x.phase.setWidth 64))
      else s.updBar a.core b fun x => { x with wmask := x.wmask ||| (1#16 <<< a.slot) }
    | _ => s) s

/-! ### Group barriers (R351, R352) -/

/-- `gbar`. -/
def execGbar (m : Mv) (s : State) : Outcome State Fault Refusal :=
  issue s fun w => s.engineTrig w .sy m fun _ v k =>
    let core := s.cur.core
    let g := v.toNat
    match w.newFuture Un.sy.code with
    | none => .wait .admission
    | some (w', h, f) => match s.node? w.nid with
      | none => .fault 0x12 (s.loc k g)
      | some n =>
        if g ≥ 255 || w.responder.isSome || !(n.members g w.die w.clus).contains w.ix then .fault 0x12 (s.loc k g)
        else if (Tab.look w.gbars g).isSome then .wait .admission
        else
          let key := groupKey g w.die w.clus
          let sc := n.groupScope key
          let w' := w'.engineResult s.now .sy h
          let s := s.setMe { w' with gbars := Tab.put w'.gbars g f }
          .next (s.addRel core (s.relFor core w.wid w.nid none sc false (.group w.nid key w.ix f)))

/-- Has every member of a group arrived in the phase, or gone? -/
def State.groupMet (s : State) (nid key : Nat) : Bool :=
  match s.node? nid with
  | none => false
  | some n =>
    let b := Tab.get s.gbars {} (mailKey nid key)
    !b.arrived.isEmpty && (n.keyed key).all fun i => n.gone.contains i || b.arrived.any fun (j, _) => j == i

/-- Group barriers held in a cluster that are met at the end of its cycle: node and key. -/
def State.groupsDue (s : State) (cluster : Nat) : List (Nat × Nat) :=
  (s.gbars.filter fun (k, b) => !b.arrived.isEmpty && (match s.node? (k / 4096) with
    | some n => n.groupScope (k % 4096) == .cl && (match n.keyed (k % 4096) with
      | i :: _ => n.clusterAt (i / 256) (i / 64 % 4) == cluster
      | [] => false)
    | none => false) && s.groupMet (k / 4096) (k % 4096)).map fun (k, _) => (k / 4096, k % 4096)

/-- The phase of a group barrier is complete: its members' futures resolve, at once where a cluster holds it, and every region is
acquired (R351, R352). -/
def State.groupComplete (s : State) (nid key : Nat) : State :=
  if !s.groupMet nid key then s else
  match s.node? nid with
  | none => s
  | some n =>
    let k := mailKey nid key
    let b := Tab.get s.gbars {} k
    let phase := b.phase + 1
    let v : W64 := phase.setWidth 64 <<< 48
    let s := { s with gbars := Tab.put s.gbars k ⟨phase, []⟩ }
    if n.groupScope key == .cl then b.arrived.foldl (fun s (i, f) => s.resolvesNow (n.clusterAt (i / 256) (i / 64 % 4) * 4) f v (.acquire 0xFFFF)) s
    else b.arrived.foldl (fun s (i, f) => s.arriveFut (n.clusterAt (i / 256) (i / 64 % 4) * 4) f v (.acquire 0xFFFF)) s

/-! ### Byte-count barriers (R353, R354) -/

/-- The reason for which a `bcarm`, or a `bcwait`, is refused. -/
def State.countReason (s : State) (w : Warp) (o : Nat) : Option Nat :=
  let x := s.obj o
  if o = 0xFFFF || x.ten != some (s.tenOf w.nid) then some 1 else if x.md != 3 then some 2 else none

/-- `bcarm` (R353). -/
def execBcarm (m : Mv) (s : State) : Outcome State Fault Refusal :=
  issue s fun w => s.engineTrig w .sy m fun p v _ => s.withFuture w .sy fun s w f =>
    let core := s.cur.core
    let o := fld v 15 0
    match s.countReason w o with
    | some r => s.arriveFut core f ((s.obj o).refusal r)
    | none =>
      if opA p = 0 || opA p ≥ 2 ^ 48 then s.arriveFut core f ((s.obj o).refusal 3)
      else s.send .request core basePort (.releaseAtObject (.arm f o (opA p)))

/-- `bcwait` (R354). -/
def execBcwait (m : Mv) (s : State) : Outcome State Fault Refusal :=
  issue s fun w => s.engineTrig w .sy m fun p v _ => s.withFuture w .sy fun s w f =>
    let core := s.cur.core
    let o := fld v 15 0
    match s.countReason w o with
    | some r => s.arriveFut core f ((s.obj o).refusal r)
    | none => s.send .request core basePort (.releaseAtObject (.wait f o (BitVec.ofNat 16 (fld (laneAt p.a 0) 15 0))))

end Sys2Proof.Machine
end

