-- ==== Sys2Proof/Machine/Messages.lean ====
section
/-! DEFINITION. The ms unit and the mailboxes (15_engine_and_sync_functions R356 to R365, 18_host_and_fabric R411, R412). -/

namespace Sys2Proof.Machine

open Host (Outcome)

/-! ### Words (R357) -/

def adAny (v : W64) : Bool := bit v 63
def adDev (v : W64) : Nat := fld v 55 48
def adNode (v : W64) : Nat := fld v 47 16
def adDie (v : W64) : Nat := fld v 11 8
def adClus (v : W64) : Nat := fld v 7 6
def adWarp (v : W64) : Nat := fld v 5 0

/-- Is device n a peer that may be sent to: in a window or a gang of this package, and not dead (18 R412)? -/
def State.isPeer (s : State) (ten n : Nat) : Bool :=
  (s.windows.contains (ten * 512 + n) || s.gangs.any fun (_, g) => g.peers.contains n) && !s.deadPeers.contains n

/-- The launch that a send names. -/
def State.destNode (s : State) (w : Warp) (tag : Nat) : Option Node :=
  match s.node? w.nid with
  | none => none
  | some me => if tag = 0 then some me else s.launches.find? fun n => n.ten == me.ten && n.tag == tag && n.st == .running

/-- Die, cluster and warp within a launch's extents. -/
def Node.hasWarp (n : Node) (v : W64) : Bool := decide (adDie v < n.D) && decide (adClus v < n.C) && decide (adWarp v < n.W)

/-- The node tag that a message to a peer carries: 0 names the sender's own launch (R357, 18 R411). -/
def State.tagFor (s : State) (w : Warp) (tag : Nat) : Nat := match s.node? w.nid with
  | some n => if tag = 0 then n.tag else tag
  | none => tag

/-- The reason for which a send is refused (R364). -/
def State.sendReason (s : State) (w : Warp) (a b : W64) (len : Nat) : Option Nat :=
  if adAny a || fld a 62 56 != 0 || fld a 15 12 != 0 || fld b 63 32 != 0 then some 1
  else if len < 1 || len > 4096 then some 2
  else if adDev a != 0 then (if s.isPeer (s.tenOf w.nid) (adDev a) then none else some 3)
  else match s.destNode w (adNode a) with
    | some n => if n.hasWarp a then none else some 3
    | none => some 3

/-- The reason for which a receive or a probe is refused, its length apart (R364). -/
def State.matchReason (s : State) (w : Warp) (a b : W64) : Option Nat :=
  if fld a 62 56 != 0 || (!adAny a && (fld a 15 12 != 0 || adNode a != 0)) || fld b 63 33 != 0 then some 1
  else if adAny a then none
  else if adDev a != 0 then (if s.isPeer (s.tenOf w.nid) (adDev a) then none else some 3)
  else match s.node? w.nid with
    | some n => if n.hasWarp a then none else some 3
    | none => some 3

/-! ### Triggers -/

/-- `send`: the payload is read in the issuing cycle, once the warp's earlier lane stores have landed (R358). -/
def execSend (t : MTrig) (s : State) : Outcome State Fault Refusal :=
  issue s fun w => s.engineTrig w .ms t.mv fun p v k =>
    let core := s.cur.core
    let ten := s.tenOf w.nid
    let r := (s.core core).segs.getD t.buf.toNat 0
    let a := laneAt p.a 0
    let b := laneAt p.b 0
    let len := opC p
    let sized := decide (1 ≤ len) && decide (len ≤ 4096)
    if !s.writesLanded core w.wid then .wait .room
    else match w.newFuture Un.ms.code with
      | none => .wait .admission
      | some (w', h, f) =>
        match (if sized then s.pinnedBad (s.mapping core) core ten r v.toNat len none else none) with
        | some q => s.placeFault core ten r (swizzle r q) (s.loc k (brVbase r + swizzle r q))
        | none =>
          let s := s.setMe (w'.engineResult s.now .ms h)
          match s.sendReason w a b len with
          | some reason => .next (s.arriveFut core f (refusal reason))
          | none =>
            let data := (s.pinnedSpan (s.mapping core) core ten r v.toNat len).map fun o => readCell (s.core core).pool o
            let dst := match s.destNode w (adNode a) with
              | some n => n.nid
              | none => 0
            let far := adDev a != 0
            let m : MsgRec := { sender := some f, sdev := if far then Config.deviceNumber (adDev a) else 0, ddev := adDev a
                                nid := if far then s.tagFor w (adNode a) else dst
                                ddie := adDie a, dclus := adClus a, dwarp := adWarp a, snid := w.nid, sdie := w.die, sclus := w.clus
                                swarp := w.warp % 64, tag := BitVec.ofNat 32 (fld b 31 0), payload := data, since := none }
            if adDev a = 0 then .next (s.send .request core basePort (.messageArrival m))
            else .next (({ s with peerSends := s.peerSends ++ [(adDev a, f)] }).emit (.peer (adDev a) m))

/-- What a `post` or `probe` looks for. -/
def recvOf (w : Warp) (f : FutAt) (a b : W64) (core : Nat) (bytes : List Nat) : RecvRec :=
  { fut := f, nid := w.nid, die := w.die, clus := w.clus, warp := w.warp, anySrc := adAny a, sdev := adDev a, sdie := adDie a
    sclus := adClus a, swarp := adWarp a, anyTag := bit b 32, tag := BitVec.ofNat 32 (fld b 31 0), core := core, at_ := bytes }

/-- `post`: a receive bound to its buffer (R359). -/
def execPost (t : MTrig) (s : State) : Outcome State Fault Refusal :=
  issue s fun w => s.engineTrig w .ms t.mv fun p v k =>
    let core := s.cur.core
    let ten := s.tenOf w.nid
    let r := (s.core core).segs.getD t.buf.toNat 0
    let a := laneAt p.a 0
    let b := laneAt p.b 0
    let len := opC p
    let sized := decide (1 ≤ len) && decide (len ≤ 4096)
    match w.newFuture Un.ms.code with
    | none => .wait .admission
    | some (w', h, f) =>
      match (if sized then s.pinnedBad (s.mapping core) core ten r v.toNat len none else none) with
      | some q => s.placeFault core ten r (swizzle r q) (s.loc k (brVbase r + swizzle r q))
      | none =>
        let s := s.setMe (w'.engineResult s.now .ms h)
        match s.matchReason w a b with
        | some reason => .next (s.arriveFut core f (refusal (if reason = 3 && !sized then 2 else reason)))
        | none =>
          if !sized then .next (s.arriveFut core f (refusal 2))
          else if (s.cluster (clusterOf core)).posts ≥ 64 then .next (s.arriveFut core f (refusal 4))
          else
            let s := s.updCluster (clusterOf core) fun c => { c with posts := c.posts + 1 }
            .next (s.send .request core basePort (.postArrival (recvOf w f a b core (s.pinnedSpan (s.mapping core) core ten r v.toNat len))))

/-- `probe` (R363). -/
def execProbe (m : Mv) (s : State) : Outcome State Fault Refusal :=
  issue s fun w => s.engineTrig w .ms m fun p _ _ => s.withFuture w .ms fun s w f =>
    let core := s.cur.core
    let a := laneAt p.a 0
    let b := laneAt p.b 0
    match s.matchReason w a b with
    | some reason => s.arriveFut core f (refusal reason)
    | none => s.send .request core basePort (.probeRequest (recvOf w f a b core []))

/-! ### The mailbox (R360 to R363) -/

/-- The home group, by its key, of the warp that a message or a receive is for. -/
def State.mailOf (s : State) (nid die clus warp : Nat) : Nat :=
  match s.node? nid with
  | some n => mailKey nid (if warp ≥ 64 then groupKey 252 die clus else n.homeKey die clus warp)
  | none => mailKey nid 0

/-- Does a receive match a message (R360)? -/
def wants (r : RecvRec) (m : MsgRec) : Bool :=
  m.ddie == r.die && m.dclus == r.clus && m.dwarp == r.warp &&
  (r.anySrc || (m.sdev == r.sdev && m.sdie == r.sdie && m.sclus == r.sclus && m.swarp == r.swarp && (r.sdev != 0 || m.snid == r.nid))) &&
  (r.anyTag || m.tag == r.tag)

/-- The status word of a receive (R361). -/
def recvStatus (m : MsgRec) (len : Nat) (trn : Bool) : W64 :=
  BitVec.ofNat 64 (m.tag.toNat * 2 ^ 32 + len * 2 ^ 19 + m.sdie % 16 * 2 ^ 15 + m.sclus % 4 * 2 ^ 13 + m.swarp % 64 * 2 ^ 7 +
    (if trn then 16 else 0))

/-- A receive takes a message (R361). Its entry of the cluster is free from the admission on (R359; log entry 65). -/
def State.deliver (s : State) (r : RecvRec) (m : MsgRec) : State :=
  let len := min m.payload.length r.at_.length
  let bytes := (r.at_.zip m.payload).take len
  (s.intoPath r.core r.fut bytes).arriveFut r.core r.fut (recvStatus m len (m.payload.length > r.at_.length)) (.block r.core bytes true)

/-- Is the warp that a message is for still there, in the package or pre-empted? -/
def State.hasWarp (s : State) (m : MsgRec) : Bool :=
  match s.node? m.nid with
  | some n => n.all.contains (memberIx m.ddie m.dclus m.dwarp) && !n.gone.contains (memberIx m.ddie m.dclus m.dwarp)
  | none => false

/-- A message that reaches its mailbox: it takes the earliest receive, a place in the overflow queue, or waits (R360, R362). -/
def State.mailTakes (s : State) (k : Nat) (m : MsgRec) : State :=
  let x := s.mail k
  match x.posts.find? fun r => wants r m with
  | some r => ((s.putMail k { x with posts := x.posts.filter fun y => y != r }).deliver r m).dispose m 0
  | none =>
    if x.queue.length < 256 then (s.putMail k { x with queue := x.queue ++ [{ m with since := none }] }).dispose m 1
    else s.putMail k { x with waiting := x.waiting ++ [{ m with since := some (m.since.getD s.root) }] }

/-- A message arrives (R360, R362). -/
def State.messageComes (s : State) (m : MsgRec) : State :=
  if !s.hasWarp m then s.dispose m 3
  else
    let k := s.mailOf m.nid m.ddie m.dclus m.dwarp
    let x := s.mail k
    if s.mailAway k then s.putMail k { x with waiting := x.waiting ++ [{ m with since := some s.root }] }
    else if x.waiting.isEmpty then s.mailTakes k m
    else if x.posts.any fun r => wants r m then s.mailTakes k m
    else s.putMail k { x with waiting := x.waiting ++ [{ m with since := some s.root }] }

/-- After its group resumes a mailbox matches the messages that waited (R362). -/
def State.mailResumes (s : State) (k : Nat) : State :=
  let ws := (s.mail k).waiting
  ws.foldl (fun s m => s.mailTakes k m) (s.putMail k { s.mail k with waiting := [] })

/-- A cancel reaches the mailboxes: the receive that nothing has matched goes, or the message that has not been taken (R365). -/
def State.cancelComes (s : State) (core : Nat) (f : FutAt) : State :=
  let posted := s.mails.any fun (_, x) => x.posts.any fun r => r.fut == f
  let waits := s.mails.any fun (_, x) => x.waiting.any fun m => m.sender == some f
  let cut (x : Mail) : Mail := { x with posts := x.posts.filter fun r => r.fut != f, waiting := x.waiting.filter fun m => m.sender != some f }
  let s := { s with mails := s.mails.map fun (k, x) => (k, cut x) }
  if posted then s.arriveFut core f 5 (.block core [] true) else if waits then s.arriveFut core f 5 else s

/-- A post arrives: it takes the oldest message that it matches, of the queue first and then of those that wait for room, or waits (R360).
That of a warp which has ended goes, and its entry is free from an admission on. -/
def State.postComes (s : State) (r : RecvRec) : State :=
  let k := s.mailOf r.nid r.die r.clus r.warp
  let x := s.mail k
  if r.cancel then s.cancelComes r.core r.fut
  else if s.gone r.fut.wid then s.arriveFut r.core r.fut 5 (.block r.core [] true)
  else match x.queue.find? fun m => wants r m with
  | some m =>
    let i := x.queue.findIdx fun m => wants r m
    ((s.putMail k { x with queue := x.queue.eraseIdx i }).deliver r m).mailAdmits k
  | none => match x.waiting.find? fun m => wants r m with
    | some m =>
      let i := x.waiting.findIdx fun m => wants r m
      ((s.putMail k { x with waiting := x.waiting.eraseIdx i }).deliver r m).dispose m 0
    | none => s.putMail k { x with posts := x.posts ++ [r] }

/-- A probe asks (R363). -/
def State.probeComes (s : State) (r : RecvRec) : State :=
  match (s.mail (s.mailOf r.nid r.die r.clus r.warp)).queue.find? fun m => wants r m with
  | some m => s.arriveFut r.core r.fut (recvStatus m m.payload.length false)
  | none => s.arriveFut r.core r.fut 2

/-- The waits that have lasted 2^20 ticks: the messages are dropped with code 4, and the group's warps take the overflow fault (R362). -/
def State.overflowed (s : State) (k : Nat) : State :=
  let x := s.mail k
  let (late, rest) := x.waiting.partition fun m => decide (s.root ≥ m.since.getD s.root + 2 ^ 20)
  if late.isEmpty then s
  else
    let s := late.foldl (fun s m => s.dispose m 4) (s.putMail k { x with waiting := rest })
    let key := k % 4096
    (s.live.filter fun (_, w) => w.nid == k / 4096 && w.responder.isNone && s.homeKey w == key).foldl
      (fun s (a, w) => s.putWarp a { w with overflow := some (if key ≥ 1024 then 252 else key) }) s

/-- Does the wait at a mailbox not count now: its group is pre-empted, or a die of its members is in debug hold (R362)? -/
def State.mailFrozen (s : State) (k : Nat) : Bool :=
  s.mailAway k || (match s.node? (k / 4096) with
    | some n => (n.keyed (k % 4096)).any fun i => (s.die (n.clusterAt (i / 256) (i / 64 % 4) / 4)).debugHold
    | none => false)

/-- Waits that do not count in this tick. -/
def State.mailTick (s : State) : State :=
  { s with mails := s.mails.map fun (k, x) =>
      (k, if !x.waiting.isEmpty && s.mailFrozen k then { x with waiting := x.waiting.map fun m => { m with since := m.since.map (· + 1) } } else x) }

/-- Mailboxes with a wait that has lasted 2^20 ticks. -/
def State.mailsLate (s : State) : List Nat :=
  (s.mails.filter fun (_, x) => x.waiting.any fun m => decide (s.root ≥ m.since.getD s.root + 2 ^ 20)).map Prod.fst

/-- `fcancel` on a message function: the cancel goes to the mailboxes behind what the core has sent before (R365). -/
def State.cancelMail (s : State) (core : Nat) (f : FutAt) : State :=
  let onWay := s.flight.any fun x => match x.ev with
    | .postArrival r => r.fut == f && !r.cancel
    | .messageArrival m => m.sender == some f
    | _ => false
  let there := s.mails.any fun (_, x) => (x.posts.any fun r => r.fut == f) || x.waiting.any fun m => m.sender == some f
  if onWay || there then
    s.send .request core basePort (.postArrival { fut := f, nid := 0, die := 0, clus := 0, warp := 0, anySrc := false, sdev := 0, sdie := 0
                                                  sclus := 0, swarp := 0, anyTag := false, tag := 0, core := core, at_ := [], cancel := true })
  else s

end Sys2Proof.Machine
end

