-- ==== Sys2Proof/Machine/Solicit.lean ====
section
/-! DEFINITION. The so unit: solicits, replies, and the tile directory (08_solicit_and_census R191 to R208, 15 R355). -/

namespace Sys2Proof.Machine

open Host (Outcome)

/-! ### Solicits and replies (R199, R203) -/

/-- The scope of a solicit's code: die, device, system. -/
def solScope (code : Nat) : Scope := if code = 0 then .die else if code = 1 then .dev else .sys

/-- `sol` (R199). -/
def execSol (t : MTrig) (s : State) : Outcome State Fault Refusal :=
  issue s fun w => s.engineTrig w .so t.mv fun p v k =>
    let core := s.cur.core
    let ten := s.tenOf w.nid
    let r := (s.core core).segs.getD t.buf.toNat 0
    let key := laneAt p.a 0
    match w.newFuture Un.so.code with
    | none => .wait .admission
    | some (w', h, f) => match s.pinnedBad (s.mapping core) core ten r (opC p) 8 none with
      | some q => s.placeFault core ten r (swizzle r q) (s.loc k (brVbase r + swizzle r q))
      | none =>
        let s := s.setMe (w'.engineResult s.now .so h)
        if fld v 63 6 != 0 || fld v 5 4 == 3 || fld v 3 0 > 7 || fld key 63 48 != 0 then .next (s.arriveFut core f 6)
        else
          let at_ := s.pinnedSpan (s.mapping core) core ten r (opC p) 8
          let it : CensusItem := .solicit f (key.setWidth 48) (laneAt p.b 0) (fld v 5 4) (fld v 3 0) core s.cur.slot ten at_ false
          .next (s.addRel core (s.relFor core w.wid w.nid none (solScope (fld v 5 4)) false (.census it)))

/-- `sreply`: the responder's writes are released, its reply is sent, and the warp exits at the end of the cycle (R203). -/
def execSreply (m : Mv) (s : State) : Outcome State Fault Refusal :=
  issue s fun w => s.engineTrig w .so m fun _ v k =>
    match w.responder with
    | none => .fault 0x13 (s.loc k 0)
    | some x =>
      let core := s.cur.core
      let s := s.setMe { w with leaving := some true }
      .next (s.addRel core (s.relFor core w.wid w.nid none (solScope x.scope) false (.reply x.cen core x.entry (some v))))

/-! ### The tile directory (R191 to R198) -/

def Core.tile? (c : Core) (e : Nat) : Option Tile := Tab.look c.tiles e

/-- An entry as the programs of its cluster see it: what commits have changed shows at the next admission (00 R4). -/
def Core.tileSeen (c : Core) (e : Nat) : Option Tile := match Tab.look c.oldTiles e with
  | some t => some t
  | none => c.tile? e

/-- The lowest entry that is free, and is seen to be free. -/
def Core.entryFree (c : Core) : Option Nat := (List.range 128).find? fun e => (c.tileSeen e).isNone && (c.tile? e).isNone

/-- `tins` (R194, R198). -/
def execTins (t : MTrig) (s : State) : Outcome State Fault Refusal :=
  issue s fun w => s.engineTrig w .so t.mv fun p v k =>
    let core := s.cur.core
    let ten := s.tenOf w.nid
    let r := (s.core core).segs.getD t.buf.toNat 0
    let key := laneAt p.a 0
    let len := opC p
    let grp := s.homeKey w
    match w.newFuture Un.so.code with
    | none => .wait .admission
    | some (w', h, f) =>
      match (if w.responder.isSome then none else s.pinnedBad (s.mapping core) core ten r (opB p) len (some (w.nid, grp))) with
      | some q => s.placeFault core ten r (swizzle r q) (s.loc k (brVbase r + swizzle r q))
      | none =>
        let s := s.setMe (w'.engineResult s.now .so h)
        if w.responder.isSome then .next (s.arriveFut core f (refusal 4))
        else if fld key 63 48 != 0 || len % 256 != 0 || len < 256 || len > 2 ^ 22 || v.toNat % 32 != 0 then .next (s.arriveFut core f (refusal 1))
        else match (s.core core).entryFree with
          | none => .next (s.arriveFut core f (refusal 2))
          | some e =>
            let x : Tile := { hva := BitVec.ofNat 64 (fld v 55 0), grp := grp, ten := ten, st := .arriving, tbuf := t.buf.toNat
                              tpos := opB p, len := len / 256, key := key.setWidth 48, nid := w.nid, fut := f }
            let s := s.updCore core fun c => { c with tiles := Tab.put c.tiles e x }
            .next (s.send .request core basePort (.censusOrder (.insert core e f)))

/-- Is the entry of the issuing core present, and the launch's own (R198 reason 3)? -/
def Core.ownTile (c : Core) (e nid : Nat) : Option Tile := match c.tileSeen e with
  | some x => if x.st == .present && x.nid == nid then some x else none
  | none => none

def State.setTile (s : State) (core e : Nat) (st : TileSt) : State :=
  s.updCore core fun c => { c with tiles := c.tiles.map fun (k, x) => (k, if k = e then { x with st := st } else x) }

/-- An entry departs for a `tdel` or `tmove`: the one that the program sees. Where a commit has changed the entry meanwhile, what the program sees
departs alone. -/
def Core.departs (c : Core) (e : Nat) (f : FutAt) : Core := match c.tileSeen e with
  | none => c
  | some x =>
    let gone : Tile := { x with st := .departing, leave := some f }
    { c with
      tiles := if c.tile? e == some x then Tab.put c.tiles e gone else c.tiles
      oldTiles := if (Tab.look c.oldTiles e).isSome then Tab.put c.oldTiles e gone else c.oldTiles }

/-- `tdel` (R195). -/
def execTdel (m : Mv) (s : State) : Outcome State Fault Refusal :=
  issue s fun w => s.engineTrig w .so m fun _ v _ => s.withFuture w .so fun s w f =>
    let core := s.cur.core
    if w.responder.isSome then s.arriveFut core f (refusal 4)
    else match (s.core core).ownTile v.toNat w.nid with
      | none => s.arriveFut core f (refusal 3)
      | some _ => (s.updCore core fun c => c.departs v.toNat f).send .request core basePort (.censusOrder (.delete core v.toNat f))

/-- Is it a core of the launch? -/
def State.launchCore (s : State) (nid core : Nat) : Bool := match s.node? nid with
  | some n => n.places.contains (clusterOf core) && core < 256
  | none => false

/-- Censuses whose responders from an entry have started and have not been counted: those that still wait to start are none (R196). -/
def State.owedFrom (s : State) (core e : Nat) : List Nat :=
  let waits (k : Nat) : Bool := (s.core core).spawns.any fun x => x.cen == k && x.entry == e
  (s.censuses.filter fun (k, c) => c.owed.contains (core, e) && !waits k).map Prod.fst

/-- `tmove` (R196, R198). -/
def execTmove (t : MTrig) (s : State) : Outcome State Fault Refusal :=
  issue s fun w => s.engineTrig w .so t.mv fun p v _ =>
    if !s.writesLanded s.cur.core w.wid then .wait .room else s.withFuture w .so fun s w f =>
    let core := s.cur.core
    let ten := s.tenOf w.nid
    let dcore := opA p
    let r := (s.core core).segs.getD t.buf.toNat 0
    let free := if dcore < 256 then (s.core dcore).entryFree else some 0
    if w.responder.isSome then s.arriveFut core f (refusal 4)
    else match free, (s.core core).ownTile v.toNat w.nid with
      | none, _ => s.arriveFut core f (refusal 2)
      | some _, none => s.arriveFut core f (refusal 3)
      | some e, some x =>
        if !s.launchCore w.nid dcore || (s.pinnedBad (s.mapping core) dcore ten r (opB p) (x.len * 256) none).isSome then
          let walk := if brVal r then ((blockHeads (opB p) (x.len * 256)).filter fun q => decide (q < brExtent r)).findSome? fun q =>
            s.walkBad (s.mapping core) ten r (swizzle r q) else none
          (walk.elim s s.logWalk).arriveFut core f (refusal 5)
        else
          let id := s.nextMove
          let waits := s.owedFrom core v.toNat
          let behind := s.writesOf core w.wid
          let s := s.updCore core fun c => c.departs v.toNat f
          let s := s.updCore dcore fun c => { c with tiles := Tab.put c.tiles e { x with st := .arriving, tbuf := t.buf.toNat, tpos := opB p, fut := f, leave := none } }
          let x : TMove := { fut := f, core := core, entry := v.toNat, dcore := dcore, dentry := e, dbuf := r, dnum := t.buf.toNat
                             dpos := opB p, waits := waits, behind := behind }
          let s := { s with nextMove := id + 1, tmoves := Tab.put s.tmoves id x }
          if waits.isEmpty then s.arrive core w.wid (.tmoveCopy id) else s

end Sys2Proof.Machine
end

