-- ==== Sys2Proof/Machine/Pool.lean ====
section
/-! DEFINITION. The rg unit: rings and the register pool (14_memory_functions R337 to R339, 05_core_ports_and_registers R137 to R145). -/

namespace Sys2Proof.Machine

open Host (Outcome)

/-! ### Rings (R338, 05 R140 to R143) -/

/-- Depths that a ring may have (05 R140). -/
def depthOk (scalar : Bool) (n : Nat) : Bool := (List.range (if scalar then 16 else 12)).any fun k => n == 2 ^ k

/-- `rmake`. -/
def execRmake (m : Mv) (s : State) : Outcome State Fault Refusal :=
  issue s fun w => s.engineTrig w .rg m fun p v k =>
    let core := s.cur.core
    let n := opA p
    let scalar := opB p == 1
    let depth := v.toNat
    if n > 15 || (Tab.look (s.core core).rings n).isSome || opB p > 1 || !depthOk scalar depth then .fault 0x0F (s.loc k n)
    else
      let c := s.cluster (clusterOf core)
      if c.ringUsed + ringSize scalar depth > Config.ringUnits then .next (s.setMe (w.engineResult s.now .rg 1))
      else
        let s := s.setMe (w.engineResult s.now .rg 0)
        let s := s.putCluster (clusterOf core) { c with ringUsed := c.ringUsed + ringSize scalar depth }
        .next (s.updCore core fun c => { c with rings := Tab.put c.rings n ⟨scalar, depth, w.nid, []⟩ })

/-- The ring of the warp's launch as it stood at the start of the cycle (14 R338, R339). -/
def State.ownRing (s : State) (w : Warp) (n : Nat) : Option Ring := match Tab.look s.srcRings n with
  | some r => if r.nid == w.nid then some r else none
  | none => none

/-- `rfree`: the storage returns at the end of the cycle. -/
def execRfree (m : Mv) (s : State) : Outcome State Fault Refusal :=
  issue s fun w => s.engineTrig w .rg m fun _ v k =>
    match s.ownRing w v.toNat with
    | none => .fault 0x0F (s.loc k v.toNat)
    | some r =>
      let core := s.cur.core
      let s := s.setMe (w.engineResult s.now .rg 0)
      let s := s.updCluster (clusterOf core) fun c => { c with ringBack := c.ringBack + ringSize r.scalar r.depth }
      .next (s.updCore core fun c => { c with rings := Tab.del c.rings v.toNat })

/-- A function that needs n elements: it waits for them (05 R143). -/
def State.ringNeed (s : State) (w : Warp) (m : Mv) (f : Nat → Nat → Ring → State) : Act :=
  s.engineTrig w .rg m fun p v k =>
    match s.ownRing w (opA p) with
    | none => .fault 0x0F (s.loc k (opA p))
    | some r =>
      if v.toNat = 0 || v.toNat > r.depth then .fault 0x0F (s.loc k (opA p))
      else if r.elems.length < v.toNat then .wait .neighbour
      else .next (f (opA p) v.toNat r)

/-- `radv`: n elements leave the head. -/
def execRadv (m : Mv) (s : State) : Outcome State Fault Refusal :=
  issue s fun w => s.ringNeed w m fun n k r =>
    let s := s.setMe (w.engineResult s.now .rg (BitVec.ofNat 64 (r.elems.length - k)))
    s.updCore s.cur.core fun c => { c with rings := c.rings.map fun (i, x) => (i, if i = n then { x with elems := x.elems.drop k } else x) }

/-- `rwait`. -/
def execRwait (m : Mv) (s : State) : Outcome State Fault Refusal :=
  issue s fun w => s.ringNeed w m fun _ _ r => s.setMe (w.engineResult s.now .rg (BitVec.ofNat 64 r.elems.length))

/-- `rcnt`. -/
def execRcnt (m : Mv) (s : State) : Outcome State Fault Refusal :=
  issue s fun w => s.engineTrig w .rg m fun _ v k =>
    match s.ownRing w v.toNat with
    | none => .fault 0x0F (s.loc k v.toNat)
    | some r => .next (s.setMe (w.engineResult s.now .rg (BitVec.ofNat 64 r.elems.length)))

/-! ### The register pool (05 R137 to R139) -/

/-- The registers of names lo to hi − 1 are dropped: they read as zero when they are granted again. -/
def Warp.dropRegs (w : Warp) (lo hi : Nat) : Warp :=
  { w with vregs := (List.range (hi - lo)).foldl (fun t k => Tab.del t (physReg w.ctx.rrb (lo + k))) w.vregs }

/-- Registers v(A − n) to v(A − 1) return to the pool at the end of a cycle (05 R138). -/
def State.gives (s : State) (a : WarpAt) (w : Warp) : State :=
  if w.giving = 0 then s
  else
    let n := w.giving
    (s.putWarp a { w.dropRegs (w.regs - n) w.regs with regs := w.regs - n, giving := 0 }).updCore a.core fun c =>
      { c with free := c.free + n, held := Tab.put c.held w.nid (Tab.get c.held 0 w.nid - n) }

/-- `vgive`: the registers go at the end of the cycle (05 R138). -/
def execVgive (m : Mv) (s : State) : Outcome State Fault Refusal :=
  issue s fun w => s.engineTrig w .rg m fun _ v k =>
    let n := v.toNat
    if n % 8 != 0 || n < 8 || n + 8 > w.regs then .fault 0x03 (s.loc k n)
    else
      .next (s.setMe { w.engineResult s.now .rg (BitVec.ofNat 64 (w.regs - n)) with giving := n })

/-- `vclaim`: the warp is held until the grant (05 R138, R139). -/
def execVclaim (m : Mv) (s : State) : Outcome State Fault Refusal :=
  issue s fun w => s.engineTrig w .rg m fun _ v k =>
    let n := v.toNat
    if n % 8 != 0 || n < 8 || n + w.regs > 256 then .fault 0x03 (s.loc k n)
    else
      let s := s.setMe { w with ctx := { w.ctx with hold := some (.claim n), claimAt := some (w.ctx.pc, w.ctx.loop, w.ctx.rrb) } }
      .next (s.updCore s.cur.core fun c => { c with claims := c.claims ++ [(s.cur.slot, n)] })

/-- The quota of a launch on a core (05 R137). -/
def State.quota (s : State) (nid : Nat) : Nat := match s.node? nid with
  | some n => lrQ n.raw
  | none => Config.poolRegs

/-- May the oldest claim of a core be granted (05 R139)? -/
def State.claimReady (s : State) (core : Nat) : Bool :=
  match (s.core core).claims with
  | [] => false
  | (slot, n) :: _ => match s.warp? ⟨core, slot⟩ with
    | none => false
    | some w => decide (n ≤ (s.core core).free) && decide (Tab.get (s.core core).held 0 w.nid + n ≤ s.quota w.nid)

/-- The oldest claim of a core is granted: the registers read as zero, the result is readable in the next cycle (05 R138, R139). -/
def State.grantClaim (s : State) (core : Nat) : State :=
  if !s.claimReady core then s else
  match (s.core core).claims with
  | [] => s
  | (slot, n) :: rest => match s.warp? ⟨core, slot⟩ with
    | none => s
    | some w =>
      let w := { w.dropRegs w.regs (w.regs + n) with regs := w.regs + n, ctx := { w.ctx with hold := none, claimAt := none } }
      let s := s.putWarp ⟨core, slot⟩ (w.engineResult (s.lcycOf core) .rg (BitVec.ofNat 64 w.regs))
      s.updCore core fun c => { c with claims := rest, free := c.free - n, held := Tab.put c.held w.nid (Tab.get c.held 0 w.nid + n) }

/-! ### The checks of 05 R144 and R145 -/

/-- Is an operation of the warp outstanding: a load, a copy or a matrix task? -/
def State.busyWarp (s : State) (core wid : Nat) : Bool :=
  ((s.core core).loads.any fun l => l.wid == wid && !l.atomic) || ((s.core core).copies.any fun (_, c) => c.fut.wid == wid && c.st == .running) ||
  ((s.cluster (clusterOf core)).tasks.any fun (_, t) => t.wid == wid && (match t.st with
    | .suspended _ => false
    | _ => true))

/-- Full rings of a cluster: storage, core, number; the least first. -/
def State.fullRings (s : State) (cluster : Nat) : List (Nat × Nat × Nat) :=
  (List.range 4).flatMap fun k => ((s.core (cluster * 4 + k)).rings.filter fun (_, r) => r.elems.length ≥ r.depth).map fun (n, r) =>
    (ringSize r.scalar r.depth, cluster * 4 + k, n)

def leastRing : List (Nat × Nat × Nat) → Option (Nat × Nat × Nat)
  | [] => none
  | x :: r => match leastRing r with
    | none => some x
    | some y => if y.1 < x.1 then some y else some x

/-- Is every live warp of the cluster blocked? -/
def State.allBlocked (s : State) (cluster : Nat) : Bool := !(s.liveIn cluster).isEmpty && (s.liveIn cluster).all fun (_, w) => w.blocked

/-- Does the ring check act (05 R145)? -/
def State.ringCheckActs (s : State) (cluster : Nat) : Bool := s.allBlocked cluster && !(s.fullRings cluster).isEmpty

/-- The ring that the warp's next bundle pushes to and finds full, from the bundle's moves in slot order. -/
def State.fullTail (s : State) (a : WarpAt) (w : Warp) (moves : List Instr) : Option Nat :=
  moves.findSome? fun i => match i with
    | .ringPush n m =>
      if w.ctx.guard m.g == 0 then none
      else match Tab.look (s.core a.core).rings n.toNat with
        | some r => if r.elems.length ≥ r.depth then some n.toNat else none
        | none => none
    | _ => none

/-- The ring check: the least full ring doubles, or the warps that push to full rings fault (05 R145). -/
def State.ringCheck (s : State) (cluster : Nat) (moves : WarpAt → List Instr) : State :=
  if !s.ringCheckActs cluster then s else
  match leastRing (s.fullRings cluster) with
  | none => s
  | some (size, core, n) => match Tab.look (s.core core).rings n with
    | none => s
    | some r =>
      let more := ringSize r.scalar (2 * r.depth) - size
      let c := s.cluster cluster
      if 2 * r.depth ≤ (if r.scalar then 32768 else 2048) && c.ringUsed + more ≤ Config.ringUnits then
        (s.putCluster cluster { c with ringUsed := c.ringUsed + more }).updCore core fun c =>
          { c with rings := Tab.put c.rings n { r with depth := 2 * r.depth } }
      else (s.liveIn cluster).foldl (fun s (a, w) => match s.fullTail a w (moves a) with
        | some q => s.raiseTrap a 0x10 (BitVec.ofNat 64 q)
        | none => s) s

/-- Cores on which the claim check acts: every live warp blocked, one held in `vclaim`, no grant possible (05 R145). -/
def State.claimCores (s : State) (cluster : Nat) : List Nat :=
  if s.ringCheckActs cluster then []
  else ((List.range 4).map fun k => cluster * 4 + k).filter fun core =>
    !(s.core core).claims.isEmpty && !s.claimReady core && (s.liveOn core).all fun (_, w) => w.blocked

/-- The claim check: every warp held in `vclaim` takes the register-claim deadlock fault at its `vclaim` bundle (05 R145, 17 R386). -/
def State.claimCheck (s : State) (cluster : Nat) : State :=
  (s.claimCores cluster).foldl (fun s core =>
    (s.liveOn core).foldl (fun s (a, w) => match w.ctx.hold with
      | some (.claim n) =>
        let back := w.ctx.claimAt.getD (w.ctx.pc, w.ctx.loop, w.ctx.rrb)
        let s := s.unhold a
        let s := s.updWarp a fun w => { w with ctx := { w.ctx with pc := back.1, loop := back.2.1, rrb := back.2.2 } }
        s.raiseTrap a 0x11 (BitVec.ofNat 64 n)
      | _ => s) s) s

end Sys2Proof.Machine
end

