-- ==== Sys2Proof/Machine/Context.lean ====
section
/-! DEFINITION. The control image of a small context (17_traps_and_preemption R391 to R393). -/

namespace Sys2Proof.Machine

/-- Units whose ports stand in the control image, in its order (17 R392). -/
def imageUnits : List Un := [.sa, .sb, .sm, .sl, .cp, .mx, .sy, .so, .ms, .rg]

def le8 (v : Nat) : List Byte := leBytes 8 v
def le4 (v : Nat) : List Byte := leBytes 4 v
def zeros (n : Nat) : List Byte := List.replicate n 0

/-- The sequencer's word (17 R392). -/
def mctlWord (x : Ctx) : Nat := match x.loop with
  | some l => 2 ^ 32 + x.rrb.toNat * 2 ^ 24 + l.stages * 2 ^ 16 + l.ii * 2 ^ 8 + l.s % 16
  | none => x.rrb.toNat * 2 ^ 24

/-- The hold's word (17 R392). -/
def waitWord (x : Ctx) : Nat := match x.hold with
  | some (.bar b q) => 2 ^ 63 + b * 2 ^ 56 + q.toNat * 2 ^ 32
  | some (.claim n) => 2 ^ 31 + n % 512
  | none => 0

/-- A token's 32 bytes (12 R263). -/
def tokenBytes (t : Token) : List Byte :=
  leBytes 32 (t.kind.toNat * 2 ^ 158 + t.head.toNat * 2 ^ 96 + t.outer.toNat * 2 ^ 64 + t.alt.toNat * 2 ^ 32 + t.cont.toNat)

/-- The 8,192 bytes of the image (17 R392). -/
def imageOf (x : Ctx) (tag regs : Nat) (fhnd : W64) : List Byte :=
  let loop := x.loop.getD ⟨0, 0, 0, 0, 0, 0⟩
  let ports := imageUnits.flatMap fun u =>
    let p := x.port u
    le8 (laneAt p.a 0).toNat ++ le8 (laneAt p.b 0).toNat ++ le8 (laneAt p.c 0).toNat ++ le8 (laneAt p.res 0).toNat ++ le8 (laneAt p.sec 0).toNat
  let futs := (List.range 64).flatMap fun e => match Tab.look x.futs e with
    | some ser => le8 (ser.toNat + 2 ^ 32) ++ zeros 8
    | none => zeros 16
  let toks := x.toks.reverse.flatMap tokenBytes
  le8 (tag * 2 ^ 32 + 2 ^ 16 + x.toks.length * 2 ^ 8) ++ le8 x.pc.toNat ++ le8 x.mode.toNat ++ le8 x.flags.toNat ++
    le8 (regs * 2 ^ 32 + x.mask.toNat) ++ le8 x.watch.toNat ++ le8 loop.n.toNat ++ le8 loop.j.toNat ++ le8 (mctlWord x) ++ le8 loop.va.toNat ++
    le8 (waitWord x) ++ zeros 0x28 ++ ((List.range 64).flatMap fun k => le8 (x.sreg k).toNat) ++
    ((List.range 16).flatMap fun k => le4 (if k = 0 then x.mask else Tab.get x.preds 0 k).toNat) ++
    ((List.range 32).flatMap fun k => le4 (x.gens.getD k 0).toNat) ++ ports ++ le8 x.fser.toNat ++ le8 fhnd.toNat ++ zeros 0x20 ++ futs ++
    toks ++ zeros (32 * (32 - x.toks.length)) ++ zeros 0x1300

/-- An 8-byte field of an image. -/
def imWord (b : List Byte) (at_ : Nat) : W64 := BitVec.ofNat 64 (leNat ((b.drop at_).take 8))
def imHalf (b : List Byte) (at_ : Nat) : W32 := BitVec.ofNat 32 (leNat ((b.drop at_).take 4))

/-- Bytes of an image that must be zero. -/
def imZero (b : List Byte) (at_ n : Nat) : Bool := ((b.drop at_).take n).all fun x => x == 0

/-- A token of an image, entry k from the bottom. -/
def imToken (b : List Byte) (k : Nat) : Token :=
  let v := leNat ((b.drop (0x900 + 32 * k)).take 20)
  ⟨BitVec.ofNat 2 (v / 2 ^ 158), BitVec.ofNat 51 (v / 2 ^ 96), BitVec.ofNat 32 (v / 2 ^ 64), BitVec.ofNat 32 (v / 2 ^ 32), BitVec.ofNat 32 v⟩

/-- Does `ctxld` reject the image (17 R393)? -/
def imageBad (b : List Byte) (tag regs : Nat) (inRegion : W64 → Bool) : Bool :=
  let hdr := imWord b 0
  let pc := imWord b 8
  let mctl := imWord b 0x40
  let wait := imWord b 0x50
  let depth := fld hdr 15 8
  fld hdr 31 16 != 1 || fld hdr 63 32 != tag || fld hdr 7 0 != 0 || depth > 32 || fld pc 4 0 != 0 || !inRegion pc ||
  fld (imWord b 0x10) 63 5 != 0 || fld (imWord b 0x18) 63 8 != 0 || fld (imWord b 0x20) 63 41 != 0 || fld (imWord b 0x20) 40 32 != regs ||
  ((List.range depth).any fun k => (imToken b k).kind == 3) ||
  ((List.range 32).any fun k => !imZero b (0x900 + 32 * k + 20) 12 ||
    leNat ((b.drop (0x900 + 32 * k)).take 20) / 2 ^ 147 % 2 ^ 11 != 0) ||
  fld mctl 63 33 != 0 || fld mctl 31 29 != 0 || fld mctl 23 20 != 0 || fld mctl 15 13 != 0 || fld mctl 7 4 != 0 ||
  (bit mctl 32 && (fld mctl 12 8 < 1 || fld mctl 12 8 > 16 || fld mctl 19 16 < 1 || fld mctl 19 16 > 8)) ||
  bit wait 62 || fld wait 55 48 != 0 || fld wait 30 9 != 0 || (bit wait 63 && fld wait 61 56 > 47) || (bit wait 63 && bit wait 31) ||
  fld (imWord b 0x4D0) 63 32 != 0 || !imZero b 0x58 0x28 || !imZero b 0x4E0 0x20 || !imZero b 0xD00 0x1300

/-- The bundle before the one that a context goes on with, in program order: program counter, sequencer, rotation (12 R267). -/
def Ctx.bundleBefore (x : Ctx) : W64 × Option Modulo × BitVec 5 := match x.loop with
  | none => (x.pc - 32, none, x.rrb)
  | some l =>
    if l.s > 0 then (x.pc - 32, some { l with s := l.s - 1 }, x.rrb)
    else if l.j = 0 then (l.va, none, x.rrb)
    else (l.va + BitVec.ofNat 64 (32 * l.ii), some { l with j := l.j - 1, s := l.ii - 1 }, x.rrb - 1)

/-- The small context that an image gives; futures, watch bits and the serial counter stay as they were saved, and so do the ports of
the lane units (17 R391, R393). -/
def imageFields (b : List Byte) (old : Ctx) : Ctx :=
  let mctl := imWord b 0x40
  let wait := imWord b 0x50
  let ports := (List.range 10).foldl (fun (t : Tab Port) k => match imageUnits[k]? with
    | some u =>
      let w (j : Nat) : Lanes := splat (imWord b (0x340 + 40 * k + 8 * j))
      Tab.put t u.code { a := w 0, b := w 1, c := w 2, res := w 3, sec := w 4 }
    | none => t) old.ports
  let mask := imHalf b 0x20
  { pc := imWord b 8
    mode := modeStored (imWord b 0x10)
    flags := imWord b 0x18
    mask := mask
    watch := old.watch
    loop := if bit mctl 32 then some ⟨imWord b 0x30, imWord b 0x38, fld mctl 12 8, fld mctl 19 16, fld mctl 3 0, imWord b 0x48⟩ else none
    rrb := BitVec.ofNat 5 (fld mctl 28 24)
    hold := if bit wait 63 then some (.bar (fld wait 61 56) (BitVec.ofNat 16 (fld wait 47 32)))
      else if bit wait 31 then some (.claim (fld wait 8 0)) else none
    sregs := (List.range 64).foldl (fun t k => if k = 0 then t else Tab.put t k (imWord b (0x80 + 8 * k))) []
    preds := (List.range 16).foldl (fun t k => if k = 0 then t else Tab.put t k (imHalf b (0x280 + 4 * k))) []
    gens := (List.range 32).map fun k => imHalf b (0x2C0 + 4 * k)
    ports := ports
    fser := old.fser
    futs := old.futs
    toks := ((List.range (fld (imWord b 0) 15 8)).map fun k => imToken b k).reverse
    skip := if mask == 0 then some (old.skip.getD 0) else none }

/-- The small context that an image gives, with the bundle of a claim that it names: the saved one where the image keeps the saved hold and
program counter. DESIGN CHOICE (log entry 67): else the bundle before, since the image has no field for it. -/
def imageCtx (b : List Byte) (old : Ctx) : Ctx :=
  let x := imageFields b old
  match x.hold with
  | some (.claim n) => { x with claimAt := if old.hold == some (.claim n) && x.pc == old.pc && old.claimAt.isSome then old.claimAt else some x.bundleBefore }
  | _ => x

end Sys2Proof.Machine
end

