-- ==== Sys2Proof/Machine/Launch.lean ====
section
/-! DEFINITION. Launches from a program and the end of a node: records, status words, queue entries, predecessors
(12_control_operations R281 to R284, 16_scheduling R371 to R374). -/

namespace Sys2Proof.Machine

open Host (Outcome)

/-! ### Status words and queue entries (12 R281, 16 R371) -/

/-- The status word of a launch. -/
def launchStatus (tag rec_ detail code : Nat) : W64 := BitVec.ofNat 64 (tag * 2 ^ 32 + rec_ * 2 ^ 16 + detail * 2 ^ 8 + code)

/-- The head moves past every leading entry that has ended, at most n of them. -/
def Queue.advance (q : Queue) : Nat → Queue
  | 0 => q
  | n + 1 =>
    if q.head == q.tail then q
    else
      let e : RingEntry := Tab.get q.ring {} q.head.toNat
      if e.ended && e.taken then ({ q with head := q.head + 1, ring := Tab.put q.ring q.head.toNat { e with ended := false, taken := false } }).advance n
      else q

/-- An entry of a host ring ends: its status word in bytes 0 to 7, the head past what has ended, the count (16 R371). -/
def Queue.endEntry (q : Queue) (k : Nat) (v : W64) : Queue :=
  let e : RingEntry := Tab.get q.ring {} k
  let raw : BitVec 512 := BitVec.ofNat 512 (e.raw.toNat / 2 ^ 64 * 2 ^ 64 + v.toNat)
  ({ q with ring := Tab.put q.ring k { e with raw := raw, ended := true }, done := q.done + 1 }).advance 256

/-- A launch ends: its future takes the status word, or its ring entry (12 R281, 16 R371). -/
def State.launchEnds (s : State) (q : Nat) (entry : Option Nat) (fut : Option FutAt) (v : W64) : State :=
  let s := match entry with
    | some k => s.putQueue q ((s.queue q).endEntry k v)
    | none => s
  match fut with
  | some f => s.arriveFut 0 f v
  | none => s

/-- The nodes that have become ready are numbered in order (16 R373, R377). -/
def State.markReady (s : State) : State :=
  s.nodes.foldl (fun s n =>
    if n.preds.isEmpty && n.ready.isNone then
      { s.updNode n.nid fun m => { m with ready := some s.nextReady } with nextReady := s.nextReady + 1 }
    else s) s

/-- A gang's coordinator that ends is no coordinator any more, and a descriptor with no node left has no committed one (16 R382, R383). -/
def State.gangEnds (s : State) (n : Node) : State :=
  let id := lrGang n.raw
  let g : Gang := Tab.get s.gangs {} id
  let others := s.nodes.any fun m => m.nid != n.nid && lrGang m.raw == id && (m.st == .running || s.wasSaved m.nid)
  if id = 0 then s
  else
    let g := if g.coord == some n.nid then { g with coord := none, acked := [], since := none } else g
    { s with gangs := Tab.put s.gangs id { g with committed := g.committed && others } }

/-- A node ends: it leaves the pool, its launch takes the status, what its warps left goes, its successors lose a predecessor. Its record stays
for responders of its tiles that still run (08 R202). -/
def State.endNode (s : State) (nid detail rec_ code : Nat) : State :=
  match s.node? nid with
  | none => s
  | some n =>
    let without (m : Node) : Node := { m with preds := m.preds.filter fun p => p != nid }
    let s := s.gangEnds n
    let kept (x : Warp) : Bool := x.nid == nid && x.responder.isSome
    let stays := (s.live.any fun (_, x) => kept x) || s.saved.any fun g => g.warps.any fun (_, x) => kept x
    let closed (m : Node) : Node := if m.nid == nid then { m with ended := true, fut := none, entry := none } else m
    let s := { s with
      nodes := if stays then s.nodes.map fun m => closed (without m) else (s.nodes.filter (fun (m : Node) => m.nid != nid)).map without
      mails := s.mails.filter fun (k, _) => k / 4096 != nid
      gbars := s.gbars.filter fun (k, _) => k / 4096 != nid
      saved := s.saved.filter fun g => g.nid != nid || g.warps.any fun (_, x) => kept x }
    let s := s.launchEnds n.queue n.entry n.fut (launchStatus n.tag rec_ detail code)
    s.markReady

/-! ### Launch and gang (12 R281, R284) -/

/-- A record reference (12 R278): its record, whether a reserved bit is set, the position. -/
def State.refRec (s : State) (v : W64) : BufRec := (s.core s.cur.core).segs.getD (fld v 63 58) 0
def refBad (v : W64) : Bool := fld v 57 47 != 0
def refPos (v : W64) : Nat := fld v 46 0

/-- A scalar register receives a handle: watched, unless it is s0 (12 R271, R281). -/
def Ctx.putHandle (x : Ctx) (n : Nat) (h : W64) : Ctx :=
  if n = 0 then x else { x.putSreg n h with watch := setWatch x.watch n true }

/-- A scalar register receives a plain value: its watch bit is cleared (12 R271). -/
def Ctx.putPlain (x : Ctx) (n : Nat) (v : W64) : Ctx := { x.putSreg n v with watch := setWatch x.watch n false }

/-- The next bundle. -/
def Warp.fall (w : Warp) : Warp := { w with ctx := { w.ctx with pc := w.ctx.pc + 32 } }

/-- The operand of a control operation (12 R257, R258): its value at the start of the cycle, or a wait. -/
def State.ctlReg (s : State) (w : Warp) (n : BitVec 6) (f : W64 → Act) : Act :=
  if (s.srcCtx w).watched n.toNat then .wait .admission else f ((s.srcCtx w).sreg n.toNat)

/-- `launch` and `gang`: the record is read, a fence-release at device scope begins, and after it the record enters its queue. -/
def State.launchOp (s : State) (w : Warp) (sd sa : BitVec 6) (gang : Bool) : Act :=
  s.ctlReg w sa fun v =>
    let core := s.cur.core
    let ten := s.tenOf w.nid
    let r := s.refRec v
    if !s.storesLanded core w.wid then .wait .room
    else match w.newFuture (if gang then 0xC1 else 0xC0) with
      | none => .wait .admission
      | some (w', h, f) => match s.pinnedBad (s.mapping core) core ten r (refPos v) 64 none with
        | some q => s.placeFault core ten r (swizzle r q) (s.loc 0 (brVbase r + swizzle r q))
        | none =>
          let bytes := (s.pinnedSpan (s.mapping core) core ten r (refPos v) 64).map fun o => readCell (s.core core).pool o
          let raw : LaunchRec := BitVec.ofNat 512 (leNat bytes)
          let s := s.setMe ({ w' with ctx := w'.ctx.putHandle sd.toNat h }).fall
          .next (s.addRel core (s.relFor core w.wid w.nid none .dev false (.launch f raw ten gang (refBad v || refPos v % 64 != 0))))

/-- `launch` (R281). -/
def execLaunch (sd sa : BitVec 6) (s : State) : Outcome State Fault Refusal := issue s fun w => s.launchOp w sd sa false
/-- `gang` (R284). -/
def execGang (sd sa : BitVec 6) (s : State) : Outcome State Fault Refusal := issue s fun w => s.launchOp w sd sa true

/-- `eve`: past the early-start point; without effect in a responder or a handler (R282). -/
def execEve (s : State) : Outcome State Fault Refusal :=
  issue s fun w => .next (s.setMe (if w.responder.isSome || w.handler.isSome then w.fall else { w.fall with eve := true }))

/-- `pwait`: until every predecessor has completed; then an acquire of every region (R283). -/
def execPwait (s : State) : Outcome State Fault Refusal :=
  issue s fun w =>
    let preds := match s.node? w.nid with
      | some n => n.preds
      | none => []
    if !preds.isEmpty then .wait .admission
    else .next ((s.setMe w.fall).acquireOver s.cur.core w.wid fun _ => true)

/-! ### Cancelling a launch (12 R281, R284) -/

/-- Records that found a device list full enter it while there is room (12 R281, 16 R372). -/
def Queue.refill (q : Queue) : Queue :=
  let n := 64 - q.device.length
  { q with device := q.device ++ q.waiting.take n, waiting := q.waiting.drop n }

/-- What the gang messages say: prepare, commit, abort, acknowledge, decline (16 R382). -/
def gPrepare : Nat := 0
def gCommit : Nat := 1
def gAbort : Nat := 2
def gAck : Nat := 3
def gDecline : Nat := 4

/-- The coordinator's progress is forgotten. -/
def State.gangIdle (s : State) (id : Nat) : State :=
  let g : Gang := Tab.get s.gangs {} id
  { s with gangs := Tab.put s.gangs id { g with coord := none, acked := [], since := none } }

/-- `fcancel` on a launch or gang: a record or a node that has not been dispatched goes, with code 5; a committed gang, pre-empted or not, stays. -/
def State.cancelLaunch (s : State) (core : Nat) (f : FutAt) : State :=
  let inRel := (s.core core).rels.find? fun r => match r.act with
    | .launch g _ _ _ _ => g == f
    | _ => false
  let inQueue := s.queues.find? fun (_, q) => (q.device ++ q.waiting).any fun r => r.fut == f
  match inRel with
  | some r => match r.act with
    | .launch _ raw _ _ _ => (s.updCore core fun c => { c with rels := c.rels.filter fun x => x != r }).arriveFut core f
        (launchStatus (lrTag raw) 0 0 5)
    | _ => s
  | none => match inQueue with
    | some (k, q) =>
      let tag := match (q.device ++ q.waiting).find? fun r => r.fut == f with
        | some r => lrTag r.raw
        | none => 0
      let cut (l : List DevRec) : List DevRec := l.filter fun r => r.fut != f
      let q : Queue := { q with device := cut q.device, waiting := cut q.waiting }
      (s.putQueue k q.refill).arriveFut core f (launchStatus tag 0 0 5)
    | none => match s.nodes.find? fun n => n.fut == some f with
      | some n =>
        if n.st == .running || s.wasSaved n.nid then s
        else if lrGang n.raw = 0 then (if n.st == .pool && n.places.isEmpty then s.endNode n.nid 0 0 5 else s)
        else
          let id := lrGang n.raw
          let s := if (Tab.get s.gangs {} id).coord == some n.nid then (s.emit (.gang id gAbort)).gangIdle id else s
          s.endNode n.nid 0 0 5
      | none => s

end Sys2Proof.Machine
end

