-- ==== Sys2Proof/Machine/Control.lean ====
section
/-! DEFINITION. The control thread: fetch, branches, divergent regions, the sequencer, futures, the ends of warps and handlers, system
registers (12_control_operations R257 to R280, R285; 17_traps_and_preemption R391 to R393). -/

namespace Sys2Proof.Machine

open Host (Outcome)

/-! ### Fetch (12 R261, 16 R369) -/

/-- Is an address in the node's program region? -/
def Node.inRegion (n : Node) (va : W64) : Bool := decide (lrPva n.raw ≤ va.toNat) && decide (va.toNat < lrPva n.raw + n.plen)

def State.inRegion (s : State) (nid : Nat) (va : W64) : Bool := match s.node? nid with
  | some n => n.inRegion va
  | none => false

/-- The place of a virtual address of the tenant's launch space (16 R369), under a mapping. -/
def State.spaceTr (s : State) (old : Tab W64) (ten root levels va : Nat) : Tr :=
  if va ≥ 2 ^ (16 + 6 * levels) then .refused
  else match s.walk old ten va root levels with
    | .leaf e j => s.leafTr ten va e j
    | .absent => .absent none
    | .refused => .refused

/-- What a fetch gives: the bundle's 256 bits, a miss of the instruction cache, or the fetch fault. -/
inductive Fetch where
  | ok (word : Nat)
  | miss
  | bad
  deriving DecidableEq, Repr

/-- The fetch of the bundle at an address by a warp of a node on a core: the fetch fault outside the program region, and where the address
does not translate to readable memory. -/
def State.fetch (s : State) (core nid : Nat) (pc : W64) : Fetch :=
  match s.node? nid with
  | none => .bad
  | some n =>
    if !n.inRegion pc then .bad
    else match s.spaceTr (s.mapping core) n.ten n.root n.levels pc.toNat with
      | .ok p g =>
        if !g.read then .bad
        else if !(s.core core).ilines.contains (pc.toNat / 256) then .miss
        else .ok (leNat ((List.range 32).map fun k => s.placeByte ⟨p.space, p.addr + k⟩))
      | _ => .bad

/-- The place and page of the bundle that a warp of a node fetches at an address, where it can. -/
def State.fetchPlace (s : State) (core nid : Nat) (pc : W64) : Option (Place × Page) := match s.node? nid with
  | none => none
  | some n => match s.spaceTr (s.mapping core) n.ten n.root n.levels pc.toNat with
    | .ok p g => if n.inRegion pc && g.read then some (p, g) else none
    | _ => none

/-- The walker's read in no window that a fetch meets (01 R20). -/
def State.fetchWalk (s : State) (core nid : Nat) (pc : W64) : Option Nat := match s.node? nid with
  | none => none
  | some n => if n.inRegion pc && decide (pc.toNat < 2 ^ (16 + 6 * n.levels)) then s.walkStop (s.mapping core) n.ten pc.toNat n.root n.levels else none

/-- The moves of the bundle that a warp would issue next. -/
def State.nextMoves (s : State) (a : WarpAt) : List Instr := match s.warp? a with
  | none => []
  | some w => match s.fetch a.core w.nid w.ctx.pc with
    | .ok b => match decodeBundle b with
      | .ok x => x.moves.map Prod.snd
      | .error _ => []
    | _ => []

/-! ### Branches and calls (R259 to R261) -/

/-- Control passes to a target: misaligned, it is an illegal encoding; outside the region, a fetch fault (R251, R261). -/
def State.goTo (s : State) (w : Warp) (target : W64) : Act :=
  if target.toNat % 32 != 0 then .fault 0x02 (s.loc 0 0)
  else if !s.inRegion w.nid target then .fault 0x04 (BitVec.ofNat 64 (fld target 55 0))
  else .next (s.setMe { w with ctx := { w.ctx with pc := target } })

/-- The address of the bundle plus 32 × x (R251). -/
def branchTo (w : Warp) (x : BitVec 32) : W64 := w.ctx.pc + 32 * x.signExtend 64

/-- A conditional branch. -/
def State.branchIf (s : State) (w : Warp) (c : Bool) (x : BitVec 32) : Act :=
  if c then s.goTo w (branchTo w x) else .next (s.setMe w.fall)

/-- The lanes of a control operation's predicate, within the active mask (R259, R264). -/
def Ctx.cond (x : Ctx) (p : BitVec 4) (ng : Bool) : W32 := x.mask &&& (if ng then ~~~(x.pred p.toNat) else x.pred p.toNat)

def execBr (x : BitVec 32) (s : State) : Outcome State Fault Refusal := issue s fun w => s.goTo w (branchTo w x)
def execBrz (sa : BitVec 6) (x : BitVec 32) (s : State) : Outcome State Fault Refusal :=
  issue s fun w => s.ctlReg w sa fun v => s.branchIf w (v == 0) x
def execBrnz (sa : BitVec 6) (x : BitVec 32) (s : State) : Outcome State Fault Refusal :=
  issue s fun w => s.ctlReg w sa fun v => s.branchIf w (v != 0) x
def execBrany (p : BitVec 4) (ng : Bool) (x : BitVec 32) (s : State) : Outcome State Fault Refusal :=
  issue s fun w => s.branchIf w ((s.srcCtx w).cond p ng != 0) x
def execBrall (p : BitVec 4) (ng : Bool) (x : BitVec 32) (s : State) : Outcome State Fault Refusal :=
  issue s fun w => s.branchIf w ((s.srcCtx w).cond p ng == (s.srcCtx w).mask) x
def execJmp (sa : BitVec 6) (s : State) : Outcome State Fault Refusal :=
  issue s fun w => s.ctlReg w sa fun v => s.goTo w v

/-- `call`: s62 takes the address of the next bundle (R260). -/
def execCall (x : BitVec 32) (s : State) : Outcome State Fault Refusal :=
  issue s fun w => s.goTo { w with ctx := w.ctx.putPlain 62 (w.ctx.pc + 32) } (branchTo w x)
def execRet (s : State) : Outcome State Fault Refusal :=
  issue s fun w => s.ctlReg w 62 fun v => s.goTo w v

/-! ### The sequencer (R267) -/

/-- `mloop`: with a count of 0 control passes to the bundle after the kernel, a target under R261. -/
def execMloop (sa : BitVec 6) (ii : BitVec 8) (stages : BitVec 8) (s : State) : Outcome State Fault Refusal :=
  issue s fun w => s.ctlReg w sa fun n =>
    if n = 0 then s.goTo w (w.ctx.pc + BitVec.ofNat 64 (32 * (ii.toNat + 1)))
    else .next (s.setMe { w with ctx := { w.ctx with
      pc := w.ctx.pc + 32, loop := some ⟨n, 0, ii.toNat, stages.toNat, 0, w.ctx.pc⟩ } })

/-! ### Divergent regions (R262 to R266) -/

/-- A region operation: it raises its fault, or changes mask, stack and program counter; a mask that becomes 0 starts a skip (R265). -/
def State.regionOp (s : State) (w : Warp) (f : Ctx → Except Nat Ctx) : Act :=
  match f w.ctx with
  | .error c => .fault c (s.loc 0 0)
  | .ok x => .next (s.setMe { w with ctx := { x with skip := if x.mask == 0 then some 0 else none } })

def Ctx.fall (x : Ctx) : Ctx := { x with pc := x.pc + 32 }

/-- `vif` on the lanes t. -/
def Ctx.vif (x : Ctx) (t : W32) : Except Nat Ctx :=
  if x.toks.length ≥ 32 then .error 0x06
  else .ok { x.fall with toks := ⟨0, 0, x.mask, x.mask &&& ~~~t, 0⟩ :: x.toks, mask := t }

def Ctx.velse (x : Ctx) : Except Nat Ctx := match x.toks with
  | t :: r => if t.kind = 0 then .ok { x.fall with toks := { t with kind := 1, alt := 0 } :: r, mask := t.alt } else .error 0x05
  | [] => .error 0x05

def Ctx.vend (x : Ctx) : Except Nat Ctx := match x.toks with
  | t :: r => if t.kind = 0 ∨ t.kind = 1 then .ok { x.fall with toks := r, mask := t.outer } else .error 0x05
  | [] => .error 0x05

def Ctx.vloop (x : Ctx) : Except Nat Ctx :=
  if x.toks.length ≥ 32 then .error 0x06
  else .ok { x.fall with toks := ⟨2, BitVec.ofNat 51 ((x.pc + 32).toNat / 32), x.mask, 0, 0⟩ :: x.toks }

/-- The loop head to which `vwhile` on the condition c goes back; none where it does not. -/
def Ctx.back (x : Ctx) (c : W32) : Option W64 := match x.toks with
  | t :: _ => if t.kind = 2 ∧ (x.mask ||| t.cont) &&& c ≠ 0 then some (BitVec.ofNat 64 (t.head.toNat * 32)) else none
  | [] => none

/-- `vwhile` on the per-lane condition c. -/
def Ctx.vwhile (x : Ctx) (c : W32) : Except Nat Ctx := match x.toks with
  | t :: r =>
    if t.kind = 2 then
      let l := x.mask ||| t.cont
      let go := l &&& c
      let alt := t.alt ||| (l &&& ~~~go)
      if go != 0 then .ok { x with toks := { t with alt := alt, cont := 0 } :: r, mask := go, pc := BitVec.ofNat 64 (t.head.toNat * 32) }
      else .ok { x.fall with toks := r, mask := alt }
    else .error 0x05
  | [] => .error 0x05

/-- The stack after `vbrk k` or `vnext k` of the lanes b; none with too few loop tokens. -/
def leaveLoop (b : W32) (next : Bool) : Nat → List Token → Option (List Token)
  | _, [] => none
  | k, t :: r =>
    let cut : Token := { t with outer := t.outer &&& ~~~b, alt := t.alt &&& ~~~b, cont := t.cont &&& ~~~b }
    if t.kind = 2 then match k with
      | 0 => some ((if next then { t with cont := t.cont ||| b } else { t with alt := t.alt ||| b }) :: r)
      | k + 1 => (leaveLoop b next k r).map fun l => cut :: l
    else (leaveLoop b next k r).map fun l => cut :: l

def Ctx.leave (x : Ctx) (next : Bool) (k : Nat) : Except Nat Ctx := match leaveLoop x.mask next k x.toks with
  | some l => .ok { x.fall with toks := l, mask := 0 }
  | none => .error 0x05

def execVif (p : BitVec 4) (ng : Bool) (s : State) : Outcome State Fault Refusal :=
  issue s fun w => s.regionOp w fun x => x.vif ((s.srcCtx w).cond p ng)
def execVelse (s : State) : Outcome State Fault Refusal := issue s fun w => s.regionOp w Ctx.velse
def execVend (s : State) : Outcome State Fault Refusal := issue s fun w => s.regionOp w Ctx.vend
def execVloop (s : State) : Outcome State Fault Refusal := issue s fun w => s.regionOp w Ctx.vloop
/-- `vwhile`: a head outside the program region is a fetch fault at its own bundle (R261). -/
def execVwhile (p : BitVec 4) (ng : Bool) (s : State) : Outcome State Fault Refusal :=
  issue s fun w =>
    let c := if ng then ~~~((s.srcCtx w).pred p.toNat) else (s.srcCtx w).pred p.toNat
    match w.ctx.back c with
    | some h => if s.inRegion w.nid h then s.regionOp w fun x => x.vwhile c else .fault 0x04 (BitVec.ofNat 64 (fld h 55 0))
    | none => s.regionOp w fun x => x.vwhile c
def execVbrk (k : BitVec 8) (s : State) : Outcome State Fault Refusal := issue s fun w => s.regionOp w fun x => x.leave false k.toNat
def execVnext (k : BitVec 8) (s : State) : Outcome State Fault Refusal := issue s fun w => s.regionOp w fun x => x.leave true k.toNat

/-- One bundle met in a skip (R265): none where the skip stops and the operation is executed, else the depth that follows. -/
def skipOver (x : Ctx) (d word : Nat) : Option Nat :=
  let kind := bitsAt word 254 2
  let opc := bitsAt word 232 8
  if kind != 1 then some d
  else if opc = 0x18 ∨ opc = 0x1B then some (d + 1)
  else if opc = 0x1A ∨ opc = 0x1C then (if d > 0 then some (d - 1) else none)
  else if opc = 0x19 ∧ d = 0 then (match x.toks with
    | t :: _ => if t.kind = 0 then none else some d
    | [] => some d)
  else some d

/-! ### Ending, trapping, yielding (R275 to R279) -/

/-- `exit`: the warp ends at the end of its cycle (R275). -/
def execExit (s : State) : Outcome State Fault Refusal := issue s fun w => .next (s.setMe { w with leaving := some (w.leaving.getD false) })

/-- The exit of a warp at the end of its cycle: a responder without a reply sends a failed one; any other's exit release begins, and its
node waits for it (R275, 08 R203). -/
def State.exitWarp (s : State) (a : WarpAt) : State :=
  match s.warp? a with
  | none => s
  | some w => match w.responder with
    | some _ => ((if w.leaving == some true then s else s.failReply a w).dropSuspended a.core w.wid).endWarp a
    | none =>
      let r := { s.relFor a.core w.wid w.nid none .dev false (.exit w.nid) with after := 0 }
      let s := (s.dropSuspended a.core w.wid).updNode w.nid fun n => { n with exits := n.exits + 1 }
      (s.endWarp a).addRel a.core r

/-- `trap n`: the handler is entered at the end of the cycle, to return to the next bundle (R276). -/
def execTrap (n : BitVec 8) (s : State) : Outcome State Fault Refusal :=
  issue s fun w => .next (s.takeTrap s.cur ⟨.user, 0x20, n.setWidth 64, w.ctx.pc + 32⟩)

/-- The traps that waited for the open one: the first is taken in place of the return (17 R390). -/
def Warp.nextAsync (w : Warp) : Warp := match w.asyncs with
  | [] => w
  | r :: rest => { w with asyncs := rest, entering := some { r with tpc := w.ctx.pc } }

/-- A hold that a return from a handler restores: a claim is entered again (R277, 17 R396). -/
def State.claimsAgain (s : State) : Option Hold → State
  | some (.claim n) => s.updCore s.cur.core fun c => { c with claims := c.claims ++ [(s.cur.slot, n)] }
  | _ => s

/-- `yield` (R277, 17 R395 to R397). -/
def execYield (s : State) : Outcome State Fault Refusal :=
  issue s fun w => match w.handler with
    | none => .fault 0x07 (s.loc 0 0)
    | some h => match h.trap.kind with
      | .user | .resume =>
        let x := w.leave.nextAsync
        .next ((s.setMe x).claimsAgain (if x.entering.isSome then none else x.ctx.hold))
      | .preempt => .next (s.setMe { w with yielded := true })
      | .gangAbort => .next (s.setMe { w with leaving := some false })

/-- `bkpt`: a debug hold of the die where its debug is enabled (R279). -/
def execBkpt (s : State) : Outcome State Fault Refusal :=
  issue s fun w =>
    let s := s.setMe w.fall
    let d := dieOf s.cur.core
    .next (if (s.die d).debugEnable then s.later [.debugHold d] else s)

/-! ### Futures (R274) -/

/-- `fwait`. -/
def execFwait (sa : BitVec 6) (s : State) : Outcome State Fault Refusal :=
  issue s fun w => s.ctlReg w sa fun _ => .next (s.setMe w.fall)

/-- `ftest`. -/
def execFtest (sd sa : BitVec 6) (s : State) : Outcome State Fault Refusal :=
  issue s fun w =>
    let v : W64 := if (s.srcCtx w).watched sa.toNat then 0 else 1
    .next (s.setMe ({ w with ctx := w.ctx.putPlain sd.toNat v }).fall)

/-- `fpass`. -/
def execFpass (sd sa : BitVec 6) (s : State) : Outcome State Fault Refusal :=
  issue s fun w => .next (s.setMe ({ w with ctx := w.ctx.putPlain sd.toNat ((s.srcCtx w).sreg sa.toNat) }).fall)

/-- The request of an object's waiter that has not been granted. -/
def objFut : ObjOp → Option FutAt
  | .acq f _ _ => some f
  | .wait f _ _ => some f
  | _ => none

/-- Has the event a waiter's request for this future? -/
def asksFor (f : FutAt) : Ev → Bool
  | .releaseAtObject op => objFut op == some f
  | _ => false

/-- The object that a waiter's request is for. -/
def objNo : ObjOp → Nat
  | .acq _ o _ => o
  | .wait _ o _ => o
  | .rel _ o => o
  | .arm _ o _ => o

/-- The object for which a waiter's request stands in a core, on its way or in a list. -/
def State.waitsOn (s : State) (core : Nat) (f : FutAt) : Option Nat :=
  match (s.core core).rels.findSome? fun r => match r.act with
      | .object op => if objFut op == some f then some (objNo op) else none
      | _ => none with
  | some o => some o
  | none => match s.flight.findSome? fun x => match x.ev with
      | .releaseAtObject op => if objFut op == some f then some (objNo op) else none
      | _ => none with
    | some o => some o
    | none => (s.objs.find? fun (_, o) => o.waiters.any fun (g, _) => g == f).map Prod.fst

/-- A waiting `acq` or `bcwait` ends with code 5, acquiring nothing (09 R213, R217, 15 R354). -/
def State.cancelObj (s : State) (core : Nat) (f : FutAt) : State :=
  let inRel (r : Rel) : Bool := match r.act with
    | .object op => objFut op == some f
    | _ => false
  match s.waitsOn core f with
  | none => s
  | some o =>
    let v : W64 := BitVec.ofNat 64 ((s.obj o).phaseField * 2 ^ 48 + 5)
    let s := s.updCore core fun c => { c with rels := c.rels.filter fun r => !inRel r }
    let cut (o : Obj) : Obj := { o with waiters := o.waiters.filter fun (g, _) => g != f, bcs := o.bcs.filter fun g => g != f }
    { s with flight := s.flight.filter fun x => !asksFor f x.ev, objs := s.objs.map fun (k, o) => (k, cut o) }.arriveFut core f v

/-- The solicit of a future is marked as cancelled. -/
def CensusItem.cancel (f : FutAt) : CensusItem → CensusItem
  | .solicit g key arg scope cmb core slot ten at_ c => .solicit g key arg scope cmb core slot ten at_ (c || g == f)
  | it => it

/-- A solicit that is cancelled: its census runs on, wherever it stands, and its future has code 5; where the census has left the root and the
resolution waits for its admission, no block is written and nothing is acquired (08 R206). -/
def State.cancelSolicit (s : State) (core : Nat) (f : FutAt) : State :=
  let mark (c : Census) : Census := if c.fut == f then { c with cancelled := true } else c
  let ofFlight (x : Flight) : Flight := match x.ev with
    | .censusOrder it => { x with ev := .censusOrder (CensusItem.cancel f it) }
    | _ => x
  let ofRel (r : Rel) : Rel := match r.act with
    | .census it => { r with act := .census (CensusItem.cancel f it) }
    | _ => r
  let t := { s.updCore core fun c => { c with rels := c.rels.map ofRel } with
    censuses := s.censuses.map fun (k, c) => (k, mark c)
    censusWait := s.censusWait.map (CensusItem.cancel f)
    flight := s.flight.map ofFlight }
  let open_ := (s.censuses.any fun (_, c) => c.fut == f && !c.cancelled) || t.censusWait != s.censusWait || t.flight != s.flight ||
    (t.core core).rels != (s.core core).rels
  let done (x : Nat × Ev) : Bool := match x.2 with
    | .futureResolution g _ (.census _ _) => g == f
    | _ => false
  if open_ then t.arriveFut core f 5
  else if (s.cluster (clusterOf core)).arrived.any done then
    (s.updCluster (clusterOf core) fun c => { c with
      arrived := c.arrived.filter fun x => !done x, outs := c.outs.filter fun o => o.pinned != some f }).arriveFut core f 5
  else s

/-- `fcancel` asks the operation of an outstanding future to end, under its function's rules (R274). -/
def State.cancelFut (s : State) (core : Nat) (f : FutAt) : State :=
  let cl := clusterOf core
  -- residency asked for, whether or not its answer waits for its admission (14 R324)
  let answers (x : Nat × Ev) : Bool := match x.2 with
    | .futureResolution g _ _ => g == f
    | _ => false
  let s := if s.preqs.any fun x => x.fut == f then
      ({ s with preqs := s.preqs.filter fun x => x.fut != f }.updCluster cl fun c => { c with arrived := c.arrived.filter fun x => !answers x }).arriveFut core f 5
    else s
  -- copies, and waits on tags
  let s := match (s.core core).copies.find? fun (_, c) => c.fut == f && c.tmove.isNone with
    | some (slot, c) =>
      -- a suspension that is determined and not admitted becomes the end with code 5 (04 R112)
      let ends (x : Nat × Ev) : Nat × Ev := match x.2 with
        | .copyFinalStatus k n code => (x.1, .copyFinalStatus k n (if k = core && n = slot && (code = 1 || code = 2) then 5 else code))
        | _ => x
      if c.st == CopySt.running then
        (s.updCopy core slot fun c => { c with cancelled := true }).updCluster cl fun c => { c with arrived := c.arrived.map ends }
      else s
    | none => s
  let s := match (s.core core).tagWaits.find? fun (g, _, _) => g == f with
    | some (_, m, _) =>
      (s.updCore core fun c => { c with tagWaits := c.tagWaits.filter fun (g, _, _) => g != f }).arriveFut core f 5 (.tags core m)
    | none => s
  -- tasks
  let s := match (s.cluster cl).tasks.find? fun ((_, t) : Nat × Task) => t.fut == f with
    | some (q, _) => s.cancelTask cl q
    | none => s
  ((((s.cancelObj core f).cancelSolicit core f).cancelMail core f).cancelLaunch core f)

/-- A handle of the warp whose copy or task is suspended: that operation ends (R274). -/
def State.endHeld (s : State) (core wid : Nat) (v : W64) : State :=
  let f : FutAt := ⟨wid, fld v 37 32, BitVec.ofNat 32 (fld v 31 0)⟩
  let s := match (s.core core).copies.find? fun (_, c) => c.fut == f && c.st != CopySt.running with
    | some (slot, _) => s.endSuspended core slot
    | none => s
  let ends (t : Task) : Bool := t.fut == f && (match t.st with
    | .suspended _ => true
    | _ => false)
  s.updCluster (clusterOf core) fun c => { c with tasks := c.tasks.filter fun x => !ends x.2 }

/-- `fcancel`. -/
def execFcancel (sa : BitVec 6) (s : State) : Outcome State Fault Refusal :=
  issue s fun w =>
    let x := s.srcCtx w
    let v := x.sreg sa.toNat
    let core := s.cur.core
    let s := s.setMe w.fall
    if x.watched sa.toNat then .next (s.cancelFut core ⟨w.wid, fld v 37 32, BitVec.ofNat 32 (fld v 31 0)⟩)
    else if isHandle x.fser v then .next (s.endHeld core w.wid v)
    else .next s

/-! ### Context images (R278) -/

/-- The checks of `ctxsv` and `ctxld`, and the pool offsets of the image. -/
def State.imageRef (s : State) (w : Warp) (v : W64) (f : Handler → List Nat → Act) : Act :=
  let core := s.cur.core
  let r := s.refRec v
  match w.handler with
  | none => .fault 0x07 (s.loc 0 0)
  | some h =>
    if refBad v || refPos v % 256 != 0 then .fault 0x07 (s.loc 0 0)
    else match s.pinnedBad (s.mapping core) core (s.tenOf w.nid) r (refPos v) 8192 none with
      | some q => s.placeFault core (s.tenOf w.nid) r (swizzle r q) (s.loc 0 (brVbase r + swizzle r q))
      | none => f h (s.pinnedSpan (s.mapping core) core (s.tenOf w.nid) r (refPos v) 8192)

/-- `ctxsv`: the saved context's image lands as a lane store of the own class. -/
def execCtxsv (sa : BitVec 6) (s : State) : Outcome State Fault Refusal :=
  issue s fun w => s.ctlReg w sa fun v => s.imageRef w v fun h at_ =>
    let tag := match s.node? w.nid with
      | some n => n.tag
      | none => 0
    let s := s.setMe w.fall
    .next (s.landStore w s.cur.core (at_.zip (imageOf h.saved tag w.regs w.fhnd)))

/-- `ctxld`: the saved context becomes what the image says. -/
def execCtxld (sa : BitVec 6) (s : State) : Outcome State Fault Refusal :=
  issue s fun w => s.ctlReg w sa fun v =>
    if w.handler.isSome && !s.storesLanded s.cur.core w.wid then .wait .room
    else s.imageRef w v fun h at_ =>
      let tag := match s.node? w.nid with
        | some n => n.tag
        | none => 0
      let b := at_.map fun o => readCell (s.core s.cur.core).pool o
      if imageBad b tag w.regs fun pc => s.inRegion w.nid pc then .fault 0x07 (s.loc 0 0)
      else .next (s.setMe { w.fall with handler := some { h with saved := imageCtx b h.saved } })

/-! ### System registers (R280) -/

/-- The user groups of a warp, one per byte, ascending, 0xFF for none. -/
def Node.groupBytes (n : Node) (ix : Nat) : Nat :=
  let gs := ((List.range 252).filter fun g => n.groups.any fun u => u.g == g && u.members.contains ix)
  gs.getD 0 255 + gs.getD 1 255 * 2 ^ 8 + gs.getD 2 255 * 2 ^ 16 + gs.getD 3 255 * 2 ^ 24

/-- The group number of a key. -/
def groupNumber (key : Nat) : Nat := if key ≥ 2048 then 253 else if key ≥ 1024 then 252 else key

/-- The value of a system register; none for a number not in the table. -/
def State.sysreg (s : State) (w : Warp) (n : Nat) : Option W64 :=
  let num (f : Node → Nat) : Option W64 := some (match s.node? w.nid with
    | some x => BitVec.ofNat 64 (f x)
    | none => 0)
  let trap (f : TrapReq → W64) : Option W64 := some (match w.handler with
    | some h => f h.trap
    | none => 0)
  match n with
  | 0x00 => num Node.ten
  | 0x01 => num Node.tag
  | 0x02 => some w.fhnd
  | 0x03 => some (s.handlerEntry w .preempt)
  | 0x04 => some (s.handlerEntry w .resume)
  | 0x08 => trap fun t => BitVec.ofNat 64 t.cause
  | 0x09 => some (match w.handler with
    | some h => h.saved.pc
    | none => 0)
  | 0x0A => trap fun t => t.info
  | 0x10 => if w.responder.isSome then some 0xFFFFFFFF else num fun x => x.groupBytes w.ix
  | 0x11 => some (BitVec.ofNat 64 (groupNumber (s.homeKey w)))
  | 0x18 => num fun x => lrQuota x.raw
  | 0x20 => some (BitVec.ofNat 64 w.ctx.toks.length)
  | 0x21 => some (w.ctx.rrb.setWidth 64)
  | _ => none

/-- `sysrd`. -/
def execSysrd (sd : BitVec 6) (n : BitVec 16) (s : State) : Outcome State Fault Refusal :=
  issue s fun w => match s.sysreg w n.toNat with
    | none => .fault 0x02 (s.loc 0 0)
    | some v =>
      if 8 ≤ n.toNat && n.toNat ≤ 10 && w.handler.isNone then .fault 0x07 (s.loc 0 0)
      else .next (s.setMe ({ w with ctx := w.ctx.putPlain sd.toNat v }).fall)

/-- `syswr`: `fhnd` alone may be written, its bits [4:0] stored as 0. -/
def execSyswr (n : BitVec 16) (sa : BitVec 6) (s : State) : Outcome State Fault Refusal :=
  issue s fun w =>
    if n.toNat != 2 then .fault 0x02 (s.loc 0 0)
    else s.ctlReg w sa fun v => .next (s.setMe { w.fall with fhnd := v &&& ~~~31#64 })

end Sys2Proof.Machine
end

