-- ==== Sys2Proof/Machine/ClusterEvents.lean ====
section
/-! DEFINITION. The steps of a cluster: results, loads, landings, admissions, resolutions, copies, tasks, grants, responders, checks, trap
entries (04_copies_and_landing R90 to R100, 05 R128 to R145, 07 R175 to R178, 08 R201, R202, 12 R265 to R272, 17 R387). -/

namespace Sys2Proof.Machine

open Host (Outcome)

/-! ### Results (05 R128, R132) -/

/-- A unit's result becomes readable in the cycle that ends, and its exception bits are set. -/
def State.unitDone (s : State) (a : WarpAt) (u : Un) (due : Nat) (fl : BitVec 8) : State :=
  s.updWarp a fun w =>
    let p := w.ctx.port u
    let p := if p.due == some due then p.commit else p
    { w with
      units := w.units.filter fun (v, d, _) => !(v == u && d == due)
      ctx := { w.ctx.putPort u p with flags := w.ctx.flags ||| fl.setWidth 64 } }

/-- `UNIT_RESULT` (R128, R132). -/
def execUnitResult (s : State) : Outcome State Fault Refusal := match s.ev with
  | some (.unitResult a u due fl) => .next (s.unitDone a u due fl)
  | _ => .next s

/-- Where the line of instructions lies that a warp of the core misses, in memory. -/
def State.fetchLines (s : State) (core line : Nat) : List (Place × Page) :=
  ((s.liveOn core).find? fun (_, w) => w.ctx.pc.toNat / 256 == line).elim [] fun (_, w) => (s.fetchPlace core w.nid w.ctx.pc).toList

/-- The fetch of a line that the instruction cache does not hold, through its home slice (01 R28), and its coming (04 R90). -/
def State.lineMiss (s : State) (core line : Nat) (filled : Bool) : State :=
  if filled then s.updCore core fun c => { c with ilines := if c.ilines.contains line then c.ilines else line :: c.ilines }
  else
    let s := s.updCluster (clusterOf core) fun c => { c with stopped := true }
    match s.reachAll (linesOf (s.fetchLines core line)) with
    | some t => t.send .response basePort core (.instructionCacheMiss core line true)
    | none => (s.askAhead [] (linesOf (s.fetchLines core line))).park basePort core (.instructionCacheMiss core line false)

/-- `INSTRUCTION_CACHE_MISS` (R90). -/
def execInstructionCacheMiss (s : State) : Outcome State Fault Refusal := match s.ev with
  | some (.instructionCacheMiss core line filled) => .next (s.lineMiss core line filled)
  | _ => .next s

/-! ### Loads (04 R94 to R97, 14 R315, R316, R328; 17 R398) -/

/-- An L1 takes the sectors of a non-coherent fill: those that it holds already keep their bytes (02 R40, 03 R88). -/
def State.fillL1 (s : State) (core : Nat) (r : Req) (data : List Byte) (psn : BitVec 4) : State :=
  let s := s.allocate core r.wid r.msg.line r.msg.cls r.msg.ecls r.msg.nllc
  match Tab.look (s.core core).l1 r.msg.line with
  | none => s
  | some l =>
    let takes (k : Nat) : Bool := bit4 r.msg.smask k && !(l.sect k).val
    let bytes := (List.range 256).map fun i => if takes (i / 64) then data.getD i 0 else l.bytes.getD i 0
    let sects := (List.range 4).map fun k => if takes k then { psn := bit4 psn k, val := true } else l.sect k
    s.updCore core fun c => { c with l1 := Tab.put c.l1 r.msg.line { l with bytes := bytes, sects := sects } }

/-- The old value and success of each lane of a reply, 9 bytes a lane. -/
def replyLanes : List AtLane → List Byte → List (Nat × W64 × Bool)
  | [], _ => []
  | l :: r, b => (l.lane, BitVec.ofNat 64 (leNat (b.take 8)), b.getD 8 0 != 0) :: replyLanes r (b.drop 9)

/-- Has every line of the task's drain been accepted? -/
def Core.drainsLeft (c : Core) (f : FutAt) : Bool := c.reqs.any fun (_, r) => match r.why with
  | .drain g _ _ _ => g == f
  | _ => false

/-- A non-coherent fill has come: a persistent request is deactivated (02 R46), and the L1 takes the line, unless an acquire came after the
request (09 R215): then what still waits for it asks again. -/
def State.fillCame (s : State) (core : Nat) (r : Req) (data : List Byte) (psn : BitVec 4) : State :=
  let s := if r.persistent then (reqSectors r.msg).foldl (fun s x => s.send .request core (slicePort (sliceOf r.msg.line)) (.deactivation core x (s.die (dieOf core)).inc)) s else s
  if r.stale then s else s.fillL1 core r data psn

/-- The bytes of a line that a read past the L1 brings: the sectors that the L1 holds with valid data, and for a coherent class a token, are
the L1's (14 R316). -/
def Core.withPresent (c : Core) (r : Req) (data : List Byte) (psn : BitVec 4) : List Byte × BitVec 4 :=
  match if r.kind = 4 && r.msg.space == .pa then Tab.look c.l1 r.msg.line else none with
  | none => (data, psn)
  | some l =>
    let mine (k : Nat) : Bool := bit4 r.msg.smask k && readable r.msg.cls (l.sect k)
    ((List.range 256).map fun i => if mine (i / 64) then l.bytes.getD i 0 else data.getD i 0,
      (List.range 4).foldl (fun m k => if mine k then set4 m k (l.sect k).psn else m) psn)

/-- Is the request a fill of a non-coherent page, which may drive out a line with tokens? -/
def Req.fills (r : Req) : Bool := r.msg.cls == Cls.non && (match r.why with
  | .fill _ => true
  | _ => false)

/-- The answer to a request reaches the core that sent it. A stopped die's L1 takes no line in, since its victim's tokens could not leave
(02 R52). -/
def State.reqDone (s : State) (core id : Nat) (data : List Byte) (psn : BitVec 4) : State :=
  match Tab.look (s.core core).reqs id with
  | none => s
  | some r =>
    if r.fills && !s.answers core then s.park basePort core (.loadLineArrival core id data psn) else
    let s := s.updCore core fun c => { c with reqs := Tab.del c.reqs id }
    let s := match r.why with
      | .fill _ => if r.msg.cls == Cls.non then s.fillCame core r data psn else s
      | .load l =>
        let x := (s.core core).withPresent r data psn
        s.lineCame core l r.msg.space r.msg.line x.1 x.2
      | .write | .touch => s
      | .atomic l => match r.msg.atom with
        | some (_, _, _, lanes) => s.oldCame core l (replyLanes lanes data)
        | none => s
      | .drain f v q num =>
        if (s.core core).drainsLeft f then s else s.arriveFut core f v (.task (clusterOf core) q num)
    s.settleCore core

/-- `LOAD_LINE_ARRIVAL` (R97). -/
def execLoadLineArrival (s : State) : Outcome State Fault Refusal := match s.ev with
  | some (.loadLineArrival core id data psn) => .next (s.reqDone core id data psn)
  | _ => .next s

/-- A byte of a load and the poison of its sector. -/
def State.loadByte (s : State) (core : Nat) (l : Load) (p : Place) : Byte × Bool :=
  if sameCluster core p.space then (s.placeByte p, s.placePsn p)
  else match l.lines.find? fun x => x.space == p.space && x.line == p.addr / 256 with
    | some x => ((x.data.getD []).getD (p.addr % 256) 0, bit4 x.psn (p.addr % 256 / 64))
    | none => (0, false)

/-- A lane's element, extended, its residency bit, the VA of its first poisoned byte: a poisoned lane reads 0 (17 R398). -/
def State.loadLaneValue (s : State) (core : Nat) (l : Load) (x : LoadLane) : W64 × W64 × Option W64 :=
  let bs := x.places.map (s.loadByte core l)
  let v := leNat (bs.map Prod.fst)
  let n := 8 * bs.length
  let r : W64 := if l.signed && n != 0 then BitVec.ofInt 64 (signed n v) else BitVec.ofNat 64 v
  let bad := bs.any Prod.snd
  (if bad then 0 else r, if x.resident then 1 else 0, if bad then some (x.va + BitVec.ofNat 64 (bs.findIdx Prod.snd)) else none)

/-- What a load or atomic delivers: result, secondary result (0 for `ldc`, 13 R312), poisoned lanes, and the VA of each one's first poisoned
byte. -/
def State.loadResult (s : State) (core : Nat) (l : Load) : Lanes × Lanes × W32 × Lanes :=
  if l.atomic then
    let at_ (i : Nat) : Option (Nat × W64 × Bool) := l.old.find? fun (k, _, _) => k == i
    (lanesOf fun i => match at_ i with
      | some (_, v, _) => v
      | none => 0, lanesOf fun i => match at_ i with
      | some (_, _, ok) => if ok then 1 else 0
      | none => 0, 0, [])
  else
    let vals := l.lanes.map fun x => (x, s.loadLaneValue core l x)
    let of (i : Nat) : Option (LoadLane × W64 × W64 × Option W64) :=
      if l.scalar then vals.head? else vals.find? fun (x, _) => x.lane == i
    (lanesOf fun i => match of i with
      | some (_, v, _, _) => v
      | none => 0, lanesOf fun i => if l.un == .sl then 0 else match of i with
      | some (_, _, r, _) => r
      | none => 0,
      maskOf fun i => maskBit l.started i && match of i with
      | some (_, _, _, q) => q.isSome
      | none => false,
      lanesOf fun i => match of i with
      | some (_, _, _, q) => q.getD 0
      | none => 0)

/-- The loads of a warp's unit that are due in the next cycle deliver: the port takes the result of its latest trigger alone
(05 R129, 04 R94). -/
def State.loadsDue (s : State) (a : WarpAt) (u : Un) : State :=
  match s.warp? a with
  | none => s
  | some w =>
    let t := s.lcycOf a.core
    let p := w.ctx.port u
    match (s.core a.core).loads.find? fun l => l.wid == w.wid && l.un == u && l.due == t + 1 && l.id == p.op with
    | none => s
    | some l =>
      let (res, sec, psn, va) := s.loadResult a.core l
      s.putWarp a { w with ctx := w.ctx.putPort u { p with nres := res, nsec := sec, npsn := psn &&& p.pend, npva := va, due := some (t + 1), op := 0 } }

/-- `LOAD_DUE` (R94, R315, R328). -/
def execLoadDue (s : State) : Outcome State Fault Refusal := match s.ev with
  | some (.loadDue a u) => .next (s.loadsDue a u)
  | _ => .next s

/-! ### Landings (04 R98 to R100, 14 R329) -/

/-- The words that atomics of this cycle will read, as the landings of earlier cycles left them. -/
def State.seeAtomics (s : State) (cluster : Nat) : State :=
  let t := (s.cluster cluster).lcyc
  let see (l : Land) : Land := match l.atom with
    | some (_, off, wide, _, _) => if l.land = t then { l with seen := readCells (s.core l.core).pool off (if wide then 8 else 4) } else l
    | none => l
  s.updCluster cluster fun c => { c with lands := c.lands.map see, landed := [] }

/-- A lane store or an atomic of the cluster lands. An atomic reads its word after the stores and atomics of the cycle before it, and not
what ranks below them. -/
def State.landNow (s : State) (cluster id : Nat) : State :=
  let c := s.cluster cluster
  match c.lands.find? fun l => l.id == id with
  | none => s
  | some l =>
    let put (s : State) (bytes : List (Nat × Byte)) : State :=
      (s.updCore l.core fun x => x.poolWrite bytes).updCluster cluster fun c => { c with
        lands := c.lands.filter fun y => y.id != id
        landed := c.landed ++ bytes.map fun (a, _) => (l.core, a) }
    match l.atom with
    | none => put s l.bytes
    | some (load, off, wide, op, lanes) =>
      let n := if wide then 8 else 4
      let now := readCells (s.core l.core).pool off n
      let word := (List.range n).map fun k => if c.landed.contains (l.core, off + k) then now.getD k 0 else l.seen.getD k 0
      let x := atGroup op wide (leNat word) lanes
      (put s (placed off (leBytes n x.1))).oldCame l.src load x.2

/-- `LANE_STORE_LANDING` (R98, R329): what waited for it goes on. -/
def execLaneStoreLanding (s : State) : Outcome State Fault Refusal := match s.ev with
  | some (.laneStoreLanding cluster id) => .next (s.landNow cluster id)
  | _ => .next s

/-- The write that waits longest in the cluster's landing paths lands; those that wait for their future's admission stay (15 R361). -/
def State.firstOut (s : State) (cluster : Nat) : State :=
  let l := (s.cluster cluster).outs
  let k := l.findIdx fun o => o.pinned.isNone
  match l[k]? with
  | none => s
  | some o => (s.updCluster cluster fun c => { c with outs := l.eraseIdx k }).landOut o

/-- `OUTSIDE_WRITE_LANDING` (R99). -/
def execOutsideWriteLanding (s : State) : Outcome State Fault Refusal := match s.ev with
  | some (.outsideWriteLanding cluster) => .next (s.firstOut cluster)
  | _ => .next s

/-! ### Admission and resolution (04 R92, 12 R272) -/

/-- The future that an outside event resolves. -/
def State.resolvesIn (s : State) : Ev → Option FutAt
  | .futureResolution f _ _ => some f
  | .copyFinalStatus core slot _ => (Tab.look (s.core core).copies slot).map Copy.fut
  | _ => none

/-- What commits have changed in the tile directories of a cluster shows to its programs (00 R4). -/
def State.showTiles (s : State) (cl : Nat) : State :=
  (List.range 4).foldl (fun s k =>
    if (s.core (cl * 4 + k)).oldTiles.isEmpty then s else s.updCore (cl * 4 + k) fun c => { c with oldTiles := [] }) s

/-- The events that a warp's admission point admits: its own and those of warps that have ended; the scheduler counts every future that
has arrived as resolved (07 R176), and outside writes may land (04 R99). -/
def State.admitOutside (s : State) (a : WarpAt) : State :=
  match s.warp? a with
  | none => s
  | some w =>
    let cl := clusterOf a.core
    let c := s.cluster cl
    let (mine, rest) := c.arrived.partition fun (x : Nat × Ev) => x.1 == w.wid || s.gone x.1
    let fs := c.arrived.filterMap fun (_, e) => s.resolvesIn e
    let met (p : Option FutAt) : Option FutAt := match p with
      | some f => if fs.contains f then none else some f
      | none => none
    let s := s.updCluster cl fun c => { c with
      arrived := rest, adm := true, oldLeaves := [], counted := rest.filterMap fun (_, e) => s.resolvesIn e
      tasks := c.tasks.map fun (q, t) => (q, { t with p0 := met t.p0, p1 := met t.p1 }) }
    let s := s.showTiles cl
    { s with agenda := mine.map Prod.snd ++ s.agenda }

/-- `OUTSIDE_EVENT_ADMISSION` (R92). -/
def execOutsideEventAdmission (s : State) : Outcome State Fault Refusal := match s.ev with
  | some (.outsideEventAdmission a) => .next (s.admitOutside a)
  | _ => .next s

/-- Is the warp of the future alive, live or saved, and the future no longer outstanding: it has resolved already? -/
def State.stale (s : State) (f : FutAt) : Bool := !s.gone f.wid && !s.stillOut f

/-- An acquire by the warp of a future: the lines of the object's regions, or of every region, leave its core's L1 (09 R215). -/
def State.acquires (s : State) (f : FutAt) (obj : Nat) : State :=
  match s.findWid f.wid with
  | some (a, w) => s.acquireOver a.core w.wid (s.inRecords a.core (s.tenOf w.nid) (if obj = 0xFFFF then none else some (s.recsOf a.core obj)))
  | none => s

/-- An acquire by the warp of a future of some lines, and of an object's regions where one is given (09 R215, R226; 15 R354). -/
def State.acquiresLines (s : State) (f : FutAt) (obj : Option Nat) (lines : List Nat) : State :=
  match s.findWid f.wid with
  | some (a, w) => s.acquireOver a.core w.wid fun l => lines.contains l || (match obj with
      | some o => s.inRecords a.core (s.tenOf w.nid) (some (s.recsOf a.core o)) l
      | none => false)
  | none => s

/-- The core of a future's warp, a given one where it has ended. -/
def State.homeOf (s : State) (core : Nat) (f : FutAt) : Nat := match s.findWid f.wid with
  | some (a, _) => a.core
  | none => core

/-- Bytes of a message or a result land in the cycle of its future's admission, in the place that they took in the landing path when they
came (04 R98, R100). What came while the warp was pre-empted takes its place now. -/
def State.landAdmitted (s : State) (core : Nat) (f : FutAt) (bytes : List (Nat × Byte)) : State :=
  let k := s.homeOf core f
  let free (o : OutWrite) : OutWrite := if o.pinned == some f then { o with pinned := none } else o
  if bytes.isEmpty then s
  else if (s.cluster (clusterOf k)).outs.any fun o => o.pinned == some f then
    s.updCluster (clusterOf k) fun c => { c with outs := c.outs.map free }
  else s.outArrives { core := k, bytes := bytes, psn := [], atom := none }

/-- Bytes that wait in a landing path for a future that has resolved otherwise go. -/
def State.dropPath (s : State) (f : FutAt) : State :=
  let k := clusterOf (s.homeOf 0 f)
  if (s.cluster k).outs.any fun o => o.pinned == some f then
    s.updCluster k fun c => { c with outs := c.outs.filter fun o => o.pinned != some f }
  else s

/-- A future resolves, with what its resolution does beside the status word. -/
def State.resolution (s : State) (f : FutAt) (v : W64) (e : ResEff) : State :=
  let s := if s.preqs.any fun x => x.fut == f then { s with preqs := s.preqs.filter fun x => x.fut != f } else s
  if s.stale f then s.dropPath f
  else
    let s := match e with
      | .nothing => s.resolveFut 0 f v
      | .block core bytes posted =>
        let s := (s.landAdmitted core f bytes).resolveFut core f v
        if posted then s.updCluster (clusterOf (s.homeOf core f)) fun c => { c with posts := c.posts - 1 } else s
      | .census core bytes => ((s.landAdmitted core f bytes).acquires f 0xFFFF).resolveFut core f v
      | .acquire o => (s.acquires f o).resolveFut 0 f v
      | .flip o ls => (s.acquiresLines f o ls).resolveFut 0 f v
      | .csize core ways => (s.setWays core ways).resolveFut core f v
      | .tags core m => s.resolveFut core f ((s.core core).ctag &&& m)
      | .task cl q num => (s.taskEnds cl q num (fld v 3 0)).resolveFut (cl * 4) f v
    s

/-- `FUTURE_RESOLUTION` (R272). -/
def execFutureResolution (s : State) : Outcome State Fault Refusal := match s.ev with
  | some (.futureResolution f v e) => .next (s.resolution f v e)
  | _ => .next s

/-! ### The control thread (12 R265, R267) -/

/-- A warp passes over one bundle of a skip. -/
def State.passOver (s : State) (a : WarpAt) : State :=
  match s.warp? a with
  | none => s
  | some w => match w.ctx.skip, s.fetch a.core w.nid w.ctx.pc with
    | some d, .ok word => match skipOver w.ctx d word with
      | some d' => s.putWarp a { w with ctx := { w.ctx with skip := some d', pc := w.ctx.pc + 32 } }
      | none => s
    | _, _ => s

/-- `SKIP` (R265). -/
def execSkip (s : State) : Outcome State Fault Refusal := match s.ev with
  | some (.skip a) => .next (s.passOver a)
  | _ => .next s

/-- After the last slot of a kernel: the next initiation, with the rotation, or the end of the loop (R267). -/
def Ctx.initiate (x : Ctx) : Ctx := match x.loop with
  | none => x
  | some l =>
    if l.j.toNat + 1 > l.n.toNat + l.stages - 2 then { x with loop := none, pc := l.va + BitVec.ofNat 64 (32 * (l.ii + 1)) }
    else { x with loop := some { l with j := l.j + 1, s := 0 }, rrb := x.rrb + 1, pc := l.va + 32 }

/-- `MODULO_INITIATION` (R267). -/
def execModuloInitiation (s : State) : Outcome State Fault Refusal := match s.ev with
  | some (.moduloInitiation a) => .next (s.updWarp a fun w => { w with ctx := w.ctx.initiate })
  | _ => .next s

/-! ### Copies (04 R103 to R111) -/

/-- `COPY_CHUNK_TRANSLATE` (R109). -/
def execCopyChunkTranslate (s : State) : Outcome State Fault Refusal := match s.ev with
  | some (.copyChunkTranslate core slot) => .next (s.copyTranslate core slot)
  | _ => .next s

/-- `COPY_CHUNK_LANDING` (R107). -/
def execCopyChunkLanding (s : State) : Outcome State Fault Refusal := match s.ev with
  | some (.copyChunkLanding core slot) => .next (s.copyLand core slot)
  | _ => .next s

/-- `UNPACED_CHUNK_DELIVERY` (R107). -/
def execUnpacedChunkDelivery (s : State) : Outcome State Fault Refusal := match s.ev with
  | some (.unpacedChunkDelivery core slot) => .next (s.copyDeliver core slot)
  | _ => .next s

/-- `COPY_FINAL_STATUS` (R111). -/
def execCopyFinalStatus (s : State) : Outcome State Fault Refusal := match s.ev with
  | some (.copyFinalStatus core slot code) => .next (s.copyStatus core slot code)
  | _ => .next s

/-- The tag waits of a core that are met resolve in the present cycle (04 R115). -/
def State.meetTags (s : State) (core : Nat) : State :=
  let due := (s.core core).tagsDue
  if due.isEmpty then s
  else due.foldl (fun s (f, v) => s.resolvesNow core f v)
    (s.updCore core fun c => { c with tagWaits := c.tagWaits.filter fun (f, _, _) => !(due.any fun (g, _) => g == f) })

/-! ### Tasks and the accumulator (07 R175 to R178, 14 R335) -/

/-- `TASK_DISPATCH` (R175): the task is dispatched in the cycle that follows. -/
def execTaskDispatch (s : State) : Outcome State Fault Refusal := match s.ev with
  | some (.taskDispatch cluster q eng) => .next (s.startTask cluster q eng ((s.cluster cluster).lcyc + 1))
  | _ => .next s

/-- `TASK_OPERAND_LINE_DUE` (R178). -/
def execTaskOperandLineDue (s : State) : Outcome State Fault Refusal := match s.ev with
  | some (.taskOperandLineDue cluster q p) => .next (s.readPass cluster q p)
  | _ => .next s

/-- `TASK_RETIRE` (R177). -/
def execTaskRetire (s : State) : Outcome State Fault Refusal := match s.ev with
  | some (.taskRetire cluster q) => .next (s.retireTask cluster q)
  | _ => .next s

/-- `AC_ACCESS` (R335). -/
def execAcAccess (s : State) : Outcome State Fault Refusal := match s.ev with
  | some (.acAccess cluster id) => .next (s.acAccess cluster id)
  | _ => .next s

/-! ### Grants and responders (05 R139, 08 R201, R202) -/

/-- `CLAIM_GRANT` (R139). -/
def execClaimGrant (s : State) : Outcome State Fault Refusal := match s.ev with
  | some (.claimGrant core) => .next (s.grantClaim core)
  | _ => .next s

/-- Has the group that owns a tile ended: its node is gone, or every member of the group? -/
def State.groupEnded (s : State) (nid grp : Nat) : Bool := match s.node? nid with
  | none => true
  | some n => (n.keyed grp).all fun i => n.gone.contains i

/-- Is a group pre-empted, or on its way to it (17 R394, R395)? -/
def State.groupAway (s : State) (nid grp : Nat) : Bool := (s.saved.any fun g => g.nid == nid && g.grp == grp) ||
  s.live.any fun (_, w) => w.nid == nid && w.preLimit.isSome && s.homeKey w == grp

/-- The registers per warp of a launch. -/
def State.regsOf (s : State) (nid : Nat) : Nat := match s.node? nid with
  | some n => lrRegs n.raw
  | none => 8

/-- May a spawn that has been admitted start now on its core: a slot, the registers, its group not pre-empted, no debug hold? -/
def State.spawnReady (s : State) (core : Nat) (x : Spawn) : Bool :=
  let c := s.core core
  let need := s.regsOf x.tile.nid
  s.groupEnded x.tile.nid x.tile.grp ||
  (((List.range 16).any fun k => (s.warp? ⟨core, k⟩).isNone) && decide (need ≤ c.free) &&
    decide (Tab.get c.held 0 x.tile.nid + need ≤ s.quota x.tile.nid))

/-- May it start: also no debug hold, and its group is not pre-empted (08 R207)? -/
def State.spawnMay (s : State) (core : Nat) (x : Spawn) : Bool :=
  !(s.die (dieOf core)).debugHold && !s.groupAway x.tile.nid x.tile.grp && s.spawnReady core x

/-- The spawn that the core takes next, in the queue's order: those of groups that are pre-empted wait aside (08 R207). -/
def State.nextSpawn (s : State) (core : Nat) : Option Spawn :=
  if (s.die (dieOf core)).debugHold then none
  else match (s.core core).spawns.find? fun x => x.ready && !s.groupAway x.tile.nid x.tile.grp with
    | some x => if s.spawnReady core x then some x else none
    | none => none

/-- The responder that a spawn starts (R202). -/
def State.responderOf (s : State) (core slot : Nat) (x : Spawn) (c : Census) : Warp :=
  let t := x.tile
  let (die, clus, seed) := match s.node? t.nid with
    | some n => (n.places.idxOf (clusterOf core) / n.C, n.places.idxOf (clusterOf core) % n.C, lrSeed n.raw)
    | none => (0, 0, 0)
  let args : List Nat := [c.key.toNat, c.arg.toNat, t.tpos, t.len * 256, c.num.toNat, t.tbuf, c.asker.core * 16 + c.asker.slot]
  { wid := s.nextWid, nid := t.nid, die := die, clus := clus, warp := 64 + slot, regs := s.regsOf t.nid
    responder := some ⟨x.cen, c.num, x.entry, c.scope, t.grp⟩
    ctx := { pc := t.hva, sregs := ((List.range 7).zip args).map fun (k, v) => (k + 1, BitVec.ofNat 64 v)
             gens := seedGens seed (2 ^ 30 + (c.num.toNat % 65536 * 128 + x.entry) * 32) } }

/-- A spawn starts its responder in the lowest free slot; its start is an admission point and an acquire (R201, R202). Where the owning
group has ended meanwhile it counts as a failed reply (R200). -/
def State.startOne (s : State) (core : Nat) (x : Spawn) : State :=
    let s := s.updCore core fun c => { c with spawns := c.spawns.filter fun y => !(y.cen == x.cen && y.entry == x.entry) }
    match Tab.look s.censuses x.cen with
    | none => s
    | some c =>
      if s.groupEnded x.tile.nid x.tile.grp then s.send .request core basePort (.reply x.cen core x.entry none)
      else match (List.range 16).find? fun k => (s.warp? ⟨core, k⟩).isNone with
        | none => s
        | some slot =>
          let w := s.responderOf core slot x c
          let a : WarpAt := ⟨core, slot⟩
          let s := { s.putWarp a w with nextWid := s.nextWid + 1 }
          let s := s.updCore core fun c => { c with free := c.free - w.regs, held := Tab.put c.held w.nid (Tab.get c.held 0 w.nid + w.regs) }
          let s := s.acquireOver core w.wid fun _ => true
          s.later [.outsideEventAdmission a]

/-- The next spawn of a core's queue starts. -/
def State.startSpawn (s : State) (core : Nat) : State := match s.nextSpawn core with
  | none => s
  | some x => s.startOne core x

/-- At its admission a census's responders on a core start, each where it finds a slot and its registers; the others enter the spawn queue
(R201). -/
def State.admitSpawns (s : State) (core : Nat) : State :=
  let fresh := (s.core core).spawns.filter fun x => !x.ready
  fresh.foldl (fun s x => if s.spawnMay core x then s.startOne core x else s)
    (s.updCore core fun c => { c with spawns := c.spawns.map fun x => { x with ready := true } })

/-- `SPAWN` (R201): at its admission a census's responders on the core start; at the end of a cycle the next one of the queue does. -/
def execSpawn (s : State) : Outcome State Fault Refusal := match s.ev with
  | some (.spawn core true) => .next (s.admitSpawns core)
  | some (.spawn core false) => .next (s.startSpawn core)
  | _ => .next s

/-! ### Checks, arrivals, trap entries -/

/-- `RING_CHECK` (R145). -/
def execRingCheck (s : State) : Outcome State Fault Refusal := match s.ev with
  | some (.ringCheck cluster) => .next (s.ringCheck cluster s.nextMoves)
  | _ => .next s

/-- `CLAIM_CHECK` (R145). -/
def execClaimCheck (s : State) : Outcome State Fault Refusal := match s.ev with
  | some (.claimCheck cluster) => .next (s.claimCheck cluster)
  | _ => .next s

/-- `ENGINE_ARRIVAL` (R346, R348). -/
def execEngineArrival (s : State) : Outcome State Fault Refusal := match s.ev with
  | some (.engineArrival core b e) => .next (s.engineArrives core b e)
  | _ => .next s

/-- `TRAP_ENTRY` (R387). -/
def execTrapEntry (s : State) : Outcome State Fault Refusal := match s.ev with
  | some (.trapEntry a _ _ _) => .next (s.enterTrap a)
  | _ => .next s

end Sys2Proof.Machine
end

