-- ==== Sys2Proof/Machine/Coherence.lean ====
section
/-! DEFINITION. The home slice and the L1s: requests, fills, tokens, persistent requests (01_stacks_and_base R26 to R35, 02_coherence R38
to R46, R57 to R62). -/

namespace Sys2Proof.Machine

open Host (Outcome)

/-- A request reaches a slice's pool. -/
def State.atSlicePool (s : State) (n kind : Nat) (r : HomeReq) : State :=
  let x := s.slice n
  let at_ := r.line * 256
  let psn : BitVec 4 := BitVec.ofNat 4 ((List.range 4).foldl (fun m k => if x.psn.contains (r.line * 4 + k) then m + 2 ^ k else m) 0)
  match kind with
  | 2 => (s.putSlice n (x.poolWrite (r.bytes.map fun (k, b) => (at_ + k, b)))).answer (slicePort n) r [] 0
  | 3 => match r.atom with
    | none => s
    | some a =>
      let y := atomicAt (readCells x.pool at_ 256) a
      (s.putSlice n (x.poolWrite (y.1.map fun (k, b) => (at_ + k, b)))).answer (slicePort n) r y.2 0
  | _ => s.answer (slicePort n) r (readCells x.pool at_ 256) psn

/-- The warp of a core's request. -/
def State.widOf (s : State) (core id : Nat) : Option Nat := (Tab.look (s.core core).reqs id).map Req.wid

/-- Does a write or an atomic of the same warp to the same line still wait in the landing path of core n (09 R221 to R224: ST and AT before LD)? -/
def State.behindOwn (s : State) (n : Nat) (r : HomeReq) : Bool := match s.widOf (reqCore r) r.id with
  | none => false
  | some wid =>
    let its (core id : Nat) : Bool := core == reqCore r && s.widOf core id == some wid
    (s.cluster (clusterOf n)).outs.any fun o => o.core == n && (match o.atom with
      | some q => q.line == r.line && its (reqCore q) q.id
      | none => (o.bytes.any fun (a, _) => a / 256 == r.line) && o.next.any fun (c, e) => match e with
        | .loadLineArrival _ id _ _ => its c id
        | _ => false)

/-- A request reaches the core whose SRAM it names: writes and atomics take its landing path (04 R99), reads are served. -/
def State.atCorePool (s : State) (n kind : Nat) (r : HomeReq) : State :=
  let at_ := r.line * 256
  let mark (s : State) : State :=
    (s.updCore (reqCore r) fun c => { c with reqs := c.reqs.map fun (k, q) => (k, if k = r.id then { q with arrived := true } else q) }).runRels (reqCore r)
  if s.coreTested n || (kind != 2 && kind != 3 && s.behindOwn n r) then s.park basePort basePort (match kind with
    | 2 => .writeAtHome r
    | 3 => .atomicAtHome r
    | 4 => .copyRead r
    | _ => .uncachedRead r)
  else match kind with
  | 2 => mark (s.outArrives { core := n, bytes := r.bytes.map fun (k, b) => (at_ + k, b), psn := [], atom := none
                              next := [((reqCore r), .loadLineArrival (reqCore r) r.id [] 0)] })
  | 3 => mark (s.outArrives { core := n, bytes := [], psn := [], atom := some r })
  | _ =>
    let c := s.core n
    let psn : BitVec 4 := BitVec.ofNat 4 ((List.range 4).foldl (fun m k => if c.psn.contains (r.line * 4 + k) then m + 2 ^ k else m) 0)
    s.answer n r (readCells c.pool at_ 256) psn

/-- A request for the memory of the host or of a peer arrives at the home slice. Where a page is not cached, or the window is a peer's, it
goes on from there; what is cached of host memory is handled as a line of DRAM (18 R409, R410). -/
def State.goesFar (s : State) (kind : Nat) (r : HomeReq) : Option State :=
  if !farLine r.line || (hostLine r.line && r.cls != .non) then none
  else if s.deadWindow r then some (s.serve kind r)
  else some (s.far { kind := kind, req := r })

/-- A request arrives at its home. -/
def State.atHome (s : State) (kind : Nat) (r : HomeReq) : State :=
  let n := match r.space with
    | .slice k => k
    | _ => sliceOf r.line
  if s.staleFrom n (reqCore r) r.inc then s.logStale .request (dieOf (reqCore r)) r.inc (r.line * 256)
  else match r.space with
    | .slice n => s.atSlicePool n kind r
    | .core n => s.atCorePool n kind r
    | .pa => match s.goesFar kind r with
    | some t => t
    | none =>
      let s := s.checkEntries r
      if (s.slice (sliceOf r.line)).input.any fun e => e.req.line == r.line then s.atInput kind r
      else match s.tryAtSlice kind r with
        | some t => t
        | none => s.mustQueue kind r

/-- `READ_SHARED` (R42). -/
def execReadShared (s : State) : Outcome State Fault Refusal := match s.ev with
  | some (.readShared r) => .next (s.atHome 0 r)
  | _ => .next s

/-- `READ_FOR_OWNERSHIP` (R42). -/
def execReadForOwnership (s : State) : Outcome State Fault Refusal := match s.ev with
  | some (.readForOwnership r) => .next (s.atHome 1 r)
  | _ => .next s

/-- `WRITE_AT_HOME` (R42). -/
def execWriteAtHome (s : State) : Outcome State Fault Refusal := match s.ev with
  | some (.writeAtHome r) => .next (s.atHome 2 r)
  | _ => .next s

/-- `ATOMIC_AT_HOME` (R42). -/
def execAtomicAtHome (s : State) : Outcome State Fault Refusal := match s.ev with
  | some (.atomicAtHome r) => .next (s.atHome 3 r)
  | _ => .next s

/-- `COPY_READ` (R42). -/
def execCopyRead (s : State) : Outcome State Fault Refusal := match s.ev with
  | some (.copyRead r) => .next (s.atHome 4 r)
  | _ => .next s

/-- `UNCACHED_READ` (R42). -/
def execUncachedRead (s : State) : Outcome State Fault Refusal := match s.ev with
  | some (.uncachedRead r) => .next (s.atHome 5 r)
  | _ => .next s

/-! ### Retries, timeouts, persistent requests (01 R32, 02 R45, R46) -/

/-- The next issue of a request: its fourth count makes a read persistent. -/
def State.reissue (s : State) (core id : Nat) : State :=
  match Tab.look (s.core core).reqs id with
  | none => s
  | some r =>
    let tries := r.tries + 1
    let per := r.kind ≤ 1 && (r.persistent || tries ≥ 4)
    let s := s.updCore core fun c => { c with reqs := Tab.put c.reqs id { r with tries := tries, persistent := per, since := s.root } }
    let dst := match r.msg.space with
      | .pa => slicePort (sliceOf r.msg.line)
      | .slice n => slicePort n
      | .core n => n
    if per && r.persistent then s
    else s.send .request core dst (
      if per then .persistentRequest r.msg (r.kind == 1)
      else match r.kind with
        | 0 => .readShared r.msg
        | 1 => .readForOwnership r.msg
        | 2 => .writeAtHome r.msg
        | 3 => .atomicAtHome r.msg
        | 4 => .copyRead r.msg
        | _ => .uncachedRead r.msg)

/-- `RETRY_REISSUE` (R32). -/
def execRetryReissue (s : State) : Outcome State Fault Refusal := match s.ev with
  | some (.retryReissue core id) => .next (s.reissue core id)
  | _ => .next s

/-- A read that has not completed within 512 base cycles, which are 320 ticks (00 R11), times out. -/
def Req.late (r : Req) (now : Nat) : Bool := r.kind ≤ 1 && decide (now ≥ r.since + 320)

/-- `REQUEST_TIMEOUT` (R45). -/
def execRequestTimeout (s : State) : Outcome State Fault Refusal := match s.ev with
  | some (.requestTimeout core id) => match Tab.look (s.core core).reqs id with
    | some r => .next (if r.late s.root then s.reissue core id else s)
    | none => .next s
  | _ => .next s

/-- A persistent entry becomes active: what its requester needs goes to it in one transaction (log entry 14), or the entry stays inactive
while a holder does not answer. A host that holds tokens is snooped for either kind; a request of a page without tokens is answered with
the home copy. -/
def State.activate (s : State) (e : Persist) : State :=
  let sector := (reqSectors e.req).headD 0
  let core := (reqCore e.req)
  let n := sliceOf e.req.line
  let on (s : State) : State := s.updSlice n fun x => { x with persist := x.persist.map fun y => if y == e then { y with active := true } else y }
  if e.req.cls == .non then (on s).answer (slicePort n) e.req (s.homeLine e.req.line) (s.homePsn4 e.req.line)
  else if !(s.lacks (if e.own then 1 else 0) e.req).isEmpty then s.obtain (if e.own then 1 else 0) e.req
  else
    let s := s.askHost sector
    if e.own then
      if s.canGather sector then
        let s := on (s.gather sector)
        (s.tokensTo core sector Config.nTokens true true).putDir sector { s.dirOf sector with htok := 0, hown := false, dmask := dieBit core, ocore := core }
      else s
    else if s.canRecall sector then
      let s := on (s.recallOwner sector)
      let d := s.dirOf sector
      if d.hown then
        (s.tokensTo core sector 1 true true).putDir sector { d with htok := d.htok - 1, hown := false, dmask := d.dmask ||| dieBit core, ocore := core }
      else s
    else s

/-- Entries of a slice that may become active: the first of each sector, none of which is active (R46). -/
def Slice.waitingEntries (x : Slice) : List Persist :=
  x.persist.foldl (fun acc e =>
    if e.active || (x.persist.any fun y => y.active && (reqSectors y.req) == (reqSectors e.req)) || acc.any (fun y => (reqSectors y.req) == (reqSectors e.req))
    then acc else acc ++ [e]) []

/-- The persistent table of a slice goes on: entries that waited at the input take room, waiting entries are activated. -/
def State.runPersist (s : State) (n : Nat) : State :=
  let s := s.updSlice n fun x =>
    let room := 32 - x.persist.length
    { x with persist := x.persist ++ x.persistWait.take room, persistWait := x.persistWait.drop room }
  (s.slice n).waitingEntries.foldl State.activate s

/-- A persistent request reaches the slice: an entry for each sector. -/
def State.persistComes (s : State) (r : HomeReq) (own : Bool) : State :=
  if s.staleFrom (sliceOf r.line) (reqCore r) r.inc then s.logStale .request (dieOf (reqCore r)) r.inc (r.line * 256)
  else
    let s := s.checkEntries r
    let es : List Persist := (sectorsIn r.smask).map fun k => ⟨{ r with smask := set4 0 k true }, own, false⟩
    let n := sliceOf r.line
    (s.updSlice n fun x => { x with persistWait := x.persistWait ++ es }).runPersist n

/-- `PERSISTENT_REQUEST` (R46). -/
def execPersistentRequest (s : State) : Outcome State Fault Refusal := match s.ev with
  | some (.persistentRequest r own) => .next (s.persistComes r own)
  | _ => .next s

/-- The requester's deactivation: its entry goes and the next is activated; one of a dead incarnation is dropped (R59). -/
def State.deactivate (s : State) (core sector : Nat) (inc : BitVec 16) : State :=
  let n := sliceOf (sector / 4)
  if s.staleFrom n core inc then s.logStale .request (dieOf core) inc (sector * 64)
  else (s.updSlice n fun x => { x with
    persist := x.persist.filter fun e => !((reqCore e.req) == core && (reqSectors e.req) == [sector])
    persistWait := x.persistWait.filter fun e => !((reqCore e.req) == core && (reqSectors e.req) == [sector]) }).runPersist n

/-- `DEACTIVATION` (R46). -/
def execDeactivation (s : State) : Outcome State Fault Refusal := match s.ev with
  | some (.deactivation core sector inc) => .next (s.deactivate core sector inc)
  | _ => .next s

/-- The core for which a persistent read for ownership of a sector is active. -/
def State.activeFor (s : State) (sector : Nat) : Option Nat :=
  ((s.slice (sliceOf (sector / 4))).persist.find? fun e => e.active && e.own && (reqSectors e.req) == [sector]).map fun e => (reqCore e.req)

/-- `LINE_FILL` (R33). -/
def execLineFill (s : State) : Outcome State Fault Refusal := match s.ev with
  | some (.lineFill line) => .next (s.filled line)
  | _ => .next s

/-- `WRITE_BACK_DRAIN` (R30). -/
def execWriteBackDrain (s : State) : Outcome State Fault Refusal := match s.ev with
  | some (.writeBackDrain n) => .next (s.drainWb n)
  | _ => .next s

/-! ### The L1 answers (02 R43, R44) -/

/-- Tokens that a core sends, to another core or home. -/
def State.coreTokens (s : State) (core : Nat) (dst : Option Nat) (sector tok : Nat) (own dty : Bool) (data : Bool) (psn : Bool) : State :=
  let m : TokMsg := ⟨dst, sector, tok, own, if data then some ((s.core core).sectBytes sector) else none, dty, psn,
    some (dieOf core, (s.die (dieOf core)).inc)⟩
  s.send .response core (dst.getD (slicePort (sliceOf (sector / 4)))) (.tokenTransfer m)

/-- A state of a sector that no L1 may hold is an uncorrectable directory error (R40). -/
def Sect.bad (x : Sect) : Bool := decide (x.tok > Config.nTokens) || (x.own && x.tok == 0)

/-- An L1 that finds such a state reports the sector to the home (R40, R61). -/
def State.sectorError (s : State) (core sector : Nat) : State :=
  s.send .request core (slicePort (sliceOf (sector / 4))) (.directoryError sector true)

/-- A forwarded read reaches the last known owner (R43). -/
def State.forwarded (s : State) (core sector requester : Nat) : State :=
  if !s.answers core then s.park basePort core (.forwardedRead core sector requester)
  else match (s.core core).sect sector with
    | none => s
    | some x =>
      if x.bad then s.sectorError core sector
      else if !x.own then s
      else if x.tok ≥ 2 then
        (s.coreTokens core (some requester) sector 1 false false true x.psn).updCore core fun c => c.putSect sector { x with tok := x.tok - 1 }
      else
        (s.coreTokens core (some requester) sector 1 true x.dty true x.psn).updCore core fun c => c.putSect sector {}

/-- `FORWARDED_READ` (R43). -/
def execForwardedRead (s : State) : Outcome State Fault Refusal := match s.ev with
  | some (.forwardedRead core sector requester) => .next (s.forwarded core sector requester)
  | _ => .next s

/-- Every token that a core holds goes to the requester, or home, and its copy is invalid (R43). A state that no L1 may hold is an error; the
recall of one brings home what there is. -/
def State.giveAll (s : State) (core sector : Nat) (requester : Option Nat) : State :=
  match (s.core core).sect sector with
  | none => s
  | some x =>
    if (x.tok = 0 && !x.own) || requester == some core then s
    else if x.bad && requester.isSome then s.sectorError core sector
    else (s.coreTokens core requester sector x.tok x.own x.dty x.own x.psn).updCore core fun c => c.putSect sector {}

/-- A demand for all tokens reaches a cluster of a die (R43). -/
def State.demand (s : State) (cl sector : Nat) (requester : Option Nat) : State :=
  if !s.answers (4 * cl) then s.park basePort (4 * cl) (.demandForAllTokens cl sector requester)
  else (List.range 4).foldl (fun s k => s.giveAll (4 * cl + k) sector requester) s

/-- `DEMAND_FOR_ALL_TOKENS` (R43). -/
def execDemandForAllTokens (s : State) : Outcome State Fault Refusal := match s.ev with
  | some (.demandForAllTokens cl sector requester) => .next (s.demand cl sector requester)
  | _ => .next s

/-- An owner recall: the owner token and the data go home, the other tokens stay (R42). -/
def State.recalled (s : State) (core sector : Nat) : State :=
  if !s.answers core then s.park basePort core (.ownerRecall core sector)
  else match (s.core core).sect sector with
    | none => s
    | some x =>
      if x.bad then s.sectorError core sector
      else if !x.own then s
      else (s.coreTokens core none sector 1 true x.dty true x.psn).updCore core fun c =>
        c.putSect sector (if x.tok > 1 then { x with own := false, dty := false, tok := x.tok - 1 } else {})

/-- `OWNER_RECALL` (R42). -/
def execOwnerRecall (s : State) : Outcome State Fault Refusal := match s.ev with
  | some (.ownerRecall core sector) => .next (s.recalled core sector)
  | _ => .next s

/-! ### Tokens on their way (02 R43, R59, R60) -/

/-- Has the core a request for tokens of the sector outstanding? -/
def Core.wantsTokens (c : Core) (sector : Nat) : Bool := c.reqs.any fun (_, r) =>
  r.msg.space == .pa && r.msg.line == sector / 4 && bit4 r.msg.smask (sector % 4) && r.msg.cls != .non && (match r.why with
    | .fill _ => true
    | _ => false)

/-- Requests of a core that are complete: every sector readable, or writable (R42). -/
def Core.reqsMet (c : Core) (line : Nat) : List (Nat × Req) := c.reqs.filter fun (_, r) =>
  r.msg.space == .pa && r.msg.line == line && r.msg.cls != .non && (match r.why with
    | .fill own => (sectorsIn r.msg.smask).all fun k => if own then writable r.msg.cls (c.sectOf line k) else readable r.msg.cls (c.sectOf line k)
    | _ => false)

/-- Complete requests end; a persistent one is deactivated (R46). -/
def State.endReqs (s : State) (core line : Nat) : State :=
  ((s.core core).reqsMet line).foldl (fun s (id, r) =>
    let s := s.updCore core fun c => { c with reqs := Tab.del c.reqs id }
    if r.persistent then (reqSectors r.msg).foldl (fun s x => s.send .request core (slicePort (sliceOf line)) (.deactivation core x (s.die (dieOf core)).inc)) s else s) s

/-- Tokens are added to the sector, which takes a line of the L1 if it has none; the requests and accesses that waited go on. -/
def State.addTokens (s : State) (core : Nat) (m : TokMsg) (home : State → State) : State :=
  let line := m.sector / 4
  let c := s.core core
  let held := (c.sectOf line (m.sector % 4)).tok > 0
  if !held && !c.wantsTokens m.sector then home s
  else
    let r := c.reqs.find? fun (_, r) => r.msg.space == .pa && r.msg.line == line && r.msg.cls != .non
    let s := match r with
      | some (_, r) => s.allocate core r.wid line r.msg.cls r.msg.ecls r.msg.nllc
      | none => s
    match Tab.look (s.core core).l1 line with
    | none => home s
    | some l =>
      let k := m.sector % 4
      let x := l.sect k
      let fresh := m.data.isSome && !(x.val && x.own)
      let bytes := match m.data with
        | some d => if fresh then (placed (k * 64) d).foldl (fun b (i, v) => b.set i v) l.bytes else l.bytes
        | none => l.bytes
      let x : Sect := { x with
        tok := x.tok + m.tok, own := x.own || m.own, val := x.val || m.data.isSome, dty := x.dty || m.dty
        psn := if fresh then m.psn else x.psn }
      let s := s.updCore core fun c => { c with l1 := Tab.put c.l1 line { l with bytes := bytes, sects := l.sects.set k x } }
      if x.bad then s.sectorError core m.sector
      else (s.endReqs core line).settleCore core

/-- Tokens arrive at a core's L1: added where the sector is held or asked for, passed on while a persistent request is active, returned to the
home while a recall of the sector is active, or else when the L1 has no use for them (R43, R46, R57). -/
def State.tokensCome (s : State) (core : Nat) (m : TokMsg) : State :=
  let home (s : State) : State := s.send .response core (slicePort (sliceOf (m.sector / 4))) (.tokenTransfer { m with dst := none, src := some (dieOf core, (s.die (dieOf core)).inc) })
  if !s.answers core then s.park basePort core (.tokenTransfer m)
  else if (s.dirOf m.sector).locked then home s
  else match s.activeFor m.sector with
    | some other =>
      if other != core then s.send .response core other (.tokenTransfer { m with dst := some other, src := some (dieOf core, (s.die (dieOf core)).inc) })
      else s.addTokens core m home
    | none => s.addTokens core m home
/-- Tokens arrive at the home: what would raise the total above 512 is discarded and logged (R60); while a persistent request is active
they are passed on (R46). DESIGN CHOICE (log entry 59): where only a part of them is excess, the owner token and its data are in the part
that is kept. -/
def State.tokensHomeCome (s : State) (m : TokMsg) : State :=
  let d := s.dirOf m.sector
  let outside := if d.host = 1 then 1 else if d.host = 2 then Config.nTokens else 0
  let room := Config.nTokens - d.htok - outside
  let n := min m.tok room
  let own := m.own && !d.hown && n > 0
  let s := if n < m.tok || (m.own && !own) then s.log 4 1 (sliceOf (m.sector / 4)) 0 (m.sector * 64) else s
  let s := if own && m.dty then
      (s.homeWrite (m.sector / 4) (placed (m.sector % 4 * 64) (m.data.getD []))).setHomePsn m.sector m.psn
    else s
  let s := s.putDir m.sector { d with htok := d.htok + n, hown := d.hown || own, extra := d.extra || (d.error && (n < m.tok || (m.own && !own))) }
  match s.activeFor m.sector with
  | some core =>
    if d.locked || n = 0 then s
    else
      let d := s.dirOf m.sector
      (s.tokensTo core m.sector d.htok d.hown d.hown).putDir m.sector { d with htok := 0, hown := false, dmask := d.dmask ||| dieBit core, ocore := core }
  | none => s

/-- A message that carries tokens. A slice drops one of a dead incarnation (R59); what reaches a core's L1 then goes home with that core's
number, and a dead die's port takes nothing in (R57). -/
def State.transfer (s : State) (m : TokMsg) : State :=
  let n := sliceOf (m.sector / 4)
  match m.dst, m.src with
  | some core, _ => if (s.die (dieOf core)).dead then s else s.tokensCome core m
  | none, some (d, i) => if s.staleAt n d i then s.logStale .response d i (m.sector * 64) else ((s.tokensHomeCome m).retryInput n).runAllRels
  | none, none => ((s.tokensHomeCome m).retryInput n).runAllRels

/-- `TOKEN_TRANSFER` (R43). -/
def execTokenTransfer (s : State) : Outcome State Fault Refusal := match s.ev with
  | some (.tokenTransfer m) => .next (s.transfer m)
  | _ => .next s

/-- `L1_EVICTION` (R44): in lease stop the L1 sends no tokens (R52). -/
def execL1Eviction (s : State) : Outcome State Fault Refusal := match s.ev with
  | some (.l1Eviction core line) => .next (if s.answers core then s.evict core 0 line else s.park basePort core (.l1Eviction core line))
  | _ => .next s

end Sys2Proof.Machine
end

