-- ==== Sys2Proof/Machine/HostAccess.lean ====
section
/-! DEFINITION. Host accesses through CXL.mem and CXL.cache, and changes of mappings (02_coherence R63 to R65, 03 R79, R85, 18 R409, R413,
R415). -/

namespace Sys2Proof.Machine

open Host (Outcome)

/-! ### CXL.mem (02 R63 to R65) -/

/-- The tenant of a logical device's die; none for the management device or a die without a tenant (18 R406, R413). -/
def State.ldTenant (s : State) (ld : Nat) : Option Nat := if ld < 16 then Tab.look s.dieTen ld else none

/-- Is a logical device bound? A request through one that is not receives a completion error (18 R407). -/
def State.bound (s : State) (ld : Nat) : Bool := (Tab.look s.lds ld).isSome

/-- Is a host's request to a frame in order: the device is bound, the address is DRAM, the frame is the tenant's (18 R407, R413)? -/
def State.hostMay (s : State) (ld pa : Nat) : Bool :=
  s.bound ld && decide (pa < Config.dramEnd) && (match s.ldTenant ld with
    | some t => Tab.look s.frameTen (pa / 65536) == some t
    | none => false)

/-- A refused host access is logged (18 R413, 01 R20). -/
def State.hostRefused (s : State) (ld pa : Nat) : State := s.log 0 2 ld ((s.ldTenant ld).getD 0) (pa / 256 * 256)

/-- The tokens that go to the host with the state it asks for: one, or all 512 (R65). DESIGN CHOICE (log entry 61): where the home holds the
owner token alone a shared state is not granted; the host has the data without a cached state. -/
def State.grantHost (s : State) (sector want : Nat) : State :=
  let d := s.dirOf sector
  if want = 1 && d.host = 0 && d.htok ≥ 2 then (s.putDir sector { d with htok := d.htok - 1, host := 1 }).emit (.hostGrant sector 1)
  else if want = 2 then
    (s.putDir sector { d with htok := 0, hown := false, host := 2, snooped := false }).emit (.hostGrant sector Config.nTokens)
  else s

/-- A host read: the home copy, or for a system-coherent sector the latest value and the cached state asked for (R63, R65). DESIGN CHOICES (log
entry 61): the class is part of the request: a CXL.mem request names no page, and no rule says how the home learns its class; it counts as one
to a cached page, and allocates (01 R28); and a read that asks for no exclusive state waits, without a snoop, where the host itself holds all
tokens of the sector. -/
def State.hostReads (s : State) (port ld pa : Nat) (cls : Cls) (want : Nat) : State :=
  let sector := pa / 64
  let again (s : State) : State := s.park basePort basePort (.hostCxlMemRead port ld pa cls want)
  if !s.bound ld then s.emit (.completionError ld)
  else if !s.hostMay ld pa then (s.hostRefused ld pa).emit (.hostData ld pa (List.replicate 64 0) true)
  else match s.reachAll [(sector / 4, cls, false, sector % 4 * 64)] with
    | none => again (s.askAhead [] [(sector / 4, cls, false, sector % 4 * 64)])
    | some s =>
      if (s.dirOf sector).barred || (cls == .system && (if want = 2 then !s.canGather sector else !s.canRecall sector)) then
        again (if cls == .system && want = 2 then s.askHost sector else s)
      else
      let s := if cls == .system then (if want = 2 then s.gather sector else s.recallOwner sector) else s
      let s := s.emit (.hostData ld pa (s.homeBytes (sector * 64) 64) (s.homePsn sector))
      if cls == .system then s.grantHost sector want else s

/-- `HOST_CXL_MEM_READ` (R63). -/
def execHostCxlMemRead (s : State) : Outcome State Fault Refusal := match s.ev with
  | some (.hostCxlMemRead port ld pa cls want) => .next (s.hostReads port ld pa cls want)
  | _ => .next s

/-- A host write of bytes of a sector, by offset in its line (R64). A refused one is answered with an error (01 R20). -/
def State.hostWrites (s : State) (port ld pa : Nat) (cls : Cls) (bytes : List (Nat × Byte)) : State :=
  let sector := pa / 64
  let mine := bytes.filter fun (k, _) => k / 64 == sector % 4 && decide (k < 256)
  let again (s : State) : State := s.park basePort basePort (.hostCxlMemWrite port ld pa cls bytes)
  if !s.bound ld then s.emit (.completionError ld)
  else if !s.hostMay ld pa then (s.hostRefused ld pa).emit (.hostError ld pa)
  else match s.reachAll [(sector / 4, cls, false, sector % 4 * 64)] with
    | none => again (s.askAhead [] [(sector / 4, cls, false, sector % 4 * 64)])
    | some s =>
      if (s.dirOf sector).barred || (cls != .non && !s.canGather sector) then again (s.askHost sector) else s.writeHome cls (sector / 4) mine

/-- `HOST_CXL_MEM_WRITE` (R64). -/
def execHostCxlMemWrite (s : State) : Outcome State Fault Refusal := match s.ev with
  | some (.hostCxlMemWrite port ld pa cls bytes) => .next (s.hostWrites port ld pa cls bytes)
  | _ => .next s

/-- The host answers a back-invalidate snoop: its tokens come home, with its data where it has changed them (R42, R65). DESIGN CHOICE (log entry
61): they stay at the home; a read for ownership that was answered before they came gets them when it is issued again. -/
def State.hostReturns (s : State) (sector : Nat) (data : Option (List Byte)) : State :=
  let d := s.dirOf sector
  if d.host = 0 then (if d.snooped then ((s.putDir sector { d with snooped := false }).retryInput (sliceOf (sector / 4))).runAllRels else s)
  else
    let n := if d.host = 2 then Config.nTokens else 1
    let s := match data with
      | some b => if d.host = 2 then s.homeStore (sector / 4) (placed (sector % 4 * 64) (b.take 64)) else s
      | none => s
    let s := s.putDir sector { d with
      host := 0, snooped := false, htok := min Config.nTokens (d.htok + n), hown := d.hown || d.host == 2
      extra := d.extra || (d.error && (decide (d.htok + n > Config.nTokens) || (d.hown && d.host == 2))) }
    (s.retryInput (sliceOf (sector / 4))).runAllRels

/-- `BACK_INVALIDATE_SNOOP` (R65). -/
def execBackInvalidateSnoop (s : State) : Outcome State Fault Refusal := match s.ev with
  | some (.backInvalidateSnoop sector data) => .next (s.hostReturns sector data)
  | _ => .next s

/-- A slice gives a sector of host memory up: its dirty bytes go to the host's memory (18 R409). -/
def State.giveUp (s : State) (sector : Nat) : State :=
  let line := sector / 4
  let k := sector % 4
  let n := sliceOf line
  let b := s.homeBytes (sector * 64) 64
  let cutL (l : LLine) : LLine := if l.line == line && !l.pending then { l with valid := set4 l.valid k false, dirty := set4 l.dirty k false, psn := set4 l.psn k false } else l
  let cutW (e : WbEntry) : WbEntry := if e.line == line then { e with dirty := set4 e.dirty k false } else e
  let s := s.updSlice n fun x => { x with lines := x.lines.map fun (w, l) => (w, cutL l), wb := x.wb.map cutW }
  { s with mem := writeCells s.mem (placed (sector * 64) b) }

/-- A host snoop of host memory: the package's tokens are recalled before the slice answers; the sector's bytes in host memory are then
what the host makes of them (18 R409). -/
def State.hostSnoops (s : State) (sector : Nat) (data : Option (List Byte)) : State :=
  if windowOf (sector * 64) != some 256 then s
  else if !s.canGather sector then s.park basePort basePort (.hostSnoop sector data)
  else
    let s := ((s.gather sector).giveUp sector).letGo [sector]
    let s := s.emit (.hostData 16 (sector * 64) (s.homeBytes (sector * 64) 64) (s.homePsn sector))
    match data with
    | some b => { s with mem := writeCells s.mem (placed (sector * 64) (b.take 64)) }
    | none => s

/-! ### The answers of the host and of peers (18 R409, R410) -/

/-- The home takes in sectors of host memory that it has obtained: a way that holds the line holds them from now on; what waited goes on. -/
def State.takesIn (s : State) (x : FarReq) : State :=
  let n := sliceOf x.req.line
  let fresh := (reqSectors x.req).filter fun k => (Tab.look s.hostHeld k).isNone
  let held (t : Tab Bool) (k : Nat) : Tab Bool := Tab.put t k (x.kind == 9 || Tab.get t false k)
  let s := { s with hostHeld := (reqSectors x.req).foldl held s.hostHeld }
  let byte (l : LLine) (i : Nat) : Byte :=
    if fresh.contains (l.line * 4 + i / 64) then readCell s.mem (l.line * 256 + i) else l.bytes.getD i 0
  let ofLine (l : LLine) : LLine :=
    if l.line == x.req.line && !l.pending && !fresh.isEmpty then
      { l with bytes := (List.range 256).map (byte l), valid := fresh.foldl (fun m k => set4 m (k % 4) true) l.valid }
    else l
  let s := s.updSlice n fun y => { y with lines := y.lines.map fun (w, l) => (w, ofLine l) }
  ((s.retryInput n).runPersist n).runAllRels

/-- A request beyond the package is complete: a read has its bytes, a write is accepted, an atomic has its old values. Nothing goes back to a
die that has died meanwhile (02 R59). -/
def State.farDone (s : State) (x : FarReq) : State :=
  let n := sliceOf x.req.line
  let tell (s : State) (data : List Byte) (psn : BitVec 4) : State :=
    if s.staleFrom n (reqCore x.req) x.req.inc then s else s.answer (slicePort n) x.req data psn
  match x.kind with
  | 2 =>
    let s := if x.reply.isSome || s.deadWindow x.req then s
      else (sectorsIn x.req.psn).foldl (fun s k => s.setHomePsn (x.req.line * 4 + k) true) (s.homeStore x.req.line x.req.bytes)
    match x.copy with
    | some p => s.partLands p 0 false
    | none => tell s (x.reply.getD []) 0
  | 3 => match x.reply, x.req.atom with
    | some d, _ => tell s d 0
    | none, some a =>
      let y := atomicAt (if s.deadWindow x.req then List.replicate 256 0 else s.homeLine x.req.line) a
      let s := if s.deadWindow x.req then s else s.homeStore x.req.line y.1
      tell (if hostLine x.req.line then s.emit (.farWrite x.req.line y.1) else s) y.2 0
    | none, none => s
  | 8 | 9 => s.takesIn x
  | 10 => { s with farWait := s.farWait ++ [{ x with kind := 11 }] }
  | _ => if s.deadWindow x.req then tell s (List.replicate 256 0) 0xF else tell s (s.homeLine x.req.line) (s.homePsn4 x.req.line)

/-- The host or a peer answers request k that has left the package; those to one line in order. -/
def State.farAnswered (s : State) (k : Nat) : State := match s.farWait[k]? with
  | none => s
  | some x =>
    if x.port.isNone || x.kind == 11 || (s.farWait.take k).any fun y => y.kind != 11 && y.req.line == x.req.line then s
    else (({ s with farWait := s.farWait.eraseIdx k }).farDone x).issueFar

/-- The memory of the host or of a peer changes by itself: no sector of host memory that the package has, since the host snoops it first. -/
def State.farChanges (s : State) (pa : Nat) (bytes : List Byte) : State :=
  if pa < Config.dramEnd || (List.range bytes.length).any fun i => (Tab.look s.hostHeld ((pa + i) / 64)).isSome then s
  else { s with mem := writeCells s.mem (placed pa bytes) }

/-- `HOST_SNOOP` (R409). -/
def execHostSnoop (s : State) : Outcome State Fault Refusal := match s.ev with
  | some (.hostSnoop sector data) => .next (s.hostSnoops sector data)
  | _ => .next s

/-! ### Changes of leaves and nodes (03 R79) -/

/-- An entry of a page table changes at the base. Clusters keep the earlier mapping until their next admission point, and copies and
tasks under way keep theirs. -/
def State.changeEntry (s : State) (pa : Nat) (v : W64) : State :=
  let before : W64 := BitVec.ofNat 64 (leNat (s.homeBytes pa 8))
  let keep (t : Tab W64) : Tab W64 := if (Tab.look t pa).isSome then t else Tab.put t pa before
  let ofTask (t : Task) : Task := match t.st with
    | .dispatched _ _ _ | .delivering _ => { t with old := keep t.old }
    | _ => t
  let ofCopy (c : Copy) : Copy := if c.st == CopySt.running then { c with old := keep c.old } else c
  let ofCluster (n : Nat) (c : Cluster) : Cluster :=
    { c with oldLeaves := if (s.liveIn n).isEmpty then [] else keep c.oldLeaves, tasks := c.tasks.map fun (q, t) => (q, ofTask t) }
  let ofCore (c : Core) : Core := { c with copies := c.copies.map fun (k, x) => (k, ofCopy x) }
  let s := { s with clusters := s.clusters.map fun (n, c) => (n, ofCluster n c), cores := s.cores.map fun (k, c) => (k, ofCore c) }
  (s.homeStore (pa / 256) (placed (pa % 256) (leBytes 8 v.toNat))).checkPreqs

/-- `PAGE_RESIDENT` (R79). -/
def execPageResident (s : State) : Outcome State Fault Refusal := match s.ev with
  | some (.pageResident pa v) => .next (s.changeEntry (pa / 8 * 8) v)
  | _ => .next s

/-- `LEAF_CHANGE` (R79). -/
def execLeafChange (s : State) : Outcome State Fault Refusal := match s.ev with
  | some (.leafChange pa v) => .next (s.changeEntry (pa / 8 * 8) v)
  | _ => .next s

/-! ### Requests from outside as they are accepted (18 R404 to R407; 19 R420) -/

/-- The base field of a slice (01 R23). -/
def fieldOf (n : Nat) : Nat := n / 16

/-- Is a seam between two base fields isolated: one of them has no power (19 R420)? -/
def State.isolated (s : State) (a b : Nat) : Bool := !(s.fields.contains a && s.fields.contains b)

/-- Is there a path from field 0's corner of the core to a field that crosses no isolated seam (19 R419, R420; 01 R37)? -/
def State.pathTo (s : State) (f : Nat) : Bool := match f with
  | 0 => s.fields.contains 0
  | 3 => (!s.isolated 0 1 && !s.isolated 1 3) || (!s.isolated 0 2 && !s.isolated 2 3)
  | f => !s.isolated 0 f

/-- The slice that an event from outside goes to. -/
def eventSlice : Ev → Option Nat
  | .hostCxlMemRead _ _ pa _ _ | .hostCxlMemWrite _ _ pa _ _ | .pageResident pa _ | .leafChange pa _ => some (sliceOf (pa / 256))
  | .hostSnoop x _ | .backInvalidateSnoop x _ | .directoryError x _ => some (sliceOf (x / 4))
  | .peerAtomic r => some (sliceOf r.line)
  | .pinnedPoolSet n _ => some n
  | _ => none

/-- The port of a CXL.mem request of a host. -/
def eventPort : Ev → Option Nat
  | .hostCxlMemRead p _ _ _ _ | .hostCxlMemWrite p _ _ _ _ => some p
  | _ => none

/-- Has the port of an event link credits: it is up, none of its lanes is under test, and no more than 4,096 CXL.mem requests that came through
it are outstanding (18 R402, R405; 17 R399)? -/
def State.hasCredit (s : State) (e : Ev) : Bool := match eventPort e with
  | none => true
  | some p => s.portsUp.contains p && !s.portTested p &&
      decide (((s.flight ++ s.parked).filter fun f => eventPort f.ev == some p).length < 4096)

/-- Has an event from outside a path: its slice's field is up (19 R420)? -/
def State.hasPath (s : State) (e : Ev) : Bool := match eventSlice e with
  | some n => s.pathTo (fieldOf n)
  | none => true

/-- The device address that a logical device's decoders give for a host address: that of the lowest that covers it. Without a decoder that is set
the addresses are the device's own. DESIGN CHOICE (log entry 44): what no decoder covers lies beyond every window, and is refused there. -/
def State.decoded (s : State) (ld pa : Nat) : Nat :=
  let mine := (List.range 16).filterMap fun i => Tab.look s.hdm (ld * 16 + i)
  if mine.isEmpty then pa
  else match mine.find? fun (base, size, _) => base ≤ pa && pa < base + size with
    | some (base, _, dpa) => dpa + (pa - base)
    | none => 2 ^ 52 + pa

/-- The logical device of a host's request. -/
def eventLd : Ev → Option Nat
  | .hostCxlMemRead _ ld _ _ _ | .hostCxlMemWrite _ ld _ _ _ | .queueRegisterWrite ld _ _ _ => some ld
  | _ => none

/-- A request with its address decoded (18 R404). -/
def State.asDecoded (s : State) : Ev → Ev
  | .hostCxlMemRead p ld pa c w => .hostCxlMemRead p ld (s.decoded ld pa) c w
  | .hostCxlMemWrite p ld pa c b => .hostCxlMemWrite p ld (s.decoded ld pa) c b
  | e => e

/-- An event from outside comes: it waits for link credits or for a path (18 R405, 19 R420), or is accepted. Through a logical device that is
being unbound it receives a completion error (18 R407). -/
def State.comes (s : State) (e : Ev) : State :=
  let d := s.asDecoded e
  if (eventLd e).any s.unbinding.contains then s.emit (.completionError ((eventLd e).getD 0))
  else if s.hasCredit d && s.hasPath d then s.send .request basePort basePort d
  else { s with linkWait := s.linkWait ++ [e] }

/-- What waits for credits or for a path is tried again, in order. -/
def State.linkTick (s : State) : State :=
  let l := s.linkWait
  if l.isEmpty then s else l.foldl State.comes { s with linkWait := [] }

/-- All ones: what a read of BAR0 gives where nothing answers (18 R406). -/
def allOnes : W64 := 0xFFFFFFFFFFFFFFFF

/-- May a logical device reach a queue's window: its die is of the queue's tenant (18 R406)? -/
def State.windowOpen (s : State) (ld q : Nat) : Bool := (s.queue q).ten.isSome && s.ldTenant ld == (s.queue q).ten

/-- Eight bytes of BAR0 (18 R406; 16 R371). DESIGN CHOICE (log entry 49): the tail, which is written alone, reads all ones. -/
def State.barWord (s : State) (ld off : Nat) : W64 :=
  if off < 0x100000 then Tab.get s.ldRegs 0 (ld * 2 ^ 17 + off / 8)
  else if off < 0x500000 then
    let q := (off - 0x100000) / 0x10000
    let x := s.queue q
    let k := off % 0x10000
    if !s.windowOpen ld q then allOnes
    else if k < 0x4000 then
      let raw := (Tab.get x.ring {} (k / 64)).raw
      BitVec.ofNat 64 (fld raw (64 * (k / 8 % 8) + 63) (64 * (k / 8 % 8)))
    else if k = 0x4008 then x.head.setWidth 64
    else if k = 0x4010 then x.done
    else allOnes
  else allOnes

/-- A host reads 8 bytes of BAR0 of a logical device (18 R406, R407). -/
def State.barRead (s : State) (ld off : Nat) : State :=
  if !s.bound ld || s.unbinding.contains ld then s.emit (.completionError ld) else s.emit (.barData ld off (s.barWord ld off))

/-- A host writes 8 bytes of BAR0: a register, a queue's window, or nothing (18 R406). -/
def State.barWrite (s : State) (ld off : Nat) (v : W64) : State :=
  if !s.bound ld || s.unbinding.contains ld then s.emit (.completionError ld)
  else if off < 0x100000 then { s with ldRegs := Tab.put s.ldRegs (ld * 2 ^ 17 + off / 8) v }
  else if off < 0x500000 then s.comes (.queueRegisterWrite ld ((off - 0x100000) / 0x10000) (off % 0x10000) v)
  else s

end Sys2Proof.Machine
end

