-- ==== Sys2Proof/Machine/Census.lean ====
section
/-! DEFINITION. The census network: the root's order, keys at the cores, commits, moves, replies and the combining tree
(08_solicit_and_census R191 to R207). -/

namespace Sys2Proof.Machine

open Host (Outcome)

/-! ### The order (R193) -/

/-- Is the event an item of the census network for a core? -/
def censusEv : Ev → Bool
  | .keyArrival _ _ | .insertCommit _ _ _ | .deleteCommit _ _ _ | .dropCommit _ _ _ => true
  | _ => false

/-- Does a core take no further item from the network now: its die is in debug hold, its spawn queue is full, or an earlier item waits
(R201, R207)? -/
def State.censusHeld (s : State) (core : Nat) : Bool :=
  (s.die (dieOf core)).debugHold || decide (((s.core core).spawns.filter Spawn.ready).length ≥ 128) ||
  s.parked.any fun f => f.dst == core && censusEv f.ev

/-- An item waits before a core, behind those that wait already. -/
def State.censusPark (s : State) (core : Nat) (e : Ev) : State := s.park basePort core e

/-- An item of the root for a core. -/
def State.toCore (s : State) (core : Nat) (e : Ev) : State := s.send .request basePort core e

/-- Cores in scope of a solicit: of the asker's die, or of every die; those of dies without power or declared dead count as heard
(R199, R207). -/
def State.inScope (s : State) (adie scope : Nat) : List Nat :=
  (List.range 256).filter fun c => (scope != 0 || dieOf c == adie) && (s.die (dieOf c)).powered && !(s.die (dieOf c)).dead

/-- Has every core been heard and every responder counted (R205)? -/
def Census.done (c : Census) : Bool := c.unheard.isEmpty && c.owed.isEmpty

/-- A census that is done is completed at the root. -/
def State.censusCheck (s : State) (cen : Nat) : State := match Tab.look s.censuses cen with
  | some c => if c.done then s.send .request basePort basePort (.censusCompletion cen) else s
  | none => s

/-- A solicit is opened: it takes the next number and its key goes to every core in scope; or it waits while 4,096 are open (R193). -/
def State.openCensus (s : State) (it : CensusItem) : State := match it with
  | .solicit fut key arg scope cmb core slot ten at_ cancelled =>
    if s.censuses.length ≥ 4096 then { s with censusWait := s.censusWait ++ [it] }
    else
      let id := s.nextCensus
      let cores := s.inScope (dieOf core) scope
      let c : Census := { num := BitVec.ofNat 24 id, fut := fut, asker := ⟨core, slot⟩, adie := dieOf core, ten := ten, key := key, arg := arg
                          scope := scope, cmb := cmb, core := core, at_ := at_, unheard := cores, owed := [], replies := [], cancelled := cancelled }
      let s := { s with nextCensus := id + 1, censuses := Tab.put s.censuses id c }
      (cores.foldl (fun s k => s.toCore k (.keyArrival k id)) s).censusCheck id
  | _ => s

/-- Does an item for one of two cores stand between the root and them? -/
def State.censusBefore (s : State) (a b : Nat) : Bool :=
  let on (f : Flight) : Bool := censusEv f.ev && (f.dst == a || f.dst == b)
  s.flight.any on || s.parked.any on

/-- The root places an item in the order and sends it on (R193). A move commit changes both its cores in one step, after the items that
stand before it (R197, log entry 23). -/
def State.order (s : State) (it : CensusItem) : State := match it with
  | .solicit _ _ _ _ _ _ _ _ _ _ => s.openCensus it
  | .insert core entry fut => s.toCore core (.insertCommit core entry fut)
  | .delete core entry fut => s.toCore core (.deleteCommit core entry fut)
  | .drop core entry fut => s.toCore core (.dropCommit core entry fut)
  | .move id => match Tab.look s.tmoves id with
    | none => s
    | some m =>
      if s.censusHeld m.core || s.censusHeld m.dcore then s.park basePort basePort (.censusOrder it)
      else if s.censusBefore m.core m.dcore then s.send .request basePort basePort (.censusOrder it)
      else s.later [.moveCommit id]

/-- `CENSUS_ORDER` (R193). -/
def execCensusOrder (s : State) : Outcome State Fault Refusal := match s.ev with
  | some (.censusOrder it) => .next (s.order it)
  | _ => .next s

/-! ### A key at a core (R200, R201) -/

/-- Entries that a census matches, in ascending index: present or departing, of the key and the tenant (R197, R200). -/
def Core.matching (c : Core) (x : Census) : List (Nat × Tile) :=
  c.tiles.filter fun (_, t) => (t.st == .present || t.st == .departing) && t.key == x.key && t.ten == x.ten

/-- The core acts on a key: it says what it owes and starts to spawn. -/
def State.keyComes (s : State) (core cen : Nat) : State :=
  match Tab.look s.censuses cen with
  | none => s
  | some x =>
    let ms := (s.core core).matching x
    if s.censusHeld core then s.censusPark core (.keyArrival core cen)
    else
      let (gone, go) := ms.partition fun (_, t) => t.orphan || s.groupEnded t.nid t.grp
      let x := { x with
        unheard := x.unheard.filter fun k => k != core
        owed := x.owed ++ go.map fun (e, _) => (core, e)
        replies := x.replies ++ gone.map fun (e, _) => (core, e, none) }
      let s := { s with censuses := Tab.put s.censuses cen x }
      let s := s.updCore core fun c => { c with spawns := c.spawns ++ go.map fun (e, t) => { cen := cen, entry := e, tile := t } }
      let s := if go.isEmpty then s
        else if (s.liveIn (clusterOf core)).isEmpty then s.later [.spawn core true]
        else s.updCluster (clusterOf core) fun c => { c with arrived := c.arrived ++ [(0, .spawn core true)] }
      s.censusCheck cen

/-- `KEY_ARRIVAL` (R200). -/
def execKeyArrival (s : State) : Outcome State Fault Refusal := match s.ev with
  | some (.keyArrival core cen) => .next (s.keyComes core cen)
  | _ => .next s

/-! ### Commits (R192, R194, R195) -/

/-- An entry whose group has ended departs for good, and its drop commit goes to the root (R192). -/
def State.orphanTile (s : State) (core e : Nat) (f : FutAt) : State :=
  (s.updCore core fun c => { c with tiles := c.tiles.map fun (k, t) => (k, if k = e then { t with st := .departing, orphan := true } else t) }).send
    .request core basePort (.censusOrder (.drop core e f))

/-- At its place in the order an entry that a `tins` or `tmove` has made becomes present; one whose group has ended departs. Where the group ended
before, its drop commit is on its way already (R192). -/
def State.settleTile (s : State) (core e : Nat) (f : FutAt) : State := match (s.core core).tile? e with
  | none => s
  | some t =>
    if t.fut != f || t.orphan then s
    else if s.groupEnded t.nid t.grp then (s.keepTile core e).orphanTile core e f
    else (s.keepTile core e).setTile core e .present

/-- The status of a directory function that is done (R198). -/
def entryStatus (e : Nat) : W64 := BitVec.ofNat 64 (e * 256)

/-- The entry becomes present and the future resolves. -/
def State.inserted (s : State) (core e : Nat) (f : FutAt) : State :=
  if s.censusHeld core then s.censusPark core (.insertCommit core e f)
  else (s.settleTile core e f).arriveFut core f (entryStatus e)

/-- `INSERT_COMMIT` (R194). -/
def execInsertCommit (s : State) : Outcome State Fault Refusal := match s.ev with
  | some (.insertCommit core e f) => .next (s.inserted core e f)
  | _ => .next s

/-- An entry that departs for a `tdel` or `tmove` becomes free. -/
def State.freeTile (s : State) (core e : Nat) (f : FutAt) : State :=
  if ((s.core core).tile? e).any fun t => t.leave == some f then
    (s.keepTile core e).updCore core fun c => { c with tiles := Tab.del c.tiles e }
  else s

/-- The entry becomes free and the future resolves. -/
def State.deleted (s : State) (core e : Nat) (f : FutAt) : State :=
  if s.censusHeld core then s.censusPark core (.deleteCommit core e f)
  else (s.freeTile core e f).arriveFut core f (entryStatus e)

/-- `DELETE_COMMIT` (R195). -/
def execDeleteCommit (s : State) : Outcome State Fault Refusal := match s.ev with
  | some (.deleteCommit core e f) => .next (s.deleted core e f)
  | _ => .next s

/-- An entry of a group that has ended becomes free. -/
def State.dropped (s : State) (core e : Nat) (f : FutAt) : State :=
  if s.censusHeld core then s.censusPark core (.dropCommit core e f)
  else if ((s.core core).tile? e).any fun t => t.fut == f && t.orphan then
    (s.keepTile core e).updCore core fun c => { c with tiles := Tab.del c.tiles e }
  else s

/-- `DROP_COMMIT` (R192). -/
def execDropCommit (s : State) : Outcome State Fault Refusal := match s.ev with
  | some (.dropCommit core e f) => .next (s.dropped core e f)
  | _ => .next s

/-! ### Moves (R196) -/

/-- The shape of a tile's copy: one run of its length. -/
def moveShape (len soff doff : Nat) : Shape := BitVec.ofNat 1024 (len * 2 ^ 224 + soff * 2 ^ 47 + doff)

/-- The copy of a tile starts in the issuing core's lowest free copy slot, at an admission of the warp (00 R4; log entry 74); while there is none it
waits for a further one. -/
def State.startMove (s : State) (id : Nat) : State :=
  match Tab.look s.tmoves id with
  | none => s
  | some m =>
    let core := s.homeOf m.core m.fut
    let tile := ((s.core m.core).tile? m.entry).bind fun t => if t.leave == some m.fut then some t else none
    match Tab.lowestFree (s.core core).copies 16, tile with
    | some slot, some t =>
      let c : Copy := { fut := m.fut, nid := t.nid, ten := t.ten, shape := moveShape (t.len * 256) t.tpos m.dpos
                        src := (s.core m.core).segs.getD t.tbuf 0, dst := m.dbuf, comp := 0, mcast := false, paced := false
                        t := s.lcycOf core, start := 0, rate := 1, k0 := 0, old := s.mapping core, k := 0, fetching := true, behind := m.behind
                        tmove := some id }
      let s := { s with tmoves := Tab.put s.tmoves id { m with copying := true } }
      (s.updCore core fun x => { x with copies := Tab.put x.copies slot c }).send .request core basePort (.copyChunkTranslate core slot)
    | none, some _ => s.arrive core m.fut.wid (.tmoveCopy id)
    | _, none => s.endMove id 3

/-- `TMOVE_COPY` (R196). -/
def execTmoveCopy (s : State) : Outcome State Fault Refusal := match s.ev with
  | some (.tmoveCopy id) => .next (s.startMove id)
  | _ => .next s

/-- The source entry becomes free, the destination entry present, and the future resolves with the destination's index. -/
def State.moved (s : State) (id : Nat) : State :=
  match Tab.look s.tmoves id with
  | none => s
  | some m =>
    let s := { s with tmoves := Tab.del s.tmoves id }
    let s := (s.freeTile m.core m.entry m.fut).settleTile m.dcore m.dentry m.fut
    s.arriveFut m.core m.fut (entryStatus m.dentry)

/-- `MOVE_COMMIT` (R196, R197). -/
def execMoveCommit (s : State) : Outcome State Fault Refusal := match s.ev with
  | some (.moveCommit id) => .next (s.moved id)
  | _ => .next s

/-! ### Replies (R203, R204) -/

/-- Moves that waited for a responder of their source entry: those that wait for no other begin to copy. -/
def State.moveReplies (s : State) (cen core e : Nat) : State :=
  s.tmoves.foldl (fun s (id, m) =>
    if m.core == core && m.entry == e && m.waits.contains cen then
      let m := { m with waits := m.waits.filter fun k => k != cen }
      let s := { s with tmoves := Tab.put s.tmoves id m }
      if m.waits.isEmpty && !m.copying then s.arrive m.core m.fut.wid (.tmoveCopy id) else s
    else s) s

/-- A reply is counted, once for each responder that is owed. -/
def State.replied (s : State) (cen core e : Nat) (v : Option W64) : State :=
  match Tab.look s.censuses cen with
  | none => s
  | some c =>
    if !c.owed.contains (core, e) then s
    else
      let c := { c with owed := c.owed.filter fun x => x != (core, e), replies := c.replies ++ [(core, e, v)] }
      (({ s with censuses := Tab.put s.censuses cen c }).moveReplies cen core e).censusCheck cen

/-- `REPLY` (R203). -/
def execReply (s : State) : Outcome State Fault Refusal := match s.ev with
  | some (.reply cen core e v) => .next (s.replied cen core e v)
  | _ => .next s

/-! ### The tree (R204, R205) -/

/-- The rounding of the tree's sums: RNE, neither flushed nor saturated. -/
def treeCtl : RCtl := ⟨.rne, false, false⟩

/-- The FP32 minimum or maximum: −0 below +0, the canonical NaN if an operand is a NaN. -/
def treeExtreme (least : Bool) (x y : W64) : W64 :=
  let a := decodeF f32 (fld x 31 0)
  let b := decodeF f32 (fld y 31 0)
  if a.isNan || b.isNan then BitVec.ofNat 64 (nanOf f32)
  else BitVec.ofNat 64 (if (if least then ordF b a else ordF a b) then fld y 31 0 else fld x 31 0)

/-- Two values of one node combined. -/
def treeOp (cmb : Nat) (x y : W64) : W64 := match cmb with
  | 2 => (addOut .f32 treeCtl (BitVec.ofNat 64 (fld x 31 0)) (BitVec.ofNat 64 (fld y 31 0)) 0).1
  | 3 => treeExtreme true x y
  | 4 => treeExtreme false x y
  | 5 => x + y
  | 6 => if x.toInt ≤ y.toInt then x else y
  | 7 => if x.toInt ≥ y.toInt then x else y
  | _ => x

/-- Values of a node's children in ascending order; an absent one passes the other unchanged. -/
def treeNode (cmb : Nat) (l : List (Option W64)) : Option W64 :=
  l.foldl (fun acc v => match acc, v with
    | some x, some y => some (treeOp cmb x y)
    | none, v => v
    | x, none => x) none

/-- What an operation gives when no value is present. -/
def treeIdentity (cmb : Nat) : W64 := match cmb with
  | 3 => 0x7F800000
  | 4 => 0xFF800000
  | 6 => 0x7FFFFFFFFFFFFFFF
  | 7 => 0x8000000000000000
  | _ => 0

/-- The value of a core: its replies in ascending entry index. -/
def Census.coreValue (c : Census) (core : Nat) : Option W64 :=
  treeNode c.cmb ((List.range 128).flatMap fun e => (c.replies.filter fun (k, i, _) => k == core && i == e).map fun (_, _, v) => v)
def Census.clusterValue (c : Census) (cl : Nat) : Option W64 := treeNode c.cmb ((List.range 4).map fun k => c.coreValue (cl * 4 + k))
def Census.dieValue (c : Census) (d : Nat) : Option W64 := treeNode c.cmb ((List.range 4).map fun k => c.clusterValue (d * 4 + k))
def Census.rootValue (c : Census) : Option W64 := treeNode c.cmb ((List.range 16).map c.dieValue)

def Census.failed (c : Census) : Nat := (c.replies.filter fun (_, _, v) => v.isNone).length
def Census.good (c : Census) : Nat := (c.replies.filter fun (_, _, v) => v.isSome).length

/-- The 64 bits of the result block. -/
def Census.block (c : Census) : W64 :=
  let v := c.rootValue.getD (treeIdentity c.cmb)
  if c.cmb = 1 then BitVec.ofNat 64 c.good
  else if 2 ≤ c.cmb ∧ c.cmb ≤ 4 then BitVec.ofNat 64 (fld v 31 0)
  else v

/-- The status word (R205). -/
def Census.status (c : Census) : W64 :=
  BitVec.ofNat 64 (c.failed % 65536 * 2 ^ 48 + c.good % 65536 * 2 ^ 32 + c.num.toNat * 256 + (if c.failed = 0 then 0 else 1))

/-- A census that is done leaves the root: its asker's future resolves unless it was cancelled, and a solicit that waits is opened. -/
def State.completeCensus (s : State) (cen : Nat) : State :=
  match Tab.look s.censuses cen with
  | none => s
  | some c =>
    if !c.done then s
    else
      let s := { s with censuses := Tab.del s.censuses cen }
      let bytes := if c.cmb = 0 then [] else c.at_.zip (leBytes 8 c.block.toNat)
      let s := if c.cancelled then s else (s.intoPath c.core c.fut bytes).arriveFut c.core c.fut c.status (.census c.core bytes)
      match s.censusWait with
      | [] => s
      | it :: rest => ({ s with censusWait := rest }).openCensus it

/-- `CENSUS_COMPLETION` (R205). -/
def execCensusCompletion (s : State) : Outcome State Fault Refusal := match s.ev with
  | some (.censusCompletion cen) => .next (s.completeCensus cen)
  | _ => .next s

end Sys2Proof.Machine
end

