-- ==== Sys2Proof/Machine/Objects.lean ====
section
/-! DEFINITION. Synchronisation objects, group barriers and mailboxes at the base (09_ordering R210 to R217, 15 R351 to R354, R360 to
R363, 04 R111). -/

namespace Sys2Proof.Machine

open Host (Outcome)

/-! ### Synchronisation objects (09 R210, R216; 15 R353, R354) -/

/-- A status word with the object's phase (09 R213). -/
def phaseStatus (q : BitVec 16) (code : Nat) : W64 := BitVec.ofNat 64 (q.toNat * 2 ^ 48 + code)

/-- The place of a warp that is live or pre-empted. -/
def State.placeOf (s : State) (wid : Nat) : Option WarpAt := match s.findWid wid with
  | some (a, _) => some a
  | none => s.saved.findSome? fun g => (g.warps.find? fun (_, w) => w.wid == wid).map Prod.fst

/-- The lock is taken by the warp of a waiter: count is its package core × 16 + slot + 1, and a lost holder is told (09 R210, R216). -/
def State.takeLock (s : State) (o : Nat) (f : FutAt) : State :=
  let x := s.obj o
  let at_ := (s.placeOf f.wid).getD ⟨0, 0⟩
  (s.putObj o { x with count := at_.core * 16 + at_.slot + 1, holder := some f.wid, lost := false }).arriveFut at_.core f
    (BitVec.ofNat 64 (if x.lost then 1 else 0)) (.acquire o)

/-- The object's waiters are looked at again. -/
def State.wakeSoon (s : State) (o : Nat) : State := s.send .request basePort basePort (.acquireWake o)

/-- A release at its object (09 R216). -/
def State.releases (s : State) (o : Nat) (f : FutAt) : State :=
  let x := s.obj o
  if x.md == 1 && x.holder == some f.wid then
    ((s.putObj o { x with count := 0, holder := none }).arriveFut 0 f 0).wakeSoon o
  else if x.md == 2 then
    let x := { x with rels := Tab.put x.rels f.wid x.phase }
    if x.count + 1 ≥ x.expected then
      let x := { x with phase := x.phase + 1, count := 0 }
      ((s.putObj o x).arriveFut 0 f (phaseStatus x.phase 0)).wakeSoon o
    else (s.putObj o { x with count := x.count + 1 }).arriveFut 0 f (phaseStatus x.phase 0)
  else s.arriveFut 0 f (x.refusal 2)

/-- The lines of the bytes counted into the phases that have ended since phase q (09 R226, 15 R354). -/
def Obj.linesSince (x : Obj) (q : BitVec 16) : List Nat :=
  (x.counted.flatMap fun (p, l) => if ((BitVec.ofNat 16 p) - q).toNat < (x.phase - q).toNat then l else []).eraseDups

/-- What the warp acquires whose wait for another phase than q is over: the object's regions; at a byte-count barrier the bytes counted into
the phases that have ended, for `bcwait` those alone (09 R215, R226; 15 R354). -/
def Obj.waitEff (x : Obj) (o : Nat) (bc : Bool) (q : BitVec 16) : ResEff :=
  if x.md == 3 then .flip (if bc then none else some o) (x.linesSince q) else .acquire o

/-- A wait for a phase other than q, of a `bcwait` or of an acquire. -/
def State.phaseWait (s : State) (o : Nat) (bc : Bool) (f : FutAt) (q : BitVec 16) : State :=
  let x := s.obj o
  if x.phase != q then s.arriveFut 0 f (phaseStatus x.phase 0) (x.waitEff o bc q)
  else s.putObj o { x with waiters := x.waiters ++ [(f, some q)], bcs := if bc then x.bcs ++ [f] else x.bcs }

/-- An acquire at its object: the lock when it is free and no one waits before, a barrier by its phase (09 R216). -/
def State.acquireAt (s : State) (o : Nat) (f : FutAt) (q : BitVec 16) : State :=
  let x := s.obj o
  if x.md == 1 then
    if s.gone f.wid then s
    else if x.count = 0 && x.waiters.isEmpty then s.takeLock o f else s.putObj o { x with waiters := x.waiters ++ [(f, none)] }
  else if x.md == 2 then s.phaseWait o false f (Tab.get x.rels q f.wid)
  else if x.md == 3 then s.phaseWait o false f q
  else s.arriveFut 0 f (x.refusal 2)

/-- A byte-count barrier flips once when it has counted enough (09 R216, 15 R353). Bytes that reach beyond
the count of a phase are counted into the next one too (log entry 24). -/
def Obj.flip (x : Obj) : Obj := if x.count ≥ x.expected then
    let rest := x.count - x.expected
    let last := Tab.get x.counted [] x.phase.toNat
    { x with phase := x.phase + 1, count := rest, counted := Tab.put x.counted (x.phase + 1).toNat (if rest = 0 then [] else last) }
  else x

/-- A request reaches its object. -/
def State.objectGets (s : State) : ObjOp → State
  | .rel f o => s.releases o f
  | .acq f o q => s.acquireAt o f q
  | .arm f o e =>
    let x := s.obj o
    if x.md == 3 then
      let x := { x with expected := e }.flip
      ((s.putObj o x).arriveFut 0 f (phaseStatus x.phase 0)).wakeSoon o
    else s.arriveFut 0 f (x.refusal 2)
  | .wait f o q => if (s.obj o).md == 3 then s.phaseWait o true f q else s.arriveFut 0 f ((s.obj o).refusal 2)

/-- `RELEASE_AT_OBJECT` (09 R216). -/
def execReleaseAtObject (s : State) : Outcome State Fault Refusal := match s.ev with
  | some (.releaseAtObject op) => .next (s.objectGets op)
  | _ => .next s

/-- The first waiter of a free lock whose warp has not ended takes it; waiters whose phase has passed resolve (09 R216). -/
def State.wakes (s : State) (o : Nat) : State :=
  let x := s.obj o
  if x.md == 1 then
    if x.count ≠ 0 then s
    else
      let alive := x.waiters.filter fun (f, _) => !s.gone f.wid
      match alive with
      | [] => s.putObj o { x with waiters := [] }
      | (f, _) :: rest => (s.putObj o { x with waiters := rest }).takeLock o f
  else
    let (now, rest) := x.waiters.partition fun (_, q) => q != some x.phase
    now.foldl (fun s (f, q) => s.arriveFut 0 f (phaseStatus x.phase 0) (x.waitEff o (x.bcs.contains f) (q.getD x.phase)))
      (s.putObj o { x with waiters := rest, bcs := x.bcs.filter fun f => rest.any fun (g, _) => g == f })

/-- `ACQUIRE_WAKE` (09 R216). -/
def execAcquireWake (s : State) : Outcome State Fault Refusal := match s.ev with
  | some (.acquireWake o) => .next (s.wakes o)
  | _ => .next s

/-- A copy's bytes are added to a byte-count barrier; an add that the object cannot take is dropped and logged (04 R111, 17 R400). -/
def State.countBytes (s : State) (o n ten : Nat) (lines : List Nat) : State :=
  let x := s.obj o
  if o ≥ 0xFFFF || x.md != 3 || x.ten != some ten then s.log 8 6 o ten 0
  else
    let p := x.phase.toNat
    let counted := if lines.isEmpty then x.counted else Tab.put x.counted p ((Tab.get x.counted [] p ++ lines).eraseDups)
    (s.putObj o { x with count := (x.count + n) % 2 ^ 48, counted := counted }.flip).wakeSoon o

/-- `BYTE_COUNT_ADD` (04 R111). -/
def execByteCountAdd (s : State) : Outcome State Fault Refusal := match s.ev with
  | some (.byteCountAdd o n ten lines) => .next (s.countBytes o n ten lines)
  | _ => .next s

/-! ### Group barriers (15 R351, R352) -/

/-- `GROUP_BARRIER_COMPLETION` (15 R351). -/
def execGroupBarrierCompletion (s : State) : Outcome State Fault Refusal := match s.ev with
  | some (.groupBarrierCompletion nid g) => .next (s.groupComplete nid g)
  | _ => .next s

/-! ### Mailboxes (15 R360 to R363) -/

/-- `MESSAGE_ARRIVAL` (15 R360). -/
def execMessageArrival (s : State) : Outcome State Fault Refusal := match s.ev with
  | some (.messageArrival m) => .next (s.messageComes m)
  | _ => .next s

/-- `POST_ARRIVAL` (15 R360). -/
def execPostArrival (s : State) : Outcome State Fault Refusal := match s.ev with
  | some (.postArrival r) => .next (s.postComes r)
  | _ => .next s

/-- `PROBE_REQUEST` (15 R363). -/
def execProbeRequest (s : State) : Outcome State Fault Refusal := match s.ev with
  | some (.probeRequest r) => .next (s.probeComes r)
  | _ => .next s

/-- `OVERFLOW_TIMEOUT` (15 R362). -/
def execOverflowTimeout (s : State) : Outcome State Fault Refusal := match s.ev with
  | some (.overflowTimeout k) => .next (s.overflowed k)
  | _ => .next s

end Sys2Proof.Machine
end

