-- ==== Sys2Proof/Machine/Time.lean ====
section
/-! DEFINITION. The almanac, leases, the death of a die, recalls and directory errors (02_coherence R45, R49 to R62). -/

namespace Sys2Proof.Machine

open Host (Outcome)

/-! ### Leases (02 R50 to R54) -/

/-- The guard band (R51). -/
def Die.guard (d : Die) : Nat := 8 + (1600 + d.slowest - 1) / d.slowest

/-- The die sends the lease unit its local time and its incarnation number. -/
def State.renewalSent (s : State) (n : Nat) : State :=
  let d := s.die n
  if !d.powered || d.dead then s
  else (s.putDie n { d with nextRenewal := d.almanac + 2 ^ 14 }).send .request (16 * n) basePort (.renewal n d.almanac d.inc)

/-- `RENEWAL_SEND` (R50). -/
def execRenewalSend (s : State) : Outcome State Fault Refusal := match s.ev with
  | some (.renewalSend n) => .next (s.renewalSent n)
  | _ => .next s

/-- Does the lease unit accept a renewal: the first after reset, or one in time of the current incarnation (R50, R54)? -/
def Die.accepts (d : Die) (root : Nat) (inc : BitVec 16) : Bool :=
  d.powered && !d.dead && inc == d.inc && (d.fresh || d.debugHold || decide (root < d.expiry))

/-- A step of the bring-up is complete (19 R421). -/
def State.upTo (s : State) (step : Nat) : State := ({ s with bringUp := step }).emit (.bringUp step none)

/-- The last step of the bring-up is complete once every die that is not fenced holds a lease (19 R421). -/
def State.leasesHeld (s : State) : State :=
  if s.bringUp == 5 && !s.dies.isEmpty && (List.range 16).all fun k => (s.die k).fenced || ((s.die k).powered && !(s.die k).fresh) then s.upTo 6 else s

/-- A renewal reaches the lease unit. -/
def State.renews (s : State) (n t : Nat) (inc : BitVec 16) : State :=
  let d := s.die n
  if d.accepts s.root inc then
    let e := t + 2 ^ 16
    ((s.putDie n { d with expiry := e, fresh := false, slowest := d.mhz }).send .response basePort (16 * n) (.acknowledgement n e)).leasesHeld
  else s.log 7 4 n inc.toNat 0

/-- `RENEWAL` (R50). -/
def execRenewal (s : State) : Outcome State Fault Refusal := match s.ev with
  | some (.renewal n t inc) => .next (s.renews n t inc)
  | _ => .next s

/-- An acknowledgement reaches the die: a later expiry ends a lease stop (R52). -/
def State.acknowledged (s : State) (n e : Nat) : State :=
  let d := s.die n
  if d.dead || e ≤ d.known then s else s.putDie n { d with known := e, leaseStop := false }

/-- `ACKNOWLEDGEMENT` (R52). -/
def execAcknowledgement (s : State) : Outcome State Fault Refusal := match s.ev with
  | some (.acknowledgement n e) => .next (s.acknowledged n e)
  | _ => .next s

/-- Must the die stop now: its almanac has reached the expiry it knows less the guard band (R52)? -/
def Die.mustStop (d : Die) : Bool := d.powered && !d.dead && !d.leaseStop && !d.debugHold && decide (d.known ≤ d.almanac + d.guard)

/-- `LEASE_STOP` (R52). -/
def execLeaseStop (s : State) : Outcome State Fault Refusal := match s.ev with
  | some (.leaseStop n) => .next (if (s.die n).mustStop then s.updDie n fun d => { d with leaseStop := true } else s)
  | _ => .next s

/-- Has the die's lease lapsed at the lease unit (R53)? DESIGN CHOICE (log entry 60): a die out of reset holds no lease until its first renewal
is accepted (R50), and none can lapse. -/
def Die.lapsed (d : Die) (root : Nat) : Bool := d.powered && !d.dead && !d.fresh && !d.debugHold && decide (d.expiry + d.guard ≤ root)

/-! ### Recalls (02 R57, R61) -/

/-- The recall of a sector ends: the missing tokens are regenerated at the home. After a directory error a count that does not come to 512
with one owner poisons the sector (R57, R61). -/
def State.recallEnds (s : State) (sector : Nat) : State :=
  let d := s.dirOf sector
  let s := if d.error && !(d.htok == Config.nTokens && d.hown && !d.extra) then
      (s.setHomePsn sector true).log 5 1 (sliceOf (sector / 4)) 0 (sector * 64)
    else s
  ((s.putDir sector {}).retryInput (sliceOf (sector / 4))).runAllRels

/-- `RECALL_TIMEOUT` (R57, R61). -/
def execRecallTimeout (s : State) : Outcome State Fault Refusal := match s.ev with
  | some (.recallTimeout sector) => .next (
    if !(s.dirOf sector).locked then s
    else if s.recallOpen sector then s.park basePort basePort (.recallTimeout sector)
    else s.recallEnds sector)
  | _ => .next s

/-- `DIRECTORY_ERROR` (R61). -/
def execDirectoryError (s : State) : Outcome State Fault Refusal := match s.ev with
  | some (.directoryError sector hard) => .next (s.dirError sector hard)
  | _ => .next s

/-! ### The death of a die (02 R55 to R58; 03 R80; 08 R192, R207; 16 R374) -/

/-- The die whose core a request comes from. -/
def reqDie (r : HomeReq) : Nat := dieOf (reqCore r)

/-- Does a request that waits at a slice go with its die: a read, which nobody is left to receive? A write or an atomic has reached its home
and is carried out (00 R1, R2). -/
def Waiter.goes (d : Nat) (w : Waiter) : Bool := reqDie w.req == d && w.kind != 2 && w.kind != 3

/-- The requests and the entries of a die's cores that a slice drops. -/
def Slice.dropped (x : Slice) (d : Nat) : List HomeReq :=
  let ofLine (y : Nat × LLine) : List Waiter := y.2.waiters
  (((x.lines.flatMap ofLine ++ x.bypass ++ x.input).filter (Waiter.goes d)).map Waiter.req) ++
    (((x.persist ++ x.persistWait).filter fun p => reqDie p.req == d).map Persist.req)

/-- Those requests leave the slice. -/
def Slice.forget (x : Slice) (d : Nat) : Slice :=
  let alive (l : List Waiter) : List Waiter := l.filter fun w => !w.goes d
  let liveP (l : List Persist) : List Persist := l.filter fun p => reqDie p.req != d
  { x with
    lines := x.lines.map fun (w, l) => (w, { l with waiters := alive l.waiters })
    input := alive x.input, bypass := alive x.bypass, persist := liveP x.persist, persistWait := liveP x.persistWait }

/-- Every slice drops the reads of a dead die that wait there, with a record of each (R59). -/
def State.forgetDie (s : State) (d : Nat) : State :=
  let lost := s.slices.flatMap fun (_, x) => x.dropped d
  let s := lost.foldl (fun s r => s.logStale .request d r.inc (r.line * 256)) s
  let of (x : Slice) : Slice := x.forget d
  { s with slices := s.slices.map fun (k, x) => (k, of x) }

/-- Sectors whose tokens a die's L1s hold, or messages to or from it carry. -/
def State.sectorsOf (s : State) (d : Nat) : List Nat :=
  let ofLine (k : Nat) (l : L1Line) : List Nat := ((List.range 4).filter fun j => (l.sects.getD j {}).tok > 0).map fun j => k * 4 + j
  let held := s.cores.flatMap fun (k, c) => if dieOf k == d then c.l1.flatMap fun (n, l) => ofLine n l else []
  let moving := (s.flight ++ s.parked).filterMap fun f => match f.ev with
    | .tokenTransfer m => if (f.src < 256 && dieOf f.src == d) || (f.dst < 256 && dieOf f.dst == d) then some m.sector else none
    | _ => none
  (held ++ moving).eraseDups

/-- What is left of a core: its SRAM's ways, whose pages are void, and what is fenced. -/
def Core.afterDeath (c : Core) : Core :=
  { nextId := c.nextId, ways := c.ways, fencedWays := c.fencedWays, fenced := c.fenced
    pages := (List.range (c.ways * 4)).map fun p => (p, ⟨0, 0, true, false⟩) }

/-- What is left of a cluster: its clock. -/
def Cluster.afterDeath (c : Cluster) : Cluster := { lcyc := c.lcyc, nextId := c.nextId, nextTask := c.nextTask }

/-- A message that the dead die has sent still comes where a slice or the lease unit judges its incarnation, or as tokens to a live L1
(R50, R57, R59). -/
def Flight.outlives (f : Flight) : Bool := match f.ev with
  | .tokenTransfer _ | .renewal _ _ _ => true
  | _ => 256 ≤ f.dst && f.dst < basePort

/-- Is the message lost with the die: it goes to a core of it, or comes from one and nobody is left to judge it? -/
def Flight.lost (f : Flight) (d : Nat) : Bool :=
  (f.dst < 256 && dieOf f.dst == d) || (f.src < 256 && dieOf f.src == d && !f.outlives)

/-- What an access that was outstanding gives when its data has died: the spec states no value (log entry 7). -/
def lostData (core id n : Nat) : List Byte := (List.range n).map fun k => Config.lostByte ((core * 2 ^ 40 + id) * 512 + k)

/-- The requests of live cores to the SRAM of the dead die's cores end. -/
def State.endRequests (s : State) (d : Nat) : State :=
  let out := s.cores.flatMap fun (core, c) => (c.reqs.filter fun (_, r) => match r.msg.space with
    | .core n => dieOf n == d && dieOf core != d
    | _ => false).map fun (id, r) => (core, id, r.kind)
  out.foldl (fun s (core, id, kind) =>
    s.send .response basePort core (.loadLineArrival core id (if kind = 2 then [] else lostData core id 288) 0)) s

/-- Every core of a die counts as heard, and every reply its responders owe as failed (08 R207). -/
def State.censusesWithout (s : State) (d : Nat) : State :=
  let cut (c : Census) : Census :=
    let (lost, rest) := c.owed.partition fun (k, _) => dieOf k == d
    { c with unheard := c.unheard.filter fun k => dieOf k != d, owed := rest
             replies := c.replies ++ lost.map fun (k, e) => (k, e, none) }
  let touched := s.censuses.filter fun (_, c) => (c.unheard.any fun k => dieOf k == d) || c.owed.any fun (k, _) => dieOf k == d
  let s := { s with censuses := s.censuses.map fun (k, c) => (k, cut c) }
  touched.foldl (fun s (k, c) => ((c.owed.filter fun (k, _) => dieOf k == d).foldl (fun s (x, e) => s.moveReplies k x e) s).censusCheck k) s

/-- Moves of tiles from or to the die end (08 R196). -/
def State.movesWithout (s : State) (d : Nat) : State :=
  (s.tmoves.filter fun (_, m) => dieOf m.core == d || dieOf m.dcore == d).foldl (fun s (id, _) => s.endMove id 3) s

/-- The exit releases that were under way on the die end with it (16 R374). -/
def State.exitsWithout (s : State) (d : Nat) : State :=
  let rs := s.cores.flatMap fun (core, c) => if dieOf core == d then c.rels else []
  rs.foldl (fun s r => match r.act with
    | .exit nid => (s.updNode nid fun n => { n with exits := n.exits - 1 }).nodeDone nid
    | _ => s) s

/-- The warps of the die are killed (16 R374, 17 R389). -/
def State.killOn (s : State) (d : Nat) : State :=
  (s.live.filter fun (a, _) => dieOf a.core == d).foldl (fun s (a, w) =>
    ((s.updNode w.nid fun n => { n with killed := true }).killWarp a)) s

/-- Sectors whose bitmap holds the die are locked and recalled (R57), and those of which it held tokens: no bitmap lacks such a die (R41). -/
def State.lockWithout (s : State) (d : Nat) (held : List Nat) : State :=
  (s.dir.filter fun (k, e) => e.dmask.toNat / 2 ^ d % 2 == 1 || held.contains k).foldl (fun s (sector, _) =>
    (s.putDir sector { s.dirOf sector with locked := true, dmask := (s.dirOf sector).dmask &&& ~~~(1#16 <<< d) }).recall sector) s

/-- The die's new incarnation number reaches every slice and the control die (R57). -/
def State.tellInc (s : State) (d : Nat) : State :=
  let i := (s.die d).inc
  let of (s : State) (n : Nat) : State := s.updSlice n fun x => { x with incs := Tab.put x.incs d i }
  { (List.range 64).foldl of s with controlIncs := Tab.put s.controlIncs d i }

/-- A die dies: its port is fenced, its incarnation number rises, what it held is lost, and the sectors it held are recalled. -/
def State.dieDies (s : State) (d : Nat) : State :=
  if (s.die d).dead then s
  else
    let held := s.sectorsOf d
    let s := (s.updDie d fun x => { x with dead := true, fenced := true, inc := x.inc + 1, leaseStop := false, debugHold := false }).tellInc d
    let mine (k : Nat) : Bool := dieOf k == d
    let s := s.killOn d
    let s := s.exitsWithout d
    let voided (k : Nat) (c : Core) : Core :=
      if mine k then { c with pages := (List.range (c.ways * 4)).map fun p => (p, ⟨0, 0, true, false⟩) } else c
    let s := { s with cores := s.cores.map fun (k, c) => (k, voided k c) }
    let outsOf (x : Nat × Cluster) : List OutWrite := if x.1 / 4 = d then x.2.outs else []
    let s := (s.clusters.flatMap outsOf).foldl State.landOut s
    let s := s.movesWithout d
    let ofCore (k : Nat) (c : Core) : Core := if mine k then c.afterDeath else c
    let ofCluster (k : Nat) (c : Cluster) : Cluster := if k / 4 = d then c.afterDeath else c
    let s := { s with
      cores := s.cores.map fun (k, c) => (k, ofCore k c)
      clusters := s.clusters.map fun (k, c) => (k, ofCluster k c)
      preqs := s.preqs.filter fun p => !mine p.core
      flight := s.flight.filter fun f => !f.lost d
      parked := s.parked.filter fun f => !f.lost d }
    (((s.forgetDie d).endRequests d).censusesWithout d).lockWithout d held

/-- `DECLARED_DEAD` (R53, R57). -/
def execDeclaredDead (s : State) : Outcome State Fault Refusal := match s.ev with
  | some (.declaredDead n) => .next (if (s.die n).lapsed s.root then s.dieDies n else s)
  | _ => .next s

/-- A die comes out of reset: it stands stopped until its first renewal, of its new incarnation, is acknowledged (R50). -/
def State.dieRises (s : State) (n : Nat) : State :=
  (s.updDie n fun d => { d with
    powered := true, dead := false, fenced := false, known := 0, leaseStop := true, fresh := true, debugHold := false, relock := 0
    almanac := max d.almanac (s.root - 4), slowest := d.mhz }).renewalSent n

/-! ### The almanac (R49), and what time brings -/

/-- A local copy of the almanac: within 4 ticks of the root, and never less than it was. The dies are 0 to 15. -/
def copyAt (n root old : Nat) : Nat := max old (root + Config.almanacSkew n root % 9 - 4)

/-- The copies of the 64 slices, the lease unit and the control die. -/
def copiesAt (root : Nat) (old : List Nat) : List Nat := (List.range 66).map fun k => copyAt (16 + k) root (old.getD k 0)

/-- Peers that share a window or a gang with this device (18 R412). -/
def State.peers (s : State) : List Nat :=
  let ofGang (x : Nat × Gang) : List Nat := x.2.peers
  (((s.windows.map fun x => x % 512).filter fun n => 1 ≤ n && n ≤ 255) ++ s.gangs.flatMap ofGang).eraseDups

/-- Base cycles complete at a root time: 8 in 5 ticks (00 R11). -/
def baseCycles (root : Nat) : Nat := root * 8 / 5

/-- A queue side that has a record to give (16 R371, R372). -/
def Queue.offers (q : Queue) : Bool := q.take != q.tail || !q.device.isEmpty

/-- Nodes in the ready pool: accepted and not dispatched (16 R372). -/
def State.poolSize (s : State) : Nat := (s.launches.filter fun n => n.st != .running).length

/-- Does a request's timeout stand still: its core's die, or a die that holds its sectors, is in debug hold (02 R54, 17 R401)? -/
def State.timeoutHeld (s : State) (core : Nat) (r : Req) : Bool :=
  let asked (x : Nat) (k : Nat) : Bool := s.parked.any fun f => aboutTokens x f && f.dst < 256 && dieOf f.dst == k
  (s.die (dieOf core)).debugHold || (reqSectors r.msg).any fun x => (List.range 16).any fun k =>
    (s.die k).debugHold && ((s.dirOf x).dmask.toNat / 2 ^ k % 2 == 1 || (s.holders x).any (fun c => dieOf c == k) || asked x k)

/-- Time that does not count for requests. -/
def State.holdTimeouts (s : State) : State :=
  if s.dies.any fun (_, d) => d.debugHold then
    let of (core : Nat) (r : Req) : Req := if s.timeoutHeld core r then { r with since := r.since + 1 } else r
    { s with cores := s.cores.map fun (k, c) => (k, { c with reqs := c.reqs.map fun (i, r) => (i, of k r) }) }
  else s

/-- Home groups whose warps are all past their pre-emption handlers (17 R395). -/
def State.yieldedGroups (s : State) : List (Nat × Nat) :=
  let gs := (s.live.filter fun (_, w) => w.yielded).map fun (_, w) => (w.nid, s.homeKey w)
  gs.eraseDups.filter fun (n, k) => s.live.all fun (_, w) => !(w.nid == n && s.homeKey w == k) || w.yielded

/-- Gangs whose time runs: the coordinator's, and a peer's record that waits for a place (16 R382). -/
def State.gangsLate (s : State) : List Ev :=
  let a := (s.gangs.filter fun (_, g) => match g.since with
    | some t => decide (s.root ≥ t + 2 ^ 24)
    | none => false).map fun (k, _) => Ev.gangTimeout k
  let b := (s.nodes.filter fun n => n.st == .held && (match n.prepAt with
    | some t => decide (s.root ≥ t + 2 ^ 24)
    | none => false)).map fun n => Ev.prepareDecline (lrGang n.raw)
  a ++ b

/-- Does the record coordinate its gang: it was submitted by `gang`, or its glead bit is 1 (16 R382)? -/
def Node.leads (n : Node) : Bool := lrGang n.raw != 0 && (n.fut.isSome || lrGlead n.raw)

/-- Held gang records that wait for a place, and coordinators that may begin. -/
def State.gangsWaiting (s : State) : List Ev :=
  (s.nodes.filter fun n => n.st == .held && n.preds.isEmpty && (n.prepAt.isSome || n.leads)).map fun n => Ev.prepare (lrGang n.raw)

/-- What becomes due at a tick, in the order in which the base takes it. -/
def State.dueNow (s : State) : List Ev :=
  let dies := s.dies.filter fun (_, d) => d.powered && !d.dead
  (s.mailsLate.map Ev.overflowTimeout) ++
  (s.cores.flatMap fun (k, c) => (c.reqs.filter fun (_, r) => r.late s.root).map fun (i, _) => Ev.requestTimeout k i) ++
  ((dies.filter fun (_, d) => d.nextRenewal ≤ d.almanac).map fun (k, _) => Ev.renewalSend k) ++
  ((dies.filter fun (_, d) => d.mustStop).map fun (k, _) => Ev.leaseStop k) ++
  ((dies.filter fun (_, d) => d.lapsed s.root).map fun (k, _) => Ev.declaredDead k) ++
  (if s.nextBeat ≤ s.root && !s.peers.isEmpty then [Ev.heartbeatSend] else []) ++
  ((s.peers.filter fun p => !s.deadPeers.contains p && (match Tab.look s.beats p with
    | some t => decide (s.root ≥ t + 2 ^ 22)
    | none => false)).map Ev.peerDeath) ++
  s.gangsLate ++ s.gangsWaiting ++
  (s.yieldedGroups.map fun (n, k) => Ev.preEmptionSave n k) ++
  (if s.poolSize < 4096 && s.queues.any fun (_, q) => q.offers then
    List.replicate (baseCycles s.root - baseCycles (s.root - 1)) Ev.acceptance else []) ++
  (if s.controlDie && (!s.saved.isEmpty || s.nodes.any fun n => n.st == .pool) then [Ev.nodePlacement] else [])

/-- One tick: the copies follow, what waited is tried again, and what is due comes. -/
def State.ticks (s : State) : State :=
  let root := s.root + 1
  let ofDie (k : Nat) (d : Die) : Die := if d.powered then { d with almanac := copyAt k root d.almanac } else d
  let s := { s with
    root := root
    almanacs := copiesAt root s.almanacs
    dies := s.dies.map fun (k, d) => (k, ofDie k d)
    flight := s.parked ++ s.flight, parked := [] }
  let s := s.mailTick.holdTimeouts.retryInputs.issueFar.linkTick
  let busy (x : Nat × Slice) : Bool := !x.2.persist.isEmpty || !x.2.persistWait.isEmpty
  let s := (s.slices.filter busy).foldl (fun (s : State) x => s.runPersist x.1) s
  s.later s.dueNow

/-- `ALMANAC_TICK` (R49): the root runs once base field 0 is up. -/
def execAlmanacTick (s : State) : Outcome State Fault Refusal := match s.ev with
  | some .almanacTick => .next (if s.bringUp = 0 then s else s.ticks)
  | _ => .next s

end Sys2Proof.Machine
end

