-- ==== Sys2Proof/Machine/Queues.lean ====
section
/-! DEFINITION. Work queues, the acceptance of launch records, and the end of a node (16_scheduling R367 to R375, 12 R281, 18 R406). -/

namespace Sys2Proof.Machine

open Host (Outcome)

/-! ### The queue windows (R371, 18 R406) -/

/-- A write of a queue's tail: entries up to it are submitted; one that would go back, or past the head, is ignored and logged. -/
def State.tailWritten (s : State) (q : Nat) (v : BitVec 8) : State :=
  let x := s.queue q
  if (v - x.head).toNat < (x.tail - x.head).toNat then s.log 9 5 q (x.ten.getD 0) 0 else s.putQueue q { x with tail := v }

/-- `TAIL` (R371). -/
def execTail (s : State) : Outcome State Fault Refusal := match s.ev with
  | some (.tail q v) => .next (s.tailWritten q v)
  | _ => .next s

/-- 8 bytes of a ring entry written. -/
def setWord (raw : BitVec 512) (k : Nat) (v : W64) : BitVec 512 :=
  BitVec.ofNat 512 (raw.toNat - fld raw (64 * k + 63) (64 * k) * 2 ^ (64 * k) + v.toNat * 2 ^ (64 * k))

/-- A write through a logical device's queue window: an entry, or the tail; dropped and logged unless the queue is of the tenant of the
device's die. -/
def State.queueWritten (s : State) (ld q off : Nat) (v : W64) : State :=
  let x := s.queue q
  if !s.bound ld then s.emit (.completionError ld)
  else if q ≥ 64 || x.ten.isNone || s.ldTenant ld != x.ten then s.log 9 5 q ((s.ldTenant ld).getD 0) 0
  else if off < 0x4000 then
    let e : RingEntry := Tab.get x.ring {} (off / 64)
    s.putQueue q { x with ring := Tab.put x.ring (off / 64) { e with raw := setWord e.raw (off / 8 % 8) v } }
  else if off = 0x4000 then s.tailWritten q (BitVec.ofNat 8 (fld v 7 0))
  else s

/-- `QUEUE_REGISTER_WRITE` (18 R406). -/
def execQueueRegisterWrite (s : State) : Outcome State Fault Refusal := match s.ev with
  | some (.queueRegisterWrite ld q off v) => .next (s.queueWritten ld q off v)
  | _ => .next s

/-! ### What a record names (R367 to R369, R375) -/

/-- Bytes of a tenant's launch space, where all are resident and readable (R369). -/
def State.spaceRead (s : State) (ten root levels va n : Nat) : Option (List Byte) :=
  let parts := (blockHeads va n).map fun q => match s.spaceTr [] ten root levels q with
    | .ok p g => if g.read then
        some ((List.range (min (256 - q % 256) (va + n - q))).map fun k => s.placeByte ⟨p.space, p.addr + k⟩)
      else none
    | _ => none
  if parts.any Option.isNone then none else some (parts.flatMap fun p => p.getD [])

/-- The records of a segment table. -/
def segsOf (b : List Byte) : List (BitVec 256) := (List.range 64).map fun k => BitVec.ofNat 256 (leNat ((b.drop (32 * k)).take 32))

/-- The first segment record that is refused (03 R68). -/
def firstRefused (l : List (BitVec 256)) : Option Nat := (List.range 64).find? fun k => let r := l.getD k 0; brVal r && brRefused r

/-- The header of group g in a group table (R375). -/
def groupHeader (b : List Byte) (g : Nat) : W64 := BitVec.ofNat 64 (leNat ((b.drop (8 * g)).take 8))

/-- The members of a group: the set bits of its bitmap. -/
def groupMembers (b : List Byte) (g : Nat) : List Nat :=
  let m := leNat ((b.drop (2048 + 512 * g)).take 512)
  (List.range 4096).filter fun i => m / 2 ^ i % 2 == 1

/-- The valid groups of a table. -/
def tableGroups (b : List Byte) : List UGroup :=
  ((List.range 252).filter fun g => bit (groupHeader b g) 63).map fun g => ⟨g, bit (groupHeader b g) 62, groupMembers b g⟩

/-- A group table that is refused (R375). -/
def tableBad (b : List Byte) (d c w : Nat) : Bool :=
  let gs := tableGroups b
  let outside (i : Nat) : Bool := i / 256 ≥ d || i / 64 % 4 ≥ c || i % 64 ≥ w
  let counts (i : Nat) : Nat := (gs.filter fun u => u.members.contains i).length
  let homes (i : Nat) : Nat := (gs.filter fun u => u.home && u.members.contains i).length
  ((List.range 252).any fun g => fld (groupHeader b g) 61 0 != 0) || ([252, 253, 254, 255].any fun g => groupHeader b g != 0) ||
  (gs.any fun u => u.members.isEmpty || u.members.any outside) ||
  ((gs.flatMap UGroup.members).eraseDups.any fun i => decide (counts i > 4) || decide (homes i > 1))

/-! ### Refusals (12 R281, R284; R370) -/

/-- Dies on which a record may be placed: of its mask and its tenant (R378). -/
def State.dieSet (s : State) (ten dmask : Nat) : List Nat :=
  (List.range 16).filter fun d => (dmask = 0 || dmask / 2 ^ d % 2 == 1) && Tab.look s.dieTen d == some ten

/-- The argument block in its fields: the first eight words, the program's length, whether the rest is zero (R368). -/
def argWords (b : List Byte) : List W64 := (List.range 8).map fun k => BitVec.ofNat 64 (leNat ((b.drop (8 * k)).take 8))
def argPlen (b : List Byte) : Nat := leNat ((b.drop 64).take 8)

/-- What the base reads when it takes a record: argument block, segment table, group table, each where it is readable. -/
structure Tables where
  args : Option (List Byte)
  segs : Option (List Byte)
  groups : Option (List Byte)
  entry : Option (List Byte)

def State.readTables (s : State) (ten root levels : Nat) (r : LaunchRec) : Tables :=
  { args := s.spaceRead ten root levels (lrAva r) 128
    segs := s.spaceRead ten root levels (lrSva r) 2048
    groups := if lrGva r = 0 then some [] else s.spaceRead ten root levels (lrGva r) 131072
    entry := s.spaceRead ten root levels (lrPva r) 32 }

/-- The lines of memory in which the tables of a record lie, as far as they can be read. -/
def State.tableLines (s : State) (ten root levels : Nat) (r : LaunchRec) : List (Nat × Cls × Bool × Nat) :=
  let of (va n : Nat) : List (Place × Page) := (blockHeads va n).filterMap fun q => match s.spaceTr [] ten root levels q with
    | .ok p g => if g.read then some (p, g) else none
    | _ => none
  linesOf (of (lrAva r) 128 ++ of (lrSva r) 2048 ++ (if lrGva r = 0 then [] else of (lrGva r) 131072) ++ of (lrPva r) 32)

/-- Walker reads in no window that the tables of a record meet, one for each table (01 R20). -/
def State.walksOf (s : State) (ten root levels : Nat) (r : LaunchRec) : List Nat :=
  let of (va n : Nat) : Option Nat := if va + n > 2 ^ (16 + 6 * levels) then none
    else (blockHeads va n).findSome? fun q => s.walkStop [] ten q root levels
  [of (lrAva r) 128, of (lrSva r) 2048, if lrGva r = 0 then none else of (lrGva r) 131072, of (lrPva r) 32].filterMap id

/-- Reason 2: a field that is malformed (12 R281, R368). -/
def fieldsBad (r : LaunchRec) (t : Tables) : Bool :=
  decide (lrRegs r % 8 ≠ 0) || decide (lrRegs r < 8) || decide (lrRegs r > 256) || decide (lrQuota r > 4096) || (match t.args with
    | some b => !imZero8 b 72 56 || decide (argPlen b = 0) || decide (argPlen b % 32 ≠ 0)
    | none => false)
where
  imZero8 (b : List Byte) (a n : Nat) : Bool := ((b.drop a).take n).all fun x => x == 0

/-- Reason 6: what cannot be read, or cannot ever be placed (R370). -/
def State.unplaceable (s : State) (ten : Nat) (r : LaunchRec) (t : Tables) : Bool :=
  let dies := s.dieSet ten (lrDmask r)
  t.args.isNone || t.segs.isNone || t.entry.isNone || (match t.groups with
    | none => true
    | some b => lrGva r != 0 && tableBad b (lrD r) (lrC r) (lrW r)) ||
  (lrQuota r != 0 && decide (lrRegs r * min (lrW r) 16 > lrQuota r)) || decide (lrPages r > 64) ||
  (dies.all fun d => decide (lrIc r * lrC r > s.limits.getD (4 + d) 0)) || decide (dies.length < lrD r)

/-- Reason 7: the tag, and forms that do not go together (R370). -/
def State.tagBad (s : State) (ten : Nat) (r : LaunchRec) (host gang : Bool) : Bool :=
  lrTag r == 0 || (s.launches.any fun n => n.ten == ten && n.tag == lrTag r) ||
  (lrPst r && (lrD r != 1 || lrDmask r == 0 || lrDmask r &&& (lrDmask r - 1) != 0)) ||
  (!host && !gang && lrGang r != 0) || (lrGlead r && lrGang r == 0)

/-- The reason for which a record is refused, the lowest that applies, with the rec field of its status (12 R281, R370). -/
def State.refuses (s : State) (q ten : Nat) (r : LaunchRec) (host gang bad : Bool) (t : Tables) : Option (Nat × Nat) :=
  if lrD r < 1 || lrD r > 16 || lrC r < 1 || lrC r > 4 || lrW r < 1 || lrW r > 64 then some (1, 0)
  else if bad || fieldsBad r t then some (2, 0)
  else if (if host then lrQueue r != q else (s.queue q).ten != some ten) then some (3, 0)
  else match t.segs.bind fun b => firstRefused (segsOf b) with
    | some k => some (4, k)
    | none =>
      if gang && lrGang r == 0 then some (5, 0)
      else if s.unplaceable ten r t then some (6, 0)
      else if s.tagBad ten r host gang then some (7, 0)
      else none

/-! ### Acceptance (R372, R373) -/

/-- A record taken from its queue. -/
structure Taken where
  q : Nat
  ten : Nat
  raw : LaunchRec
  entry : Option Nat
  fut : Option FutAt
  gang : Bool
  /-- the reference to it was malformed (12 R281) -/
  bad : Bool

/-- One record leaves a queue: the host ring and the device list alternate when both hold records, the ring first. -/
def Queue.give (x : Queue) (q : Nat) : Option (Queue × Taken) :=
  let host := x.take != x.tail
  let useHost := host && (x.device.isEmpty || !x.hostLast)
  if useHost then
    let e : RingEntry := Tab.get x.ring {} x.take.toNat
    some ({ x with take := x.take + 1, hostLast := true, ring := Tab.put x.ring x.take.toNat { e with taken := true, ended := false } },
      ⟨q, x.ten.getD 64, e.raw, some x.take.toNat, none, false, false⟩)
  else match x.device with
    | [] => none
    | r :: rest => some (({ x with device := rest, hostLast := false }).refill, ⟨q, r.ten, r.raw, none, some r.fut, r.gang, r.bad⟩)

/-- The queue whose turn it is, of those that hold a record. -/
def State.nextQueueNo (s : State) : Option Nat :=
  ((List.range 64).map fun k => (s.nextQueue + k) % 64).find? fun q => (s.queue q).offers

/-- The node of a record. -/
def State.nodeOf (s : State) (x : Taken) (t : Tables) : Node :=
  let tags := (lrPreds x.raw).filter fun p => p != 0
  { nid := s.nextNid, ten := x.ten, raw := x.raw, args := argWords (t.args.getD []), plen := argPlen (t.args.getD [])
    segs := segsOf (t.segs.getD []), groups := if lrGva x.raw = 0 then [] else tableGroups (t.groups.getD [])
    root := (s.queue x.q).root, levels := (s.queue x.q).levels
    st := if lrGang x.raw = 0 then .pool else .held, ready := none
    preds := (s.launches.filter fun n => n.ten == x.ten && tags.contains n.tag).map Node.nid
    places := [], fut := x.fut, queue := x.q, entry := x.entry }

/-- A record is judged: refused, or a node of the ready pool. -/
def State.judges (s : State) (x : Taken) : State :=
  let q := s.queue x.q
  let t := s.readTables x.ten q.root q.levels x.raw
  let s := (s.walksOf x.ten q.root q.levels x.raw).foldl State.logWalk s
  match s.refuses x.q x.ten x.raw x.entry.isSome x.gang x.bad t with
  | some (reason, rec_) => s.launchEnds x.q x.entry x.fut (launchStatus (lrTag x.raw) rec_ reason 6)
  | none => ({ s with nodes := s.nodes ++ [s.nodeOf x t], nextNid := s.nextNid + 1 }).markReady

/-- The base takes one record while the ready pool has room; it reads the record's tables through their home slices (01 R28), and while one of
them makes it wait it takes none. -/
def State.accepts (s : State) : State :=
  if s.poolSize ≥ 4096 then s
  else match s.nextQueueNo with
    | none => s
    | some q => match (s.queue q).give q with
      | none => s
      | some (x, taken) =>
        let lines := s.tableLines taken.ten x.root x.levels taken.raw
        match s.reachAll lines with
        | none => s.askAhead [] lines
        | some s => (({ s with nextQueue := (q + 1) % 64 }).putQueue q x).judges taken

/-- `ACCEPTANCE` (R372). -/
def execAcceptance (s : State) : Outcome State Fault Refusal := match s.ev with
  | some .acceptance => .next s.accepts
  | _ => .next s

/-! ### Completion (R374) -/

/-- A node whose warps have all gone, with their exit releases, ends: with code 1 where a group was killed or a die died. -/
def State.completes (s : State) (nid : Nat) : State :=
  match s.node? nid with
  | none => s
  | some n =>
    if !n.ended && n.exits = 0 && !n.places.isEmpty && n.all.all fun i => n.gone.contains i then s.endNode nid 0 0 (if n.killed then 1 else 0) else s

/-- `NODE_COMPLETION` (R374). -/
def execNodeCompletion (s : State) : Outcome State Fault Refusal := match s.ev with
  | some (.nodeCompletion nid) => .next (s.completes nid)
  | _ => .next s

end Sys2Proof.Machine
end

