-- ==== Sys2Proof/Machine/Placement.lean ====
section
/-! DEFINITION. Dispatch: the order of nodes, the dies that qualify, the start of warps, the choice of nodes to pre-empt (16_scheduling
R377 to R381). -/

namespace Sys2Proof.Machine

open Host (Outcome)

/-! ### Where a node can stand (R378) -/

/-- Pinned ways that a launch's pages take (R379). -/
def Node.wayCount (n : Node) : Nat := (lrPages n.raw + 3) / 4

/-- Cores of a cluster that are not fenced, in order. -/
def State.soundCores (s : State) (cl : Nat) : List Nat := ((List.range 4).map fun k => cl * 4 + k).filter fun c => !(s.core c).fenced

/-- Cores of a cluster that a node of W warps fills. -/
def coresNeeded (w : Nat) : Nat := (w + 15) / 16

/-- Is a cluster set aside for a node: for a gang or a resume, or, DESIGN CHOICE (log entry 68), for a node that runs while one of its groups is
pre-empted, which resumes where it stood? -/
def State.setAside (s : State) (cl : Nat) (out : List Nat) : Option Node :=
  s.nodes.find? fun n => n.places.contains cl && (n.st == .prepared || (n.st == .running && s.wasSaved n.nid && !out.contains n.nid))

/-- Is a cluster without warps, those of the nodes given apart, and not set aside? -/
def State.clusterFree (s : State) (cl : Nat) (out : List Nat) : Bool :=
  ((s.liveIn cl).all fun (_, w) => out.contains w.nid) && (s.setAside cl out).isNone

/-- Can a core's pool be set to the node's pages: enough sound ways, and no page that a live group holds? -/
def State.canTake (s : State) (n : Node) (core : Nat) (out : List Nat) : Bool :=
  let c := s.core core
  decide (n.wayCount + c.fencedWays.length ≤ Config.nWays) &&
  c.pages.all fun (_, x) => x.void || x.away || out.contains x.nid || s.groupEnded x.nid x.grp

/-- Clusters of a die on which the node can stand. -/
def State.clustersFor (s : State) (n : Node) (d : Nat) (out : List Nat) : List Nat :=
  ((List.range 4).map fun k => d * 4 + k).filter fun cl =>
    let cs := (s.soundCores cl).take (coresNeeded n.W)
    s.clusterFree cl out && decide (cs.length = coresNeeded n.W) && cs.all fun c => s.canTake n c out

/-- The node whose warps a cluster holds, or for which it is set aside. -/
def State.clusterNode (s : State) (cl : Nat) (out : List Nat) : Option Node :=
  match s.setAside cl out with
  | some n => some n
  | none => match (s.liveIn cl).find? fun (_, w) => w.responder.isNone && !out.contains w.nid with
    | some (_, w) => s.node? w.nid
    | none => none

/-- The current of the nodes placed on a die. -/
def State.placedCurrent (s : State) (d : Nat) (out : List Nat) : Nat :=
  (((List.range 4).map fun k => match s.clusterNode (d * 4 + k) out with
    | some n => lrIc n.raw
    | none => 0)).sum

/-- Does a die qualify (R378)? -/
def State.qualifies (s : State) (n : Node) (d : Nat) (out : List Nat) : Bool :=
  let x := s.die d
  x.powered && !x.dead && !x.fenced && !x.debugHold && decide (n.C ≤ (s.clustersFor n d out).length) &&
  decide (s.placedCurrent d out + n.C * lrIc n.raw ≤ s.limits.getD (4 + d) 0)

/-- The clusters that the node takes: the lowest qualifying dies of its set, on each the lowest free clusters. -/
def State.findPlace (s : State) (n : Node) (out blocked : List Nat) : Option (List Nat) :=
  let dies := ((s.dieSet n.ten (lrDmask n.raw)).filter fun d => !blocked.contains d && s.qualifies n d out).take n.D
  if dies.length < n.D then none else some (dies.flatMap fun d => (s.clustersFor n d out).take n.C)

/-! ### The start of a node (R379) -/

/-- The core of a cluster on which a launch warp starts. -/
def State.coreOfWarp (s : State) (cl w : Nat) : Nat := (s.soundCores cl).getD (w / 16) (cl * 4)

/-- L1 lines in the ways that a core's pinned pool takes for a node. -/
def Core.inPool (c : Core) (n : Node) : List Nat := (c.l1.filter fun (_, l) => (c.pinned n.wayCount).contains l.way).map Prod.fst

/-- Do cores that a node takes hold lines in those ways whose tokens cannot leave: their die is stopped (02 R52)? -/
def State.setUpWaits (s : State) (n : Node) (places : List Nat) : Bool := places.any fun cl =>
  !(s.die (cl / 4)).dead && ((s.soundCores cl).take (coresNeeded n.W)).any fun c => !s.answers c && !((s.core c).inPool n).isEmpty

/-- A `csize` of a launch that has left the core changes nothing any more: its future alone remains (03 R89). -/
def State.endCsize (s : State) (core : Nat) : State :=
  let due (r : Rel) : Option (FutAt × Nat) := match r.act with
    | .csize f ways => some (f, ways)
    | _ => none
  let plain (x : Nat × Ev) : Nat × Ev := match x.2 with
    | .futureResolution f v (.csize k n) => (x.1, .futureResolution f v (if k = core then .nothing else .csize k n))
    | _ => x
  let fs := (s.core core).rels.filterMap due
  let s := s.updCore core fun c => { c with rels := c.rels.filter fun r => (due r).isNone }
  let s := if (s.cluster (clusterOf core)).arrived.isEmpty then s
    else s.updCluster (clusterOf core) fun c => { c with arrived := c.arrived.map plain }
  fs.foldl (fun s (f, ways) => s.arriveFut core f (BitVec.ofNat 64 (ways * 256))) s

/-- A core is set up for a node: its pinned pool, its pages, zero and owned by a group, and its buffer records. -/
def State.setUpCore (s : State) (n : Node) (core key : Nat) : State :=
  let s := ((s.core core).inPool n).foldl (fun s l => s.evict core 0 l) (s.endCsize core)
  s.updCore core fun c => { c with
    ways := n.wayCount, pool := [], psn := [], segs := n.segs, start := 0, csize := none
    pages := (List.range (n.wayCount * 4)).map fun p => (p, if p < lrPages n.raw then ⟨n.nid, key, false, false⟩ else ⟨0, 0, true, false⟩) }

/-- A launch warp as it starts (05 R134, 06 R161). -/
def Node.newWarp (n : Node) (wid die clus w : Nat) : Warp :=
  { wid := wid, nid := n.nid, die := die, clus := clus, warp := w, regs := lrRegs n.raw
    ctx := { pc := BitVec.ofNat 64 (lrPva n.raw), sregs := (List.range n.args.length).zip n.args |>.map fun (k, v) => (k + 1, v)
             gens := seedGens (lrSeed n.raw) (memberIx die clus w * 32) } }

/-- A warp takes the lowest free slot of a core, and its registers. -/
def State.admitWarp (s : State) (core : Nat) (w : Warp) : State :=
  match (List.range 16).find? fun k => (s.warp? ⟨core, k⟩).isNone with
  | none => s
  | some slot => (s.putWarp ⟨core, slot⟩ { w with first := (s.cluster (clusterOf core)).base }).updCore core fun c => { c with
      free := c.free - w.regs, held := Tab.put c.held w.nid (Tab.get c.held 0 w.nid + w.regs) }

/-- The clock and the task numbers of a cluster start anew for a launch: the first bundle issues in the next cycle that begins (04 R90, 07
R174). -/
def State.startClock (s : State) (cl numbered : Nat) : State :=
  let under := s.cursor.cluster == cl && s.cursor.phase != 0
  s.updCluster cl fun c => { c with base := if under then c.lcyc + 1 else c.lcyc, taskBase := c.nextTask, nextTask := c.nextTask + numbered }

/-- A node's warps of one cluster start together: every core acquires every region (12 R281). -/
def State.startCluster (s : State) (n : Node) (die clus cl : Nat) : State :=
  if (s.die (cl / 4)).dead then
    -- its die has died since it was set aside: the warps count as killed (R374)
    let gone := (List.range n.W).map fun w => memberIx die clus w
    s.updNode n.nid fun m => { m with killed := true, gone := gone ++ m.gone }
  else
    let s := s.startClock cl 0
    let cores := (s.soundCores cl).take (coresNeeded n.W)
    let s := ((List.range cores.length).zip cores).foldl (fun s (k, c) => s.setUpCore n c (n.homeKey die clus (16 * k))) s
    let s := (List.range n.W).foldl (fun s w =>
      ({ s with nextWid := s.nextWid + 1 }).admitWarp (s.coreOfWarp cl w) (n.newWarp s.nextWid die clus w)) s
    cores.foldl (fun s c => s.acquireOver c 0 fun _ => true) s

/-- A node starts on the clusters given. -/
def State.startNode (s : State) (nid : Nat) (places : List Nat) : State :=
  match s.node? nid with
  | none => s
  | some n =>
    let s := { s.updNode nid fun m => { m with st := .running, places := places, placed := s.nextReady } with nextReady := s.nextReady + 1 }
    let s := ((List.range places.length).zip places).foldl (fun s (k, cl) => s.startCluster n (k / n.C) (k % n.C) cl) s
    s.nodeDone nid

/-! ### The order of nodes (R377, R373, R381) -/

/-- Has a predecessor reached its early-start point, every cluster of it placed (R373)? -/
def State.earlyPast (s : State) (nid : Nat) : Bool := match s.node? nid with
  | none => true
  | some n => n.st == .running && !(s.saved.any fun g => g.nid == nid) && n.all.all fun i => n.gone.contains i ||
      s.live.any fun (_, w) => w.nid == nid && w.responder.isNone && w.ix == i && w.eve

/-- Nodes that are being pre-empted. -/
def State.leavingNodes (s : State) : List Nat :=
  let asked (f : Flight) : Option Nat := match f.ev with
    | .preEmption nid _ => some nid
    | _ => none
  let leaves (x : WarpAt × Warp) : Option Nat := if x.2.preLimit.isSome then some x.2.nid else none
  (s.live.filterMap leaves ++ s.flight.filterMap asked).eraseDups

/-- Is the node ready: to start, or, when none of its groups is being pre-empted any more, to resume? -/
def State.isReady (s : State) (n : Node) : Bool :=
  s.wasSaved n.nid && n.st != .prepared && !s.leavingNodes.contains n.nid || n.st == .pool && n.preds.isEmpty && !s.wasSaved n.nid
/-- Is the node early-ready? -/
def State.isEarly (s : State) (n : Node) : Bool :=
  n.st == .pool && !n.preds.isEmpty && lrEes n.raw && !s.wasSaved n.nid && n.preds.all s.earlyPast

/-- Nodes in the order of a number, the first of equals first. -/
def sortNodes (key : Node → Nat) (l : List Node) : List Node :=
  l.foldl (fun acc x => let (a, b) := acc.partition fun y => decide (key y ≤ key x); a ++ x :: b) []

/-- Ready nodes of a priority: those that were pre-empted, each ahead of all that were there (R380), then the others in the order in which they
became ready. -/
def State.readyOf (s : State) (pri : Nat) : List Node :=
  let l := s.nodes.filter fun n => lrPri n.raw == pri && s.isReady n
  sortNodes (fun n => s.nextReady - n.ready.getD 0) (l.filter fun n => s.wasSaved n.nid) ++ sortNodes (fun n => n.ready.getD 0) (l.filter fun n => !s.wasSaved n.nid)

/-- Nodes in the order in which the command processors consider them: the ready ones, and where none waits the early-ready ones (R377, R381). -/
def State.candidates (s : State) : List Node :=
  let ready := [3, 2, 1, 0].flatMap s.readyOf
  if ready.isEmpty then [3, 2, 1, 0].flatMap fun p => s.nodes.filter fun n => lrPri n.raw == p && s.isEarly n else ready

/-- The dies that a node which cannot be placed keeps later ones off (R377). -/
def State.diesOf (s : State) (n : Node) : List Nat := s.dieSet n.ten (lrDmask n.raw)

/-- The core that receives what stood on a core of a saved group (17 R396). -/
def State.newCore (s : State) (n : Node) (g : Saved) (old : Nat) : Nat :=
  match g.warps.find? fun (a, w) => a.core == old && w.responder.isNone with
  | some (_, w) => s.coreOfWarp (n.clusterAt w.die w.clus) w.warp
  | none => match g.warps.find? fun (_, w) => w.responder.isNone with
    | some (_, w) => s.coreOfWarp (n.clusterAt w.die w.clus) w.warp
    | none => old

/-- Has each core that receives warps of a saved group their slots and registers, within the quota, and its cluster the storage of their rings (05
R137, R140)? -/
def State.groupFits (s : State) (n : Node) (g : Saved) : Bool :=
  let to_ := g.warps.map fun (a, w) => (s.newCore n g a.core, w)
  let rings := g.rings.map fun (k, _, x) => (clusterOf (s.newCore n g k), ringSize x.scalar x.depth)
  ((to_.map Prod.fst).eraseDups.all fun k =>
    let mine := to_.filter fun (j, _) => j == k
    let regs := (mine.map fun (_, w) => w.regs).sum
    decide ((s.liveOn k).length + mine.length ≤ 16) && decide (regs ≤ (s.core k).free) &&
      decide (Tab.get (s.core k).held 0 n.nid + regs ≤ s.quota n.nid)) &&
  (rings.map Prod.fst).eraseDups.all fun cl =>
    decide ((s.cluster cl).ringUsed + ((rings.filter fun (j, _) => j == cl).map Prod.snd).sum ≤ Config.ringUnits)

/-- Where a node can stand now, off the dies that are blocked: a running one resumes a group where it stood, when that fits there. -/
def State.standsAt (s : State) (n : Node) (blocked : List Nat) : Option (List Nat) :=
  if n.st == .running then
    (if (n.places.any fun cl => blocked.contains (cl / 4)) || !(s.saved.any fun g => g.nid == n.nid && s.groupFits n g) then none else some n.places)
  else s.findPlace n [] blocked

/-- The first node that can be placed, with its clusters. One that cannot keeps later ones off the dies of its set. -/
def State.pick (s : State) : List Node → List Nat → Option (Node × List Nat)
  | [], _ => none
  | n :: rest, blocked => match s.standsAt n blocked with
    | some p => some (n, p)
    | none => s.pick rest (blocked ++ s.diesOf n)

/-! ### Pre-emption for priority (R380) -/

/-- Nodes that may be pre-empted for a priority: the lowest priority first, among equals the most recently placed. -/
def State.preemptible (s : State) (pri : Nat) : List Node :=
  let l := s.launches.filter fun n => n.st == .running && lrPre n.raw && decide (lrPri n.raw < pri) && Config.preemptEntry (lrPva n.raw) != 0 &&
    !s.leavingNodes.contains n.nid
  sortNodes (fun n => lrPri n.raw) (sortNodes (fun n => s.nextReady - n.placed) l)

/-- The first choice of k nodes of a list, in its order, that satisfies a test. -/
def pickK (f : List Node → Bool) : List Node → Nat → List Node → Option (List Node)
  | _, 0, acc => if f acc then some acc else none
  | [], _ + 1, _ => none
  | x :: r, k + 1, acc => match pickK f r k (x :: acc) with
    | some l => some l
    | none => pickK f r (k + 1) acc

/-- The fewest nodes whose pre-emption would let a ready node be placed off the dies that are blocked; none where it could not, or where those
that leave suffice. -/
def State.victims (s : State) (n : Node) (blocked : List Nat) : List Node :=
  let going := s.leavingNodes
  if n.st == .running || !s.isReady n || (s.findPlace n going blocked).isSome then []
  else
    let l := s.preemptible (lrPri n.raw)
    ((List.range l.length).findSome? fun k => pickK (fun v => (s.findPlace n (going ++ v.map Node.nid) blocked).isSome) l (k + 1) []).getD []

/-- The nodes to pre-empt for the first node, in order and before one that can be placed, that a pre-emption would help. -/
def State.toPreempt (s : State) : List Node → List Nat → List Node
  | [], _ => []
  | n :: rest, blocked =>
    if (s.standsAt n blocked).isSome then []
    else match s.victims n blocked with
      | [] => s.toPreempt rest (blocked ++ s.diesOf n)
      | v => v

/-- Home groups of a node that have live warps. -/
def State.homeGroups (s : State) (nid : Nat) : List Nat := ((s.live.filter fun (_, w) => w.nid == nid).map fun (_, w) => s.homeKey w).eraseDups

/-- Every home group of a node is to be pre-empted. -/
def State.askPreempt (s : State) (nid : Nat) : State :=
  (s.homeGroups nid).foldl (fun s k => s.send .request basePort basePort (.preEmption nid k)) s

/-- The dispatcher pre-empts for a ready node that cannot be placed (R380). -/
def State.preemptFor (s : State) : State := (s.toPreempt s.candidates []).foldl (fun s n => s.askPreempt n.nid) s

/-- The command processors place one node, or resume one (R377, R378, R380). -/
def State.dispatchNode (s : State) : State :=
  if !s.controlDie then s
  else
    let s := s.preemptFor
    match s.pick s.candidates [] with
    | none => s
    | some (n, p) =>
      if s.wasSaved n.nid then
        (if n.st == .pool then s.updNode n.nid fun m => { m with st := .prepared, places := p } else s).later [.resume n.nid]
      else if s.setUpWaits n p then s
      else s.startNode n.nid p

/-- `NODE_PLACEMENT` (R378). -/
def execNodePlacement (s : State) : Outcome State Fault Refusal := match s.ev with
  | some .nodePlacement => .next s.dispatchNode
  | _ => .next s

end Sys2Proof.Machine
end

