-- ==== Sys2Proof/Machine/Preemption.lean ====
section
/-! DEFINITION. Pre-emption of a home group, its save, and its resume (17_traps_and_preemption R394 to R396). -/

namespace Sys2Proof.Machine

open Host (Outcome)

/-! ### The request and its time limit (R394, R395) -/

/-- The live warps of a home group, and the responders of its tiles. -/
def State.ofGroup (s : State) (nid key : Nat) : List (WarpAt × Warp) := s.live.filter fun (_, w) => w.nid == nid && s.homeKey w == key

/-- Every warp of the group enters the pre-emption handler, whatever it is doing; without a handler the group is killed. -/
def State.preempts (s : State) (nid key : Nat) : State :=
  match s.node? nid with
  | none => s
  | some n =>
    if Config.preemptEntry (lrPva n.raw) = 0 then s.killGroup nid key 0x30
    else (s.ofGroup nid key).foldl (fun s (a, w) =>
      if w.preLimit.isSome then s
      else (s.asyncTrap a .preempt 0x30 0).updWarp a fun w => { w with preLimit := some (s.lcycOf a.core + 2 ^ 20) }) s

/-- `PRE_EMPTION` (R394). -/
def execPreEmption (s : State) : Outcome State Fault Refusal := match s.ev with
  | some (.preEmption nid key) => .next (s.preempts nid key)
  | _ => .next s

/-- Has a warp's time to yield run out (R395)? -/
def State.preLate (s : State) (a : WarpAt) (w : Warp) : Bool := !w.yielded && (match w.preLimit with
  | some t => decide (t ≤ s.lcycOf a.core)
  | none => false)

/-- `PRE_EMPTION_TIMEOUT` (R395). -/
def execPreEmptionTimeout (s : State) : Outcome State Fault Refusal := match s.ev with
  | some (.preEmptionTimeout nid key) =>
    .next (if (s.ofGroup nid key).any fun (a, w) => s.preLate a w then s.killGroup nid key 0x30 else s)
  | _ => .next s

/-! ### The save (R395) -/

/-- Does something of the group still run: a task that has not retired, an arrival that waits for stores? -/
def State.groupRuns (s : State) (wids : List Nat) : Bool :=
  let task (t : Task) : Bool := wids.contains t.wid && (match t.st with
    | .dispatched _ _ _ => true
    | _ => false)
  let rel (r : Rel) : Bool := wids.contains r.wid && (match r.act with
    | .arrive _ _ => true
    | _ => false)
  (s.clusters.any fun (_, c) => c.tasks.any fun (_, t) => task t) || s.cores.any fun (_, c) => c.rels.any rel

/-- The status of a copy that its cluster has not admitted yet. -/
def State.statusArrived (s : State) (core slot : Nat) : Option Nat := (s.cluster (clusterOf core)).arrived.findSome? fun (_, e) => match e with
  | .copyFinalStatus k n code => if k = core ∧ n = slot then some code else none
  | _ => none

/-- Stream bytes of a copy that landing paths hold. -/
def State.bytesUnder (s : State) (c : Copy) : Nat :=
  (s.clusters.map fun (_, x) => (x.outs.map fun o => match o.copy with
    | some p => if p.fut == c.fut then p.len else 0
    | none => 0).sum).sum

/-- A copy of a pre-empted warp ends: with the status that it has reached, else with code 5, the chunks counted that its destinations have accepted.
Its engine arrivals are counted, its future waits for the resume (R395; 04 R112; 15 R346). -/
def State.cancelCopy (s : State) (core slot : Nat) (c : Copy) : State :=
  if c.st != .running then s.endSuspended core slot
  else
    let code := (s.statusArrived core slot).getD 5
    let its (x : Nat × Ev) : Bool := match x.2 with
      | .copyFinalStatus k n _ => k == core && n == slot
      | _ => false
    let n := s.bytesUnder c
    let s := (s.updCluster (clusterOf core) fun x => { x with arrived := x.arrived.filter fun y => !its y }).updCopy core slot fun c =>
      { c with landed := c.landed + n }
    (s.copyEnds core slot code fun s f v => (s.arriveFut core f v).resolved core f).endSuspended core slot

/-- What a warp has triggered ends: copies, tag waits, queued and suspended tasks, receives that nothing has matched (R395). -/
def State.cancelAll (s : State) (a : WarpAt) (w : Warp) : State :=
  let cl := clusterOf a.core
  let s := ((s.core a.core).copies.filter fun (_, c) => c.fut.wid == w.wid).foldl (fun s (k, c) => s.cancelCopy a.core k c) s
  let waits := (s.core a.core).tagWaits.filter fun (f, _, _) => f.wid == w.wid
  let s := s.updCore a.core fun c => { c with tagWaits := c.tagWaits.filter fun (f, _, _) => f.wid != w.wid }
  let s := waits.foldl (fun s (f, m, _) => s.arriveFut a.core f ((s.core a.core).ctag &&& m)) s
  let tasks := (s.cluster cl).tasks.filter fun (_, t) => t.wid == w.wid
  let s := s.updCluster cl fun c => { c with tasks := c.tasks.filter fun (_, t) => t.wid != w.wid }
  let s := tasks.foldl (fun s (q, t) => if t.st == .queued then s.arriveFut a.core t.fut (taskStatus t.row0 t.xf 0 q t.eng 5) else s) s
  let mine (r : RecvRec) : Bool := r.fut.wid == w.wid
  let posts := (s.mails.flatMap fun (_, x) => x.posts.filter mine) ++ s.flight.filterMap fun f => match f.ev with
    | .postArrival r => if mine r && !r.cancel then some r else none
    | _ => none
  let onWay (f : Flight) : Bool := match f.ev with
    | .postArrival r => mine r
    | _ => false
  let without (x : Mail) : Mail := { x with posts := x.posts.filter fun r => !mine r }
  let s := { s with mails := s.mails.map fun (k, x) => (k, without x), flight := s.flight.filter fun f => !onWay f }
  let s := s.updCluster cl fun c => { c with posts := c.posts - posts.length }
  posts.foldl (fun s r => s.arriveFut a.core r.fut 5) s

/-- Resolutions of pre-empted warps that have arrived with an effect on their core: the effect takes place now (14 R323, 15 R359). -/
def State.settleArrived (s : State) (cl : Nat) (wids : List Nat) : State :=
  let mine := (s.cluster cl).arrived.filter fun (i, _) => wids.contains i
  let posts := (mine.filter fun (_, e) => match e with
    | .futureResolution _ _ (.block _ _ true) => true
    | _ => false).length
  let plain (x : Nat × Ev) : Nat × Ev := if !wids.contains x.1 then x else match x.2 with
    | .futureResolution f v (.block k b _) => (x.1, .futureResolution f v (.block k b false))
    | .futureResolution f v (.csize _ _) => (x.1, .futureResolution f v .nothing)
    | _ => x
  let pinned (o : OutWrite) : Bool := match o.pinned with
    | some f => wids.contains f.wid
    | none => false
  let s := s.updCluster cl fun c => { c with
    posts := c.posts - posts, arrived := c.arrived.map plain, outs := c.outs.filter fun o => !pinned o }
  mine.foldl (fun s (_, e) => match e with
    | .futureResolution _ _ (.csize k n) => s.setWays k n
    | _ => s) s

/-- The engine arrivals of a cluster whose futures have resolved are counted. -/
def State.countEngines (s : State) (cl : Nat) : State :=
  (List.range 4).foldl (fun s k => ((s.core (cl * 4 + k)).enginesDue).foldl (fun s (b, e) => s.engineArrives (cl * 4 + k) b e) s) s

/-- Tasks numbered so far in each launch cluster of a node (07 R174). -/
def State.tasksNumbered (s : State) (n : Node) : Tab Nat :=
  ((List.range n.places.length).zip n.places).map fun (k, cl) =>
    (k / n.C * 4 + k % n.C, (s.cluster cl).nextTask - (s.cluster cl).taskBase)

/-- The base saves a group all of whose warps have yielded, and frees its slots, registers and pages; the node is ready ahead of all others of its
priority (16 R380). -/
def State.saveGroup (s : State) (nid key : Nat) : State :=
  let mine := s.ofGroup nid key
  let wids := mine.map fun (_, w) => w.wid
  if mine.isEmpty || !(mine.all fun (_, w) => w.yielded) || s.groupRuns wids then s
  else match s.node? nid with
    | none => s
    | some n =>
      let s := mine.foldl (fun s (a, w) => s.cancelAll a w) s
      let homes := (mine.map fun (a, _) => clusterOf a.core).eraseDups
      let s := homes.foldl (fun s cl => (s.settleArrived cl wids).countEngines cl) s
      let arrivedOf (c : Cluster) : List (Nat × Ev) := c.arrived.filter fun (i, _) => wids.contains i
      let g : Saved := { nid := nid, grp := key, warps := (mine.map fun (a, _) => (a, (s.warp? a).getD { wid := 0, nid := 0, die := 0, clus := 0, warp := 0 }))
                         bars := [], rings := [], arrived := s.clusters.flatMap fun (_, c) => arrivedOf c, tasks := s.tasksNumbered n }
      let rest (c : Cluster) : Cluster := { c with arrived := c.arrived.filter fun (i, _) => !wids.contains i }
      let away (x : PoolPage) : PoolPage := if x.nid == nid && x.grp == key then { x with away := true } else x
      let ofCore (c : Core) : Core := { c with pages := c.pages.map fun (p, x) => (p, away x) }
      let s := { s with
        saved := s.saved ++ [g]
        clusters := s.clusters.map fun (k, c) => (k, rest c)
        cores := s.cores.map fun (k, c) => (k, ofCore c) }
      let s := mine.foldl (fun s (a, w) => s.dropWarp a w) s
      ({ s.updNode nid fun m => { m with ready := some s.nextReady } with nextReady := s.nextReady + 1 }).awayCheck nid

/-- `PRE_EMPTION_SAVE` (R395). -/
def execPreEmptionSave (s : State) : Outcome State Fault Refusal := match s.ev with
  | some (.preEmptionSave nid key) => .next (s.saveGroup nid key)
  | _ => .next s

/-! ### The resume (R396) -/

/-- A saved warp enters its resume handler, to go on at its saved program counter; its vector registers and its accumulator window are those of a
warp that is placed (05 R134, 07 R185; log entry 43). -/
def State.resumed (s : State) (w : Warp) : Warp :=
  let w := { w.leave with yielded := false, preLimit := none, units := [], vregs := [], base := 0, limit := Config.accRows }
  let ofPort (p : Port) : Port := p.commit
  let w := { w with ctx := { w.ctx with ports := w.ctx.ports.map fun (u, p) => (u, ofPort p) } }
  w.enter (s.handlerEntry w .resume) ⟨.resume, 0x31, 0, w.ctx.pc⟩

/-- The clusters of a wholly pre-empted node are set up anew, without warps: on each core that receives warps the pages are allocated to the home
group of the lowest of them (16 R379), which takes them when it is restored. -/
def State.setUpAgain (s : State) (n : Node) (gs : List Saved) (tasks : Tab Nat) : State :=
  let ws := gs.flatMap fun g => (g.warps.filter fun (_, w) => w.responder.isNone).map Prod.snd
  ((List.range n.places.length).zip n.places).foldl (fun s (k, cl) =>
    let die := k / n.C
    let clus := k % n.C
    let s := s.startClock cl (Tab.get tasks 0 (die * 4 + clus))
    (s.soundCores cl).foldl (fun s c =>
      match (List.range n.W).find? fun j => s.coreOfWarp cl j == c && ws.any fun w => w.die == die && w.clus == clus && w.warp == j with
      | none => s
      | some j =>
        let aside (x : PoolPage) : PoolPage := if x.void then x else { x with away := true }
        (s.setUpCore n c (n.homeKey die clus j)).updCore c fun y => { y with pages := y.pages.map fun (p, x) => (p, aside x) }) s) s

/-- The pinned pages of a group that resumes where it stood: resident again, and zero. -/
def State.pagesBack (s : State) (nid key : Nat) : State :=
  let mine (x : PoolPage) : Bool := x.nid == nid && x.grp == key && x.away
  let ofCore (c : Core) : Core :=
    let ps := (c.pages.filter fun (_, x) => mine x).map Prod.fst
    if ps.isEmpty then c
    else { c with
      pages := c.pages.map fun (p, x) => (p, if mine x then { x with away := false } else x)
      pool := c.pool.filter fun (a, _) => !ps.contains (a / 65536)
      psn := c.psn.filter fun b => !ps.contains (b / 1024) }
  { s with cores := s.cores.map fun (k, c) => (k, ofCore c) }

/-- One tile entry is re-homed: to the same index on the core that now holds the group's warps, with the spawns that wait for it, the move under way
and what its responders owe (R396 step 3). DESIGN CHOICE (log entry 43): to the lowest free index where another tile holds the same one. -/
def State.rehome (s : State) (old new e : Nat) (t : Tile) : State :=
  if old = new then s
  else
    let e' := if ((s.core new).tile? e).isNone then e else (Tab.lowestFree (s.core new).tiles 128).getD e
    let mine (x : Spawn) : Bool := x.entry == e && x.tile.nid == t.nid && x.tile.grp == t.grp
    let moved := ((s.core old).spawns.filter mine).map fun x => { x with entry := e' }
    let view := Tab.look (s.core old).oldTiles e
    let s := s.updCore old fun c => { c with
      tiles := Tab.del c.tiles e, oldTiles := Tab.del c.oldTiles e, spawns := c.spawns.filter fun x => !mine x }
    let s := s.updCore new fun c => { c with
      tiles := Tab.put c.tiles e' t, spawns := c.spawns ++ moved
      oldTiles := match view with
        | some v => Tab.put c.oldTiles e' v
        | none => c.oldTiles }
    let ofMove (m : TMove) : TMove :=
      let m := if m.core = old && m.entry = e && t.leave == some m.fut then { m with core := new, entry := e' } else m
      if m.dcore = old && m.dentry = e && t.fut == m.fut then { m with dcore := new, dentry := e' } else m
    let owe (x : Nat × Nat) : Nat × Nat := if x = (old, e) then (new, e') else x
    let ofCensus (c : Census) : Census := { c with owed := c.owed.map owe }
    let ofWarp (w : Warp) : Warp := match w.responder with
      | some r => if r.entry = e && w.nid == t.nid && r.grp == t.grp then { w with responder := some { r with entry := e' } } else w
      | none => w
    let ofSaved (g : Saved) : Saved := { g with warps := g.warps.map fun (a, w) => (a, if a.core = old then ofWarp w else w) }
    { s with censuses := s.censuses.map fun (k, c) => (k, ofCensus c), saved := s.saved.map ofSaved
             tmoves := s.tmoves.map fun (k, m) => (k, ofMove m) }

/-- The tile entries of a saved group, with their cores. -/
def State.groupTiles (s : State) (g : Saved) : List (Nat × Nat × Tile) :=
  s.cores.flatMap fun (k, c) => (c.tiles.filter fun (_, t) => t.nid == g.nid && t.grp == g.grp).map fun (e, t) => (k, e, t)

/-- A saved group is restored on the cores that its node now has. -/
def State.restoreGroup (s : State) (n : Node) (g : Saved) : State :=
  let s := s.pagesBack g.nid g.grp
  let s := g.warps.foldl (fun s (a, w) => s.admitWarp (s.newCore n g a.core) (s.resumed w)) s
  let s := g.bars.foldl (fun s (k, b, x) => s.updCore (s.newCore n g k) fun c => { c with bars := Tab.put c.bars b x }) s
  let s := g.rings.foldl (fun s (k, i, x) =>
    let c := s.newCore n g k
    (s.updCore c fun y => { y with rings := Tab.put y.rings i x }).updCluster (clusterOf c) fun y =>
      { y with ringUsed := y.ringUsed + ringSize x.scalar x.depth }) s
  let s := ((g.warps.map fun (a, _) => s.newCore n g a.core).eraseDups).foldl (fun s k => s.updCore k fun c => { c with start := 0 }) s
  -- what the cores hold again is no longer saved with the groups that stood there too
  let back (k : Nat) : Bool := g.warps.any fun (a, w) => a.core == k && w.responder.isNone
  let rest (x : Saved) : Saved := if x.nid == g.nid then
      { x with bars := x.bars.filter fun (k, _, _) => !back k, rings := x.rings.filter fun (k, _, _) => !back k } else x
  let s := { s with saved := (s.saved.filter fun (x : Saved) => !(x.nid == g.nid && x.grp == g.grp)).map rest }
  let s := g.arrived.foldl (fun s (i, e) => s.arrive 0 i e) s
  s.mailResumes (mailKey g.nid g.grp)

/-- Tasks numbered by the time of the last save, by launch cluster (07 R174). -/
def mostTasks (gs : List Saved) : Tab Nat :=
  (gs.flatMap Saved.tasks).foldl (fun t (k, n) => Tab.put t k (max n (Tab.get t 0 k))) []

/-- A pre-empted node resumes: its groups are restored, each when it fits where the node stands, and what waited for them goes on. While census items
stand before the cores of its tiles, or tokens cannot leave its cores, the resume waits. -/
def State.resumes (s : State) (nid : Nat) : State :=
  let gs := s.saved.filter fun g => g.nid == nid
  match s.node? nid with
  | none => s
  | some n =>
    if gs.isEmpty || n.st == .pool then s
    else
      let tiles := gs.flatMap fun g => (s.groupTiles g).map fun (k, e, t) => (k, s.newCore n g k, e, t)
      if (tiles.any fun (k, new, _, _) => k != new && s.censusBefore k new) || (n.st == .prepared && s.setUpWaits n n.places) then
        s.park basePort basePort (.resume nid)
      else
        let s := if n.st == .prepared then s.setUpAgain n gs (mostTasks gs) else s
        let s := tiles.foldl (fun s (k, new, e, t) => s.rehome k new e t) s
        let s := (s.saved.filter fun g => g.nid == nid).foldl (fun s g => if s.groupFits n g then s.restoreGroup n g else s) s
        let s := { s.updNode nid fun m => { m with st := .running, placed := s.nextReady } with nextReady := s.nextReady + 1 }
        (s.nodeDone nid).checkPreqs

/-- `RESUME` (R396). -/
def execResume (s : State) : Outcome State Fault Refusal := match s.ev with
  | some (.resume nid) => .next (s.resumes nid)
  | _ => .next s

end Sys2Proof.Machine
end

