-- ==== Sys2Proof/Machine/Gangs.lean ====
section
/-! DEFINITION. Gang launches across devices: prepare, commit, abort (16_scheduling R382, R383; 17 R397). -/

namespace Sys2Proof.Machine

open Host (Outcome)

def State.gang (s : State) (id : Nat) : Gang := Tab.get s.gangs {} id
def State.putGang (s : State) (id : Nat) (g : Gang) : State := { s with gangs := Tab.put s.gangs id g }

/-- The record of a gang that this device holds or has prepared. -/
def State.gangNode (s : State) (id : Nat) : Option Node :=
  s.nodes.find? fun n => lrGang n.raw == id && id != 0 && (n.st == .held || n.st == .prepared)

/-- When every peer has acknowledged and this device has placed its own record, the coordinator commits. -/
def State.commitCheck (s : State) (id : Nat) : State :=
  let g := s.gang id
  let own := match s.gangNode id with
    | some n => n.st == .prepared && g.coord == some n.nid
    | none => false
  if own && g.peers.all fun p => g.acked.contains p then s.send .request basePort basePort (.commit id) else s

/-- The dies that some nodes, in their order, keep a later one off: those of its set where a node cannot be placed, those where it will stand
where it can. -/
def State.keptBy (s : State) : List Node → List Nat → List Nat
  | [], b => b
  | m :: r, b => s.keptBy r (b ++ match s.standsAt m b with
    | some p => p.map fun cl => cl / 4
    | none => s.diesOf m)

/-- The dies that the ready nodes before a held record keep it off (R377). -/
def State.blockedFor (s : State) (n : Node) : List Nat :=
  s.keptBy (s.candidates.filter fun m => s.isReady m && (decide (lrPri m.raw > lrPri n.raw) ||
    lrPri m.raw == lrPri n.raw && (s.wasSaved m.nid || decide (m.ready.getD 0 < n.ready.getD 0)))) []

/-- The device places its held record without starting a warp, and acknowledges; while it cannot, the record waits. -/
def State.placeHeld (s : State) (id : Nat) (n : Node) : State :=
  match (if s.controlDie && n.preds.isEmpty then s.findPlace n [] (s.blockedFor n) else none) with
  | none => s
  | some p =>
    let s := s.updNode n.nid fun m => { m with st := .prepared, places := p }
    if (s.gang id).coord == some n.nid then s.commitCheck id else s.emit (.gang id gAck)

/-- Prepare, from the coordinator's device or, at the coordinator's own, when its record may begin (R382). -/
def State.prepares (s : State) (id : Nat) : State :=
  match s.nodes.find? fun n => lrGang n.raw == id && id != 0 && n.st == .held with
  | none => s.emit (.gang id gDecline)
  | some n =>
    let g := s.gang id
    let s := if n.leads && g.coord.isNone then
        (s.putGang id { g with coord := some n.nid, acked := [], since := some s.root }).emit (.gang id gPrepare)
      else s
    let s := s.updNode n.nid fun m => { m with prepAt := some (m.prepAt.getD s.root) }
    s.placeHeld id n

/-- `PREPARE` (R382). -/
def execPrepare (s : State) : Outcome State Fault Refusal := match s.ev with
  | some (.prepare id) => .next (s.prepares id)
  | _ => .next s

/-- The device starts the warps of its record, once tokens can leave the ways that it takes (02 R52); the coordinator tells its peers first. -/
def State.commits (s : State) (id : Nat) : State :=
  match s.gangNode id with
  | none => s
  | some n =>
    if n.st != .prepared then s
    else if s.setUpWaits n n.places then s.park basePort basePort (.commit id)
    else
      let g := s.gang id
      let s := if g.coord == some n.nid then s.emit (.gang id gCommit) else s
      (s.putGang id { g with coord := none, acked := [], since := none, committed := true }).startNode n.nid n.places

/-- `COMMIT` (R382). -/
def execCommit (s : State) : Outcome State Fault Refusal := match s.ev with
  | some (.commit id) => .next (s.commits id)
  | _ => .next s

/-- The device frees what it placed and ends its record with code 1; a coordinator tells its peers (R382, 12 R284). -/
def State.aborts (s : State) (id : Nat) : State :=
  match s.gangNode id with
  | none => s
  | some n =>
    let s := if (s.gang id).coord == some n.nid then (s.emit (.gang id gAbort)).gangIdle id else s
    s.endNode n.nid 0 0 1

/-- `ABORT` (R382). -/
def execAbort (s : State) : Outcome State Fault Refusal := match s.ev with
  | some (.abort id) => .next (s.aborts id)
  | _ => .next s

/-- `GANG_TIMEOUT` (R382): a coordinator that waits 2^24 ticks for its peers aborts. -/
def execGangTimeout (s : State) : Outcome State Fault Refusal := match s.ev with
  | some (.gangTimeout id) => .next (match (s.gang id).since with
    | some t => if s.root ≥ t + 2 ^ 24 then s.aborts id else s
    | none => s)
  | _ => .next s

/-- A device that has not placed its record within 2^24 ticks of prepare declines; a coordinator's own decline aborts. -/
def State.declines (s : State) (id : Nat) : State :=
  match s.nodes.find? fun n => lrGang n.raw == id && id != 0 && n.st == .held && n.prepAt.isSome with
  | none => s
  | some n =>
    if s.root < n.prepAt.getD s.root + 2 ^ 24 then s
    else if (s.gang id).coord == some n.nid then s.aborts id
    else (s.updNode n.nid fun m => { m with prepAt := none }).emit (.gang id gDecline)

/-- `PREPARE_DECLINE` (R382). -/
def execPrepareDecline (s : State) : Outcome State Fault Refusal := match s.ev with
  | some (.prepareDecline id) => .next (s.declines id)
  | _ => .next s

/-- `HELD_RECORD_REMOVAL` (R383): a held record that has received no prepare leaves the ready pool, with code 5. -/
def execHeldRecordRemoval (s : State) : Outcome State Fault Refusal := match s.ev with
  | some (.heldRecordRemoval nid) => .next (match s.node? nid with
    | some n => if n.st == .held && n.prepAt.isNone then s.endNode nid 0 0 5 else s
    | none => s)
  | _ => .next s

/-- The home groups of a node that are pre-empted at this moment: saved, or on their way to it (17 R395, R397). -/
def State.groupsAway (s : State) (nid : Nat) : List Nat :=
  let stored := (s.saved.filter fun g => g.nid == nid).map Saved.grp
  let going := (s.live.filter fun (_, w) => w.nid == nid && w.responder.isNone && w.preLimit.isSome).map fun (_, w) => s.homeKey w
  (stored ++ going).eraseDups

/-- The gang-abort trap: every live warp of the gang's node takes it; groups that are pre-empted are killed, and a warp without a fault
handler has its group killed when the trap is entered (R383, 17 R397). -/
def State.gangAborts (s : State) (id : Nat) : State :=
  let ns := s.nodes.filter fun n => lrGang n.raw == id && id != 0 && (n.st == .running || s.wasSaved n.nid)
  ns.foldl (fun s n =>
    let s := s.updNode n.nid fun m => { m with killed := true }
    let s := (s.groupsAway n.nid).foldl (fun s k => s.killGroup n.nid k 0x32) s
    (s.live.filter fun (_, w) => w.nid == n.nid).foldl (fun s (a, _) => s.asyncTrap a .gangAbort 0x32 (BitVec.ofNat 64 id)) s) s

/-- `GANG_ABORT` (17 R397). -/
def execGangAbort (s : State) : Outcome State Fault Refusal := match s.ev with
  | some (.gangAbort id) => .next (s.gangAborts id)
  | _ => .next s

end Sys2Proof.Machine
end

