-- ==== Sys2Proof/Machine/Peers.lean ====
section
/-! DEFINITION. Peer packages: heartbeats and the death of a peer, vendor-defined messages, atomics from peers (18_host_and_fabric R409
to R412; 16 R382, R383). -/

namespace Sys2Proof.Machine

open Host (Outcome)

/-! ### Heartbeats (R412) -/

/-- A heartbeat goes to every peer that is not dead; one from which none has come is counted from now. -/
def State.beatsOut (s : State) : State :=
  let live := s.peers.filter fun p => !s.deadPeers.contains p
  let s := live.foldl (fun s p => s.emit (.beat p)) s
  let start (t : Tab Nat) (p : Nat) : Tab Nat := if (Tab.look t p).isSome then t else Tab.put t p s.root
  { s with nextBeat := s.root + 2 ^ 20, beats := live.foldl start s.beats }

/-- `HEARTBEAT_SEND` (R412): every 2^20 ticks. -/
def execHeartbeatSend (s : State) : Outcome State Fault Refusal := match s.ev with
  | some .heartbeatSend => .next (if s.nextBeat ≤ s.root then s.beatsOut else s)
  | _ => .next s

/-- `HEARTBEAT` (R412). -/
def execHeartbeat (s : State) : Outcome State Fault Refusal := match s.ev with
  | some (.heartbeat p) => .next (if s.deadPeers.contains p then s else { s with beats := Tab.put s.beats p s.root })
  | _ => .next s

/-- Has a peer answered no heartbeat for 2^22 ticks? -/
def State.silent (s : State) (p : Nat) : Bool := match Tab.look s.beats p with
  | some t => decide (s.root ≥ t + 2 ^ 22)
  | none => false

/-- A peer is declared dead: sends that it has not disposed of resolve with code 3, reads of its window that wait give zero with poison, and the warps of its committed gangs take the
gang-abort trap (R412, 16 R383). -/
def State.peerDies (s : State) (p : Nat) : State :=
  let (lost, rest) := s.peerSends.partition fun (d, _) => d == p
  let (gone, others) := s.farWait.partition fun x => windowOf (x.req.line * 256) == some p
  let s := { s with deadPeers := p :: s.deadPeers, peerSends := rest, farWait := others }
  let s := gone.foldl State.farDone s
  let s := lost.foldl (fun s (_, f) => s.arriveFut 0 f 3) s
  let gs := (s.gangs.filter fun (_, g) => g.committed && g.peers.contains p).map Prod.fst
  gs.foldl (fun s id => s.send .request basePort basePort (.gangAbort id)) s

/-- `PEER_DEATH` (R412). -/
def execPeerDeath (s : State) : Outcome State Fault Refusal := match s.ev with
  | some (.peerDeath p) => .next (if s.silent p && !s.deadPeers.contains p then s.peerDies p else s)
  | _ => .next s

/-! ### Vendor-defined messages (R411) -/

/-- The disposition of a message of our own comes back: its code stands in the tag. -/
def State.disposed (s : State) (m : MsgRec) (f : FutAt) : State :=
  if s.peerSends.any fun (d, g) => d == m.sdev && g == f then
    ({ s with peerSends := s.peerSends.filter fun (_, g) => g != f }).arriveFut 0 f (BitVec.ofNat 64 m.tag.toNat)
  else s

/-- A peer acknowledges or declines the prepare of a gang (16 R382). -/
def State.gangAnswer (s : State) (peer id : Nat) (declined : Bool) : State :=
  let g := s.gang id
  if g.coord.isNone || !g.peers.contains peer then s
  else if declined then s.send .request basePort basePort (.abort id)
  else (s.putGang id { g with acked := (peer :: g.acked).eraseDups }).commitCheck id

/-- A message of a peer's warp reaches the launch that its node tag names, of a tenant that may exchange messages with the peer; that of a launch
which is pre-empted waits at the mailbox (15 R362). -/
def State.peerSpeaks (s : State) (m : MsgRec) : State :=
  match s.launches.find? fun n => n.tag == m.nid && (n.st == .running || s.wasSaved n.nid) && s.isPeer n.ten m.sdev with
  | some n => s.messageComes { m with nid := n.nid, snid := 0, sender := none, ddev := 0 }
  | none => s.dispose { m with sender := none } 3

/-- A message from a peer: a disposition, an answer of a gang's member (node tag 0), or a message between warps. -/
def State.peerMessage (s : State) (m : MsgRec) : State :=
  if s.deadPeers.contains m.sdev then s
  else match m.sender with
    | some f => s.disposed m f
    | none =>
      if m.nid = 0 then s.gangAnswer m.sdev m.tag.toNat ((m.payload.headD 0).toNat == gDecline)
      else s.peerSpeaks m

/-- `VENDOR_DEFINED_MESSAGE` (R411). -/
def execVendorDefinedMessage (s : State) : Outcome State Fault Refusal := match s.ev with
  | some (.vendorDefinedMessage m) => .next (s.peerMessage m)
  | _ => .next s

/-! ### Atomics between devices (R410) -/

/-- An atomic at system scope: one of a core of this package on a word in a peer's window, or one of a peer on a word of this package's
memory. It executes at the home slice as kind 3, which returns the old value. One outside this package's memory is refused with an error, and
logged (01 R20; log entry 44). -/
def State.peerAtom (s : State) (r : HomeReq) : State := match r.agent with
  | .core _ => s.atHome 3 r
  | .host =>
    if r.line * 256 ≥ Config.dramEnd then (s.log 0 1 (sliceOf r.line) 0 (r.line * 256)).emit (.peerError (r.line * 256))
    else match r.atom, s.reach r with
      | none, _ => s
      | some _, none => (s.askFor 3 r).park basePort basePort (.peerAtomic r)
      | some a, some s =>
        if s.mustWait 3 r then (s.askFor 3 r).park basePort basePort (.peerAtomic r) else
        let s := if r.cls == .non then s else (reqSectors r).foldl State.gather s
        let x := atomicAt (s.homeLine r.line) a
        (s.homeStore r.line x.1).emit (.oldValue (r.line * 256 + a.1) x.2)

/-- `PEER_ATOMIC` (R410). -/
def execPeerAtomic (s : State) : Outcome State Fault Refusal := match s.ev with
  | some (.peerAtomic r) => .next (s.peerAtom r)
  | _ => .next s

end Sys2Proof.Machine
end

