-- ==== Sys2Proof/Machine/Firmware.lean ====
section
/-! DEFINITION. What the firmwares, system software and the supplies do: bindings, isolation tables, tenant resets (18 R402 to R414), die
resets, debug holds, self-tests (17 R399 to R401), pools, clocks, currents, bring-up, power and attestation (01 R27, 19 R416 to R426). -/

namespace Sys2Proof.Machine

open Host (Outcome)

/-! ### Bindings and links (18 R402, R403, R407) -/

/-- Is a host authorised for a logical device: for the tenant of its die, or as the manager for device 16? -/
def State.authorised (s : State) (ld host : Nat) : Bool :=
  if ld = 16 then s.windows.contains (64 * 512 + 257 + host)
  else match s.ldTenant ld with
    | some t => s.windows.contains (t * 512 + 257 + host)
    | none => false

/-- Is this a host's request through a logical device? -/
def through (ld : Nat) (f : Flight) : Bool := match f.ev with
  | .hostCxlMemRead _ x _ _ _ | .hostCxlMemWrite _ x _ _ _ | .queueRegisterWrite x _ _ _ => x == ld
  | _ => false

/-- A binding is made where the isolation table authorises the host; an unbinding takes place once the requests accepted before it have
completed, and no other is accepted meanwhile. -/
def State.binds (s : State) (ld : Nat) (host : Option Nat) : State := match host with
  | some h => if decide (ld ≤ 16) && s.authorised ld h then { s with lds := Tab.put s.lds ld h } else s
  | none =>
    if s.flight.any (through ld) || s.parked.any (through ld) then 
      { s with unbinding := (ld :: s.unbinding).eraseDups }.park basePort basePort (.bind ld none)
    else { s with lds := Tab.del s.lds ld, unbinding := s.unbinding.filter fun x => x != ld }

/-- `BIND` (R407). -/
def execBind (s : State) : Outcome State Fault Refusal := match s.ev with
  | some (.bind ld host) => .next (s.binds ld host)
  | _ => .next s

/-- A port with fenced lanes: half its width where one half is sound, else fenced. -/
def retrained : FabPort → FabPort
  | .up direct bad half =>
    if bad.isEmpty then .up direct bad half
    else if (bad.any fun k => decide (k < 4)) && bad.any fun k => decide (k ≥ 4) then .fenced
    else .up direct bad true
  | p => p

/-- A port trains: in fabric mode, in direct-host mode on ports 0 and 1 alone, or it stays down and is logged. One that is fenced stays so, and
lanes that are fenced carry nothing, until the next power-up (17 R399). -/
def State.trains (s : State) (port : Nat) (mode : Option Bool) : State :=
  if Tab.look s.fab port == some .fenced then s
  else
    let down := ({ s with fab := Tab.put s.fab port .down }).log 2 3 port 0 0
    match mode with
    | none => down
    | some direct =>
      if direct && decide (port > 1) then down
      else { s with fab := Tab.put s.fab port (retrained (.up direct (Tab.get s.badLanes [] port) false)) }.issueFar

/-- `LINK_TRAINING` (R402). -/
def execLinkTraining (s : State) : Outcome State Fault Refusal := match s.ev with
  | some (.linkTraining port mode) => .next (if port < 18 then s.trains port mode else s)
  | _ => .next s

/-- `RETRAIN` (R403). -/
def execRetrain (s : State) : Outcome State Fault Refusal := match s.ev with
  | some (.retrain port) => .next { s with fab := s.fab.map fun (k, p) => (k, if k = port then retrained p else p) }
  | _ => .next s

/-! ### Isolation tables (18 R408, R413; 09 R210) -/

/-- A table's entry set, or taken out. -/
def Tab.assign (t : Tab Nat) (k : Nat) (v : Option Nat) : Tab Nat := match v with
  | some x => Tab.put t k x
  | none => Tab.del t k

/-- The frame's last tenant. -/
def State.lastTenant (s : State) (f : Nat) : Option Nat := (Tab.look s.frameTen f).map fun x => x % 64

/-- Sectors of a frame whose tokens stand outside the home. -/
def State.frameSectors (s : State) (f : Nat) : List Nat := (s.dir.filter fun (k, _) => k / 1024 == f).map Prod.fst

/-- A frame is zero: in memory, in the LLC, in the write-back buffers. -/
def State.scrub (s : State) (f : Nat) : State :=
  let s := (s.frameSectors f).foldl State.gather s
  let inFrame (line : Nat) : Bool := line / 256 == f
  let ofLine (l : LLine) : LLine :=
    if inFrame l.line && !l.pending then { l with dirty := 0, psn := 0, bytes := List.replicate 256 0 } else l
  let ofSlice (x : Slice) : Slice := { x with lines := x.lines.map fun (w, l) => (w, ofLine l), wb := x.wb.filter fun e => !inFrame e.line }
  { s with
    slices := s.slices.map fun (k, x) => (k, ofSlice x)
    mem := s.mem.filter fun (a, _) => a / 65536 != f
    badDram := s.badDram.filter fun x => x / 1024 != f }

/-- A frame goes to a tenant: scrubbed first where it was another's. -/
def State.givesFrame (s : State) (f : Nat) (ten : Option Nat) : State :=
  match ten with
  | none => match s.lastTenant f with
    | some t => { s with frameTen := Tab.put s.frameTen f (64 + t) }
    | none => s
  | some t =>
    let other := match s.lastTenant f with
      | some u => u != t
      | none => false
    if !other then { s with frameTen := Tab.put s.frameTen f t }
    else if !((s.frameSectors f).all s.canGather) then s.park basePort basePort (.isolationTableWrite (.frame f ten))
    else { s.scrub f with frameTen := Tab.put s.frameTen f t }

/-- Does an entry name a tenant that there can be: 0 to 63 (R413), or in the windows also the manager of device 16? -/
def Assignment.inOrder : Assignment → Bool
  | .die _ t | .queue _ t _ _ | .object _ t | .frame _ t => t.all fun n => decide (n < 64)
  | .allocate _ _ _ => true
  | .window t _ _ => decide (t ≤ 64)

/-- The vigil firmware writes its tables; system software allocates an object. -/
def State.assigns (s : State) (a : Assignment) : State := if !Assignment.inOrder a then s else match a with
  | .die d ten => { s with dieTen := Tab.assign s.dieTen d ten }
  | .queue q ten root levels => s.putQueue q { s.queue q with ten := ten, root := root, levels := levels }
  | .object o ten => if o < 0xFFFF then s.putObj o { s.obj o with ten := ten } else s
  | .allocate o md expected => if o < 0xFFFF then s.putObj o { ten := (s.obj o).ten, md := md, expected := expected.toNat } else s
  | .frame f ten => s.givesFrame f ten
  | .window ten n on =>
    let rest := s.windows.filter fun x => x != ten * 512 + n
    { s with windows := if on then (ten * 512 + n) :: rest else rest }

/-- `ISOLATION_TABLE_WRITE` (R408, R413): by the vigil firmware, once a verified image runs (19 R422 to R424). -/
def execIsolationTableWrite (s : State) : Outcome State Fault Refusal := match s.ev with
  | some (.isolationTableWrite x) => .next (if s.image.isSome then s.assigns x else s)
  | _ => .next s

/-! ### Tenant and die resets (18 R414; 02 R55) -/

/-- Every group of a tenant that has live or saved warps is killed. -/
def State.killTenant (s : State) (ten : Nat) : State :=
  let mine (nid : Nat) : Bool := match s.node? nid with
    | some n => n.ten == ten
    | none => false
  let live := (s.live.filter fun (_, w) => mine w.nid && w.responder.isNone).map fun (_, w) => (w.nid, s.homeKey w)
  let saved := (s.saved.filter fun g => mine g.nid).map fun g => (g.nid, g.grp)
  (live ++ saved).eraseDups.foldl (fun s (n, k) => s.killGroup n k 0) s

/-- A queue of the tenant is emptied: what has not been accepted ends with code 5, and head moves to tail. -/
def State.emptyQueue (s : State) (q : Nat) : State :=
  let x := s.queue q
  let waits := (List.range 256).filter fun k => (BitVec.ofNat 8 k - x.take).toNat < (x.tail - x.take).toNat
  let gone (k : Nat) (e : RingEntry) : RingEntry :=
    if waits.contains k then { raw := BitVec.ofNat 512 (e.raw.toNat / 2 ^ 64 * 2 ^ 64 + (launchStatus (lrTag e.raw) 0 0 5).toNat) }
    else { e with ended := false, taken := false }
  let records := x.device ++ x.waiting
  let s := s.putQueue q { x with
    ring := x.ring.map fun (k, e) => (k, gone k e), head := x.tail, take := x.tail, device := [], waiting := []
    done := x.done + BitVec.ofNat 64 waits.length }
  records.foldl (fun s r => s.arriveFut 0 r.fut (launchStatus (lrTag r.raw) 0 0 5)) s

/-- The four steps of a tenant reset. -/
def State.resetTenant (s : State) (ten : Nat) : State :=
  let s := s.killTenant ten
  let s := ((s.dieTen.filter fun (_, t) => t == ten).map Prod.fst).foldl State.dieDies s
  let idle := s.nodes.filter fun n => n.ten == ten && (n.st == .held || n.st == .prepared || (n.st == .pool && n.places.isEmpty))
  let s := idle.foldl (fun s n => s.endNode n.nid 0 0 5) s
  let s := ((s.queues.filter fun (_, x) => x.ten == some ten).map Prod.fst).foldl State.emptyQueue s
  let ofObj (x : Obj) : Obj := if x.ten == some ten then { x with count := 0, waiters := [], holder := none, bcs := [], counted := [] } else x
  { s with objs := s.objs.map fun (k, x) => (k, ofObj x) }

/-- `TENANT_RESET` (R414). -/
def execTenantReset (s : State) : Outcome State Fault Refusal := match s.ev with
  | some (.tenantReset ten) => .next (s.resetTenant ten)
  | _ => .next s

/-- A reset or a fence of a die counts as its death; one that is reset comes up again, unless a self-test has fenced it (R55, 17 R399). -/
def State.resetDie (s : State) (d : Nat) (fence : Bool) : State :=
  if !(s.die d).powered then s
  else
    let s := s.dieDies d
    if fence || (s.die d).failures != 0 then s else s.dieRises d

/-- `DIE_RESET` (R55). -/
def execDieReset (s : State) : Outcome State Fault Refusal := match s.ev with
  | some (.dieReset d fence) => .next (s.resetDie d fence)
  | _ => .next s

/-- `CONTROL_DIE_RESET` (19 R425, 00 R3): after a reset the vigil firmware reloads the image; a control die that is fenced stays down until the
next power-up, as fenced capacity does (17 R399). -/
def execControlDieReset (s : State) : Outcome State Fault Refusal := match s.ev with
  | some (.controlDieReset fence) => .next (
    if fence then { s with controlDie := false, controlFenced := true }
    else ({ s with controlDie := false }).send .request basePort basePort .controlDiePowerUp)
  | _ => .next s

/-! ### Debug holds (17 R401, 02 R54) -/

/-- `DEBUG_HOLD` (R401). -/
def execDebugHold (s : State) : Outcome State Fault Refusal := match s.ev with
  | some (.debugHold d) => .next (if (s.die d).powered && !(s.die d).dead then s.updDie d fun x => { x with debugHold := true } else s)
  | _ => .next s

/-- System software ends a hold: the lease unit sets a new expiry and acknowledges at once. -/
def State.holdEnds (s : State) (d : Nat) : State :=
  if !(s.die d).debugHold then s
  else
    let e := s.root + 2 ^ 16
    (s.updDie d fun x => { x with debugHold := false, expiry := e }).send .response basePort (16 * d) (.acknowledgement d e)

/-- `DEBUG_HOLD_END` (R54). -/
def execDebugHoldEnd (s : State) : Outcome State Fault Refusal := match s.ev with
  | some (.debugHoldEnd d) => .next (s.holdEnds d)
  | _ => .next s

/-! ### Pools, clocks, currents (01 R27, 19 R417, R418) -/

/-- Does a page tree below a node name a page pinned in a slice? -/
def State.treeNames (s : State) (slice node : Nat) : Nat → Bool
  | 0 => false
  | j + 1 => (List.range 64).any fun k =>
    let e : W64 := BitVec.ofNat 64 (leNat (s.homeBytes (node + 8 * k) 8))
    ptValid e && (if ptLeaf e then ptHome e == 2 && ptHidx e == slice else s.treeNames slice (ptNext e) j)

/-- Does a buffer record map a page pinned in a slice? -/
def State.recordNames (s : State) (slice : Nat) (r : BufRec) : Bool :=
  brVal r && (if brPg r then s.treeNames slice (brPbase r) (brLvl r) else brHome r == 2 && brHidx r == slice)

/-- Is a page pinned in the slice mapped: by a queue's space, by a node's segments or by a core's store? -/
def State.poolMapped (s : State) (slice : Nat) : Bool :=
  (s.queues.any fun (_, q) => q.ten.isSome && s.treeNames slice q.root q.levels) ||
  (s.nodes.any fun n => n.segs.any (s.recordNames slice)) || s.cores.any fun (_, c) => c.segs.any (s.recordNames slice)

/-- The lines of a slice in the ways of a test leave it: what is dirty goes to memory, waiters go back to the input. -/
def State.clearWays (s : State) (n : Nat) (goes : Nat → Bool) : State :=
  let leave := ((s.slice n).lines.filter fun (w, _) => goes w).map Prod.snd
  (leave.foldl (fun s l => s.toMemory l.entry) s).updSlice n fun x =>
    { x with lines := x.lines.filter fun (w, _) => !goes w, input := leave.flatMap LLine.waiters ++ x.input }

/-- System software sets a slice's pinned pool; lines in the ways that become pinned leave. While a page pinned there is mapped the answer is
a busy status. DESIGN CHOICES (log entry 63): a way count above 12, which the rule does not give, is ignored without a status; the pool reads
0 without poison after every change of its way count. -/
def State.setsPool (s : State) (n ways : Nat) : State :=
  if n ≥ 64 || ways > 12 then s
  else if s.poolMapped n then s.emit (.poolBusy n)
  else
    let keeps := (s.slice n).ways == ways
    (s.clearWays n fun w => decide (w % 16 + ways ≥ 16)).updSlice n fun x =>
      { x with ways := ways, pool := if keeps then x.pool else [], psn := if keeps then x.psn else [] }

/-- `PINNED_POOL_SET` (R27). -/
def execPinnedPoolSet (s : State) : Outcome State Fault Refusal := match s.ev with
  | some (.pinnedPoolSet n ways) => .next (s.setsPool n ways)
  | _ => .next s

/-- A clock change: the lease unit records it, and the die relocks for at most 2 µs (R418, 02 R51). -/
def State.reclock (s : State) (d mhz : Nat) : State :=
  s.updDie d fun x => { x with mhz := mhz, slowest := min x.slowest mhz, relock := s.root + Config.relock d s.root % 2001 }

/-- System software sets a die's clock through the service firmware: while the control die is down the change waits (19 R424, R425). -/
def State.clockSet (s : State) (d mhz : Nat) : State :=
  if !(decide (d < 16 ∧ 400 ≤ mhz ∧ mhz ≤ 800 ∧ mhz % 50 = 0)) then s
  else if !s.controlDie then s.park basePort basePort (.clockChange d mhz)
  else s.reclock d mhz

/-- `CLOCK_CHANGE` (R418): steps of 50 MHz from 400 to 800. -/
def execClockChange (s : State) : Outcome State Fault Refusal := match s.ev with
  | some (.clockChange d mhz) => .next (s.clockSet d mhz)
  | _ => .next s

/-- `OVERCURRENT` (R418): the die asks for 400 MHz in the same way, and the service firmware is told. -/
def execOvercurrent (s : State) : Outcome State Fault Refusal := match s.ev with
  | some (.overcurrent d) => .next (if d < 16 then (s.reclock d 400).emit (.overcurrent d) else s)
  | _ => .next s

/-- An island's limit is written, never above the figure of R416. -/
def State.limitSet (s : State) (i q : Nat) : State := { s with limits := s.limits.set i (min q (Config.islandFigure i)) }

/-- `CURRENT_LIMIT` (R417): by the vigil firmware, once a verified image runs (R422). -/
def execCurrentLimit (s : State) : Outcome State Fault Refusal := match s.ev with
  | some (.currentLimit i q) => .next (if s.image.isSome then s.limitSet i q else s)
  | _ => .next s

/-! ### Self-tests (17 R399) -/

/-- The L1 lines of a way are invalidated without write-back: their tokens return, without data. -/
def State.loseWay (s : State) (core way : Nat) : State :=
  ((s.core core).l1.filter fun (_, l) => l.way == way).foldl (fun s (line, l) =>
    let s := (List.range 4).foldl (fun s k =>
      let x := l.sect k
      if x.tok > 0 then s.tokensHome core (line * 4 + k) { x with dty := false, psn := false } [] else s) s
    s.updCore core fun c => { c with l1 := Tab.del c.l1 line, recent := c.recent.filter fun y => y != line }) s

/-- A core-SRAM way is fenced: its pinned pages become void, its L1 lines are lost. DESIGN CHOICE (log entry 51): the pool keeps its size, and its
next way takes the place of the fenced one, with void pages; L1 lines that stand there leave first, as for a `csize` (03 R89). -/
def State.fenceWay (s : State) (core way : Nat) : State :=
  let c := s.core core
  let after := ({ c with fencedWays := way :: c.fencedWays }).pinned c.ways
  let moved := after.filter fun k => !(c.pinned c.ways).contains k
  let i := (c.pinned c.ways).findIdx fun k => k == way
  let pages := if (c.pinned c.ways).contains way then (List.range 4).map fun k => i * 4 + k else []
  let s := ((c.l1.filter fun (_, l) => moved.contains l.way).map Prod.fst).foldl (fun s line => s.evict core 0 line) (s.loseWay core way)
  let void (t : Tab PoolPage) (p : Nat) : Tab PoolPage := Tab.put t p { Tab.get t ⟨0, 0, true, false⟩ p with void := true, away := false }
  s.updCore core fun c => { c with fencedWays := (way :: c.fencedWays).eraseDups, pages := pages.foldl void c.pages }

/-- An LLC way is fenced: its sectors are recalled first (02 R61), and what is dirty goes to memory. DESIGN CHOICE (log entry 63): a pinned pool
keeps its size and its bytes where one of its ways is fenced, and the pages mapped there stay. -/
def State.fenceLlcWay (s : State) (n way : Nat) : State :=
  let mine := (s.slice n).lines.filter fun (w, _) => w % 16 == way
  let sectors := mine.flatMap fun (_, l) => (List.range 4).map fun k => l.line * 4 + k
  let s := sectors.foldl (fun s x => s.dirError x true) s
  (s.clearWays n fun w => w % 16 == way).updSlice n fun x => { x with fencedWays := (way :: x.fencedWays).eraseDups }

/-- A core is fenced: its warps are killed, responders that wait to start there reply as failed, what it held leaves it. -/
def State.fenceCore (s : State) (core : Nat) : State :=
  let s := (s.liveOn core).foldl (fun s (a, w) => ((s.updNode w.nid fun n => { n with killed := true }).dropSuspended core w.wid).killWarp a) s
  let s := (s.core core).spawns.foldl (fun s x => s.send .request core basePort (.reply x.cen core x.entry none)) s
  let s := ((s.core core).l1.map Prod.fst).foldl (fun s line => s.evict core 0 line) s
  s.updCore core fun c => { c with
    fenced := true, spawns := [], tiles := []
    pages := c.pages.map fun (p, x) => (p, { x with void := true, away := false }) }

/-- A resource whose test failed is fenced. -/
def State.fences (s : State) : Resource → State
  | .sramWay core way => (s.fenceWay core way).log 2 0 core 0 0
  | .llcWay n way => (s.fenceLlcWay n way).log 2 1 n 0 0
  | .coreLogic core => (s.fenceCore core).log 2 0 core 0 0
  | .lane port lane =>
    let of (p : FabPort) : FabPort := match p with
      | .up direct bad half => .up direct ((lane :: bad).eraseDups) half
      | p => p
    let s := { s with
      fab := s.fab.map fun (k, p) => (k, if k = port then of p else p)
      badLanes := Tab.put s.badLanes port ((lane :: Tab.get s.badLanes [] port).eraseDups) }
    (s.log 2 3 port 0 0).later [.retrain port]
  | .dieFailures d => ((s.dieDies d).updDie d fun x => { x with failures := x.failures + 1 }).log 2 2 d 0 0

/-- The source class and index of a resource in the error log (17 R400). -/
def Resource.source : Resource → Nat × Nat
  | .sramWay core _ => (0, core)
  | .llcWay n _ => (1, n)
  | .coreLogic core => (0, core)
  | .lane port _ => (3, port)
  | .dieFailures d => (2, d)

/-- The core of a resource whose L1 would send tokens home. -/
def Resource.core? : Resource → Option Nat
  | .sramWay k _ | .coreLogic k => some k
  | _ => none

/-- Is the die of a core stopped: its L1s send no tokens (02 R52, R54)? -/
def State.coreStopped (s : State) (core : Nat) : Bool := (s.die (dieOf core)).leaseStop || (s.die (dieOf core)).debugHold

/-- A self-test ends: a test that passes logs a soft error, and a resource that fails is fenced, which waits while its L1 may send no tokens (02
R52). What waited for it goes on. -/
def State.testEnds (s : State) (r : Resource) (passed : Bool) : State :=
  if !passed && (Resource.core? r).any s.coreStopped then s.park basePort basePort (.selfTest r passed) else
  let s := if passed then s.log 1 (Resource.source r).1 (Resource.source r).2 0 0 else s.fences r
  let s := { s with testing := s.testing.filter fun x => x != r }
  match r with
  | .llcWay n _ => s.retryInput n
  | .lane _ _ => s.issueFar
  | _ => s

/-- `SELF_TEST` (R399). -/
def execSelfTest (s : State) : Outcome State Fault Refusal := match s.ev with
  | some (.selfTest r passed) => .next (s.testEnds r passed)
  | _ => .next s

/-! ### Bring-up (19 R421 to R423, R425) -/

/-- May a step start: the one before it is complete, and none has failed? -/
def State.mayRise (s : State) (step : Nat) : Bool := s.bringUp + 1 == step && s.upFailed.isNone

/-- `BASE_FIELD_0_POWER_UP` (R421 step 1): the almanac root starts at 0. -/
def execBaseField0PowerUp (s : State) : Outcome State Fault Refusal := match s.ev with
  | some .baseField0PowerUp => .next (if s.mayRise 1 then { s.upTo 1 with root := 0, fields := [0] } else s)
  | _ => .next s

/-- Does a part of the image verify: an XMSS signature of tree height 10, 16 or 20 (R423)? -/
def partVerifies (key : List Byte) (p : SignedPart) : Bool := [10, 16, 20].contains p.height && Config.xmssVerifies p.height key p.body p.sig

/-- Why an image is refused, if it is: the boot code judges the root key by the hash in its ROM and the vigil firmware's signature, then the vigil
firmware judges the service firmware and the trims (R423). DESIGN CHOICE (log entry 9): the numbers of the causes; all signatures are under the
root key. -/
def imageCause (x : Image) : Option Nat :=
  if Config.shake256 x.rootKey != Config.romRootHash then some 1
  else if !partVerifies x.rootKey x.vigil then some 2
  else if !partVerifies x.rootKey x.service then some 3
  else if !partVerifies x.rootKey x.trims then some 4
  else none

/-- A verified image runs: it brings the island limits and the isolation tables (R417, R422). -/
def State.takesImage (s : State) (x : Image) : State :=
  let s := { s.upTo 2 with image := some x, leaf := s.flashLeaf }
  let s := ((List.range x.limits.length).zip x.limits).foldl (fun s (i, q) => s.limitSet i q) s
  x.tables.foldl State.assigns s

/-- `FIRMWARE_DOWNLOAD` (R423): an image any signature of which does not verify is refused whole. -/
def execFirmwareDownload (s : State) : Outcome State Fault Refusal := match s.ev with
  | some (.firmwareDownload x) => .next (
    if !s.mayRise 2 then s
    else match imageCause x with
      | none => s.takesImage x
      | some c => ({ s with upFailed := some 2 }).emit (.bringUp 2 (some c)))
  | _ => .next s

/-- `CONTROL_DIE_POWER_UP` (R421 step 3), and after a reset from the image that base field 0 keeps (R425). -/
def execControlDiePowerUp (s : State) : Outcome State Fault Refusal := match s.ev with
  | some .controlDiePowerUp => .next (
    if s.mayRise 3 && s.image.isSome then { s.upTo 3 with controlDie := true }
    else if s.bringUp ≥ 3 && s.image.isSome && !s.controlFenced then { s with controlDie := true }
    else s)
  | _ => .next s

/-- `BASE_FIELDS_POWER_UP` (R421 step 4): every slice has cleared its tags and directories. -/
def execBaseFieldsPowerUp (s : State) : Outcome State Fault Refusal := match s.ev with
  | some .baseFieldsPowerUp => .next (if s.mayRise 4 then { s.upTo 4 with fields := [0, 1, 2, 3], slices := [], dir := [] } else s)
  | _ => .next s

/-- `STACK_TRAINING` (R421 step 5): a stack that fails is fenced. -/
def execStackTraining (s : State) : Outcome State Fault Refusal := match s.ev with
  | some (.stackTraining failed) => .next (if s.mayRise 5 then { s.upTo 5 with stacksFenced := failed } else s)
  | _ => .next s

/-- `COMPUTE_DIE_POWER_UP` (R421 step 6): each die sends its first renewal; one that fails is fenced. The step is complete when every die that is
left holds a lease. -/
def execComputeDiePowerUp (s : State) : Outcome State Fault Refusal := match s.ev with
  | some (.computeDiePowerUp failed) => .next (
    if s.mayRise 6 && !(s.dies.any fun (_, d) => d.powered) then ((List.range 16).foldl (fun s d =>
      if failed.contains d then (s.updDie d fun x => { x with fenced := true }).log 2 2 d 0 0 else s.dieRises d) s).leasesHeld
    else s)
  | _ => .next s

/-! ### Power (19 R420, R422, R426) -/

/-- Only the serial flash keeps what it holds; what crossed the package's edge has crossed it, what the world chooses stands, and so does the
memory of the host and of the peers. -/
def State.unpowered (s : State) : State :=
  { State.reset with
    flashLeaf := s.flashLeaf, flashCert := s.flashCert, out := s.out, tape := s.tape, mem := s.mem.filter fun (a, _) => decide (Config.dramEnd ≤ a) }

/-- The base fields that bring-up raised last lose their power first, with all that stands on them; their seams are isolated then (R420). Field 0
keeps what the vigil processor has; the control die keeps its power. -/
def State.lowered (s : State) : State :=
  { s.unpowered with
    root := s.root, almanacs := s.almanacs, bringUp := min s.bringUp 3, fields := s.fields.filter fun f => f == 0, image := s.image, leaf := s.leaf
    signing := s.signing, controlDie := s.controlDie, controlFenced := s.controlFenced, limits := s.limits, errLog := s.errLog, dieTen := s.dieTen
    frameTen := s.frameTen, windows := s.windows, fab := s.fab, lds := s.lds, unbinding := s.unbinding, hdm := s.hdm, ldRegs := s.ldRegs
    linkWait := s.linkWait, badLanes := s.badLanes }

/-- `POWER_DOWN` (R420): the fields in the reverse of their order in bring-up, 1 to 3 and then 0. -/
def execPowerDown (s : State) : Outcome State Fault Refusal := match s.ev with
  | some .powerDown => .next (if s.fields.any fun f => f != 0 then s.lowered.send .request basePort basePort .powerDown else s.unpowered)
  | _ => .next s

/-- `POWER_LOSS` (R426). -/
def execPowerLoss (s : State) : Outcome State Fault Refusal := match s.ev with
  | some .powerLoss => .next s.unpowered
  | _ => .next s

/-- The report of a leaf: the hashes of what is in force, the certificate, and the signature with the key that is derived from the seed of the
base's unclonable function (R426). -/
def reportOf (x : Image) (cert : List Byte) (leaf : Nat) : Emit :=
  let v := Config.shake256 x.vigil.body
  let f := Config.shake256 x.service.body
  let t := Config.shake256 x.trims.body
  .report leaf v f t cert (Config.xmssSigns (Config.attestationKey Config.pufSeed) leaf (v ++ f ++ t))

/-- A report is asked for: the advanced index goes to the flash first (R426). -/
def State.signs (s : State) : State :=
  if s.image.isNone || s.signing.isSome then s
  else { s with flashLeaf := s.flashLeaf + 1, leaf := s.flashLeaf + 1, signing := some s.flashLeaf }.send .request basePort basePort (.attestation true)

/-- The signature whose index the flash holds leaves (R426). -/
def State.reports (s : State) : State := match s.image, s.signing with
  | some x, some leaf => { s with signing := none }.emit (reportOf x s.flashCert leaf)
  | _, _ => s

/-- `ATTESTATION` (R426): the advanced index stands in the flash before the signature leaves; a power loss between the two wastes the leaf. -/
def execAttestation (s : State) : Outcome State Fault Refusal := match s.ev with
  | some (.attestation false) => .next s.signs
  | some (.attestation true) => .next s.reports
  | _ => .next s

/-! ### The page agent (03 R85) -/

/-- The `preq`s that wait for a page without backing resolve with the page-error status. DESIGN CHOICE (log entry 62): the
page is named by its VA alone, and every `preq` that waits for a page at that VA is concerned, whatever its root or tenant. -/
def State.pageFails (s : State) (va : Nat) : State :=
  let hit (x : Preq) : Bool := x.at_.any fun q => (brVbase x.record + q) / 65536 == va / 65536
  let (bad, rest) := s.preqs.partition fun x => !x.sent && hit x
  bad.foldl (fun s x => s.arriveFut x.core x.fut 1) { s with preqs := rest }

/-- `PAGE_ERROR` (R85). -/
def execPageError (s : State) : Outcome State Fault Refusal := match s.ev with
  | some (.pageError va) => .next (s.pageFails va)
  | _ => .next s

end Sys2Proof.Machine
end

