-- ==== Sys2Proof/Machine/Dispatch.lean ====
section
/-! DEFINITION. What each row of the opcode table does, one arm for each. -/

namespace Sys2Proof.Machine

def exec (i : Instr) (s : State) : Host.Outcome State Fault Refusal :=
  match i with
  | .noOperation => Sys2Proof.Machine.execNoOperation s
  | .moveToPort u k wide m => Sys2Proof.Machine.execMoveToPort u k wide m s
  | .moveToRegister d m => Sys2Proof.Machine.execMoveToRegister d m s
  | .moveToPredicate n m => Sys2Proof.Machine.execMoveToPredicate n m s
  | .specialRegisterWrite n m => Sys2Proof.Machine.execSpecialRegisterWrite n m s
  | .ringPush n m => Sys2Proof.Machine.execRingPush n m s
  | .iaAdd u ty t => Sys2Proof.Machine.execIaAdd u ty t s
  | .iaSub u ty t => Sys2Proof.Machine.execIaSub u ty t s
  | .iaMin u ty t => Sys2Proof.Machine.execIaMin u ty t s
  | .iaMax u ty t => Sys2Proof.Machine.execIaMax u ty t s
  | .iaAnd u ty t => Sys2Proof.Machine.execIaAnd u ty t s
  | .iaOr u ty t => Sys2Proof.Machine.execIaOr u ty t s
  | .iaXor u ty t => Sys2Proof.Machine.execIaXor u ty t s
  | .iaAndn u ty t => Sys2Proof.Machine.execIaAndn u ty t s
  | .iaEq u ty t => Sys2Proof.Machine.execIaEq u ty t s
  | .iaNe u ty t => Sys2Proof.Machine.execIaNe u ty t s
  | .iaLt u ty t => Sys2Proof.Machine.execIaLt u ty t s
  | .iaLe u ty t => Sys2Proof.Machine.execIaLe u ty t s
  | .iaSel u ty t => Sys2Proof.Machine.execIaSel u ty t s
  | .iaAbs u ty t => Sys2Proof.Machine.execIaAbs u ty t s
  | .iaNeg u ty t => Sys2Proof.Machine.execIaNeg u ty t s
  | .iaMov u ty t => Sys2Proof.Machine.execIaMov u ty t s
  | .imMul ty t => Sys2Proof.Machine.execImMul ty t s
  | .imMulhi ty t => Sys2Proof.Machine.execImMulhi ty t s
  | .imMad ty t => Sys2Proof.Machine.execImMad ty t s
  | .mulw ty t => Sys2Proof.Machine.execMulw ty t s
  | .madw ty t => Sys2Proof.Machine.execMadw ty t s
  | .dp4 ty t => Sys2Proof.Machine.execDp4 ty t s
  | .shShl ty t => Sys2Proof.Machine.execShShl ty t s
  | .shShr ty t => Sys2Proof.Machine.execShShr ty t s
  | .shSar ty t => Sys2Proof.Machine.execShSar ty t s
  | .rol ty t => Sys2Proof.Machine.execRol ty t s
  | .ror ty t => Sys2Proof.Machine.execRor ty t s
  | .popc ty t => Sys2Proof.Machine.execPopc ty t s
  | .clz ty t => Sys2Proof.Machine.execClz ty t s
  | .ctz ty t => Sys2Proof.Machine.execCtz ty t s
  | .brev ty t => Sys2Proof.Machine.execBrev ty t s
  | .bfx ty t => Sys2Proof.Machine.execBfx ty t s
  | .bfxs ty t => Sys2Proof.Machine.execBfxs ty t s
  | .bfi ty t => Sys2Proof.Machine.execBfi ty t s
  | .perm ty t => Sys2Proof.Machine.execPerm ty t s
  | .faAdd u ty t => Sys2Proof.Machine.execFaAdd u ty t s
  | .faSub u ty t => Sys2Proof.Machine.execFaSub u ty t s
  | .faMul u ty t => Sys2Proof.Machine.execFaMul u ty t s
  | .fma u ty t => Sys2Proof.Machine.execFma u ty t s
  | .fnma u ty t => Sys2Proof.Machine.execFnma u ty t s
  | .faMin u ty t => Sys2Proof.Machine.execFaMin u ty t s
  | .faMax u ty t => Sys2Proof.Machine.execFaMax u ty t s
  | .faEq u ty t => Sys2Proof.Machine.execFaEq u ty t s
  | .faLt u ty t => Sys2Proof.Machine.execFaLt u ty t s
  | .faLe u ty t => Sys2Proof.Machine.execFaLe u ty t s
  | .cvt d c t => Sys2Proof.Machine.execCvt d c t s
  | .rcp t => Sys2Proof.Machine.execRcp t s
  | .rsq t => Sys2Proof.Machine.execRsq t s
  | .sqrt t => Sys2Proof.Machine.execSqrt t s
  | .exp t => Sys2Proof.Machine.execExp t s
  | .log t => Sys2Proof.Machine.execLog t s
  | .sin t => Sys2Proof.Machine.execSin t s
  | .cos t => Sys2Proof.Machine.execCos t s
  | .tanh t => Sys2Proof.Machine.execTanh t s
  | .frc t => Sys2Proof.Machine.execFrc t s
  | .rnd t => Sys2Proof.Machine.execRnd t s
  | .cls t => Sys2Proof.Machine.execCls t s
  | .qpack t => Sys2Proof.Machine.execQpack t s
  | .qunpack t => Sys2Proof.Machine.execQunpack t s
  | .xlSum ty t => Sys2Proof.Machine.execXlSum ty t s
  | .xlMin ty t => Sys2Proof.Machine.execXlMin ty t s
  | .xlMax ty t => Sys2Proof.Machine.execXlMax ty t s
  | .xlAnd ty t => Sys2Proof.Machine.execXlAnd ty t s
  | .xlOr ty t => Sys2Proof.Machine.execXlOr ty t s
  | .scan ty t => Sys2Proof.Machine.execScan ty t s
  | .shfl ty t => Sys2Proof.Machine.execShfl ty t s
  | .up ty t => Sys2Proof.Machine.execUp ty t s
  | .down ty t => Sys2Proof.Machine.execDown ty t s
  | .bfly ty t => Sys2Proof.Machine.execBfly ty t s
  | .bcast ty t => Sys2Proof.Machine.execBcast ty t s
  | .ballot ty t => Sys2Proof.Machine.execBallot ty t s
  | .plAnd t => Sys2Proof.Machine.execPlAnd t s
  | .plOr t => Sys2Proof.Machine.execPlOr t s
  | .plXor t => Sys2Proof.Machine.execPlXor t s
  | .plAndn t => Sys2Proof.Machine.execPlAndn t s
  | .plNot t => Sys2Proof.Machine.execPlNot t s
  | .plAny t => Sys2Proof.Machine.execPlAny t s
  | .plAll t => Sys2Proof.Machine.execPlAll t s
  | .saAdd u ty t => Sys2Proof.Machine.execSaAdd u ty t s
  | .saSub u ty t => Sys2Proof.Machine.execSaSub u ty t s
  | .saMin u ty t => Sys2Proof.Machine.execSaMin u ty t s
  | .saMax u ty t => Sys2Proof.Machine.execSaMax u ty t s
  | .saAnd u ty t => Sys2Proof.Machine.execSaAnd u ty t s
  | .saOr u ty t => Sys2Proof.Machine.execSaOr u ty t s
  | .saXor u ty t => Sys2Proof.Machine.execSaXor u ty t s
  | .saAndn u ty t => Sys2Proof.Machine.execSaAndn u ty t s
  | .saEq u ty t => Sys2Proof.Machine.execSaEq u ty t s
  | .saNe u ty t => Sys2Proof.Machine.execSaNe u ty t s
  | .saLt u ty t => Sys2Proof.Machine.execSaLt u ty t s
  | .saLe u ty t => Sys2Proof.Machine.execSaLe u ty t s
  | .saSel u ty t => Sys2Proof.Machine.execSaSel u ty t s
  | .saShl u ty t => Sys2Proof.Machine.execSaShl u ty t s
  | .saShr u ty t => Sys2Proof.Machine.execSaShr u ty t s
  | .saSar u ty t => Sys2Proof.Machine.execSaSar u ty t s
  | .smMul ty t => Sys2Proof.Machine.execSmMul ty t s
  | .smMulhi ty t => Sys2Proof.Machine.execSmMulhi ty t s
  | .smMad ty t => Sys2Proof.Machine.execSmMad ty t s
  | .div ty t => Sys2Proof.Machine.execDiv ty t s
  | .rem ty t => Sys2Proof.Machine.execRem ty t s
  | .ldc t => Sys2Proof.Machine.execLdc t s
  | .ld u t => Sys2Proof.Machine.execLd u t s
  | .lds u t => Sys2Proof.Machine.execLds u t s
  | .ldu u t => Sys2Proof.Machine.execLdu u t s
  | .preq u t => Sys2Proof.Machine.execPreq u t s
  | .touch u t => Sys2Proof.Machine.execTouch u t s
  | .st t => Sys2Proof.Machine.execSt t s
  | .stu t => Sys2Proof.Machine.execStu t s
  | .wb t => Sys2Proof.Machine.execWb t s
  | .inv t => Sys2Proof.Machine.execInv t s
  | .csize m => Sys2Proof.Machine.execCsize m s
  | .atAdd sc t => Sys2Proof.Machine.execAtAdd sc t s
  | .umin sc t => Sys2Proof.Machine.execUmin sc t s
  | .umax sc t => Sys2Proof.Machine.execUmax sc t s
  | .smin sc t => Sys2Proof.Machine.execSmin sc t s
  | .smax sc t => Sys2Proof.Machine.execSmax sc t s
  | .atAnd sc t => Sys2Proof.Machine.execAtAnd sc t s
  | .atOr sc t => Sys2Proof.Machine.execAtOr sc t s
  | .exch sc t => Sys2Proof.Machine.execExch sc t s
  | .cas sc t => Sys2Proof.Machine.execCas sc t s
  | .incw sc t => Sys2Proof.Machine.execIncw sc t s
  | .decw sc t => Sys2Proof.Machine.execDecw sc t s
  | .addb sc t => Sys2Proof.Machine.execAddb sc t s
  | .go t => Sys2Proof.Machine.execGo t s
  | .mcast t => Sys2Proof.Machine.execMcast t s
  | .copyResume m => Sys2Proof.Machine.execCopyResume m s
  | .cwany m => Sys2Proof.Machine.execCwany m s
  | .cwall m => Sys2Proof.Machine.execCwall m s
  | .cffr m => Sys2Proof.Machine.execCffr m s
  | .mmBf16 tri t => Sys2Proof.Machine.execMmBf16 tri t s
  | .mmF16 tri t => Sys2Proof.Machine.execMmF16 tri t s
  | .mmE4m3 tri t => Sys2Proof.Machine.execMmE4m3 tri t s
  | .mmE5m2 tri t => Sys2Proof.Machine.execMmE5m2 tri t s
  | .mmS8 tri t => Sys2Proof.Machine.execMmS8 tri t s
  | .mmQ4 tri t => Sys2Proof.Machine.execMmQ4 tri t s
  | .scacc tri t => Sys2Proof.Machine.execScacc tri t s
  | .drain tri t => Sys2Proof.Machine.execDrain tri t s
  | .hrot tri t => Sys2Proof.Machine.execHrot tri t s
  | .taskResume m => Sys2Proof.Machine.execTaskResume m s
  | .win m => Sys2Proof.Machine.execWin m s
  | .acRd m => Sys2Proof.Machine.execAcRd m s
  | .acWr m => Sys2Proof.Machine.execAcWr m s
  | .acZero m => Sys2Proof.Machine.execAcZero m s
  | .acq sc m => Sys2Proof.Machine.execAcq sc m s
  | .rel sc m => Sys2Proof.Machine.execRel sc m s
  | .fence sc m => Sys2Proof.Machine.execFence sc m s
  | .barArr m => Sys2Proof.Machine.execBarArr m s
  | .barWait m => Sys2Proof.Machine.execBarWait m s
  | .barSync m => Sys2Proof.Machine.execBarSync m s
  | .barSet m => Sys2Proof.Machine.execBarSet m s
  | .gbar m => Sys2Proof.Machine.execGbar m s
  | .bcarm m => Sys2Proof.Machine.execBcarm m s
  | .bcwait m => Sys2Proof.Machine.execBcwait m s
  | .sol t => Sys2Proof.Machine.execSol t s
  | .sreply m => Sys2Proof.Machine.execSreply m s
  | .tins t => Sys2Proof.Machine.execTins t s
  | .tdel m => Sys2Proof.Machine.execTdel m s
  | .tmove t => Sys2Proof.Machine.execTmove t s
  | .send t => Sys2Proof.Machine.execSend t s
  | .post t => Sys2Proof.Machine.execPost t s
  | .probe m => Sys2Proof.Machine.execProbe m s
  | .rmake m => Sys2Proof.Machine.execRmake m s
  | .rfree m => Sys2Proof.Machine.execRfree m s
  | .radv m => Sys2Proof.Machine.execRadv m s
  | .rwait m => Sys2Proof.Machine.execRwait m s
  | .vgive m => Sys2Proof.Machine.execVgive m s
  | .vclaim m => Sys2Proof.Machine.execVclaim m s
  | .rcnt m => Sys2Proof.Machine.execRcnt m s
  | .br x => Sys2Proof.Machine.execBr x s
  | .brz sa x => Sys2Proof.Machine.execBrz sa x s
  | .brnz sa x => Sys2Proof.Machine.execBrnz sa x s
  | .brany p ng x => Sys2Proof.Machine.execBrany p ng x s
  | .brall p ng x => Sys2Proof.Machine.execBrall p ng x s
  | .jmp sa => Sys2Proof.Machine.execJmp sa s
  | .call x => Sys2Proof.Machine.execCall x s
  | .ret => Sys2Proof.Machine.execRet s
  | .mloop sa ii stages => Sys2Proof.Machine.execMloop sa ii stages s
  | .vif p ng => Sys2Proof.Machine.execVif p ng s
  | .velse => Sys2Proof.Machine.execVelse s
  | .vend => Sys2Proof.Machine.execVend s
  | .vloop => Sys2Proof.Machine.execVloop s
  | .vwhile p ng => Sys2Proof.Machine.execVwhile p ng s
  | .vbrk k => Sys2Proof.Machine.execVbrk k s
  | .vnext k => Sys2Proof.Machine.execVnext k s
  | .exit => Sys2Proof.Machine.execExit s
  | .trap n => Sys2Proof.Machine.execTrap n s
  | .yield => Sys2Proof.Machine.execYield s
  | .bkpt => Sys2Proof.Machine.execBkpt s
  | .fwait sa => Sys2Proof.Machine.execFwait sa s
  | .ftest sd sa => Sys2Proof.Machine.execFtest sd sa s
  | .fcancel sa => Sys2Proof.Machine.execFcancel sa s
  | .fpass sd sa => Sys2Proof.Machine.execFpass sd sa s
  | .sysrd sd n => Sys2Proof.Machine.execSysrd sd n s
  | .syswr n sa => Sys2Proof.Machine.execSyswr n sa s
  | .ctxsv sa => Sys2Proof.Machine.execCtxsv sa s
  | .ctxld sa => Sys2Proof.Machine.execCtxld sa s
  | .launch sd sa => Sys2Proof.Machine.execLaunch sd sa s
  | .eve => Sys2Proof.Machine.execEve s
  | .pwait => Sys2Proof.Machine.execPwait s
  | .gang sd sa => Sys2Proof.Machine.execGang sd sa s
  | .unitResult => Sys2Proof.Machine.execUnitResult s
  | .instructionCacheMiss => Sys2Proof.Machine.execInstructionCacheMiss s
  | .loadLineArrival => Sys2Proof.Machine.execLoadLineArrival s
  | .loadDue => Sys2Proof.Machine.execLoadDue s
  | .laneStoreLanding => Sys2Proof.Machine.execLaneStoreLanding s
  | .outsideWriteLanding => Sys2Proof.Machine.execOutsideWriteLanding s
  | .outsideEventAdmission => Sys2Proof.Machine.execOutsideEventAdmission s
  | .futureResolution => Sys2Proof.Machine.execFutureResolution s
  | .skip => Sys2Proof.Machine.execSkip s
  | .moduloInitiation => Sys2Proof.Machine.execModuloInitiation s
  | .copyChunkTranslate => Sys2Proof.Machine.execCopyChunkTranslate s
  | .copyChunkLanding => Sys2Proof.Machine.execCopyChunkLanding s
  | .unpacedChunkDelivery => Sys2Proof.Machine.execUnpacedChunkDelivery s
  | .copyFinalStatus => Sys2Proof.Machine.execCopyFinalStatus s
  | .taskDispatch => Sys2Proof.Machine.execTaskDispatch s
  | .taskOperandLineDue => Sys2Proof.Machine.execTaskOperandLineDue s
  | .taskRetire => Sys2Proof.Machine.execTaskRetire s
  | .acAccess => Sys2Proof.Machine.execAcAccess s
  | .claimGrant => Sys2Proof.Machine.execClaimGrant s
  | .spawn => Sys2Proof.Machine.execSpawn s
  | .ringCheck => Sys2Proof.Machine.execRingCheck s
  | .claimCheck => Sys2Proof.Machine.execClaimCheck s
  | .engineArrival => Sys2Proof.Machine.execEngineArrival s
  | .trapEntry => Sys2Proof.Machine.execTrapEntry s
  | .readShared => Sys2Proof.Machine.execReadShared s
  | .readForOwnership => Sys2Proof.Machine.execReadForOwnership s
  | .writeAtHome => Sys2Proof.Machine.execWriteAtHome s
  | .atomicAtHome => Sys2Proof.Machine.execAtomicAtHome s
  | .copyRead => Sys2Proof.Machine.execCopyRead s
  | .uncachedRead => Sys2Proof.Machine.execUncachedRead s
  | .retryReissue => Sys2Proof.Machine.execRetryReissue s
  | .lineFill => Sys2Proof.Machine.execLineFill s
  | .writeBackDrain => Sys2Proof.Machine.execWriteBackDrain s
  | .forwardedRead => Sys2Proof.Machine.execForwardedRead s
  | .demandForAllTokens => Sys2Proof.Machine.execDemandForAllTokens s
  | .ownerRecall => Sys2Proof.Machine.execOwnerRecall s
  | .tokenTransfer => Sys2Proof.Machine.execTokenTransfer s
  | .l1Eviction => Sys2Proof.Machine.execL1Eviction s
  | .requestTimeout => Sys2Proof.Machine.execRequestTimeout s
  | .persistentRequest => Sys2Proof.Machine.execPersistentRequest s
  | .deactivation => Sys2Proof.Machine.execDeactivation s
  | .almanacTick => Sys2Proof.Machine.execAlmanacTick s
  | .renewalSend => Sys2Proof.Machine.execRenewalSend s
  | .renewal => Sys2Proof.Machine.execRenewal s
  | .acknowledgement => Sys2Proof.Machine.execAcknowledgement s
  | .leaseStop => Sys2Proof.Machine.execLeaseStop s
  | .declaredDead => Sys2Proof.Machine.execDeclaredDead s
  | .recallTimeout => Sys2Proof.Machine.execRecallTimeout s
  | .directoryError => Sys2Proof.Machine.execDirectoryError s
  | .hostCxlMemRead => Sys2Proof.Machine.execHostCxlMemRead s
  | .hostCxlMemWrite => Sys2Proof.Machine.execHostCxlMemWrite s
  | .backInvalidateSnoop => Sys2Proof.Machine.execBackInvalidateSnoop s
  | .hostSnoop => Sys2Proof.Machine.execHostSnoop s
  | .pageResident => Sys2Proof.Machine.execPageResident s
  | .leafChange => Sys2Proof.Machine.execLeafChange s
  | .keyArrival => Sys2Proof.Machine.execKeyArrival s
  | .censusOrder => Sys2Proof.Machine.execCensusOrder s
  | .insertCommit => Sys2Proof.Machine.execInsertCommit s
  | .deleteCommit => Sys2Proof.Machine.execDeleteCommit s
  | .dropCommit => Sys2Proof.Machine.execDropCommit s
  | .tmoveCopy => Sys2Proof.Machine.execTmoveCopy s
  | .moveCommit => Sys2Proof.Machine.execMoveCommit s
  | .reply => Sys2Proof.Machine.execReply s
  | .censusCompletion => Sys2Proof.Machine.execCensusCompletion s
  | .releaseAtObject => Sys2Proof.Machine.execReleaseAtObject s
  | .acquireWake => Sys2Proof.Machine.execAcquireWake s
  | .byteCountAdd => Sys2Proof.Machine.execByteCountAdd s
  | .groupBarrierCompletion => Sys2Proof.Machine.execGroupBarrierCompletion s
  | .messageArrival => Sys2Proof.Machine.execMessageArrival s
  | .postArrival => Sys2Proof.Machine.execPostArrival s
  | .probeRequest => Sys2Proof.Machine.execProbeRequest s
  | .overflowTimeout => Sys2Proof.Machine.execOverflowTimeout s
  | .tail => Sys2Proof.Machine.execTail s
  | .queueRegisterWrite => Sys2Proof.Machine.execQueueRegisterWrite s
  | .acceptance => Sys2Proof.Machine.execAcceptance s
  | .nodePlacement => Sys2Proof.Machine.execNodePlacement s
  | .nodeCompletion => Sys2Proof.Machine.execNodeCompletion s
  | .preEmption => Sys2Proof.Machine.execPreEmption s
  | .preEmptionTimeout => Sys2Proof.Machine.execPreEmptionTimeout s
  | .preEmptionSave => Sys2Proof.Machine.execPreEmptionSave s
  | .resume => Sys2Proof.Machine.execResume s
  | .gangAbort => Sys2Proof.Machine.execGangAbort s
  | .prepare => Sys2Proof.Machine.execPrepare s
  | .commit => Sys2Proof.Machine.execCommit s
  | .abort => Sys2Proof.Machine.execAbort s
  | .gangTimeout => Sys2Proof.Machine.execGangTimeout s
  | .heartbeatSend => Sys2Proof.Machine.execHeartbeatSend s
  | .heartbeat => Sys2Proof.Machine.execHeartbeat s
  | .peerDeath => Sys2Proof.Machine.execPeerDeath s
  | .vendorDefinedMessage => Sys2Proof.Machine.execVendorDefinedMessage s
  | .peerAtomic => Sys2Proof.Machine.execPeerAtomic s
  | .bind => Sys2Proof.Machine.execBind s
  | .linkTraining => Sys2Proof.Machine.execLinkTraining s
  | .retrain => Sys2Proof.Machine.execRetrain s
  | .tenantReset => Sys2Proof.Machine.execTenantReset s
  | .isolationTableWrite => Sys2Proof.Machine.execIsolationTableWrite s
  | .dieReset => Sys2Proof.Machine.execDieReset s
  | .controlDieReset => Sys2Proof.Machine.execControlDieReset s
  | .debugHold => Sys2Proof.Machine.execDebugHold s
  | .debugHoldEnd => Sys2Proof.Machine.execDebugHoldEnd s
  | .pinnedPoolSet => Sys2Proof.Machine.execPinnedPoolSet s
  | .clockChange => Sys2Proof.Machine.execClockChange s
  | .overcurrent => Sys2Proof.Machine.execOvercurrent s
  | .currentLimit => Sys2Proof.Machine.execCurrentLimit s
  | .selfTest => Sys2Proof.Machine.execSelfTest s
  | .baseField0PowerUp => Sys2Proof.Machine.execBaseField0PowerUp s
  | .firmwareDownload => Sys2Proof.Machine.execFirmwareDownload s
  | .controlDiePowerUp => Sys2Proof.Machine.execControlDiePowerUp s
  | .baseFieldsPowerUp => Sys2Proof.Machine.execBaseFieldsPowerUp s
  | .stackTraining => Sys2Proof.Machine.execStackTraining s
  | .computeDiePowerUp => Sys2Proof.Machine.execComputeDiePowerUp s
  | .powerDown => Sys2Proof.Machine.execPowerDown s
  | .attestation => Sys2Proof.Machine.execAttestation s
  | .pageError => Sys2Proof.Machine.execPageError s
  | .prepareDecline => Sys2Proof.Machine.execPrepareDecline s
  | .heldRecordRemoval => Sys2Proof.Machine.execHeldRecordRemoval s
  | .powerLoss => Sys2Proof.Machine.execPowerLoss s

end Sys2Proof.Machine
end

