-- ==== Sys2Proof/Machine/Issue.lean ====
section
/-! DEFINITION. The issue of a bundle: the order of its checks, its three steps, eligibility and the choice of a warp
(05_core_ports_and_registers R124, R127, R144 to R147; 11 R252; 12 R265, R268; 04 R92; 15 R362). -/

namespace Sys2Proof.Machine

open Host (Outcome)

/-! ### Checks of the bundle as it stands (05 R127, R133; 11 R252) -/

/-- Does the instruction trigger a unit? -/
def isTrigger (i : Instr) : Bool := match i.raw with
  | some r => decide (r.dst < 0x6C) && r.dst % 4 == 3
  | none => false

/-- Where a move writes: one number for each destination, and one for each register of a pair. -/
def destKeys (i : Instr) : List Nat := match i with
  | .moveToRegister (.vreg n wide) _ => if wide then [0x1000 + n.toNat, 0x1001 + n.toNat] else [0x1000 + n.toNat]
  | .moveToRegister (.sreg n) _ => [0x2000 + n.toNat]
  | .moveToPredicate n _ => [0x3000 + n.toNat]
  | .specialRegisterWrite n _ => [0x4000 + n.toNat]
  | .ringPush n _ => [0x5000 + n.toNat]
  | i => match i.raw with
    | some r => [r.dst]
    | none => []

/-- The register that a control operation writes. -/
def controlKeys : Instr → List Nat
  | .call _ => [0x2000 + 62]
  | .ftest sd _ | .fpass sd _ | .sysrd sd _ | .launch sd _ | .gang sd _ => [0x2000 + sd.toNat]
  | _ => []

/-- The slot of the first move that writes what an earlier move, or the control operation, writes. -/
def conflict : List (Nat × Instr) → List Nat → Option Nat
  | [], _ => none
  | (k, i) :: rest, seen =>
    if (destKeys i).any fun x => seen.contains x then some k else conflict rest (destKeys i ++ seen)

/-- The register-range fault of a move's source or destination: the register's number (05 R133). -/
def moveRange (w : Warp) (i : Instr) : Option Nat :=
  let src : Option (Src × Bool) := match i with
    | .moveToPort _ _ wide m => some (m.src, wide)
    | .moveToRegister (.vreg _ wide) m => some (m.src, wide)
    | i => i.raw.map fun (r : RawMove) => (r.mv.src, i.readsWide)
  let ofSrc := match src with
    | some (.vreg n, wide) => rangeFault w n wide
    | _ => none
  match ofSrc, i with
  | some m, _ => some m
  | none, .moveToRegister (.vreg n wide) _ => rangeFault w n wide
  | none, _ => none

/-- The first move, in slot order, that leaves the warp's registers: its slot and the register. -/
def firstRange (w : Warp) : List (Nat × Instr) → Option (Nat × Nat)
  | [] => none
  | (k, i) :: rest => match moveRange w i with
    | some m => some (k, m)
    | none => firstRange w rest

/-! ### A bundle tried in full (05 R124) -/

/-- What a bundle's parts have done so far: the state, and by slot what did not take effect. -/
structure Tried where
  st : State
  seen : List (Nat × Verdict)

/-- One part of the bundle: it takes effect, or it is noted and leaves the state as it was. -/
def Tried.part (x : Tried) (p : Nat × Instr) : Tried :=
  match exec p.2 { x.st with mslot := p.1 } with
  | .next t => if t.verdict == .done then { x with st := t } else { x with seen := x.seen ++ [(p.1, t.verdict)] }
  | _ => x

/-- Does the bundle hold a reply that fires in a responder: then its control operation has no effect (08 R203)? -/
def State.replies (s : State) (w : Warp) (moves : List (Nat × Instr)) : Bool :=
  w.responder.isSome && moves.any fun (_, i) => match i with
    | .sreply m => (s.srcCtx w).guard m.g != 0
    | _ => false

/-- The parts of a bundle in the order of R124: writes, triggers, the control operation, the next program counter. DESIGN CHOICE (log entry 77): the
triggers act in ascending slot order, so that two which round stochastically draw from the lanes' generators in that order. -/
def State.tryBundle (s : State) (a : WarpAt) (w : Warp) (b : Bundle) : Tried :=
  let s := { s with cur := a, snap := some ⟨w.ctx, w.vregs, (s.core a.core).rings, (s.core a.core).ctag, (s.core a.core).nextId⟩, verdict := .done }
  let (triggers, writes) := b.moves.partition fun (_, i) => isTrigger i
  let x := triggers.foldl Tried.part (writes.foldl Tried.part ⟨s, []⟩)
  match b.ctl with
  | some c =>
    if w.ctx.loop.isSome then { x with seen := x.seen ++ [(6, .faulted 0x01 (locWord 6 0 0))] }
    else if s.replies w b.moves then x
    else x.part (6, c)
  | none =>
    if b.moves.isEmpty then x.part (7, .noOperation)
    else if x.seen.isEmpty then { x with st := x.st.advance a } else x

/-- Nothing is issuing. -/
def State.idle (s : State) : State := { s with snap := none, mslot := 7, verdict := .done }

/-! ### Is the warp's next bundle ready (05 R144, R146)? -/

/-- How the warp's next bundle stands. -/
inductive Judged where
  /-- it would issue, or raise its fault, and leave this state; whether that is at an admission point that never waits -/
  | issues (s : State) (adm : Bool)
  /-- it waits: at an admission point, on neighbours alone; the rings on which it waits, and the ring-state fault that stands behind its waits -/
  | waits (adm blocked : Bool) (rings : List Nat) (fault : Option (Nat × W64))
  /-- its line is not in the instruction cache -/
  | misses (line : Nat)
  /-- a skip passes over it -/
  | passes

def isWait : Verdict → Bool
  | .waits | .admission | .neighbour | .room => true
  | _ => false

/-- The fault of the lowest slot. -/
def leastFault : List (Nat × Verdict) → Option (Nat × Verdict)
  | [] => none
  | x :: r => match leastFault r with
    | none => some x
    | some y => if y.1 < x.1 then some y else some x

/-- Does the trigger take an entry of the future table? -/
def takesFuture : Instr → Bool
  | .go _ | .mcast _ | .copyResume _ | .cwany _ | .cwall _ | .taskResume _ | .mmBf16 _ _ | .mmF16 _ _ | .mmE4m3 _ _ | .mmE5m2 _ _ | .mmS8 _ _
  | .mmQ4 _ _ | .scacc _ _ | .drain _ _ | .hrot _ _ | .acq _ _ | .rel _ _ | .fence _ _ | .gbar _ | .bcarm _ | .bcwait _ | .sol _ | .tins _
  | .tdel _ | .tmove _ | .send _ | .post _ | .probe _ | .preq _ _ | .wb _ | .inv _ | .csize _ => true
  | _ => false

/-- Does the trigger enqueue a task? -/
def queuesTask : Instr → Bool
  | .mmBf16 _ _ | .mmF16 _ _ | .mmE4m3 _ _ | .mmE5m2 _ _ | .mmS8 _ _ | .mmQ4 _ _ | .scacc _ _ | .drain _ _ | .hrot _ _ => true
  | _ => false

/-- Does the trigger start a copy, or load? -/
def startsCopy : Instr → Bool
  | .go _ | .mcast _ => true
  | _ => false
def startsLoad : Instr → Bool
  | .ld _ _ | .lds _ _ | .ldu _ _ | .ldc _ => true
  | _ => false

/-- Does a trigger whose source is not there wait for more than its neighbours: for the future table, a copy slot, the task queue, a landing slot, its
own stores on their way (05 R144, R146)? -/
def State.waitsElse (s : State) (a : WarpAt) (w : Warp) (i : Instr) : Bool :=
  let c := s.core a.core
  (takesFuture i && (w.newFuture 0).isNone) || (queuesTask i && (Tab.lowestFree (s.cluster (clusterOf a.core)).tasks 64).isNone) ||
  (startsCopy i && (Tab.lowestFree c.copies 16).isNone) || (startsLoad i && decide (c.slotsUsed s.now ≥ 1024)) ||
  ((startsCopy i || queuesTask i) && !s.writesLanded a.core w.wid)

/-- The rings that a part of a bundle reads, fills or empties (05 R141 to R143). -/
def ringsOf (w : Warp) (i : Instr) : List Nat :=
  let src : Option Src := match i with
    | .moveToPort _ _ _ m | .moveToRegister _ m | .moveToPredicate _ m | .specialRegisterWrite _ m | .ringPush _ m => some m.src
    | i => i.raw.map fun (r : RawMove) => r.mv.src
  (match src with
    | some (.ring n) => [n.toNat]
    | _ => []) ++ (match i with
    | .ringPush n _ => [n.toNat]
    | .radv _ | .rwait _ => [opA (w.ctx.port .rg)]
    | _ => [])

/-- Waits come first, then the fault of the lowest slot; a bundle without either takes effect. -/
def State.outcome (s : State) (a : WarpAt) (moves : List (Nat × Instr)) (x : Tried) (adm : Bool) : Judged :=
  if x.seen.any fun (_, v) => isWait v then
    let near := moves.filter fun (k, _) => x.seen.any fun (j, v) => j == k && v == .neighbour
    let w := (x.st.warp? a).getD { wid := 0, nid := 0, die := 0, clus := 0, warp := 0 }
    .waits (adm || x.seen.any fun (_, v) => v == .admission)
      (((x.seen.filter fun (_, v) => isWait v).all fun (_, v) => v == .neighbour) && near.all fun (_, i) => !x.st.waitsElse a w i)
      (near.flatMap fun (_, i) => ringsOf w i)
      (match leastFault (x.seen.filter fun (_, v) => match v with
        | .faulted 0x0F _ => true
        | _ => false) with
      | some (_, .faulted c i) => some (c, i)
      | _ => none)
  else match leastFault x.seen with
    | some (_, .faulted c i) => .issues (s.raiseTrap a c i) adm
    | some (_, .poisoned u i) => .issues (s.raisePoison a u i) adm
    | some (_, .walkRefused pa c i) => .issues (s.raiseWalk a pa c i) adm
    | _ => .issues x.st.idle adm

/-- The checks of 11 R252 in their order, then the bundle itself. -/
def State.judgeBundle (s : State) (a : WarpAt) (w : Warp) (word : Nat) : Judged :=
  match decodeBundle word with
  | .error (k, _) => .issues (s.raiseTrap a 0x02 (locWord k 0 0)) false
  | .ok b => match conflict b.moves (match b.ctl with
      | some c => controlKeys c
      | none => []) with
    | some k => .issues (s.raiseTrap a 0x01 (locWord k 0 0)) false
    | none => match firstRange w b.moves with
      | some (k, m) => .issues (s.raiseTrap a 0x03 (locWord k 0 m)) false
      | none => s.outcome a b.moves (s.tryBundle a w b) (match b.ctl with
        | some (.ftest _ _) => true
        | _ => false)

/-- The warp's next bundle: the overflow fault comes before it, then the fetch, then a skip. -/
def State.judge (s : State) (a : WarpAt) (w : Warp) : Judged :=
  match w.overflow with
  | some g => .issues ((s.putWarp a { w with overflow := none }).raiseTrap a 0x14 (BitVec.ofNat 64 g)) false
  | none => match s.fetch a.core w.nid w.ctx.pc with
    | .bad => .issues (((s.fetchWalk a.core w.nid w.ctx.pc).elim s s.logWalk).raiseTrap a 0x04 (BitVec.ofNat 64 (fld w.ctx.pc 55 0))) false
    | .miss => .misses (w.ctx.pc.toNat / 256)
    | .ok word => match w.ctx.skip with
      | none => s.judgeBundle a w word
      | some d => match skipOver w.ctx d word with
        | some _ => .passes
        | none =>
          let w := { w with ctx := { w.ctx with skip := none } }
          (s.putWarp a w).judgeBundle a w word

/-- May the warp issue at all: it is not ending, entering a handler, past a pre-emption, or held (05 R146)? An overflow fault ends a hold. -/
def Warp.free (w : Warp) : Bool :=
  w.leaving.isNone && w.entering.isNone && !w.yielded && (w.ctx.hold.isNone || w.overflow.isSome)

/-- Is the warp held at an admission point: a named barrier (00 R18)? -/
def Warp.heldAtBar (w : Warp) : Bool := w.leaving.isNone && w.entering.isNone && !w.yielded && (match w.ctx.hold with
  | some (.bar _ _) => true
  | _ => false)

/-! ### One core's turn in a cycle (05 R147) -/

/-- A live warp of the core with how its next bundle stands; none for one that may not issue. -/
structure Stand where
  at_ : WarpAt
  w : Warp
  j : Option Judged

def State.stands (s : State) (core : Nat) : List Stand :=
  (s.liveOn core).map fun (a, w) => ⟨a, w, if w.free && decide (w.first ≤ s.lcycOf core) then some (s.judge a w) else none⟩

/-- Does it stand at an admission point? -/
def Stand.adm (x : Stand) : Bool := match x.j with
  | some (.issues _ adm) => adm
  | some (.waits adm _ _ _) => adm
  | some _ => false
  | none => x.w.heldAtBar

/-- The state that its issue leaves. -/
def Stand.next (x : Stand) : Option State := match x.j with
  | some (.issues s _) => some s
  | _ => none

/-- The class of R147: handlers, responders, the others. -/
def Warp.rank (w : Warp) : Nat := if w.handler.isSome then 0 else if w.responder.isSome then 1 else 2

/-- The warp that issues: of the first class that has an eligible one, the first in slot order from the core's starting point. -/
def choose (start : Nat) (l : List Stand) : Option Stand :=
  let ready := l.filter fun x => x.next.isSome
  let inOrder := (List.range 16).filterMap fun k => ready.find? fun x => x.at_.slot == (start + k) % 16
  [0, 1, 2].findSome? fun r => inOrder.find? fun x => x.w.rank == r

/-- A warp has issued: the core's next search starts after it. -/
def State.hasIssued (s : State) (a : WarpAt) : State :=
  (s.updWarp a fun w => { w with issued := true, waiting := false, blocked := false }).updCore a.core fun c => { c with start := (a.slot + 1) % 16 }

/-- The fault that its issue would raise at its bundle. -/
def Stand.fault (x : Stand) : Option TrapReq := match x.next.bind fun s => s.warp? x.at_ with
  | some w => if w.entering.any fun r => r.tpc == x.w.ctx.pc then w.entering else none
  | none => none

/-- A ring on which the warp waited has been freed: the ring-state fault of its bundle is raised, whatever else the bundle waits for and whichever
warp issues (14 R338). -/
def State.ringFault (s : State) (x : Stand) : State :=
  let s := s.updWarp x.at_ fun w => { w with ringGone := false }
  match x.fault, x.j with
  | some r, _ => s.takeTrap x.at_ r
  | none, some (.waits _ _ _ (some (c, i))) => s.raiseTrap x.at_ c i
  | _, _ => s

/-- The warps whose bundles waited on rings that an issue has freed take their faults in the next cycle (14 R338). -/
def State.markFreed (s : State) (core : Nat) (l : List Stand) (old : Tab Ring) : State :=
  let gone := (old.map Prod.fst).filter fun n => (Tab.look (s.core core).rings n).isNone
  if gone.isEmpty then s
  else l.foldl (fun s x => match x.j with
    | some (.waits _ _ rings _) => if rings.any gone.contains then s.updWarp x.at_ fun w => { w with ringGone := true } else s
    | _ => s) s

/-- A warp that an asynchronous trap calls takes it, unless a fault of the cycle has come first; an overflow fault that waits does (17 R390). -/
def State.answerCall (s : State) (a : WarpAt) : State := match s.warp? a with
  | none => s
  | some w =>
    if !w.called then s
    else match w.overflow with
      | some g => (s.putWarp a { w with overflow := none }).raiseTrap a 0x14 (BitVec.ofNat 64 g)
      | none => s.takeAsync a

/-- The turn of one core: warps whose rings were freed fault, and a warp that has come to an admission point is admitted first, and the core looks
again; else the chosen warp issues, if there is one, and the cursor goes on. A warp that an asynchronous trap calls issues no bundle but one that
faults. -/
def State.coreTurn (s : State) (core : Nat) : State :=
  let l := s.stands core
  match l.find? fun x => x.w.ringGone with
  | some x => s.ringFault x
  | none => match l.find? fun x => x.adm && !x.w.waiting && !x.w.called with
  | some x =>
    let s := (s.updWarp x.at_ fun w => { w with waiting := true }).updCluster (clusterOf core) fun c => { c with adm := true }
    s.later [.outsideEventAdmission x.at_]
  | none =>
    let clear (s : State) (x : Stand) : State := if x.w.waiting && !x.adm then s.updWarp x.at_ fun w => { w with waiting := false } else s
    let next := match choose (s.core core).start (l.filter fun x => !x.w.called || x.fault.isSome) with
      | some x => ((x.next.getD s).hasIssued x.at_).markFreed core (l.filter fun y => y.at_ != x.at_) (s.core core).rings
      | none => s
    let s := l.foldl clear next
    let s := (l.filter fun x => x.w.called).foldl (fun s x => s.answerCall x.at_) s
    { s with cursor := ⟨s.cursor.cluster, s.cursor.phase + 1⟩ }

end Sys2Proof.Machine
end

