-- ==== Sys2Proof/Machine/Cycle.lean ====
section
/-! DEFINITION. A cluster's cycle: when its clock runs, the turns of its cores, and what takes effect at the end of the cycle, in order
(04_copies_and_landing R90 to R100; 05 R132, R139, R145; 07 R175 to R178; 12 R265, R275; 14 R329, R335; 15 R346 to R348; 17 R387). -/

namespace Sys2Proof.Machine

open Host (Outcome)

/-! ### The clock (04 R90) -/

def coresOf (cl : Nat) : List Nat := (List.range 4).map fun k => cl * 4 + k

/-- Is the cluster's die up? -/
def State.dieUp (s : State) (cl : Nat) : Bool := (s.die (cl / 4)).powered && !(s.die (cl / 4)).dead

/-- Is there something that the cluster's clock moves: a live warp, or what an ended one has left? -/
def State.runs (s : State) (cl : Nat) : Bool :=
  let c := s.cluster cl
  s.dieUp cl && (!(s.liveIn cl).isEmpty || !c.tasks.isEmpty || !c.acs.isEmpty || !c.lands.isEmpty || !c.outs.isEmpty || !c.arrived.isEmpty ||
    (coresOf cl).any fun k => let x := s.core k; !x.copies.isEmpty || !x.loads.isEmpty || !x.tagWaits.isEmpty || !x.rels.isEmpty || !x.spawns.isEmpty)

/-- Has a load that is due in the next cycle lines, or an atomic words, that have not come? What atomics of the cluster still land in time. -/
def State.lateLoad (s : State) (core : Nat) (l : Load) : Bool :=
  let c := s.cluster (clusterOf core)
  l.due == c.lcyc + 1 && (if l.atomic then
      decide ((c.lands.filter fun x => x.src == core && (match x.atom with
        | some (id, _, _, _, _) => id == l.id
        | none => false)).length < l.left)
    else l.lines.any fun x => x.data.isNone)

/-- The clock stands still: a debug hold, a lease stop, a relock; a core under a self-test, whose warps wait (17 R399); data that is due and has not come. -/
def State.standsStill (s : State) (cl : Nat) : Bool :=
  let d := s.die (cl / 4)
  let t := (s.cluster cl).lcyc
  d.debugHold || d.leaseStop || decide (d.relock > s.root) || (coresOf cl).any s.coreTested ||
  ((coresOf cl).any fun k => ((s.core k).loads.any (s.lateLoad k)) || (s.core k).copies.any fun (_, c) => c.late t) ||
  (s.passesDue cl).any fun (q, p) => !s.passReady cl q p

/-- Instruction lines that the cluster's warps need and that are absent: core and line. -/
def State.misses (s : State) (cl : Nat) : List (Nat × Nat) :=
  ((s.liveIn cl).filterMap fun (a, w) =>
    if w.leaving.isSome || w.entering.isSome || w.yielded || w.ctx.hold.isSome then none
    else match s.fetch a.core w.nid w.ctx.pc with
      | .miss => some (a.core, w.ctx.pc.toNat / 256)
      | _ => none).eraseDups

/-- Is the fill of an instruction line under way? -/
def State.fillComes (s : State) (core line : Nat) : Bool :=
  (s.flight ++ s.parked).any fun f => f.ev == .instructionCacheMiss core line true || f.ev == .instructionCacheMiss core line false

/-! ### The end of a cycle, stage by stage -/

/-- Elements in ascending order of a number; equal ones keep their order. -/
def byKey {α : Type} (f : α → Nat) (l : List α) : List α :=
  l.foldl (fun acc x => let (a, b) := acc.partition fun y => decide (f y ≤ f x); a ++ x :: b) []

/-- Admissions of warps that wait while something has arrived (04 R92); without a live warp what has arrived takes effect at once. -/
def State.endAdmissions (s : State) (cl : Nat) : State × List Ev :=
  let c := s.cluster cl
  if (s.liveIn cl).isEmpty then (s.updCluster cl fun c => { c with arrived := [] }, c.arrived.map Prod.snd)
  else if c.arrived.isEmpty && c.oldLeaves.isEmpty then (s, [])
  else (s, ((s.liveIn cl).filter fun (_, w) => w.waiting).map fun (a, _) => .outsideEventAdmission a)

/-- Reads from core SRAM that are due come before the cycle's landings (04 R103, 07 R178, 14 R329). -/
def State.endReads (s : State) (cl : Nat) : State × List Ev :=
  let s := (s.seeAtomics cl).readDueChunks cl
  (s, (s.passesDue cl).map fun (q, p) => .taskOperandLineDue cl q p)

/-- Outside writes land when a warp is at an admission point (04 R99). -/
def State.endOuts (s : State) (cl : Nat) : State × List Ev :=
  let c := s.cluster cl
  let open_ := c.adm || (s.liveIn cl).isEmpty || (s.liveIn cl).any fun (_, w) => w.waiting
  (s.updCluster cl fun c => { c with adm := false }, if open_ then (c.outs.filter fun o => o.pinned.isNone).map fun _ => .outsideWriteLanding cl else [])

/-- Copy chunks, by the cycle of their trigger, then by core (04 R100, R107). -/
def State.endCopies (s : State) (cl : Nat) : State × List Ev :=
  let t := (s.cluster cl).lcyc
  let l := (coresOf cl).flatMap fun k => ((s.core k).copies.filter fun (_, c) => c.acts t).map fun (slot, c) => (c.t, k, slot)
  (s, (byKey (fun (x : Nat × Nat × Nat) => x.1) l).map fun (_, k, slot) => .copyChunkLanding k slot)

/-- Accumulator accesses of the cycle (14 R335). -/
def State.endAccesses (s : State) (cl : Nat) : State × List Ev := (s, (s.cluster cl).acsDue.map fun id => .acAccess cl id)

/-- Tasks that retire, by the cycle of their trigger, then by core (04 R100, 07 R177). -/
def State.endTasks (s : State) (cl : Nat) : State × List Ev :=
  let c := s.cluster cl
  let now := c.tasks.filter fun (_, t) => match t.st with
    | .dispatched _ r _ => r == c.lcyc
    | _ => false
  (s, (byKey (fun (x : Nat × Task) => x.2.t * 4 + x.2.core % 4) now).map fun (q, _) => .taskRetire cl q)

/-- Lane stores and atomics that land, by the cycle of their trigger, then by core (04 R98, R100; 14 R329). -/
def State.endStores (s : State) (cl : Nat) : State × List Ev :=
  let c := s.cluster cl
  (s, (byKey (fun (l : Land) => l.trig * 4 + l.src % 4) (c.lands.filter fun l => l.land == c.lcyc)).map fun l => .laneStoreLanding cl l.id)

/-- Warp arrivals are counted, then the engine arrivals whose futures have resolved (15 R346, R348): once before warps exit, and again after their
exits have completed group barriers. -/
def State.endArrivals (s : State) (cl : Nat) : State × List Ev :=
  let s := (coresOf cl).foldl State.warpArrivals s
  (s, (coresOf cl).flatMap fun k => (s.core k).enginesDue.map fun (b, e) => .engineArrival k b e)

/-- Group barriers of the cluster complete, those too that an exit of this cycle completes (15 R352). -/
def State.endGroups (s : State) (cl : Nat) : State × List Ev := (s, (s.groupsDue cl).map fun (n, g) => .groupBarrierCompletion n g)

/-- Barriers release whom they hold (15 R347). -/
def State.endHolds (s : State) (cl : Nat) : State × List Ev := (s.releaseHeld cl, [])

/-- Tag waits that are met (04 R115). -/
def State.endTags (s : State) (cl : Nat) : State × List Ev := ((coresOf cl).foldl State.meetTags s, [])

/-- Results that become readable in this cycle set their flags (05 R132). -/
def State.endUnits (s : State) (cl : Nat) : State × List Ev :=
  let t := (s.cluster cl).lcyc
  (s, (s.liveIn cl).flatMap fun (a, w) => (w.units.filter fun (_, d, _) => decide (d ≤ t)).map fun (u, d, fl) => .unitResult a u d fl)

/-- Warps that exit, and ring storage that returns (12 R275, 14 R338). -/
def State.endExits (s : State) (cl : Nat) : State × List Ev :=
  let s := ((s.liveIn cl).filter fun (_, w) => w.leaving.isSome).foldl (fun s (a, _) => s.exitWarp a) s
  (s.updCluster cl fun c => { c with ringUsed := c.ringUsed - c.ringBack, ringBack := 0 }, [])

/-- Tasks dispatched in the next cycle (07 R175). -/
def State.endDispatches (s : State) (cl : Nat) : State × List Ev := (s, (s.dispatches cl).map fun (q, e) => .taskDispatch cl q e)

/-- Registers that are given return, then claims that can be granted are, one at a time (05 R138, R139). -/
def State.endGrants (s : State) (cl : Nat) : State × List Ev :=
  let s := (s.liveIn cl).foldl (fun s (a, w) => s.gives a w) s
  (s, ((coresOf cl).filter s.claimReady).map fun k => .claimGrant k)

/-- Responders that can start, one at a time (08 R201). -/
def State.endSpawns (s : State) (cl : Nat) : State × List Ev :=
  (s, ((coresOf cl).filter fun k => (s.nextSpawn k).isSome).map fun k => .spawn k false)

/-- Is the warp blocked within its cluster (05 R144): held by a barrier or a claim, or waiting on its neighbours alone, with nothing outstanding? -/
def State.isBlocked (s : State) (a : WarpAt) (w : Warp) : Bool :=
  !s.busyWarp a.core w.wid && w.leaving.isNone && w.entering.isNone && !w.yielded && (w.ctx.hold.isSome || (match s.judge a w with
    | .waits _ b _ _ => b
    | _ => false))

/-- The ring check, else the claim check, where a ring is full or a claim waits (05 R145). -/
def State.endChecks (s : State) (cl : Nat) : State × List Ev :=
  if (s.fullRings cl).isEmpty && (coresOf cl).all fun k => (s.core k).claims.isEmpty then (s, [])
  else
    let s := (s.liveIn cl).foldl (fun t (a, w) => t.updWarp a fun x => { x with blocked := s.isBlocked a w }) s
    (s, if s.ringCheckActs cl then [.ringCheck cl] else if (s.claimCores cl).isEmpty then [] else [.claimCheck cl])

/-- Warps that pass over a bundle (12 R265). -/
def State.endSkips (s : State) (cl : Nat) : State × List Ev :=
  (s, ((s.liveIn cl).filter fun (_, w) => w.free && w.ctx.skip.isSome && !w.issued).map fun (a, _) => .skip a)

/-- Loads and atomics whose results are due in the next cycle (04 R94). -/
def State.endLoads (s : State) (cl : Nat) : State × List Ev :=
  let t := (s.cluster cl).lcyc
  let due := (coresOf cl).flatMap fun k => ((s.core k).loads.filter fun l => l.due == t + 1).map fun l => (WarpAt.mk k l.slot, l.un)
  (s, due.eraseDups.map fun (a, u) => .loadDue a u)

/-- Handlers that are entered, and pre-emptions that have lasted too long (17 R387, R395). -/
def State.endTraps (s : State) (cl : Nat) : State × List Ev :=
  let enter := ((s.liveIn cl).filter fun (a, w) => s.mayEnter a w).map fun (a, w) =>
    let r := w.entering.getD ⟨.user, 0, 0, 0⟩
    Ev.trapEntry a r.cause r.info r.tpc.toNat
  let late := (((s.liveIn cl).filter fun (a, w) => s.preLate a w).map fun (_, w) => (w.nid, s.homeKey w)).eraseDups
  (s, enter ++ late.map fun (n, k) => Ev.preEmptionTimeout n k)

/-- The stages at the end of a cycle, in order. -/
def State.stage (s : State) (cl : Nat) : Nat → State × List Ev
  | 0 => s.endAdmissions cl
  | 1 => s.endReads cl
  | 2 => s.endOuts cl
  | 3 => s.endCopies cl
  | 4 => s.endAccesses cl
  | 5 => s.endTasks cl
  | 6 => s.endStores cl
  | 7 => s.endTags cl
  | 8 => s.endUnits cl
  | 9 => s.endArrivals cl
  | 10 => s.endExits cl
  | 11 => s.endGroups cl
  | 12 => s.endArrivals cl
  | 13 => s.endHolds cl
  | 14 => s.endDispatches cl
  | 15 => s.endGrants cl
  | 16 => s.endSpawns cl
  | 17 => s.endChecks cl
  | 18 => s.endSkips cl
  | 19 => s.endLoads cl
  | _ => s.endTraps cl

/-- The number of stages. -/
def nStages : Nat := 21

/-- Stages that are looked at again after their actions: one grant may make room for the next. -/
def again (k : Nat) : Bool := k == 15 || k == 16

/-- The next cycle: what was due has gone, releases look again, the counter rises (04 R90, R96). -/
def State.endCycle (s : State) (cl : Nat) : State :=
  let t := (s.cluster cl).lcyc + 1
  let s := (coresOf cl).foldl (fun s k =>
    if (s.core k).loads.any fun l => decide (l.due < t) then s.updCore k fun c => { c with loads := c.loads.filter fun l => decide (t ≤ l.due) }
    else s) s
  let s := (coresOf cl).foldl (fun s k => if (s.core k).tagged == 0 then s else s.updCore k fun c => { c with tagged := 0 }) s
  let s := (s.liveIn cl).foldl (fun s (a, w) => if w.issued then s.updWarp a fun w => { w with issued := false } else s) s
  let s := (coresOf cl).foldl (fun s k => if (s.core k).rels.isEmpty then s else s.runRels k) s
  s.updCluster cl fun c => { c with lcyc := t, stopped := false }

/-! ### Whose turn it is -/

/-- The next cluster, from a number on, whose clock runs; past the last one a tick of the almanac follows. -/
def State.toCluster (s : State) (from_ : Nat) : State :=
  match (List.range 64).find? fun k => decide (from_ ≤ k) && s.runs k with
  | some k => { s with cursor := ⟨k, 0⟩ }
  | none => { s with cursor := ⟨0, 0⟩ }.later [.almanacTick]

/-- The stages from k on: those without actions are passed, n of them at most; after the last one the cycle ends. -/
def State.endFrom (s : State) (cl k : Nat) : Nat → State
  | 0 => (s.endCycle cl).toCluster (cl + 1)
  | n + 1 =>
    let (s, e) := s.stage cl k
    if e.isEmpty && s.agenda.isEmpty then s.endFrom cl (k + 1) n
    else { s with cursor := ⟨cl, 4 + (if again k then k else k + 1)⟩ }.later e

/-- The start of a cluster's cycle: its clock runs or stands still; instruction lines that are absent are fetched first. -/
def State.startCycle (s : State) (cl : Nat) : State :=
  let m := s.misses cl
  if !s.runs cl then s.toCluster cl
  else if s.standsStill cl then ((s.askPasses cl).updCluster cl fun c => { c with stopped := true }).toCluster (cl + 1)
  else if m.isEmpty then s.coreTurn (cl * 4)
  else
    let asks := m.filter fun (k, l) => !s.fillComes k l
    ((s.updCluster cl fun c => { c with stopped := true }).toCluster (cl + 1)).later (asks.map fun (k, l) => .instructionCacheMiss k l false)

/-- The clusters go on by one turn. -/
def State.turn (s : State) : State :=
  let cl := s.cursor.cluster
  let p := s.cursor.phase
  if p = 0 then s.startCycle cl
  else if !s.dieUp cl then s.toCluster (cl + 1)
  else if p < 4 then s.coreTurn (cl * 4 + p)
  else s.endFrom cl (p - 4) (nStages - (p - 4))

end Sys2Proof.Machine
end

