-- ==== Sys2Proof/Machine/World.lean ====
section
/-! DEFINITION. What happens next: the actions of the present cycle, the world's choices, messages on their way, and the clusters' turns
(01_stacks_and_base R35, 04 R92, 17 R394; log entries 1 and 2). -/

namespace Sys2Proof.Machine

/-- Events that come from outside the package, or from its own firmware, supplies and faults of its parts; every other event follows from the
state. -/
def fromOutside : Ev → Bool
  | .hostCxlMemRead _ _ _ _ _ | .hostCxlMemWrite _ _ _ _ _ | .backInvalidateSnoop _ _ | .hostSnoop _ _ | .pageResident _ _ | .leafChange _ _
  | .tail _ _ | .queueRegisterWrite _ _ _ _ | .preEmption _ _ | .prepare _ | .commit _ | .abort _ | .heartbeat _ | .vendorDefinedMessage _
  | .bind _ _ | .linkTraining _ _ | .retrain _ | .tenantReset _ | .isolationTableWrite _ | .dieReset _ _ | .controlDieReset _
  | .debugHold _ | .debugHoldEnd _ | .pinnedPoolSet _ _ | .clockChange _ _ | .overcurrent _ | .currentLimit _ _ | .selfTest _ _
  | .baseField0PowerUp | .firmwareDownload _ | .controlDiePowerUp | .baseFieldsPowerUp | .stackTraining _ | .computeDiePowerUp _
  | .powerDown | .attestation false | .pageError _ | .heldRecordRemoval _ | .powerLoss | .directoryError _ _ | .l1Eviction _ _ => true
  | .peerAtomic r => r.agent == .host
  | _ => false

/-- Events that a cluster admits at the start of a cycle alone (17 R394, R397; 15 R362). -/
def atCycleStart : Ev → Bool
  | .preEmption _ _ | .gangAbort _ | .overflowTimeout _ => true
  | _ => false

/-- The network port of a message's end: a cluster's cores share one (01 R35). -/
def netPort (n : Nat) : Nat := if n < 256 then n / 4 else n

/-- Is it a message of the same warp to the same warp? They keep their order, wherever the sender runs meanwhile (15 R358). -/
def sameTalk (f g : Flight) : Bool := match f.ev, g.ev with
  | .messageArrival m, .messageArrival n => m.nid == n.nid && m.ddie == n.ddie && m.dclus == n.dclus && m.dwarp == n.dwarp &&
    (m.sender.map FutAt.wid) == (n.sender.map FutAt.wid)
  | _, _ => false

/-- A message on its way is taken; within its class, from one source port to one destination port, none overtakes (01 R35). An event for the start of a
cycle waits for it: the clusters go on. -/
def State.taken (s : State) (k : Nat) : State × Option Ev :=
  match s.flight[k]? with
  | none => (s, none)
  | some f =>
    if (s.flight.take k).any fun g => (g.cls == f.cls && netPort g.src == netPort f.src && netPort g.dst == netPort f.dst) || sameTalk f g then (s, none)
    else if atCycleStart f.ev && s.cursor.phase != 0 then (s.turn, none)
    else ({ s with flight := s.flight.eraseIdx k }, some f.ev)

/-- A message with tokens that arrives with an uncorrectable error is lost with what it carries: its sector is recalled (02 R62). -/
def State.corrupted (s : State) (k : Nat) : State :=
  match s.flight[k]? with
  | none => s
  | some f => match f.ev with
    | .tokenTransfer m => { s with flight := s.flight.eraseIdx k }.send .request basePort basePort (.directoryError m.sector true)
    | _ => s

/-- A step of the bring-up that fails stops it; the vigil processor, once it runs, reports the step and the cause. A stack or a compute die that
fails is fenced instead (19 R421). -/
def State.stepFails (s : State) (cause : Nat) : State :=
  let n := s.bringUp + 1
  if n > 4 || s.upFailed.isSome then s
  else
    let s := { s with upFailed := some n }
    if n = 1 then s else s.emit (.bringUp n (some cause))

/-- The world's choice. -/
def State.chosen (s : State) : Choice → State × Option Ev
  | .deliver k => s.taken k
  | .advance => (s.turn, none)
  | .tick => (s, some .almanacTick)
  | .event e => (if fromOutside e then s.comes e else s, none)
  | .corrupt k => (s.corrupted k, none)
  | .dramError x => ({ s with badDram := x :: s.badDram.filter fun y => y != x }, none)
  | .debugEnable d on => (s.updDie d fun x => { x with debugEnable := on }, none)
  | .gang id peers => (s.putGang id { s.gang id with peers := peers.take 15 }, none)
  | .stepFails cause => (s.stepFails cause, none)
  | .farAnswer k => (s.farAnswered k, none)
  | .farMemory pa bytes => (s.farChanges pa bytes, none)
  | .hdm ld i base size dpa => (if ld < 17 && i < 16 then { s with hdm := Tab.put s.hdm (ld * 16 + i) (base, size, dpa) } else s, none)
  | .barRead ld off => (s.barRead ld off, none)
  | .barWrite ld off v => (s.barWrite ld off v, none)
  | .errorIn r => (s.testBegins r, none)

/-- What happens next, with the event whose row of the opcode table runs: first the actions of the present cycle, then the world's choices,
then what is on its way, then the clusters' turns. -/
def State.upNext (s : State) : State × Option Ev :=
  match s.agenda with
  | e :: rest => ({ s with agenda := rest }, some e)
  | [] => match s.tape with
    | c :: rest => { s with tape := rest }.chosen c
    | [] => if s.flight.isEmpty then (s.turn, none) else s.taken 0

/-! ### A program in place -/

/-- The node of the placed program: one warp, 64 bundles of program at VA 0x1_0000, a launch space of one level. -/
def placedNode : Node :=
  { nid := 0, ten := 0, raw := BitVec.ofNat 512 (1 + 1 * 2 ^ 5 + 1 * 2 ^ 8 + 256 * 2 ^ 15 + 0x100 * 2 ^ 240 + 1 * 2 ^ 480)
    args := [], plen := 2048, segs := [], groups := [], root := 0x20000, levels := 1, st := .running, ready := none, preds := [], places := [0]
    fut := none, queue := 0, entry := none }

/-- The leaf of the program's page: valid, read, write and atomic, non-coherent, cached, frame 1. -/
def placedLeaf : Nat := 2 ^ 63 + 2 ^ 62 + 7 * 2 ^ 47 + 1

/-- The page-table entry and the bundle as they stand in memory. -/
def placedBytes (w : Nat) : List (Nat × Byte) := placed 0x10000 (leBytes 32 w) ++ placed 0x20008 (leBytes 8 placedLeaf)

/-- A slice without the lines of the placed program. -/
def Slice.without (x : Slice) : Slice :=
  let mine (line : Nat) : Bool := line == 0x100 || line == 0x200
  { x with lines := x.lines.filter fun (_, l) => !mine l.line, wb := x.wb.filter fun e => !mine e.line }

/-- The warp that fetches the placed bundle: at an admission point, so that one which waits for none issues at once. -/
def State.placedWarp (s : State) : Warp :=
  let w := (s.warp? ⟨0, 0⟩).getD { wid := s.nextWid, nid := 0, die := 0, clus := 0, warp := 0, regs := 256 }
  { w with
    nid := 0, waiting := true, leaving := none, entering := none, yielded := false, overflow := none, issued := false, first := 0
    ctx := { w.ctx with pc := 0x10000, hold := none, skip := none } }

/-- The bundle stands where the first warp of core 0 fetches, and that warp's turn is next: its die is up, its node runs, its page is mapped. -/
def State.withBundle (s : State) (w : Nat) : State :=
  let d := s.die 0
  let d : Die := { d with powered := true, dead := false, fenced := false, known := max d.known (s.root + 2 ^ 16)
                          expiry := max d.expiry (s.root + 2 ^ 16), leaseStop := false, fresh := false, debugHold := false, relock := 0 }
  let ofSlice (x : Slice) : Slice := x.without
  let quiet (k : Nat) (c : Core) : Core := if k < 4 then { c with loads := [], copies := [] } else c
  let s0 := { s with
    dies := Tab.put s.dies 0 d
    nodes := placedNode :: s.nodes.filter fun n => n.nid != 0
    windows := if s.windows.contains 0 then s.windows else 0 :: s.windows
    slices := s.slices.map fun (k, x) => (k, ofSlice x)
    mem := writeCells s.mem (placedBytes w)
    cores := s.cores.map fun (k, c) => (k, quiet k c)
    warps := Tab.put (s.warps.filter fun (k, _) => decide (k ≥ 64)) 0 s.placedWarp
    nextWid := s.nextWid + 1
    agenda := [], tape := [], flight := [], parked := [], snap := none, mslot := 7, verdict := .done, cursor := ⟨0, 0⟩ }
  let s1 := s0.updCore 0 fun c => { c with start := 0, ilines := if c.ilines.contains 0x100 then c.ilines else 0x100 :: c.ilines }
  s1.updCluster 0 fun c => { c with tasks := [], oldLeaves := [] }

end Sys2Proof.Machine
end

