-- ==== Sys2Proof/Machine/Step.lean ====
section
/-! DEFINITION. The step of the package, and a program in place. -/

namespace Sys2Proof.Machine

/-- One step: what happens next, and where it is an event, the meaning of its row. -/
def step (s : State) : Host.Outcome State Fault Refusal :=
  match s.upNext with
  | (s, some e) => exec e.row { s with ev := some e }
  | (s, none) => .next s

/-- The instruction of a table word stored where the next step fetches it: a bundle whose bits above `nbits` are 0 (log entry 25). -/
def State.withFetchWord (s : State) (nbits w : Nat) : State := s.withBundle (w % 2 ^ min nbits 256)

end Sys2Proof.Machine
end

