-- ==== Sys2Proof/Safety.lean ====
section
/-! DEFINITION. What counts as a safe run: the forms that every state of a run keeps, and the runs that stop nowhere. -/

namespace Sys2Proof.Machine

/-- The memory behind the stacks, the peers and the host windows keeps its canonical form. -/
def State.MemWf (s : State) : Prop := cellsWf s.mem = true

/-- Each of the 37 island limits stands at or below its figure of 19 R416. -/
def State.LimitsWf (s : State) : Prop := s.limits.length = 37 ∧ ∀ i, s.limits.getD i 0 ≤ Config.islandFigure i

/-- The base error log holds at most 4,096 entries (17 R400). -/
def State.LogWf (s : State) : Prop := s.errLog.length ≤ 4096

/-- What every state of a run keeps. -/
structure State.Inv (s : State) : Prop where
  mem : s.MemWf
  limits : s.LimitsWf
  log : s.LogWf

/-- `k` steps from a state end in a state: no step stops. -/
def SafeRun (k : Nat) (s t : State) : Prop := core.run k s = .next t

end Sys2Proof.Machine
end

