-- ==== Sys2Proof/Certificates/Slice0/Obligations.lean ====
section
/-! DEFINITION. The statements for the provers. In `Sys2Proof.Rules` stand the words in which they are put, written from the rules of the spec
and not from the meanings; the statements themselves follow. -/

namespace Sys2Proof.Rules

open Sys2Proof.Machine
open Host (Outcome)

abbrev Out := Outcome State Fault Refusal

/-! ### Reading and finishing -/

/-- `w` is the warp at the cursor, the move's guard is true in the lanes `g`, and its source is readable there with the value `v`. -/
structure Ready (s : State) (w : Warp) (m : Mv) (wide : Bool) (g : W32) (v : Lanes) : Prop where
  live : s.warp? s.cur = some w
  guard : (s.srcCtx w).guard m.g = g
  source : s.source w m.src g wide = .ok v

/-- The state when the instruction at the cursor has changed its own warp and nothing else. -/
def mine (s : State) (w : Warp) : State := { s with warps := Tab.put s.warps (warpKey s.cur) w, verdict := .done }

/-- The warp with another context. -/
def withCtx (w : Warp) (x : Ctx) : Warp := { w with ctx := x }

/-- `k` is the lowest lane of the mask. -/
def LowestLane (g : W32) (k : Nat) : Prop := k < 32 ∧ g.getLsbD k = true ∧ ∀ j, j < k → g.getLsbD j = false

/-- The port of a unit when its function has started in the lanes `g` and the results are readable from cycle `due`. -/
def pendingPort (p : Port) (now due : Nat) (g : W32) (res sec : Lanes) : Port :=
  { p.seen now with pend := g, nres := res, nsec := sec, due := some due, op := 0, npsn := 0 }

/-- The unit `u` of the warp has started in the lanes `g`: the results `val` are readable `lat` cycles on, and the flags of the started lanes are
set at the end of that cycle; nothing else changes but the generators, which are `gens` (05 R128 to R132). -/
def Starts (s : State) (w : Warp) (u : Un) (lat : Nat) (g : W32) (val : Nat → W64 × W64 × BitVec 8) (gens : List W32) (o : Out) : Prop :=
  ∃ (res sec : Lanes) (fl : BitVec 8),
    o = .next (mine s { w with
      ctx := { w.ctx with
        gens := gens
        ports := Tab.put w.ctx.ports u.code (pendingPort (w.ctx.port u) s.now (s.now + lat) g res sec) }
      units := (w.units.filter fun x => x.1 != u || x.2.1 ≤ s.now) ++ [(u, s.now + lat, fl)] }) ∧
    (∀ i, i < 32 → g.getLsbD i = true → laneAt res i = (val i).1 ∧ laneAt sec i = (val i).2.1) ∧
    (∀ k, k < 8 → (fl.getLsbD k = true ↔ ∃ i, i < 32 ∧ g.getLsbD i = true ∧ (val i).2.2.getLsbD k = true))

/-- A scalar-class unit has started: one value in every lane. -/
def StartsScalar (s : State) (w : Warp) (u : Un) (lat : Nat) (val : W64 × W64 × BitVec 8) (o : Out) : Prop :=
  Starts s w u lat 0xFFFFFFFF (fun _ => val) w.ctx.gens o

/-- The warp with an engine's value in its result port, readable in the next cycle. -/
def withResult (w : Warp) (now : Nat) (u : Un) (v : W64) : Warp :=
  let p := pendingPort (w.ctx.port u) now (now + 1) 0xFFFFFFFF (List.replicate 32 v) (List.replicate 32 0)
  withCtx w { w.ctx with ports := Tab.put w.ctx.ports u.code p }

/-! ### Integers (13 R286 to R296, R310, R311) -/

/-- The width of an integer type. -/
def width (ty : Ty) : Nat := if ty.is64 then 64 else 32

/-- The operand of a type, as its bits and as its number. -/
def bits (ty : Ty) (x : W64) : BitVec (width ty) := x.setWidth (width ty)
def num (ty : Ty) (x : W64) : Int := if ty.isSigned then (bits ty x).toInt else ((bits ty x).toNat : Int)
def sgn (ty : Ty) (x : W64) : Int := (bits ty x).toInt
def nat (ty : Ty) (x : W64) : Nat := (bits ty x).toNat

/-- The result port's 64 bits for a result of the type's width, and for a number taken modulo 2^W. -/
def out (ty : Ty) (x : BitVec (width ty)) : W64 := x.setWidth 64
def wrapped (ty : Ty) (x : Int) : W64 := out ty (BitVec.ofInt (width ty) x)

/-- Does a number lie outside the type's range? -/
def outOf (ty : Ty) (x : Int) : Bool :=
  if ty.isSigned then decide (x < -(2 ^ (width ty - 1))) || decide (2 ^ (width ty - 1) ≤ x) else decide (x < 0) || decide (2 ^ width ty ≤ x)

/-- R290: the exact number reduced, with the sat flag. -/
def fit (ty : Ty) (sat : Bool) (x : Int) : W64 × BitVec 8 :=
  if ty.isSigned && sat && outOf ty x then (wrapped ty (if x < 0 then -(2 ^ (width ty - 1)) else 2 ^ (width ty - 1) - 1), 0x20)
  else (wrapped ty x, 0)

def one (b : Bool) : W64 := if b then 1 else 0

/-- A function of a lane-class or scalar-class unit: its unit, latency, trigger, whether a vector register source is read wide, and what it
gives from the operands a, b, c and the value moved to t: result, secondary result, flags. -/
structure Fn where
  u : Un
  lat : Nat
  t : Trig
  wide : Bool
  val : Warp → W64 → W64 → W64 → W64 → W64 × W64 × BitVec 8

/-- A result alone. -/
def res (v : W64) : W64 × W64 × BitVec 8 := (v, 0, 0)
def reduced (ty : Ty) (sat : Bool) (x : Int) (sec : Bool) : W64 × W64 × BitVec 8 := ((fit ty sat x).1, one sec, (fit ty sat x).2)

/-- R289: modifier bit [3] or the sat bit of `mode`. -/
def saturates (w : Warp) (t : Trig) : Bool := t.md.getLsbD 3 || w.ctx.mode.getLsbD 3

/-- The functions of R291, by operation. -/
inductive AluOp where
  | add | sub | min | max | and | or | xor | andn | eq | ne | lt | le | sel | abs | neg | mov | shl | shr | sar
  deriving DecidableEq, Repr

def aluVal (op : AluOp) (ty : Ty) (sat : Bool) (a b t : W64) : W64 × W64 × BitVec 8 := match op with
  | .add => reduced ty sat (num ty a + num ty t) (outOf ty (num ty a + num ty t))
  | .sub => reduced ty sat (num ty a - num ty t) (outOf ty (num ty a - num ty t))
  | .min => res (out ty (if num ty a ≤ num ty t then bits ty a else bits ty t))
  | .max => res (out ty (if num ty a ≤ num ty t then bits ty t else bits ty a))
  | .and => res (out ty (bits ty a &&& bits ty t))
  | .or => res (out ty (bits ty a ||| bits ty t))
  | .xor => res (out ty (bits ty a ^^^ bits ty t))
  | .andn => res (out ty (bits ty a &&& ~~~(bits ty t)))
  | .eq => res (one (bits ty a == bits ty t))
  | .ne => res (one (bits ty a != bits ty t))
  | .lt => res (one (decide (num ty a < num ty t)))
  | .le => res (one (decide (num ty a ≤ num ty t)))
  | .sel => res (out ty (if bits ty t = 0 then bits ty b else bits ty a))
  | .abs => reduced ty sat (if num ty t < 0 then -num ty t else num ty t) (decide (num ty t = -(2 ^ (width ty - 1))))
  | .neg => reduced ty sat (-num ty t) (decide (num ty t = -(2 ^ (width ty - 1))))
  | .mov => res (out ty (bits ty t))
  | .shl => res (if width ty ≤ nat ty t then 0 else out ty (bits ty a <<< nat ty t))
  | .shr => res (out ty (bits ty a >>> nat ty t))
  | .sar => res (out ty ((bits ty a).sshiftRight (nat ty t)))

def iaUnit : Which → Un
  | .first => .ia
  | .second => .ib
def faUnit : Which → Un
  | .first => .fa
  | .second => .fb
def saUnit : Which → Un
  | .first => .sa
  | .second => .sb
def laUnit : Which → Un
  | .first => .la
  | .second => .lb

def aluFn (u : Un) (op : AluOp) (ty : Ty) (t : Trig) : Fn := ⟨u, 1, t, ty.is64, fun w a b _ x => aluVal op ty (saturates w t) a b x⟩

/-- R291: ia and ib. -/
def alu : Instr → Option Fn
  | .iaAdd u ty t => some (aluFn (iaUnit u) .add ty t)
  | .iaSub u ty t => some (aluFn (iaUnit u) .sub ty t)
  | .iaMin u ty t => some (aluFn (iaUnit u) .min ty t)
  | .iaMax u ty t => some (aluFn (iaUnit u) .max ty t)
  | .iaAnd u ty t => some (aluFn (iaUnit u) .and ty t)
  | .iaOr u ty t => some (aluFn (iaUnit u) .or ty t)
  | .iaXor u ty t => some (aluFn (iaUnit u) .xor ty t)
  | .iaAndn u ty t => some (aluFn (iaUnit u) .andn ty t)
  | .iaEq u ty t => some (aluFn (iaUnit u) .eq ty t)
  | .iaNe u ty t => some (aluFn (iaUnit u) .ne ty t)
  | .iaLt u ty t => some (aluFn (iaUnit u) .lt ty t)
  | .iaLe u ty t => some (aluFn (iaUnit u) .le ty t)
  | .iaSel u ty t => some (aluFn (iaUnit u) .sel ty t)
  | .iaAbs u ty t => some (aluFn (iaUnit u) .abs ty t)
  | .iaNeg u ty t => some (aluFn (iaUnit u) .neg ty t)
  | .iaMov u ty t => some (aluFn (iaUnit u) .mov ty t)
  | _ => none

/-- R310: sa and sb, with the 64-bit shifts of R294. -/
def scalarAlu : Instr → Option Fn
  | .saAdd u ty t => some (aluFn (saUnit u) .add ty t)
  | .saSub u ty t => some (aluFn (saUnit u) .sub ty t)
  | .saMin u ty t => some (aluFn (saUnit u) .min ty t)
  | .saMax u ty t => some (aluFn (saUnit u) .max ty t)
  | .saAnd u ty t => some (aluFn (saUnit u) .and ty t)
  | .saOr u ty t => some (aluFn (saUnit u) .or ty t)
  | .saXor u ty t => some (aluFn (saUnit u) .xor ty t)
  | .saAndn u ty t => some (aluFn (saUnit u) .andn ty t)
  | .saEq u ty t => some (aluFn (saUnit u) .eq ty t)
  | .saNe u ty t => some (aluFn (saUnit u) .ne ty t)
  | .saLt u ty t => some (aluFn (saUnit u) .lt ty t)
  | .saLe u ty t => some (aluFn (saUnit u) .le ty t)
  | .saSel u ty t => some (aluFn (saUnit u) .sel ty t)
  | .saShl u ty t => some (aluFn (saUnit u) .shl ty t)
  | .saShr u ty t => some (aluFn (saUnit u) .shr ty t)
  | .saSar u ty t => some (aluFn (saUnit u) .sar ty t)
  | _ => none

/-- Bits [2W−1 : W] of an exact product (R292, R311). -/
def highPart (ty : Ty) (x : Int) : W64 := out ty ((BitVec.ofInt (2 * width ty) x).extractLsb' (width ty) (width ty))

/-- Byte n of a packed operand, as its type means it. -/
def byteNum (ty : Ty) (x : W64) (n : Nat) : Int :=
  if ty.isSigned then (x.extractLsb' (8 * n) 8).toInt else ((x.extractLsb' (8 * n) 8).toNat : Int)

/-- R292, R293: im. -/
def multiply : Instr → Option Fn
  | .imMul ty t => some ⟨.im, 3, t, ty.is64, fun w a _ _ x => reduced ty (saturates w t) (num ty a * num ty x) false⟩
  | .imMulhi ty t => some ⟨.im, 3, t, ty.is64, fun _ a _ _ x => res (highPart ty (num ty a * num ty x))⟩
  | .imMad ty t => some ⟨.im, 3, t, ty.is64, fun w a b _ x => reduced ty (saturates w t) (num ty a * num ty b + num ty x) false⟩
  | .mulw ty t => some ⟨.im, 3, t, ty.is64, fun _ a _ _ x => res (BitVec.ofInt 64 (num ty a * num ty x))⟩
  | .madw ty t => some ⟨.im, 3, t, true, fun _ a b _ x => res (BitVec.ofInt 64 (num ty a * num ty b) + x)⟩
  | .dp4 ty t => some ⟨.im, 3, t, ty.is64, fun _ a b _ x =>
      let sum := byteNum ty a 0 * byteNum ty x 0 + byteNum ty a 1 * byteNum ty x 1 + byteNum ty a 2 * byteNum ty x 2 + byteNum ty a 3 * byteNum ty x 3
      res ((b.setWidth 32 + BitVec.ofInt 32 sum).setWidth 64)⟩
  | _ => none

/-- R311: sm. -/
def scalarMultiply : Instr → Option Fn
  | .smMul _ t => some ⟨.sm, 3, t, true, fun _ a _ _ x => res (a * x)⟩
  | .smMulhi ty t => some ⟨.sm, 3, t, true, fun _ a _ _ x => res (highPart ty (num ty a * num ty x))⟩
  | .smMad _ t => some ⟨.sm, 3, t, true, fun _ a b _ x => res (a * b + x)⟩
  | .div ty t => some ⟨.sm, 12, t, true, fun _ a _ _ x =>
      if x = 0 then (0xFFFFFFFFFFFFFFFF, a, 0x40) else if ty = .s64 then (a.sdiv x, a.srem x, 0) else (a / x, a % x, 0)⟩
  | .rem ty t => some ⟨.sm, 12, t, true, fun _ a _ _ x =>
      if x = 0 then (a, 0xFFFFFFFFFFFFFFFF, 0x40) else if ty = .s64 then (a.srem x, a.sdiv x, 0) else (a % x, a / x, 0)⟩
  | _ => none

/-- A word of the type's width, bit by bit. -/
def fromBits (ty : Ty) (f : Nat → Bool) : W64 := BitVec.ofNat 64 (((List.range (width ty)).map fun k => if f k then 2 ^ k else 0).sum)

/-- How many bits from the top, or from the bottom, are 0 before the first 1. -/
def leadingZeros (ty : Ty) (x : W64) : Nat := ((List.range (width ty)).takeWhile fun k => !(bits ty x).getLsbD (width ty - 1 - k)).length
def trailingZeros (ty : Ty) (x : W64) : Nat := ((List.range (width ty)).takeWhile fun k => !(bits ty x).getLsbD k).length

/-- R295: the length of a field, clipped to the word. -/
def fieldLen (ty : Ty) (pos len : Nat) : Nat := if width ty ≤ pos then 0 else Nat.min len (width ty - pos)

/-- R296: the byte that selector s names in the table of a and b. -/
def permByte (ty : Ty) (a b : W64) (s : Nat) : BitVec 8 :=
  if ty.is64 then (if s < 8 then a.extractLsb' (8 * s) 8 else b.extractLsb' (8 * (s - 8)) 8)
  else if s < 4 then a.extractLsb' (8 * s) 8 else if s < 8 then b.extractLsb' (8 * (s - 4)) 8 else 0

def shFn (ty : Ty) (t : Trig) (val : W64 → W64 → W64 → W64 → W64) : Fn := ⟨.sh, 1, t, ty.is64, fun _ a b c x => res (val a b c x)⟩

/-- R294 to R296: sh. -/
def shift : Instr → Option Fn
  | .shShl ty t => some (shFn ty t fun a _ _ x => if width ty ≤ nat ty x then 0 else out ty (bits ty a <<< nat ty x))
  | .shShr ty t => some (shFn ty t fun a _ _ x => out ty (bits ty a >>> nat ty x))
  | .shSar ty t => some (shFn ty t fun a _ _ x => out ty ((bits ty a).sshiftRight (nat ty x)))
  | .rol ty t => some (shFn ty t fun a _ _ x => out ty ((bits ty a).rotateLeft (nat ty x % width ty)))
  | .ror ty t => some (shFn ty t fun a _ _ x => out ty ((bits ty a).rotateRight (nat ty x % width ty)))
  | .popc ty t => some (shFn ty t fun _ _ _ x => BitVec.ofNat 64 ((List.range (width ty)).countP fun k => (bits ty x).getLsbD k))
  | .clz ty t => some (shFn ty t fun _ _ _ x => BitVec.ofNat 64 (leadingZeros ty x))
  | .ctz ty t => some (shFn ty t fun _ _ _ x => BitVec.ofNat 64 (trailingZeros ty x))
  | .brev ty t => some (shFn ty t fun _ _ _ x => fromBits ty fun i => (bits ty x).getLsbD (width ty - 1 - i))
  | .bfx ty t => some (shFn ty t fun a b _ x =>
      fromBits ty fun k => decide (k < fieldLen ty (nat ty b) (nat ty x)) && (bits ty a).getLsbD (nat ty b + k))
  | .bfxs ty t => some (shFn ty t fun a b _ x =>
      let len := fieldLen ty (nat ty b) (nat ty x)
      fromBits ty fun k => decide (0 < len) && (bits ty a).getLsbD (nat ty b + Nat.min k (len - 1)))
  | .bfi ty t => some (shFn ty t fun a b c x =>
      let len := fieldLen ty (nat ty c) (nat ty x)
      fromBits ty fun k => if nat ty c ≤ k ∧ k < nat ty c + len then (bits ty b).getLsbD (k - nat ty c) else (bits ty a).getLsbD k)
  | .perm ty t => some (shFn ty t fun a b _ x =>
      fromBits ty fun k => (permByte ty a b (x.extractLsb' (4 * (k / 8)) 4).toNat).getLsbD (k % 8))
  | _ => none

/-- R309: pl, lane by lane. -/
def predLogic : Instr → Option Fn
  | .plAnd t => some ⟨.pl, 1, t, false, fun _ a _ _ x => res (one (a != 0 && x != 0))⟩
  | .plOr t => some ⟨.pl, 1, t, false, fun _ a _ _ x => res (one (a != 0 || x != 0))⟩
  | .plXor t => some ⟨.pl, 1, t, false, fun _ a _ _ x => res (one ((a != 0) != (x != 0)))⟩
  | .plAndn t => some ⟨.pl, 1, t, false, fun _ a _ _ x => res (one (a != 0 && !(x != 0)))⟩
  | .plNot t => some ⟨.pl, 1, t, false, fun _ _ _ _ x => res (one (!(x != 0)))⟩
  | _ => none

/-- A lane unit starts its function in the lanes of the guard, each lane with its own operands. -/
def LaneFunction (tab : Instr → Option Fn) : Prop :=
  ∀ (i : Instr) (f : Fn), tab i = some f → WellFormed i → ∀ (s : State) (w : Warp) (g : W32) (v : Lanes),
    Ready s w f.t.mv f.wide g v → g ≠ 0 →
    Starts s w f.u f.lat g
      (fun i => f.val w (laneAt (w.ctx.port f.u).a i) (laneAt (w.ctx.port f.u).b i) (laneAt (w.ctx.port f.u).c i) (laneAt v i)) w.ctx.gens (exec i s)

/-- A scalar unit performs one operation, on the value of the guard's lowest lane (05 R126). -/
def ScalarFunction (tab : Instr → Option Fn) : Prop :=
  ∀ (i : Instr) (f : Fn), tab i = some f → WellFormed i → ∀ (s : State) (w : Warp) (g : W32) (v : Lanes) (k : Nat),
    Ready s w f.t.mv f.wide g v → LowestLane g k →
    StartsScalar s w f.u f.lat
      (f.val w (laneAt (w.ctx.port f.u).a 0) (laneAt (w.ctx.port f.u).b 0) (laneAt (w.ctx.port f.u).c 0) (laneAt v k)) (exec i s)

/-! ### Floating point and conversions (06 R155 to R165, 13 R297 to R304) -/

/-- One draw of a lane generator: xorshift, of which the high half is the value (06 R161). -/
def xorshift (x : W32) : W32 :=
  let y := x ^^^ (x <<< 13)
  let z := y ^^^ (y >>> 17)
  z ^^^ (z <<< 5)

/-- n draws, and the generator after them. -/
def drawn : Nat → W32 → List Nat × W32
  | 0, x => ([], x)
  | n + 1, x => (((xorshift x) >>> 16).toNat :: (drawn n (xorshift x)).1, (drawn n (xorshift x)).2)

/-- The draws of a lane: none are made, and 0 stands in their place, unless the rounding is stochastic (06 R162). -/
def laneDraws (r : RCtl) (n : Nat) (x : W32) : List Nat × W32 := if r.rm = .sr then drawn n x else (List.replicate n 0, x)

/-- The generators after a trigger that draws n times in each started lane. -/
def gensAfter (r : RCtl) (n : Nat) (g : W32) (gens : List W32) : List W32 :=
  if r.rm = .sr then (List.range 32).map fun i => if g.getLsbD i then (drawn n (gens.getD i 0)).2 else gens.getD i 0 else gens

/-- The outcome of an arithmetic function, from its operands and its exact value (none for an invalid form): R297. -/
def arithmetic (f : Fmt) (r : RCtl) (d : Nat) (ops : List FVal) (x : Option FVal) : Nat × BitVec 8 :=
  let snan : BitVec 8 := if ops.any FVal.isSnan then 0x01 else 0
  if ops.any FVal.isNan then (nanOf f, snan)
  else match x with
    | none => (nanOf f, 0x01)
    | some (.nan _) => (nanOf f, 0)
    | some (.inf neg) => if r.sat then (maxFin f neg, 0x20) else (infOf f neg, 0)
    | some (.fin neg m e) => if m = 0 then (signOf f neg, 0) else roundMag f r d neg ⟨m, e, false⟩

/-- Elements of a type: two of 16 bits in a packed one, else one (R286). -/
def elements (ty : Ty) : Nat := if ty = .f16x2 ∨ ty = .bf16x2 then 2 else 1
def elemWidth (ty : Ty) : Nat := match ty with
  | .f64 => 64
  | .f32 => 32
  | _ => 16
def element (ty : Ty) (x : W64) (k : Nat) : Nat := (x.toNat >>> (16 * k)) % 2 ^ elemWidth ty

/-- Both elements' results in their places, their flags joined (R287, R299). -/
def packed (ty : Ty) (f : Nat → Nat × BitVec 8) : W64 × W64 × BitVec 8 :=
  if elements ty = 2 then (BitVec.ofNat 64 ((f 0).1 + (f 1).1 * 65536), 0, (f 0).2 ||| (f 1).2) else (BitVec.ofNat 64 (f 0).1, 0, (f 0).2)

/-- A rounding function: as `Fn`, with the control that its modifier and `mode` give, the draws of a lane, and how many it makes. -/
structure RFn where
  u : Un
  lat : Nat
  t : Trig
  wide : Bool
  n : Nat
  val : RCtl → Nat → W64 → W64 → W64 → W64 → List Nat → W64 × W64 × BitVec 8

/-- Operands and exact value of the five functions of R297. -/
inductive FaOp where
  | add | sub | mul | fma | fnma
  deriving DecidableEq, Repr

def faExact (op : FaOp) (rm : RMode) (a b t : FVal) : List FVal × Option FVal := match op with
  | .add => ([a, t], addF rm a t)
  | .sub => ([a, t], addF rm a t.negate)
  | .mul => ([a, t], mulF a t)
  | .fma => ([a, b, t], (mulF a b).bind fun p => addF rm p t)
  | .fnma => ([a, b, t], (mulF a b).bind fun p => addF rm p.negate t)

def faFn (u : Which) (op : FaOp) (ty : Ty) (t : Trig) : RFn :=
  ⟨faUnit u, if ty = .f64 then 8 else 4, t, ty.is64, elements ty, fun r _ a b _ x ds => packed ty fun k =>
    let v (y : W64) : FVal := readF (fmtOf ty) r.ftz (element ty y k)
    arithmetic (fmtOf ty) r (ds.getD k 0) (faExact op r.rm (v a) (v b) (v x)).1 (faExact op r.rm (v a) (v b) (v x)).2⟩

def faArithmetic : Instr → Option RFn
  | .faAdd u ty t => some (faFn u .add ty t)
  | .faSub u ty t => some (faFn u .sub ty t)
  | .faMul u ty t => some (faFn u .mul ty t)
  | .fma u ty t => some (faFn u .fma ty t)
  | .fnma u ty t => some (faFn u .fnma ty t)
  | _ => none

/-- R298: the comparing functions, on exact values. -/
def faCmp (u : Which) (ty : Ty) (t : Trig) (f : Fmt → Nat → Nat → FVal → FVal → Nat × BitVec 8) : Fn :=
  ⟨faUnit u, if ty = .f64 then 8 else 4, t, ty.is64, fun _ a _ _ x => packed ty fun k =>
    f (fmtOf ty) (element ty a k) (element ty x k) (decodeF (fmtOf ty) (element ty a k)) (decodeF (fmtOf ty) (element ty x k))⟩

/-- nv of a comparison: a signalling NaN, or any NaN where the function orders. -/
def nvOf (ordered : Bool) (p q : FVal) : BitVec 8 := if p.isSnan || q.isSnan || (ordered && (p.isNan || q.isNan)) then 0x01 else 0
def relOf (ordered : Bool) (rel : FVal → FVal → Bool) : Fmt → Nat → Nat → FVal → FVal → Nat × BitVec 8 :=
  fun _ _ _ p q => (if !p.isNan && !q.isNan && rel p q then 1 else 0, nvOf ordered p q)

def faCompares : Instr → Option Fn
  | .faMin u ty t => some (faCmp u ty t fun f x y p q => (if p.isNan || q.isNan then nanOf f else if ordF p q then x else y, nvOf false p q))
  | .faMax u ty t => some (faCmp u ty t fun f x y p q => (if p.isNan || q.isNan then nanOf f else if ordF q p then x else y, nvOf false p q))
  | .faEq u ty t => some (faCmp u ty t (relOf false eqF))
  | .faLt u ty t => some (faCmp u ty t (relOf true fun p q => ordF p q && !eqF p q))
  | .faLe u ty t => some (faCmp u ty t (relOf true fun p q => ordF p q || eqF p q))
  | _ => none

/-- Widths and ranges of the types that `cvt` takes (R286, R300): its 8-bit types are one byte. -/
def cvWidth (ty : Ty) : Nat := match ty with
  | .b8 | .s8 | .e4m3 | .e5m2 => 8
  | .f16 | .bf16 => 16
  | .b64 | .s64 | .f64 => 64
  | _ => 32
def cvLeast (ty : Ty) : Int := if ty.isSigned then -(2 ^ (cvWidth ty - 1)) else 0
def cvMost (ty : Ty) : Int := if ty.isSigned then 2 ^ (cvWidth ty - 1) - 1 else 2 ^ cvWidth ty - 1
def cvNum (ty : Ty) (x : W64) : Int := if ty.isSigned then (x.setWidth (cvWidth ty)).toInt else ((x.setWidth (cvWidth ty)).toNat : Int)
def cvPut (ty : Ty) (x : Int) : W64 := (BitVec.ofInt (cvWidth ty) x).setWidth 64
/-- A number clamped to the destination, with the flag that a clamp sets. -/
def clamped (ty : Ty) (x : Int) (fl other : BitVec 8) : W64 × W64 × BitVec 8 :=
  if x < cvLeast ty then (cvPut ty (cvLeast ty), 0, fl) else if cvMost ty < x then (cvPut ty (cvMost ty), 0, fl) else (cvPut ty x, 0, other)

/-- R300: `cvt` to d from c. -/
def cvtVal (d c : Ty) (r : RCtl) (x : W64) (g : Nat) : W64 × W64 × BitVec 8 :=
  let v := readF (fmtOf c) r.ftz (x.toNat % 2 ^ cvWidth c)
  match c.isFloat, d.isFloat with
  | true, true => match v with
    | .nan sn => (BitVec.ofNat 64 (nanOf (fmtOf d)), 0, if sn then 0x01 else 0)
    | .inf neg => if r.sat then (BitVec.ofNat 64 (maxFin (fmtOf d) neg), 0, 0x20)
        else (BitVec.ofNat 64 (infOf (fmtOf d) neg), 0, if d = .e4m3 then 0x01 else 0)
    | .fin neg m e => if m = 0 then (BitVec.ofNat 64 (signOf (fmtOf d) neg), 0, 0)
        else (BitVec.ofNat 64 (roundMag (fmtOf d) r g neg ⟨m, e, false⟩).1, 0, (roundMag (fmtOf d) r g neg ⟨m, e, false⟩).2)
  | true, false => match v with
    | .nan _ => (0, 0, 0x01)
    | .inf neg => (cvPut d (if neg then cvLeast d else cvMost d), 0, 0x01)
    | .fin neg m e =>
      let k := (Mag.mk m e false).roundAt r.rm neg g 0
      clamped d (if neg then -(k.1 : Int) else k.1) 0x01 (if k.2 then 0x10 else 0)
  | false, true =>
      if cvNum c x = 0 then (0, 0, 0)
      else
        let o := roundMag (fmtOf d) r g (decide (cvNum c x < 0)) ⟨(cvNum c x).natAbs, 0, false⟩
        (BitVec.ofNat 64 o.1, 0, o.2)
  | false, false => clamped d (cvNum c x) 0x20 0

/-- R301, R302: a special function of an FP32 value that is not a NaN. -/
def cvFn (t : Trig) (f : RCtl → Nat → FVal → Nat × BitVec 8) : RFn :=
  ⟨.cv, 6, t, false, 1, fun r _ _ _ _ x ds => match readF f32 r.ftz (x.toNat % 2 ^ 32) with
    | .nan sn => (0x7FC00000, 0, if sn then 0x01 else 0)
    | v => (BitVec.ofNat 64 (f r (ds.getD 0 0) v).1, 0, (f r (ds.getD 0 0) v).2)⟩

/-- R302: the bit of `cls`. -/
def classBit (ftz : Bool) (x : Nat) : Nat :=
  let e := x / 2 ^ 23 % 256
  let m := x % 2 ^ 23
  let neg := 2 ^ 31 ≤ x
  if e = 255 then if m = 0 then (if neg then 0 else 7) else if m < 2 ^ 22 then 8 else 9
  else if e = 0 then if m = 0 ∨ ftz then (if neg then 3 else 4) else (if neg then 2 else 5)
  else if neg then 1 else 6

/-- R304: one decoded element of lane i. -/
def unpacked (i : Nat) (a x : W64) : W64 × W64 × BitVec 8 :=
  let e := a.toNat % 64
  if e = 63 then (0x7FC00000, 0, 0x80)
  else match q4Val (a.toNat / 64 % 4) (x.toNat / 16 ^ (i % 8) % 16) with
    | .fin neg m k => (BitVec.ofNat 64 (exactF f32 (.fin neg m (k + ((e : Int) - 32)))), 0, 0)
    | _ => (0, 0, 0)

def conversions : Instr → Option RFn
  | .cvt d c t => some ⟨.cv, 6, t, c.is64, 1, fun r _ _ _ _ x ds => cvtVal d c r x (ds.getD 0 0)⟩
  | .rcp t => some (cvFn t fnRcp)
  | .rsq t => some (cvFn t fnRsq)
  | .sqrt t => some (cvFn t fnSqrt)
  | .exp t => some (cvFn t fnExp)
  | .log t => some (cvFn t fnLog)
  | .sin t => some (cvFn t fnSin)
  | .cos t => some (cvFn t fnCos)
  | .tanh t => some (cvFn t fnTanh)
  | .frc t => some (cvFn t fnFrc)
  | .rnd t => some (cvFn t fnRnd)
  | .cls t => some ⟨.cv, 6, t, false, 1, fun r _ _ _ _ x _ => res (BitVec.ofNat 64 (2 ^ classBit r.ftz (x.toNat % 2 ^ 32)))⟩
  | _ => none

/-- A rounding lane function starts in the lanes of the guard. -/
def RoundingFunction (tab : Instr → Option RFn) : Prop :=
  ∀ (i : Instr) (f : RFn), tab i = some f → WellFormed i → ∀ (s : State) (w : Warp) (g : W32) (v : Lanes),
    Ready s w f.t.mv f.wide g v → g ≠ 0 →
    let r := w.rctl f.t.md
    let p := w.ctx.port f.u
    Starts s w f.u f.lat g
      (fun i => f.val r i (laneAt p.a i) (laneAt p.b i) (laneAt p.c i) (laneAt v i) (laneDraws r f.n (w.ctx.gens.getD i 0)).1)
      (gensAfter r f.n g w.ctx.gens) (exec i s)

/-! ### Cross-lane (13 R305 to R308) -/

/-- A started lane's value at the type's width. -/
def started (g : W32) (i : Nat) : Prop := i < 32 ∧ g.getLsbD i = true

/-- A cross-lane function: its type, trigger, and whether its results `val` and the flags are what the rule asks of the started values. -/
def xlValue (ty : Ty) (x : W64) : W64 := out ty (bits ty x)

/-- Integer sum of the started values of the lanes below n. -/
def sumBelow (ty : Ty) (g : W32) (v : Lanes) (n : Nat) : Int := ((List.range n).map fun i => if g.getLsbD i then num ty (laneAt v i) else 0).sum

/-- The lane from which started lane i receives (R307). -/
def sourceLane (i : Instr) (g : W32) (p : Port) (k : Nat) : Option (Ty × Trig × Nat) := match i with
  | .shfl ty t => some (ty, t, nat ty (laneAt p.a k) % 32)
  | .up ty t => some (ty, t, if k < nat ty (laneAt p.a k) then k else k - nat ty (laneAt p.a k))
  | .down ty t => some (ty, t, if 31 < k + nat ty (laneAt p.a k) then k else k + nat ty (laneAt p.a k))
  | .bfly ty t => some (ty, t, k ^^^ (nat ty (laneAt p.a k) % 32))
  | .bcast ty t => some (ty, t, nat ty (laneAt p.a (((List.range 32).find? fun m => g.getLsbD m).getD 0)) % 32)
  | _ => none

/-! ### Registers and moves (05 R121 to R142) -/

/-- A value taken lane by lane where the mask is set. -/
def lanesOver (g : W32) (new old : Nat → W64) (l : Lanes) : Prop := ∀ i, i < 32 → laneAt l i = if g.getLsbD i then new i else old i

/-- Units whose ports hold one value: scalar class and engines. -/
def oneValue (u : Un) : Bool := [Un.sa, .sb, .sm, .sl, .cp, .mx, .sy, .so, .ms, .rg].contains u

/-- The 32 bits that a register's name reaches in lane i (R133, 10 R234). -/
def regAt (vr : Tab (List W32)) (rrb : BitVec 5) (n i : Nat) : W32 :=
  (Tab.get vr [] (if n < 224 then n else 224 + (n - 224 + 32 - rrb.toNat) % 32)).getD i 0

/-- The copy tags that a source reads: those of the start of the cycle while a bundle issues (R124). -/
def tagsRead (s : State) : W64 := match s.snap with
  | some y => y.ctag
  | none => (s.core s.cur.core).ctag

/-- The control-register reading: not watched, with its value (R257, R258). -/
structure CtlReady (s : State) (w : Warp) (n : BitVec 6) (v : W64) : Prop where
  live : s.warp? s.cur = some w
  free : (s.srcCtx w).watched n.toNat = false
  value : (s.srcCtx w).sreg n.toNat = v

/-- The cores when a hold comes back: a claim is entered again, behind those that wait (R277). -/
def claimed (s : State) (h : Option Hold) : Tab Core := match h with
  | some (.claim n) =>
    let c := s.core s.cur.core
    Tab.put s.cores s.cur.core { c with claims := c.claims ++ [(s.cur.slot, n)] }
  | _ => s.cores

/-- A scalar register takes a plain value: s0 takes none, and the watch bit is cleared (R134, R271). -/
def plainReg (x : Ctx) (n : Nat) (v : W64) : Ctx :=
  if n = 0 then x else { x with sregs := Tab.put x.sregs n v, watch := x.watch &&& ~~~(1#64 <<< n) }

/-! ### Divergent regions (12 R262 to R265) -/

/-- The context after a region operation: mask, tokens and program counter; a mask of 0 starts a skip. -/
def region (x : Ctx) (mask : W32) (toks : List Token) (pc : W64) : Ctx :=
  { x with mask := mask, toks := toks, pc := pc, skip := if mask = 0 then some 0 else none }

/-- The per-lane condition of `[!]pN` (R259, R264). -/
def cond (x : Ctx) (p : BitVec 4) (ng : Bool) : W32 := if ng then ~~~(x.pred p.toNat) else x.pred p.toNat

/-- The lanes B leave the tokens above the loop token J, and J notes them (R264). -/
def withoutLanes (b : W32) (t : Token) : Token := { t with outer := t.outer &&& ~~~b, alt := t.alt &&& ~~~b, cont := t.cont &&& ~~~b }

/-- May control pass to the target: aligned, and in the program region of the warp's launch (R251, R261)? -/
def mayGo (s : State) (w : Warp) (target : W64) : Prop :=
  target.toNat % 32 = 0 ∧ ∃ n, s.node? w.nid = some n ∧ lrPva n.raw ≤ target.toNat ∧ target.toNat < lrPva n.raw + n.plen

/-- The warp with its program counter moved. -/
def atPc (w : Warp) (pc : W64) : Warp := withCtx w { w.ctx with pc := pc }
/-- The address that a branch names: 32 × x from the bundle (R251). -/
def target (w : Warp) (x : BitVec 32) : W64 := w.ctx.pc + x.signExtend 64 * 32

/-! ### Memory triggers (03 R66 to R84, 14 R314 to R329, 13 R312) -/

/-- The trigger of a memory unit names a valid record, its guard's lowest lane is `k`, and its lanes (all started, or `k` alone) have the elements
`l` (03 R66, R69). -/
structure MemReady (s : State) (w : Warp) (u : Un) (t : MTrig) (one : Bool) (need : Need) (g : W32) (v : Lanes) (k : Nat) (r : BitVec 256)
    (l : List (Nat × LaneRes)) : Prop where
  ready : Ready s w t.mv false g v
  low : LowestLane g k
  record : (s.core s.cur.core).segs.getD t.buf.toNat 0 = r
  valid : r.getLsbD 63 = true
  lanes : l = s.lanesAt w r need (w.ctx.port u) v (if one then [k] else (List.range 32).filter fun i => g.getLsbD i)

/-- No lane raises a fault; a lane without a resident page counts as one where `residency`. -/
def noFault (l : List (Nat × LaneRes)) (residency : Bool) : Prop :=
  ∀ x, x ∈ l → (∀ c va, x.2 ≠ .fault c va) ∧ (residency = true → ∀ va first ls bs, x.2 ≠ .absent va first ls bs)

/-- Has the core at the cursor no coherent line of its own at an address? A release in progress, which goes on with the core's accesses, may
write the others back. -/
def notOwn (s : State) (a : Nat) : Prop := ∀ l, Tab.look (s.core s.cur.core).l1 (a / 256) = some l → l.cls = .non

/-- What a trigger leaves as it was, the table of warps apart, which is `ws`: the home copy of every byte but those of coherent lines that the core
holds, the pools of the slices, the dies, the objects, the directory and the mailboxes. -/
structure Frame (s t : State) (ws : Tab Warp) : Prop where
  done : t.verdict = .done
  warps : t.warps = ws
  home : ∀ a, notOwn s a → t.homeByte a = s.homeByte a
  pools : ∀ n, (t.slice n).pool = (s.slice n).pool
  dies : t.dies = s.dies
  objs : t.objs = s.objs
  dir : t.dir = s.dir
  mails : t.mails = s.mails

/-- The record of a load that has begun (04 R94, R96; 14 R315): the places of each lane's bytes, in order, none for an element that is not read or not
resident, and the lines beyond the cluster's core SRAM that it awaits. -/
structure Recorded (s x : State) (w : Warp) (u : Un) (g : W32) (due slots : Nat) (sx one : Bool) (l : List (Nat × LaneRes)) : Prop where
  entry : ∃ z, z ∈ (x.core s.cur.core).loads ∧ z.id = (s.core s.cur.core).nextId ∧ z.slot = s.cur.slot ∧ z.wid = w.wid ∧ z.un = u ∧ z.due = due ∧
    z.slots = slots ∧ z.started = g ∧ z.signed = sx ∧ z.scalar = one ∧ z.atomic = false ∧
    z.lanes = l.map (fun y => match y.2 with
      | .at bytes va _ => ⟨y.1, bytes.map Prod.fst, true, BitVec.ofNat 64 va⟩
      | .absent va _ _ _ => ⟨y.1, [], false, BitVec.ofNat 64 va⟩
      | _ => ⟨y.1, [], true, 0⟩) ∧
    ∀ sp n, (∃ y, y ∈ z.lines ∧ y.space = sp ∧ y.line = n) ↔
      ∃ b, b ∈ laneBytes l ∧ b.place.space = sp ∧ b.place.addr / 256 = n ∧ ∀ k, sp = .core k → k / 4 ≠ s.cur.core / 4

/-- The table of warps with the one at the cursor replaced. -/
def mePut (s : State) (w : Warp) : Tab Warp := Tab.put s.warps (warpKey s.cur) w

/-- The result port waits for its load, in the lanes of the mask, until the due cycle. -/
def awaiting (p : Port) (now : Nat) (g : W32) (due op : Nat) : Port :=
  { p.seen now with pend := g, nres := [], nsec := [], due := some due, op := op, npsn := 0 }

/-- The state when an engine's future is new and its handle stands in the result port. -/
def withHandle (s : State) (w1 : Warp) (u : Un) (h : W64) : State :=
  { s with warps := Tab.put s.warps (warpKey s.cur) (withResult w1 s.now u h) }

/-- An engine trigger: guard's lowest lane, the value moved to t. -/
structure Engine (s : State) (w : Warp) (m : Mv) (x : W64) (k : Nat) : Prop where
  ready : ∃ g v, Ready s w m false g v ∧ LowestLane g k ∧ laneAt v k = x

/-- Operand k of an engine's port, as a value. -/
def opa (w : Warp) (u : Un) : W64 := laneAt (w.ctx.port u).a 0
def opb (w : Warp) (u : Un) : W64 := laneAt (w.ctx.port u).b 0
def opc (w : Warp) (u : Un) : W64 := laneAt (w.ctx.port u).c 0

/-- Finished. -/
def fin (s : State) : State := { s with verdict := .done }

/-- The word of a refused function: code 6, the reason in [15:8] (09 R217, 15 R364). -/
def refusedWith (reason : Nat) : W64 := BitVec.ofNat 64 (reason * 256 + 6)

/-- The word of a function that an object refuses: code 6, the reason, and the object's phase in its barrier modes (09 R213). -/
def refusedBy (y : Obj) (reason : Nat) : W64 :=
  BitVec.ofNat 64 ((if y.md = 2 ∨ y.md = 3 then y.phase.toNat else 0) * 2 ^ 48 + reason * 256 + 6)

/-- A ring of the warp's launch, as the cycle began. -/
def ownsRing (s : State) (w : Warp) (n : Nat) (r : Ring) : Prop := Tab.look s.srcRings n = some r ∧ r.nid = w.nid

/-- 256-byte units that a ring's storage takes (R140). -/
def unitsOf (scalar : Bool) (depth : Nat) : Nat := (depth * (if scalar then 8 else 128) + 255) / 256

/-- The cells of an accumulator access (14 R334). -/
def cellsOf (w : Warp) (g : W32) (v : Lanes) : List (Nat × Nat × Nat) :=
  ((List.range 32).filter fun i => g.getLsbD i).map fun i => (i, (laneAt v i).toNat, ((laneAt (w.ctx.port .ac).a i).toNat + i) % 256)

/-- An accumulator access that enters the cluster of the cursor. -/
def acEntered (s : State) (w : Warp) (rows : List Nat) (act : AcAct) : Tab Cluster :=
  let c := s.cluster (s.cur.core / 4)
  Tab.put s.clusters (s.cur.core / 4) { c with nextId := c.nextId + 1, acs := c.acs ++ [⟨c.nextId, s.cur.core, s.cur.slot, w.wid, s.now, rows, act⟩] }

/-- The state of a copy that has just begun (04 R104 to R107). -/
def newCopy (s : State) (w : Warp) (f : FutAt) (sh : BitVec 1024) (multi paced : Bool) : Copy :=
  let seg (n : Nat) := (s.core s.cur.core).segs.getD n 0
  { fut := f, nid := w.nid, ten := s.tenOf w.nid, shape := sh, src := seg (shSbuf sh), dst := seg (shDbuf sh), comp := opc w .cp, mcast := multi
    paced := paced, t := s.now, start := (opa w .cp).toNat, rate := (opb w .cp).toNat, k0 := 0, behind := s.writesOf s.cur.core w.wid
    old := s.mapping s.cur.core, k := 0, fetching := true }

/-- A suspended copy going on at its next chunk, under a new future (04 R113). -/
def resumedCopy (s : State) (w : Warp) (f : FutAt) (z : Copy) : Copy :=
  { z with
    fut := f, t := s.now, start := (opa w .cp).toNat, rate := (opb w .cp).toNat, k0 := z.k, behind := s.writesOf s.cur.core w.wid
    old := s.mapping s.cur.core, st := .running, fetching := true, staged := [], fin := none, cancelled := false }

/-- The future that a predecessor operand names, if it is outstanding and has not been counted as resolved at an admission point (07 R176). -/
def predecessor (c : Cluster) (w : Warp) (v : W64) : Option FutAt :=
  let f : FutAt := ⟨w.wid, v.toNat / 2 ^ 32 % 64, v.setWidth 32⟩
  if w.ctx.outstanding v = true ∧ f ∉ c.counted then some f else none

/-- A tile whose insertion is on its way to the home (08 R194). -/
def newTile (s : State) (w : Warp) (t : MTrig) (x key : W64) (len : Nat) (f : FutAt) : Tile :=
  { hva := (x.setWidth 56).setWidth 64, grp := s.homeKey w, ten := s.tenOf w.nid, st := .arriving, tbuf := t.buf.toNat
    tpos := (opb w .so).toNat, len := len / 256, key := key.setWidth 48, nid := w.nid, fut := f }

def atomicOf : Instr → Option (AtOp × Scope × MTrig)
  | .atAdd sc t => some (.add, sc, t)
  | .umin sc t => some (.umin, sc, t)
  | .umax sc t => some (.umax, sc, t)
  | .smin sc t => some (.smin, sc, t)
  | .smax sc t => some (.smax, sc, t)
  | .atAnd sc t => some (.and, sc, t)
  | .atOr sc t => some (.or, sc, t)
  | .exch sc t => some (.exch, sc, t)
  | .cas sc t => some (.cas, sc, t)
  | .incw sc t => some (.incw, sc, t)
  | .decw sc t => some (.decw, sc, t)
  | .addb sc t => some (.addb, sc, t)
  | _ => none

/-- The mode functions of mx by their code (07 R190). -/
def taskOf : Instr → Option (Nat × Bool × MTrig)
  | .mmBf16 tri t => some (1, tri, t)
  | .mmF16 tri t => some (2, tri, t)
  | .mmE4m3 tri t => some (3, tri, t)
  | .mmE5m2 tri t => some (4, tri, t)
  | .mmS8 tri t => some (5, tri, t)
  | .mmQ4 tri t => some (6, tri, t)
  | .scacc tri t => some (7, tri, t)
  | .drain tri t => some (8, tri, t)
  | .hrot tri t => some (9, tri, t)
  | _ => none

/-- The new value and the success bit of an atomic on a word of width W: m the memory value, v and w the operands (14 R326). -/
def atomicNew (W : Nat) (op : AtOp) (m v w : BitVec W) : BitVec W × Bool := match op with
  | .add => (m + v, true)
  | .umin => (if v < m then v else m, true)
  | .umax => (if m < v then v else m, true)
  | .smin => (if v.slt m then v else m, true)
  | .smax => (if m.slt v then v else m, true)
  | .and => (m &&& v, true)
  | .or => (m ||| v, true)
  | .exch => (v, true)
  | .cas => if m = w then (v, true) else (m, false)
  | .incw => (if w ≤ m then 0 else m + 1, true)
  | .decw => (if m = 0 ∨ w < m then w else m - 1, true)
  | .addb => if m.toNat + v.toNat < 2 ^ W ∧ m.toNat + v.toNat ≤ w.toNat then (m + v, true) else (m, false)

/-- The line of the L1 whose sector k stands for a read past the L1, since it is present there (14 R316). -/
def presentFor (c : Core) (r : Req) (k : Nat) : Option L1Line :=
  if r.kind = 4 ∧ r.msg.space = .pa ∧ r.msg.smask.getLsbD k = true then (Tab.look c.l1 r.msg.line).filter fun y => readable r.msg.cls (y.sect k) else none

/-- The bytes of a line that a load waits for have come (04 R97). -/
def lineWith (sp : Space) (n : Nat) (data : List Byte) (psn : BitVec 4) (x : LoadLine) : LoadLine :=
  if x.space = sp ∧ x.line = n ∧ x.data = none then { x with data := some data, psn := psn } else x

/-- Bytes written to a memory at their addresses: each listed address reads as its byte, every other one as before. -/
def bytesPut (old new : List Host.Cell) (l : List (Nat × Byte)) : Prop :=
  (∀ x, (∀ b, b ∈ l → b.1 ≠ x) → readCell new x = readCell old x) ∧
  (∀ x v, (x, v) ∈ l → (∀ b, b ∈ l → b.1 = x → b.2 = v) → readCell new x = v)

/-- The state with a walker read in no window logged, where one ended a walk (01 R20). -/
def walkLogged (s : State) (x : Option Nat) : State := match x with
  | some pa => s.logWalk pa
  | none => s

/-- The rows of a task that are to be done, and the cycles from its dispatch to its retire (07 R177). -/
def retireTime (t : Task) (rows : Nat) : Nat :=
  let up (a b : Nat) : Nat := (a + b - 1) / b
  let rate := if t.fn ≤ 2 then 1 else if t.fn = 6 then 4 else 2
  if t.fn ≤ 6 then tkDly t.record + (32 * tkKb t.record + 255) / 256 * (32 + up rows rate) + 4
  else if t.fn = 7 then tkDly t.record + up (rows * tkKb t.record) 4 + 4
  else if t.fn = 8 then rows + 8 else rows + 40

/-- The cells that an accumulator access names hold a value each, the others what they held (14 R334). -/
def cellsPut (old new : Cluster) (l : List (Nat × Nat × W32)) : Prop :=
  (∀ r c, c < 256 → (∀ x, x ∈ l → ¬ (x.1 = r ∧ x.2.1 = c)) → new.cell r c = old.cell r c) ∧
  (∀ r c v, (r, c, v) ∈ l → (∀ x, x ∈ l → x.1 = r → x.2.1 = c → x.2.2 = v) → new.cell r c = v)

/-- The cells of a cluster's store stand in rising order. -/
def storeWf (c : Cluster) : Prop := c.acc.Pairwise fun x y => x.1 < y.1

/-- No two live warps stand in one slot. -/
def slotsWf (s : State) : Prop := (s.warps.map Prod.fst).Nodup

/-- No request waits at the input of a slice, and no line of it has to leave (01 R31, 02 R44). -/
def idleSlice (s : State) (n : Nat) : Prop := (s.slice n).input = [] ∧ ∀ y, y ∈ (s.slice n).lines → y.2.leaving = none

/-- A line stands whole in way `w` of its slice, which is not under test, it does not have to leave, and no earlier request for it waits at the input
(01 R31, 02 R44, 17 R399). -/
structure Stands (s : State) (line w : Nat) (l : LLine) : Prop where
  alone : ∀ e, e ∈ (s.slice (sliceOf line)).input → e.req.line ≠ line
  hit : (s.slice (sliceOf line)).find line = some (w, l)
  whole : l.pending = false ∧ l.leaving = none ∧ l.valid = 0xF ∧ l.bytes.length = 256
  sound : s.underTest (sliceOf line) (w % 16) = false

/-- Does a slice hold the incarnation number of a message's sender: a core's die (02 R56, R59)? -/
def freshAt (s : State) (line c : Nat) (inc : BitVec 16) : Prop := c < 256 → Tab.get (s.slice (sliceOf line)).incs 0 (c / 16) = inc

/-- A request of core `c` that its slice serves at once: not stale, its line is of this package's memory and stands in way `w`, and no token has to
come first (01 R31 to R33, 02 R42). -/
structure ServedAtOnce (s : State) (kind : Nat) (r : HomeReq) (c w : Nat) (l : LLine) : Prop where
  agent : r.agent = .core c
  space : r.space = .pa
  fresh : freshAt s r.line c r.inc
  near : farLine r.line = false
  stands : Stands s r.line w l
  ready : s.mustWait kind r = false

/-- A state of a sector that no L1 may hold (02 R40). -/
def badSect (y : Sect) : Prop := 512 < y.tok ∨ (y.own = true ∧ y.tok = 0)

/-- The network port of a line's slice. -/
def portOf (line : Nat) : Nat := 256 + sliceOf line

/-- The message of tokens of a sector from its home to a core, with the home's data. -/
def dataTokens (s : State) (c x n : Nat) (own : Bool) : Flight :=
  ⟨.response, portOf (x / 4), c, .tokenTransfer ⟨some c, x, n, own, some (s.homeBytes (x * 64) 64), false, s.homePsn x, none⟩⟩

/-- The message of tokens of a sector that a core sends, with its data where `data`. -/
def coreTokens (s : State) (c : Nat) (dst : Option Nat) (x n : Nat) (own dty data psn : Bool) : Flight :=
  ⟨.response, c, dst.getD (portOf (x / 4)), .tokenTransfer ⟨dst, x, n, own, if data then some ((s.core c).sectBytes x) else none, dty, psn,
    some (c / 16, (s.die (c / 16)).inc)⟩⟩

/-- The answer to core `c`'s request. -/
def answerTo (r : HomeReq) (c : Nat) (data : List Byte) (psn : BitVec 4) : Flight :=
  ⟨.response, portOf r.line, c, .loadLineArrival c r.id data psn⟩

/-- Is the line in no LLC way and in no write-back entry of its slice: its home copy is memory's? -/
def atMemory (s : State) (line : Nat) : Prop :=
  (s.slice (sliceOf line)).find line = none ∧ ∀ e, e ∈ (s.slice (sliceOf line)).wb → e.line ≠ line

/-- Does every signature of an image verify: the root key by its hash in the mask ROM, then the vigil firmware, the service firmware and the trims,
each with an XMSS parameter set of tree height 10, 16 or 20 (19 R423)? -/
def verified (x : Image) : Prop :=
  Config.shake256 x.rootKey = Config.romRootHash ∧ ∀ p, p = x.vigil ∨ p = x.service ∨ p = x.trims →
    (p.height = 10 ∨ p.height = 16 ∨ p.height = 20) ∧ Config.xmssVerifies p.height x.rootKey p.body p.sig = true

/-- The status of a directory function that is done: the entry in [15:8] (08 R198). -/
def entryDone (e : Nat) : W64 := BitVec.ofNat 64 (e * 256)

/-- A status word with the phase of an object (09 R213). -/
def phased (q : BitVec 16) : W64 := (q.setWidth 64) <<< 48

/-- An entry of a tile directory is free, and the programs of its cluster see it so (00 R4; log entry 74). -/
def vacant (c : Core) (e : Nat) : Prop := Tab.look c.tiles e = none ∧ Tab.look c.oldTiles e = none

/-- What the programs of a core's cluster see of its directory until their next admission, when a commit changes entry `e`, which was `y` (00 R4; log
entry 74). -/
def seenStill (s : State) (core e : Nat) (y : Tile) : Tab Tile :=
  let c := s.core core
  if (s.liveIn (core / 4)).isEmpty || (Tab.look c.oldTiles e).isSome then c.oldTiles else Tab.put c.oldTiles e y

/-- The order of the base: a message from one of its units to another. -/
def toBase (src : Nat) (e : Ev) : Flight := ⟨.request, src, 512, e⟩
def fromBase (dst : Nat) (e : Ev) : Flight := ⟨.request, 512, dst, e⟩

/-- May an item of the census network enter a core (08 R201, R207)? -/
def openTo (s : State) (core : Nat) : Prop :=
  (s.die (core / 16)).debugHold = false ∧ ((s.core core).spawns.filter fun x => x.ready).length < 128 ∧ ∀ f, f ∈ s.parked → f.dst ≠ core ∨ censusEv f.ev = false

/-- The disposition of a message of this package's own warp goes to the core of its sender (15 R362). -/
def senderCore (s : State) (m : MsgRec) : Nat := match s.node? m.snid with
  | some n => n.clusterAt m.sdie m.sclus * 4
  | none => 0

/-- A line of memory that holds bytes counted into a phase that has ended since phase q (09 R226, 15 R354). -/
def countedSince (x : Obj) (q : BitVec 16) (n : Nat) : Prop :=
  ∃ p l, (p, l) ∈ x.counted ∧ n ∈ l ∧ (BitVec.ofNat 16 p - q).toNat < (x.phase - q).toNat

/-- A receive has taken a message: the bytes reach its core's landing path, and its future arrives with them (15 R361). -/
def received (s : State) (r : RecvRec) (m : MsgRec) : State :=
  let n := Nat.min m.payload.length r.at_.length
  let bytes := (r.at_.zip m.payload).take n
  State.arriveFut (s.intoPath r.core r.fut bytes) r.core r.fut (recvStatus m n (decide (r.at_.length < m.payload.length))) (.block r.core bytes true)

/-- The launch has no responder that still runs, in the package or pre-empted (08 R202). -/
def noResponders (s : State) (nid : Nat) : Prop :=
  (∀ a w, (a, w) ∈ s.live → w.nid ≠ nid ∨ w.responder = none) ∧ ∀ g a w, g ∈ s.saved → (a, w) ∈ g.warps → w.nid ≠ nid ∨ w.responder = none

/-! ### Encodings, turns and steps (11, 05 R124, R147) -/

/-- A slot in an otherwise empty bundle without a control operation. -/
def alone (w : Nat) : Nat := w + 2 ^ 79 + 2 ^ 119 + 2 ^ 159 + 2 ^ 199 + 2 ^ 239

/-- It is the turn of a warp that is alone on its core, core `p` of cluster `cl`: nothing else comes first, the cluster's clock runs, nothing holds
the warp (05 R146, R147). -/
structure TurnOf (s : State) (cl p : Nat) (a : WarpAt) (w : Warp) : Prop where
  quiet : s.agenda = [] ∧ s.tape = [] ∧ s.flight = []
  cursor : s.cursor = ⟨cl, p⟩
  phase : p < 4
  up : s.dieUp cl = true
  runs : p = 0 → s.runs cl = true ∧ s.standsStill cl = false ∧ s.misses cl = []
  place : a.core = cl * 4 + p ∧ a.slot < 16
  alone : s.liveOn a.core = [(a, w)]
  free : w.leaving = none ∧ w.entering = none ∧ w.yielded = false ∧ w.ctx.hold = none ∧ w.overflow = none ∧ w.ctx.skip = none
  calm : w.ringGone = false ∧ (w.handler = none → w.asyncs = [])
  started : w.first ≤ s.lcycOf a.core

/-- The state in which the instruction in slot `k` of the warp's bundle runs (05 R124). -/
def issuing (s : State) (a : WarpAt) (w : Warp) (k : Nat) : State :=
  { s with cur := a, snap := some ⟨w.ctx, w.vregs, (s.core a.core).rings, (s.core a.core).ctag, (s.core a.core).nextId⟩, mslot := k, verdict := .done }

/-- The state after the issue: the core's next search starts after the warp, and the next core's turn comes (an instruction leaves the cursor:
`ProgramFrame`). -/
def issuedBy (t : State) (a : WarpAt) : State := { t.hasIssued a with cursor := ⟨t.cursor.cluster, t.cursor.phase + 1⟩ }

/-- The parts of a bundle one after another, each of which takes effect: the moves that trigger nothing, the triggers, the control operation, by
slot within each kind; an empty bundle is the no-operation (05 R124). -/
def runParts : State → List (Nat × Instr) → Option State
  | s, [] => some s
  | s, (k, i) :: r => match exec i { s with mslot := k } with
    | .next t => if t.verdict = .done then runParts t r else none
    | _ => none
def partsOf (b : Bundle) : List (Nat × Instr) :=
  let l := (b.moves.filter fun x => !isTrigger x.2) ++ (b.moves.filter fun x => isTrigger x.2) ++ (b.ctl.map fun c => (6, c)).toList
  if l = [] then [(7, .noOperation)] else l

/-- A row of the table that stands in a program: a move, a trigger, a control operation or the no-operation bundle. -/
def inProgram (i : Instr) : Bool := i.raw.isSome || i.control || i == .noOperation

end Sys2Proof.Rules

open Sys2Proof Sys2Proof.Machine Sys2Proof.Rules

/-- R291 (13): the integer ALU. -/
def Obligations.IntegerAlu : Prop :=
  LaneFunction alu

/-- R292, R293 (13): the integer multiplier. -/
def Obligations.IntegerMultiplier : Prop :=
  LaneFunction multiply

/-- R294 to R296 (13): the shifter and bit unit. -/
def Obligations.ShifterAndBits : Prop :=
  LaneFunction shift

/-- R309 (13): predicate logic, lane by lane and over the started lanes. -/
def Obligations.PredicateLogic : Prop :=
  LaneFunction predLogic ∧
  ∀ (t : Trig) (s : State) (w : Warp) (g : W32) (v : Lanes), Ready s w t.mv false g v → g ≠ 0 → WellFormed (.plAny t) →
    Starts s w .pl 1 g (fun _ => res (one ((List.range 32).any fun k => g.getLsbD k && laneAt v k != 0))) w.ctx.gens (exec (.plAny t) s) ∧
    Starts s w .pl 1 g (fun _ => res (one ((List.range 32).all fun k => !g.getLsbD k || laneAt v k != 0))) w.ctx.gens (exec (.plAll t) s)

/-- R310 (13): the scalar ALU. R311 (13): scalar multiplication and division. -/
def Obligations.ScalarUnits : Prop :=
  (ScalarFunction scalarAlu) ∧
  (ScalarFunction scalarMultiply)

/-- R297, R299 (13): floating-point arithmetic of fa and fb. R298, R299 (13): the comparing functions of fa and fb. -/
def Obligations.FloatUnits : Prop :=
  (RoundingFunction faArithmetic) ∧
  (LaneFunction faCompares)

/-- R300 to R302 (13): conversions and special functions of cv. -/
def Obligations.ConversionsAndSpecials : Prop :=
  RoundingFunction conversions

/-- R303, R304 (13): 4-bit blocks packed from 32 lanes, and elements decoded. -/
def Obligations.FourBitBlocks : Prop :=
  (∀ (t : Trig) (s : State) (w : Warp) (g : W32) (v : Lanes) (k : Nat), Ready s w t.mv false g v → LowestLane g k →
    let r := w.rctl t.md
    let p := w.ctx.port .cv
    let lanes := List.range 32
    let vals := lanes.map fun i => if g.getLsbD i then readF f32 r.ftz ((laneAt v i).toNat % 2 ^ 32) else .fin false 0 0
    let rand := lanes.map fun i => if g.getLsbD i then (laneDraws r 1 (w.ctx.gens.getD i 0)).1.getD 0 0 else 0
    let b := laneAt p.b k
    let q := q4Block ((laneAt p.a k).toNat % 4) (if b.getLsbD 6 then none else some (b.toNat % 64)) r.rm rand vals
    ∃ fl : BitVec 8, fl = q.2.2 ∧
      Starts s w .cv 6 g (fun i => (BitVec.ofNat 64 ((List.range 8).map fun n => q.1.getD (8 * (i % 4) + n) 0 * 16 ^ n).sum, BitVec.ofNat 64 q.2.1, fl))
        (gensAfter r 1 g w.ctx.gens) (exec (.qpack t) s)) ∧
  (∀ (t : Trig) (s : State) (w : Warp) (g : W32) (v : Lanes), Ready s w t.mv false g v → g ≠ 0 →
    Starts s w .cv 6 g (fun i => unpacked i (laneAt (w.ctx.port .cv).a i) (laneAt v i)) w.ctx.gens (exec (.qunpack t) s))

/-- R307, R308 (13): the lane-moving functions and `ballot`. -/
def Obligations.LaneMoves : Prop :=
  (∀ (i : Instr) (ty : Ty) (t : Trig) (s : State) (w : Warp) (g : W32) (v : Lanes) (j : Nat → Nat),
    (∀ k, sourceLane i g (w.ctx.port .xl) k = some (ty, t, j k)) → WellFormed i → Ready s w t.mv ty.is64 g v → g ≠ 0 →
    Starts s w .xl 2 g (fun k => res (if j k < 32 ∧ g.getLsbD (j k) = true then xlValue ty (laneAt v (j k)) else 0)) w.ctx.gens (exec i s)) ∧
  (∀ (ty : Ty) (t : Trig) (s : State) (w : Warp) (g : W32) (v : Lanes), WellFormed (.ballot ty t) → Ready s w t.mv ty.is64 g v → g ≠ 0 →
    ∃ m : BitVec 32, (∀ k, k < 32 → (m.getLsbD k = true ↔ g.getLsbD k = true ∧ (laneAt v k).setWidth 32 ≠ 0)) ∧
      Starts s w .xl 2 g (fun _ => res (m.setWidth 64)) w.ctx.gens (exec (.ballot ty t) s))

/-- R305, R306 (13): reductions and prefixes of the started lanes. R167 (06), R305, R306 (13): floating-point reductions and prefixes. -/
def Obligations.Reductions : Prop :=
  (∀ (ty : Ty) (t : Trig) (s : State) (w : Warp) (g : W32) (v : Lanes), Ready s w t.mv ty.is64 g v → g ≠ 0 →
    (WellFormed (.xlSum ty t) → ty.isFloat = false →
      Starts s w .xl 2 g (fun _ => res (wrapped ty (sumBelow ty g v 32))) w.ctx.gens (exec (.xlSum ty t) s)) ∧
    (WellFormed (.scan ty t) → ty.isFloat = false →
      Starts s w .xl 2 g (fun k => res (wrapped ty (sumBelow ty g v (k + 1)))) w.ctx.gens (exec (.scan ty t) s)) ∧
    (WellFormed (.xlMin ty t) → ty.isFloat = false → ∃ m, started g m ∧ (∀ k, started g k → num ty (laneAt v m) ≤ num ty (laneAt v k)) ∧
      Starts s w .xl 2 g (fun _ => res (xlValue ty (laneAt v m))) w.ctx.gens (exec (.xlMin ty t) s)) ∧
    (WellFormed (.xlMax ty t) → ty.isFloat = false → ∃ m, started g m ∧ (∀ k, started g k → num ty (laneAt v k) ≤ num ty (laneAt v m)) ∧
      Starts s w .xl 2 g (fun _ => res (xlValue ty (laneAt v m))) w.ctx.gens (exec (.xlMax ty t) s)) ∧
    (WellFormed (.xlAnd ty t) → ∃ m : W64, (∀ b, b < 64 → (m.getLsbD b = true ↔ b < width ty ∧ ∀ k, started g k → (laneAt v k).getLsbD b = true)) ∧
      Starts s w .xl 2 g (fun _ => res m) w.ctx.gens (exec (.xlAnd ty t) s)) ∧
    (WellFormed (.xlOr ty t) → ∃ m : W64, (∀ b, b < 64 → (m.getLsbD b = true ↔ b < width ty ∧ ∃ k, started g k ∧ (laneAt v k).getLsbD b = true)) ∧
      Starts s w .xl 2 g (fun _ => res m) w.ctx.gens (exec (.xlOr ty t) s))) ∧
  (∀ (ty : Ty) (t : Trig) (s : State) (w : Warp) (g : W32) (v : Lanes), ty.isFloat = true → Ready s w t.mv ty.is64 g v → g ≠ 0 →
    let f := fmtOf ty
    let x := fun k => decodeF f (element ty (laneAt v k) 0)
    let nv : BitVec 8 := if (List.range 32).any fun k => g.getLsbD k && (x k).isSnan then 0x01 else 0
    (WellFormed (.xlSum ty t) →
      let r := sumTree ty (w.rctl t.md) g v w.ctx.gens
      ∃ y, r.w.getD 0 none = some y ∧ ∃ fl, fl = r.fl ∧ Starts s w .xl 2 g (fun _ => (y, 0, fl)) r.gens (exec (.xlSum ty t) s)) ∧
    (WellFormed (.scan ty t) →
      let r := (List.range 32).foldl (scanStep ty (w.rctl t.md) g v) (none, [], 0, w.ctx.gens)
      ∃ fl, fl = r.2.2.1 ∧ Starts s w .xl 2 g (fun k => (laneAt r.2.1 k, 0, fl)) r.2.2.2 (exec (.scan ty t) s)) ∧
    (WellFormed (.xlMin ty t) → ∃ m, started g m ∧ ((∀ k, started g k → (x k).isNan = false) → ∀ k, started g k → ordF (x k) (x m) = false) ∧
      Starts s w .xl 2 g (fun _ => (BitVec.ofNat 64 (if (List.range 32).any fun k => g.getLsbD k && (x k).isNan then nanOf f
        else element ty (laneAt v m) 0), 0, nv)) w.ctx.gens (exec (.xlMin ty t) s)) ∧
    (WellFormed (.xlMax ty t) → ∃ m, started g m ∧ ((∀ k, started g k → (x k).isNan = false) → ∀ k, started g k → ordF (x m) (x k) = false) ∧
      Starts s w .xl 2 g (fun _ => (BitVec.ofNat 64 (if (List.range 32).any fun k => g.getLsbD k && (x k).isNan then nanOf f
        else element ty (laneAt v m) 0), 0, nv)) w.ctx.gens (exec (.xlMax ty t) s)))

/-- R157, R160 (06): a magnitude rounded to a place, below it by n bits. -/
def Obligations.RoundsToPlace : Prop :=
  ∀ (m n d : Nat) (q : Int) (neg : Bool), d < 65536 →
    let x : Mag := ⟨m, q - n, false⟩
    let floor := m / 2 ^ n
    let rest := m % 2 ^ n
    (∀ rm, (x.roundAt rm neg d q).2 = true ↔ rest ≠ 0) ∧
    (x.roundAt .rtz neg d q).1 = floor ∧
    (x.roundAt .rup neg d q).1 = floor + (if rest ≠ 0 ∧ neg = false then 1 else 0) ∧
    (x.roundAt .rdn neg d q).1 = floor + (if rest ≠ 0 ∧ neg = true then 1 else 0) ∧
    (x.roundAt .rna neg d q).1 = floor + (if 2 ^ n ≤ 2 * rest then 1 else 0) ∧
    (x.roundAt .rne neg d q).1 = floor + (if 2 ^ n < 2 * rest ∨ (2 ^ n = 2 * rest ∧ floor % 2 = 1) then 1 else 0) ∧
    (x.roundAt .sr neg d q).1 = floor + (if 65536 ≤ rest * 65536 / 2 ^ n + d then 1 else 0)

/-- R123, R134, R136, R142 (05): what each kind of source delivers; s0 reads zero; the head of a ring is read where some lane of the guard is true, and
waits for an element. R128, R130 (05): a result port is read where no lane of the guard is
pending, or once the result is due; a bundle that reads it earlier waits. R125 (05): a move's guard, lane by lane; p0 reads the active mask. -/
def Obligations.SourcesAndPorts : Prop :=
  (∀ (s : State) (w : Warp) (g : W32) (wide : Bool),
    let x := s.srcCtx w
    (∀ n : BitVec 8, n.toNat + wide.toNat < w.regs → ∃ l, s.source w (.vreg n) g wide = .ok l ∧ ∀ i, i < 32 →
      laneAt l i = ((if wide then regAt (s.srcVregs w) x.rrb (n.toNat + 1) i else 0) ++ regAt (s.srcVregs w) x.rrb n.toNat i : BitVec (32 + 32))) ∧
    (∀ n : BitVec 6, x.watched n.toNat = false → ∃ l, s.source w (.sreg n) g wide = .ok l ∧ ∀ i, i < 32 →
      laneAt l i = if n = 0 then 0 else Tab.get x.sregs 0 n.toNat) ∧
    (∀ n : BitVec 4, ∃ l, s.source w (.pred n) g wide = .ok l ∧ ∀ i, i < 32 → laneAt l i = if (x.pred n.toNat).getLsbD i then 1 else 0) ∧
    (∀ v, ∃ l, s.source w (.litZ v) g wide = .ok l ∧ ∀ i, i < 32 → laneAt l i = v.setWidth 64) ∧
    (∀ v, ∃ l, s.source w (.litS v) g wide = .ok l ∧ ∀ i, i < 32 → laneAt l i = v.signExtend 64) ∧
    (∀ v, ∃ l, s.source w (.imm v) g wide = .ok l ∧ ∀ i, i < 32 → laneAt l i = v.signExtend 64) ∧
    (∀ n : BitVec 4, ∃ l, s.source w (.special n) g wide = .ok l ∧ ∀ i, i < 32 →
      (n = 0 → laneAt l i = BitVec.ofNat 64 i) ∧ (n = 1 → laneAt l i = BitVec.ofNat 64 w.warp) ∧
      (n = 2 → laneAt l i = BitVec.ofNat 64 (s.cur.core % 4)) ∧ (n = 3 → laneAt l i = BitVec.ofNat 64 w.clus) ∧
      (n = 4 → laneAt l i = BitVec.ofNat 64 w.die) ∧ (n = 5 → laneAt l i = BitVec.ofNat 64 (s.cur.core / 16)) ∧
      (n = 9 → laneAt l i = BitVec.ofNat 64 (s.now - (s.cluster (s.cur.core / 4)).base)) ∧
      (n = 0xA → laneAt l i = BitVec.ofNat 64 (s.die (s.cur.core / 16)).almanac) ∧
      (n = 0xB → laneAt l i = x.mode) ∧ (n = 0xC → laneAt l i = x.flags) ∧
      (n = 0xD → laneAt l i = x.mask.setWidth 64) ∧ (n = 0xE → laneAt l i = tagsRead s) ∧
      ∀ y, s.node? w.nid = some y → (n = 6 → laneAt l i = BitVec.ofNat 64 (lrD y.raw)) ∧ (n = 7 → laneAt l i = BitVec.ofNat 64 (lrC y.raw)) ∧
        (n = 8 → laneAt l i = BitVec.ofNat 64 (lrW y.raw)) ∧ (n = 0xF → laneAt l i = lrSeed y.raw)) ∧
    (∀ n : BitVec 4, (g = 0 → ∃ l, s.source w (.ring n) g wide = .ok l) ∧
      (g ≠ 0 → Tab.look s.srcRings n.toNat = none → s.source w (.ring n) g wide = .fault 0x0F (s.loc 0 n.toNat)) ∧
      (g ≠ 0 → ∀ r, Tab.look s.srcRings n.toNat = some r → (r.elems = [] → s.source w (.ring n) g wide = .wait .neighbour) ∧
        ∀ e rest, r.elems = e :: rest → ∃ l, s.source w (.ring n) g wide = .ok l ∧ ∀ i, i < 32 → laneAt l i = laneAt e i))) ∧
  (∀ (s : State) (w : Warp) (u : Un) (g : W32) (wide : Bool), g ≠ 0 →
    let p := (s.srcCtx w).port u
    (∀ d, p.due = some d → s.now < d → p.pend &&& g ≠ 0 → s.source w (.res u) g wide = .wait .waits ∧ s.source w (.sec u) g wide = .wait .waits) ∧
    (∀ d, p.due = some d → s.now < d → p.pend &&& g = 0 → p.psn &&& g = 0 → ∃ l, s.source w (.res u) g wide = .ok l ∧
      ∀ i, i < 32 → laneAt l i = laneAt p.res i) ∧
    (∀ d, p.due = some d → d ≤ s.now → p.psn = 0 → p.npsn = 0 → ∃ l m, s.source w (.res u) g wide = .ok l ∧ s.source w (.sec u) g wide = .ok m ∧
      ∀ i, i < 32 → laneAt l i = (if p.pend.getLsbD i then laneAt p.nres i else laneAt p.res i) ∧
        laneAt m i = if p.pend.getLsbD i then laneAt p.nsec i else laneAt p.sec i)) ∧
  (∀ (x : Ctx) (g : Guard) (i : Nat), i < 32 →
    ((x.guard g).getLsbD i = true ↔ x.mask.getLsbD i = true ∧ (x.pred g.pred.toNat).getLsbD i ≠ g.pol) ∧
    (g.pred = 0 → g.pol = false → (x.guard g).getLsbD i = x.mask.getLsbD i))

/-- R233 (10): an empty bundle changes only the program counter, outside a modulo loop. R125, R126 (05): a trigger whose guard is true in no lane
starts nothing and changes nothing. -/
def Obligations.EmptyAndGuardedOff : Prop :=
  (∀ (s : State) (w : Warp), s.warp? s.cur = some w → w.ctx.loop = none → exec .noOperation s = .next (mine s (atPc w (w.ctx.pc + 32)))) ∧
  (∀ (i : Instr) (r : RawMove) (s : State) (w : Warp) (v : Lanes), i.raw = some r → isTrigger i = true → Ready s w r.mv i.readsWide 0 v →
    exec i s = .next { s with verdict := .done })

/-- R121, R125, R126 (05): a move to an operand port. -/
def Obligations.PortMoves : Prop :=
  ∀ (u : Un) (k : PortIx) (wide : Bool) (m : Mv) (s : State) (w : Warp) (g : W32) (v : Lanes), Ready s w m wide g v →
    ∃ l : Lanes,
      (oneValue u = false → lanesOver g (laneAt v) (laneAt (match k with
        | .a => (w.ctx.port u).a
        | .b => (w.ctx.port u).b
        | .c => (w.ctx.port u).c)) l) ∧
      (oneValue u = true → ∀ j, LowestLane g j → ∀ i, i < 32 → laneAt l i = laneAt v j) ∧
      (g = 0 → ∀ i, i < 32 → laneAt l i = laneAt (match k with
        | .a => (w.ctx.port u).a
        | .b => (w.ctx.port u).b
        | .c => (w.ctx.port u).c) i) ∧
      exec (.moveToPort u k wide m) s = .next (mine s (withCtx w { w.ctx with ports := Tab.put w.ctx.ports u.code (match k with
        | .a => { w.ctx.port u with a := l }
        | .b => { w.ctx.port u with b := l }
        | .c => { w.ctx.port u with c := l }) }))

/-- R123, R125, R126, R133, R134 (05): a move to a vector register or pair, and to a scalar register; s0 discards it. R135 (05): a move to a
predicate. R136 (05), R156, R163 (06): a move to `mode` or to `flags`. -/
def Obligations.RegisterMoves : Prop :=
  ((∀ (n : BitVec 8) (wide : Bool) (m : Mv) (s : State) (w : Warp) (g : W32) (v : Lanes), WellFormed (.moveToRegister (.vreg n wide) m) →
    Ready s w m wide g v → n.toNat + wide.toNat < w.regs →
    ∃ vr, exec (.moveToRegister (.vreg n wide) m) s = .next (mine s { w with vregs := vr }) ∧
      (∀ j i, j < 256 → i < 32 → regAt vr (s.srcCtx w).rrb j i =
        if g.getLsbD i = true ∧ j = n.toNat then (laneAt v i).setWidth 32
        else if g.getLsbD i = true ∧ wide = true ∧ j = n.toNat + 1 then (laneAt v i).extractLsb' 32 32
        else regAt w.vregs (s.srcCtx w).rrb j i)) ∧
  (∀ (n : BitVec 8) (wide : Bool) (m : Mv) (s : State) (w : Warp) (g : W32) (v : Lanes), Ready s w m wide g v → w.regs ≤ n.toNat + wide.toNat →
    exec (.moveToRegister (.vreg n wide) m) s =
      .next { s.raiseTrap s.cur 0x03 (s.loc 0 (n.toNat + wide.toNat)) with verdict := .faulted 0x03 (s.loc 0 (n.toNat + wide.toNat)) }) ∧
  (∀ (n : BitVec 6) (m : Mv) (s : State) (w : Warp) (g : W32) (v : Lanes) (k : Nat), Ready s w m false g v → LowestLane g k →
    ∃ x : Ctx, exec (.moveToRegister (.sreg n) m) s = .next (mine s (withCtx w x)) ∧
      x = { w.ctx with sregs := if n = 0 then w.ctx.sregs else Tab.put w.ctx.sregs n.toNat (laneAt v k), watch := x.watch } ∧
      (∀ j, j < 64 → (x.watch.getLsbD j = true ↔
        if j = n.toNat ∧ j ≠ 0 then (∃ u, m.src = .res u) ∧ w.ctx.outstanding (laneAt v k) = true else w.ctx.watch.getLsbD j = true))) ∧
  (∀ (n : BitVec 6) (m : Mv) (s : State) (w : Warp) (v : Lanes), Ready s w m false 0 v →
    exec (.moveToRegister (.sreg n) m) s = .next { s with verdict := .done })) ∧
  (∀ (n : BitVec 4) (m : Mv) (s : State) (w : Warp) (g : W32) (v : Lanes), Ready s w m false g v →
    ∃ p : W32, (∀ i, i < 32 → p.getLsbD i = if g.getLsbD i then decide (laneAt v i ≠ 0) else (Tab.get w.ctx.preds 0 n.toNat).getLsbD i) ∧
      exec (.moveToPredicate n m) s = .next (mine s (withCtx w { w.ctx with preds := Tab.put w.ctx.preds n.toNat p }))) ∧
  (∀ (n : BitVec 4) (m : Mv) (s : State) (w : Warp) (g : W32) (v : Lanes) (k : Nat), WellFormed (.specialRegisterWrite n m) → Ready s w m false g v →
    LowestLane g k →
    ((n = 0xB ∧ ∃ y : W64, exec (.specialRegisterWrite n m) s = .next (mine s (withCtx w { w.ctx with mode := y })) ∧
        y.toNat < 32 ∧ y.getLsbD 3 = (laneAt v k).getLsbD 3 ∧ y.getLsbD 4 = (laneAt v k).getLsbD 4 ∧
        y.toNat % 8 = if (laneAt v k).toNat % 8 = 0 ∨ (laneAt v k).toNat % 8 = 7 then 1 else (laneAt v k).toNat % 8) ∨
     (n = 0xC ∧ exec (.specialRegisterWrite n m) s = .next (mine s (withCtx w { w.ctx with flags := ((laneAt v k).setWidth 8).setWidth 64 })))))

/-- R259 to R261 (12): branches, calls and returns. R261 (12), R251 (11): a target outside the program region takes the fetch fault, a misaligned
one the illegal-encoding fault. R267 (12): the sequencer starts, or its kernel is passed over. -/
def Obligations.Branches : Prop :=
  (∀ (s : State) (w : Warp), s.warp? s.cur = some w →
    (∀ x, mayGo s w (target w x) → exec (.br x) s = .next (mine s (atPc w (target w x))) ∧
      exec (.call x) s = .next (mine s (atPc (withCtx w (plainReg w.ctx 62 (w.ctx.pc + 32))) (target w x)))) ∧
    (∀ sa v, CtlReady s w sa v → mayGo s w v → exec (.jmp sa) s = .next (mine s (atPc w v))) ∧
    (∀ v, CtlReady s w 62 v → mayGo s w v → exec .ret s = .next (mine s (atPc w v))) ∧
    (∀ sa x v, CtlReady s w sa v → (v = 0 → mayGo s w (target w x)) →
      exec (.brz sa x) s = .next (mine s (atPc w (if v = 0 then target w x else w.ctx.pc + 32)))) ∧
    (∀ sa x v, CtlReady s w sa v → (v ≠ 0 → mayGo s w (target w x)) →
      exec (.brnz sa x) s = .next (mine s (atPc w (if v = 0 then w.ctx.pc + 32 else target w x)))) ∧
    (∀ p ng x, let c := cond (s.srcCtx w) p ng; let m := (s.srcCtx w).mask
      (c &&& m ≠ 0 → mayGo s w (target w x)) →
      exec (.brany p ng x) s = .next (mine s (atPc w (if c &&& m = 0 then w.ctx.pc + 32 else target w x)))) ∧
    (∀ p ng x, let c := cond (s.srcCtx w) p ng; let m := (s.srcCtx w).mask
      (c &&& m = m → mayGo s w (target w x)) →
      exec (.brall p ng x) s = .next (mine s (atPc w (if c &&& m = m then target w x else w.ctx.pc + 32))))) ∧
  (∀ (s : State) (w : Warp) (x : BitVec 32) (sa : BitVec 6) (v : W64), s.warp? s.cur = some w →
    (w.ctx.pc.toNat % 32 = 0 → ¬ mayGo s w (target w x) →
      exec (.br x) s = .next { s.raiseTrap s.cur 0x04 ((target w x) &&& 0xFFFFFFFFFFFFFF) with verdict := .faulted 0x04 ((target w x) &&& 0xFFFFFFFFFFFFFF) }) ∧
    (CtlReady s w sa v → v.toNat % 32 ≠ 0 → exec (.jmp sa) s = .next { s.raiseTrap s.cur 0x02 (s.loc 0 0) with verdict := .faulted 0x02 (s.loc 0 0) })) ∧
  (∀ (s : State) (w : Warp) (sa : BitVec 6) (ii stages : BitVec 8) (n : W64), CtlReady s w sa n →
    (n = 0 → mayGo s w (w.ctx.pc + 32 * (ii.setWidth 64 + 1)) → exec (.mloop sa ii stages) s = .next (mine s (atPc w (w.ctx.pc + 32 * (ii.setWidth 64 + 1))))) ∧
    (n ≠ 0 → exec (.mloop sa ii stages) s = .next (mine s (withCtx w
      { w.ctx with pc := w.ctx.pc + 32, loop := some ⟨n, 0, ii.toNat, stages.toNat, 0, w.ctx.pc⟩ }))))

/-- R264, R265 (12): the region operations on the mask and the token stack. R266 (12): the faults of the region operations. -/
def Obligations.Regions : Prop :=
  (∀ (s : State) (w : Warp), s.warp? s.cur = some w → s.srcCtx w = w.ctx →
    let x := w.ctx
    let next := x.pc + 32
    (∀ p ng, x.toks.length < 32 →
      let t := x.mask &&& cond x p ng
      exec (.vif p ng) s = .next (mine s (withCtx w (region x t (⟨0, 0, x.mask, x.mask &&& ~~~t, 0⟩ :: x.toks) next)))) ∧
    (∀ t r, x.toks = t :: r → t.kind = 0 →
      exec .velse s = .next (mine s (withCtx w (region x t.alt ({ t with kind := 1, alt := 0 } :: r) next)))) ∧
    (∀ t r, x.toks = t :: r → t.kind = 0 ∨ t.kind = 1 → exec .vend s = .next (mine s (withCtx w (region x t.outer r next)))) ∧
    (x.toks.length < 32 →
      exec .vloop s = .next (mine s (withCtx w (region x x.mask (⟨2, next.extractLsb' 5 51, x.mask, 0, 0⟩ :: x.toks) next)))) ∧
    (∀ p ng t r, x.toks = t :: r → t.kind = 2 →
      let l := x.mask ||| t.cont
      let go := l &&& cond x p ng
      let alt := t.alt ||| (l &&& ~~~go)
      let head : W64 := (t.head ++ 0#5).setWidth 64
      (go = 0 → exec (.vwhile p ng) s = .next (mine s (withCtx w (region x alt r next)))) ∧
      (go ≠ 0 → mayGo s w head → exec (.vwhile p ng) s = .next (mine s (withCtx w (region x go ({ t with alt := alt, cont := 0 } :: r) head)))) ∧
      (go ≠ 0 → ¬ mayGo s w head →
        exec (.vwhile p ng) s = .next { s.raiseTrap s.cur 0x04 head with verdict := .faulted 0x04 head })) ∧
    (∀ (k : BitVec 8) up t r, x.toks = up ++ t :: r → t.kind = 2 → (up.filter fun y => y.kind == 2).length = k.toNat →
      exec (.vbrk k) s = .next (mine s (withCtx w (region x 0 (up.map (withoutLanes x.mask) ++ { t with alt := t.alt ||| x.mask } :: r) next))) ∧
      exec (.vnext k) s = .next (mine s (withCtx w (region x 0 (up.map (withoutLanes x.mask) ++ { t with cont := t.cont ||| x.mask } :: r) next))))) ∧
  (∀ (s : State) (w : Warp) (p : BitVec 4) (ng : Bool) (k : BitVec 8), s.warp? s.cur = some w →
    let f (c : Nat) : Out := .next { s.raiseTrap s.cur c (s.loc 0 0) with verdict := .faulted c (s.loc 0 0) }
    (32 ≤ w.ctx.toks.length → exec (.vif p ng) s = f 0x06 ∧ exec .vloop s = f 0x06) ∧
    ((∀ t r, w.ctx.toks = t :: r → t.kind ≠ 0) → exec .velse s = f 0x05) ∧
    ((∀ t r, w.ctx.toks = t :: r → t.kind ≠ 0 ∧ t.kind ≠ 1) → exec .vend s = f 0x05) ∧
    ((∀ t r, w.ctx.toks = t :: r → t.kind ≠ 2) → exec (.vwhile p ng) s = f 0x05) ∧
    ((w.ctx.toks.filter fun y => y.kind == 2).length ≤ k.toNat → exec (.vbrk k) s = f 0x05 ∧ exec (.vnext k) s = f 0x05))

/-- R274 (12): the future operations. -/
def Obligations.FutureOperations : Prop :=
  ∀ (s : State) (w : Warp) (sd sa : BitVec 6), s.warp? s.cur = some w →
    let x := s.srcCtx w
    (x.watched sa.toNat = false → exec (.fwait sa) s = .next (mine s (atPc w (w.ctx.pc + 32)))) ∧
    (x.watched sa.toNat = true → exec (.fwait sa) s = .next { s with verdict := .admission }) ∧
    exec (.ftest sd sa) s = .next (mine s (atPc (withCtx w (plainReg w.ctx sd.toNat (if x.watched sa.toNat then 0 else 1))) (w.ctx.pc + 32))) ∧
    exec (.fpass sd sa) s = .next (mine s (atPc (withCtx w (plainReg w.ctx sd.toNat (x.sreg sa.toNat))) (w.ctx.pc + 32))) ∧
    (x.watched sa.toNat = true → ∃ t, exec (.fcancel sa) s = .next t ∧ t.verdict = .done ∧ t.mem = s.mem ∧
      t.warps = Tab.put s.warps (warpKey s.cur) (atPc w (w.ctx.pc + 32))) ∧
    (x.watched sa.toNat = false → isHandle x.fser (x.sreg sa.toNat) = false → exec (.fcancel sa) s = .next (mine s (atPc w (w.ctx.pc + 32))))

/-- R275, R276, R277, R279, R282 (12): a warp's end, software traps, the return from a handler, breakpoints and early starts. -/
def Obligations.EndsAndTraps : Prop :=
  ∀ (s : State) (w : Warp), s.warp? s.cur = some w →
    exec .exit s = .next (mine s { w with leaving := some (w.leaving.getD false) }) ∧
    (∀ n : BitVec 8, ∃ t w', exec (.trap n) s = .next t ∧ t.warp? s.cur = some w' ∧ t.verdict = .done ∧
      w'.entering = some ⟨.user, 0x20, n.setWidth 64, w.ctx.pc + 32⟩ ∧ w'.vregs = w.vregs ∧ w'.ctx = { w.ctx with hold := none, claimAt := none } ∧ t.mem = s.mem) ∧
    (w.handler = none → exec .yield s = .next { s.raiseTrap s.cur 0x07 (s.loc 0 0) with verdict := .faulted 0x07 (s.loc 0 0) }) ∧
    (∀ h, w.handler = some h → h.trap.kind = .user ∨ h.trap.kind = .resume → w.asyncs = [] → ∃ fs, exec .yield s = .next { mine s
        { w with handler := none, units := [], ctx := { h.saved with futs := fs } } with cores := claimed s h.saved.hold } ∧
      fs = h.saved.futs.filter fun e => Tab.look w.ctx.futs e.1 == some e.2) ∧
    ((s.die (dieOf s.cur.core)).debugEnable = false → exec .bkpt s = .next (mine s (atPc w (w.ctx.pc + 32)))) ∧
    ((s.die (dieOf s.cur.core)).debugEnable = true →
      exec .bkpt s = .next { mine s (atPc w (w.ctx.pc + 32)) with agenda := s.agenda ++ [.debugHold (dieOf s.cur.core)] }) ∧
    exec .eve s = .next (mine s { atPc w (w.ctx.pc + 32) with eve := w.eve || (w.responder.isNone && w.handler.isNone) })

/-- R280 (12): system registers. R278 (12), R391, R393 (17): context images: saved as a lane store, loaded into the saved context. -/
def Obligations.SystemState : Prop :=
  (∀ (s : State) (w : Warp), s.warp? s.cur = some w →
    (∀ (sd : BitVec 6) (n : BitVec 16) (v : W64), s.sysreg w n.toNat = some v → (w.handler = none → n ≠ 8 ∧ n ≠ 9 ∧ n ≠ 10) →
      exec (.sysrd sd n) s = .next (mine s (atPc (withCtx w (plainReg w.ctx sd.toNat v)) (w.ctx.pc + 32)))) ∧
    (∀ (sd : BitVec 6) (n : BitVec 16), w.handler = none → n = 8 ∨ n = 9 ∨ n = 10 →
      exec (.sysrd sd n) s = .next { s.raiseTrap s.cur 0x07 (s.loc 0 0) with verdict := .faulted 0x07 (s.loc 0 0) }) ∧
    (∀ (sa : BitVec 6) (v : W64), CtlReady s w sa v →
      exec (.syswr 2 sa) s = .next (mine s { atPc w (w.ctx.pc + 32) with fhnd := v &&& 0xFFFFFFFFFFFFFFE0 })) ∧
    (∀ (n : BitVec 16) (sa : BitVec 6), n ≠ 2 →
      exec (.syswr n sa) s = .next { s.raiseTrap s.cur 0x02 (s.loc 0 0) with verdict := .faulted 0x02 (s.loc 0 0) }) ∧
    s.sysreg w 2 = some w.fhnd ∧ s.sysreg w 0x20 = some (BitVec.ofNat 64 w.ctx.toks.length) ∧ s.sysreg w 0x21 = some (w.ctx.rrb.setWidth 64) ∧
    (∀ h, w.handler = some h → s.sysreg w 8 = some (BitVec.ofNat 64 h.trap.cause) ∧ s.sysreg w 9 = some h.saved.pc ∧ s.sysreg w 10 = some h.trap.info) ∧
    (∀ n, s.node? w.nid = some n → s.sysreg w 0 = some (BitVec.ofNat 64 n.ten) ∧ s.sysreg w 1 = some (BitVec.ofNat 64 (lrTag n.raw)) ∧
      s.sysreg w 0x18 = some (BitVec.ofNat 64 (lrQuota n.raw)))) ∧
  (∀ (s : State) (w : Warp) (sa : BitVec 6) (v : W64) (h : Handler) (n : Node), CtlReady s w sa v → s.node? w.nid = some n →
    let f : Out := .next { s.raiseTrap s.cur 0x07 (s.loc 0 0) with verdict := .faulted 0x07 (s.loc 0 0) }
    let core := s.cur.core
    let r := (s.core core).segs.getD (v.toNat / 2 ^ 58) 0
    let pos := v.toNat % 2 ^ 47
    let span := s.pinnedSpan (s.mapping core) core n.ten r pos 8192
    let c := s.cluster (core / 4)
    (w.handler = none → exec (.ctxsv sa) s = f ∧ exec (.ctxld sa) s = f) ∧
    (w.handler = some h → v.toNat / 2 ^ 47 % 2 ^ 11 = 0 → pos % 256 = 0 → s.pinnedBad (s.mapping core) core n.ten r pos 8192 none = none →
      exec (.ctxsv sa) s = .next { s with
        warps := mePut s (atPc w (w.ctx.pc + 32))
        clusters := Tab.put s.clusters (core / 4) { c with
          nextId := c.nextId + 1
          lands := c.lands ++ [⟨c.nextId, w.wid, s.now + 8, s.now, core, core, span.zip (imageOf h.saved (lrTag n.raw) w.regs w.fhnd), none, []⟩] }
        verdict := .done } ∧
      (s.storesLanded core w.wid = true →
        let b := span.map fun o => readCell (s.core core).pool o
        exec (.ctxld sa) s = if imageBad b (lrTag n.raw) w.regs (fun pc => s.inRegion w.nid pc) then f
          else .next (mine s { atPc w (w.ctx.pc + 32) with handler := some { h with saved := imageCtx b h.saved } }))))

/-- R315, R317 (14), R94, R96 (04): a load without a fault, with room in the landing buffer, starts: its result is due at the due offset, taken between
8 and 4,095, and its record, from which the load-due step of `ClusterSteps` makes the result that the port awaits, names each lane's bytes. R312 (13): `ldc` of an element in pinned pages of the issuing core: due 8 cycles on, in every lane. -/
def Obligations.LoadsStart : Prop :=
  (∀ (u : Which) (t : MTrig) (i : Instr) (s : State) (w : Warp) (g : W32) (v : Lanes) (k : Nat) (r : BitVec 256) (l : List (Nat × LaneRes)),
    (i = .ld u t ∨ i = .lds u t ∨ i = .ldu u t) → MemReady s w (laUnit u) t (decide (i = .ldu u t)) needRead g v k r l →
    noFault l false → (laneLines l).length + (s.core s.cur.core).slotsUsed s.now ≤ 1024 →
    let p := w.ctx.port (laUnit u)
    let due := s.now + Nat.max 8 (Nat.min 4095 (laneAt p.c k).toNat)
    ∃ x, exec i s = .next x ∧ Frame s x (mePut s { w with
      ctx := { w.ctx with ports := Tab.put w.ctx.ports (laUnit u).code (awaiting p s.now g due (s.core s.cur.core).nextId) }
      units := w.units.filter fun y => y.1 != laUnit u || y.2.1 ≤ s.now }) ∧
      Recorded s x w (laUnit u) g due (laneLines l).length (decide (i = .lds u t)) (decide (i = .ldu u t)) l) ∧
  (∀ (t : MTrig) (s : State) (w : Warp) (g : W32) (v : Lanes) (k : Nat) (r : BitVec 256) (l : List (Nat × LaneRes)),
    MemReady s w .sl t true needRead g v k r l → noFault l false → s.ldcPlace w r k (w.ctx.port .sl) v l = [] →
    ∃ x, exec (.ldc t) s = .next x ∧ Frame s x (mePut s { w with
      ctx := { w.ctx with ports := Tab.put w.ctx.ports Un.sl.code (awaiting (w.ctx.port .sl) s.now 0xFFFFFFFF (s.now + 8) (s.core s.cur.core).nextId) }
      units := w.units.filter fun y => y.1 != Un.sl || y.2.1 ≤ s.now }) ∧
      Recorded s x w .sl 0xFFFFFFFF (s.now + 8) 0 false true l)

/-- R318 to R320, R322 (14): prefetches, stores and the cache operations of lanes. R320, R321 (14), R98 (04): a store whose elements lie in one
line of a core of the issuing cluster lands there 8, 12 or 16 cycles on, each lane's element in little-endian order. -/
def Obligations.StoresAndCacheOperations : Prop :=
  (∀ (u : Which) (t : MTrig) (s : State) (w w1 : Warp) (g : W32) (v : Lanes) (k : Nat) (r : BitVec 256) (l : List (Nat × LaneRes)) (h : W64) (f : FutAt),
    (MemReady s w (laUnit u) t false needEither g v k r l → noFault l false → w.newFuture (laUnit u).code = some (w1, h, f) →
      exec (.preq u t) s = .next (fin (State.checkPreqs { withHandle s w1 (laUnit u) h with
        preqs := s.preqs ++ [⟨f, s.cur.core, s.tenOf w.nid, r, preqAt r l, false⟩] }))) ∧
    (MemReady s w (laUnit u) t false needRead g v k r l → noFault l false → ∃ x, exec (.touch u t) s = .next x ∧ Frame s x s.warps) ∧
    (MemReady s w .st t false needWrite g v k r l → noFault l true → ∃ x, exec (.st t) s = .next x ∧ Frame s x s.warps) ∧
    (MemReady s w .st t true needWrite g v k r l → noFault l true → ∃ x, exec (.stu t) s = .next x ∧ Frame s x s.warps) ∧
    (MemReady s w .st t false needEither g v k r l → noFault l false → w.newFuture 18 = some (w1, h, f) →
      (∃ x, exec (.wb t) s = .next x ∧ Frame s x (mePut s (withResult w1 s.now .st h))) ∧
      (∃ x, exec (.inv t) s = .next x ∧ Frame s x (mePut s (withResult w1 s.now .st h))))) ∧
  (∀ (t : MTrig) (s : State) (w : Warp) (g : W32) (v : Lanes) (k n line : Nat) (r : BitVec 256) (l : List (Nat × LaneRes)),
    MemReady s w .st t false needWrite g v k r l → noFault l true → n / 4 = s.cur.core / 4 → laneBytes l ≠ [] →
    (s.core s.cur.core).memq = [] → (s.core s.cur.core).rels = [] →
    (∀ b, b ∈ laneBytes l → b.place.space = .core n ∧ b.place.addr / 256 = line ∧ ∃ b', b' ∈ laneBytes l ∧ b.vline = b'.vline) →
    (∀ b b', b ∈ laneBytes l → b' ∈ laneBytes l → b.vline = b'.vline) →
    let c := s.cluster (s.cur.core / 4)
    let bytes := (laneBytes l).map fun b => (b.place.addr, (laneAt (w.ctx.port .st).c b.lane).extractLsb' (8 * b.k) 8)
    let lat := if n % 4 = s.cur.core % 4 then 8 else if n % 4 + s.cur.core % 4 = 3 then 16 else 12
    ∃ x, exec (.st t) s = .next x ∧ Frame s x s.warps ∧ x.clusters = Tab.put s.clusters (s.cur.core / 4)
      { c with nextId := c.nextId + 1, lands := c.lands ++ [⟨c.nextId, w.wid, s.now + lat, s.now, s.cur.core, n, bytes, none, []⟩] })

/-- R323 (14), R89 (03): `csize`: a way count that cannot be, one that would cut into allocated pages or comes while another is in progress, and
one that is taken. R137, R138 (05): the register pool: claims, and registers given back, which return at the end of the cycle. -/
def Obligations.SramAndRegisterPools : Prop :=
  (∀ (m : Mv) (s : State) (w w1 : Warp) (x : W64) (k : Nat) (h : W64) (f : FutAt), Engine s w m x k → w.newFuture 18 = some (w1, h, f) →
    let c := s.core s.cur.core
    let busy := c.csize.isSome || c.pages.any fun y => !y.2.void && decide (x.toNat * 4 ≤ y.1)
    let s1 := withHandle s w1 .st h
    (16 - c.fencedWays.length < x.toNat → exec (.csize m) s = .next (fin (s1.arriveFut s.cur.core f 0x106))) ∧
    (x.toNat ≤ 16 - c.fencedWays.length → busy = true →
      exec (.csize m) s = .next (fin (s1.arriveFut s.cur.core f (BitVec.ofNat 64 (c.ways * 256 + 2))))) ∧
    (x.toNat ≤ 16 - c.fencedWays.length → busy = false → ∃ t, exec (.csize m) s = .next t ∧ Frame s t s1.warps)) ∧
  (∀ (m : Mv) (s : State) (w : Warp) (x : W64) (k : Nat), Engine s w m x k →
    let c := s.core s.cur.core
    let n := x.toNat
    (n % 8 = 0 → 8 ≤ n → n + 8 ≤ w.regs →
      exec (.vgive m) s = .next (fin (withHandle s { w with giving := n } .rg (BitVec.ofNat 64 (w.regs - n))))) ∧
    (n % 8 = 0 → 8 ≤ n → n + w.regs ≤ 256 →
      exec (.vclaim m) s = .next { s with
        warps := mePut s (withCtx w { w.ctx with hold := some (.claim n), claimAt := some (w.ctx.pc, w.ctx.loop, w.ctx.rrb) })
        cores := Tab.put s.cores s.cur.core { c with claims := c.claims ++ [(s.cur.slot, n)] }, verdict := .done }) ∧
    (n % 8 ≠ 0 ∨ n < 8 →
      let f : Out := .next { s.raiseTrap s.cur 0x03 (s.loc k n) with verdict := .faulted 0x03 (s.loc k n) }
      exec (.vgive m) s = f ∧ exec (.vclaim m) s = f)) ∧
  (∀ (s : State) (a : WarpAt) (w : Warp), 0 < w.giving → w.giving ≤ w.regs → w.regs ≤ 256 →
    let c := s.core a.core
    let n := w.giving
    ∃ vr, (∀ j i, j < w.regs - n → regAt vr w.ctx.rrb j i = regAt w.vregs w.ctx.rrb j i) ∧
      (∀ j i, w.regs - n ≤ j → j < w.regs → regAt vr w.ctx.rrb j i = 0) ∧
      s.gives a w = { s with
        warps := Tab.put s.warps (warpKey a) { w with vregs := vr, regs := w.regs - n, giving := 0 }
        cores := Tab.put s.cores a.core { c with free := c.free + n, held := Tab.put c.held w.nid (Tab.get c.held 0 w.nid - n) } })

/-- R325, R328 (14): an atomic without a fault, with room in the landing buffer, starts: its old values are due at the latest of its words' cycles.
R326 (14): the twelve atomic operations on a word. -/
def Obligations.Atomics : Prop :=
  (∀ (i : Instr) (op : AtOp) (sc : Scope) (t : MTrig) (s : State) (w : Warp) (g : W32) (v : Lanes) (k : Nat) (r : BitVec 256) (l : List (Nat × LaneRes)),
    atomicOf i = some (op, sc, t) →
    MemReady s w .atm t false ⟨fun rd _ a => decide (2 ≤ brEsz r) && rd && a, true⟩ g v k r l →
    let p := w.ctx.port .atm
    let words := atWords p.b p.c l
    noFault l true → s.scopeFaults w r sc p v l = [] → s.psnFaults l = [] → words.length + (s.core s.cur.core).slotsUsed s.now ≤ 1024 →
    let due := s.now + (words.map (atLatency s.cur.core sc)).foldl Nat.max 1
    ∃ x id, exec i s = .next x ∧
      Frame s x (mePut s (withCtx w { w.ctx with ports := Tab.put w.ctx.ports Un.atm.code (awaiting p s.now g due id) }))) ∧
  (∀ (op : AtOp) (wide : Bool) (m v w : W64), (wide = false → m.toNat < 2 ^ 32 ∧ v.toNat < 2 ^ 32 ∧ w.toNat < 2 ^ 32) →
    let W := if wide then 64 else 32
    atOp op wide m.toNat v.toNat w.toNat =
      ((atomicNew W op (m.setWidth W) (v.setWidth W) (w.setWidth W)).1.toNat, (atomicNew W op (m.setWidth W) (v.setWidth W) (w.setWidth W)).2))

/-- R269, R270 (12): a handle: the mark, the unit, the lowest free entry, and the serial number, counted from 1. -/
def Obligations.Handles : Prop :=
  ∀ (w : Warp) (u : Nat), 16 ≤ u → u ≤ 26 →
    (∀ w1 h f, w.newFuture u = some (w1, h, f) →
      ∃ (e : BitVec 6) (ser : W32), Tab.look w.ctx.futs e.toNat = none ∧ (∀ j, j < e.toNat → (Tab.look w.ctx.futs j).isSome) ∧
        ser = (if w.ctx.fser = 0xFFFFFFFF then 1 else w.ctx.fser + 1) ∧ h = (0xF7#8 ++ BitVec.ofNat 8 u ++ 0#10 ++ e ++ ser : BitVec 64) ∧
        f = ⟨w.wid, e.toNat, ser⟩ ∧ w1 = withCtx w { w.ctx with fser := ser, futs := Tab.put w.ctx.futs e.toNat ser } ∧ w1.ctx.outstanding h = true) ∧
    (w.newFuture u = none ↔ ∀ e, e < 64 → (Tab.look w.ctx.futs e).isSome)

/-- R104 to R107, R111 (04), R330 (14): a copy that is neither faulted nor refused takes the lowest free slot and begins with its first chunk.
R113, R115 (04), R330, R331 (14): the resume of a suspended copy, tag waits, and the lowest tag that is set and asked for. For which writes of the warp
an engine's trigger waits is log entry 75's reading. -/
def Obligations.Copies : Prop :=
  (∀ (t : MTrig) (multi : Bool) (s : State) (w w1 : Warp) (x : W64) (k a slot : Nat) (h : W64) (f : FutAt), Engine s w t.mv x k →
    w.newFuture 20 = some (w1, h, f) → s.writesLanded s.cur.core w.wid = true →
    let c := s.core s.cur.core
    let seg (n : Nat) := c.segs.getD n 0
    let r := seg t.buf.toNat
    r.getLsbD 63 = true → x.toNat % 128 = 0 → s.pinnedAt s.cur.core (s.tenOf w.nid) r x.toNat 128 = some a →
    let sh : BitVec 1024 := BitVec.ofNat 1024 (leNat (readCells c.pool a 128))
    let paced := !multi && pacedTo s.cur.core (seg (shDbuf sh))
    let comp := opc w .cp
    s.copyFault sh (seg (shSbuf sh)) (seg (shDbuf sh)) multi = none →
    s.copyReason sh (seg (shDbuf sh)) multi paced (opa w .cp).toNat (opb w .cp).toNat comp (s.tenOf w.nid) = none →
    Tab.lowestFree c.copies 16 = some slot →
    let y := newCopy s w f sh multi paced
    let tags := if cwTge comp then c.ctag &&& ~~~(1#64 <<< cwTag comp) else c.ctag
    exec (if multi then .mcast t else .go t) s = .next { withHandle s w1 .cp h with
      cores := Tab.put s.cores s.cur.core { c with copies := Tab.put c.copies slot y, ctag := tags }
      flight := s.flight ++ [⟨.request, s.cur.core, 512, .copyChunkTranslate s.cur.core slot⟩]
      verdict := .done }) ∧
  (∀ (m : Mv) (s : State) (w w1 : Warp) (x : W64) (k : Nat) (h : W64) (f : FutAt), Engine s w m x k → w.newFuture 20 = some (w1, h, f) →
    let c := s.core s.cur.core
    let s1 := withHandle s w1 .cp h
    exec (.cwany m) s = .next { s1 with
      cores := Tab.put s.cores s.cur.core { c with tagWaits := c.tagWaits ++ [(f, x, false)] }, verdict := .done } ∧
    exec (.cwall m) s = .next { s1 with
      cores := Tab.put s.cores s.cur.core { c with tagWaits := c.tagWaits ++ [(f, x, true)] }, verdict := .done } ∧
    (∀ n, n ≤ 64 → (∀ j, j < n → (c.ctag &&& x).getLsbD j = false) → (n < 64 → (c.ctag &&& x).getLsbD n = true) →
      ∃ y : W64, (∀ j, j < 64 → y.getLsbD j = (c.ctag.getLsbD j && (decide (j ≠ n) || c.tagged.getLsbD j))) ∧
        exec (.cffr m) s = .next { withHandle s w .cp (BitVec.ofNat 64 n) with
          cores := Tab.put s.cores s.cur.core { c with ctag := y }, verdict := .done }) ∧
    (s.writesLanded s.cur.core w.wid = true → Tab.look c.copies (x.toNat / 16 % 16) = none → exec (.copyResume m) s = .next (fin (s1.arriveFut s.cur.core f 0x706))) ∧
    (∀ y, s.writesLanded s.cur.core w.wid = true → Tab.look c.copies (x.toNat / 16 % 16) = some y → y.fut.wid = w.wid → y.st = .suspended (x.toNat % 16) → y.paced = false →
      exec (.copyResume m) s = .next (fin ((s1.updCopy s.cur.core (x.toNat / 16 % 16) (resumedCopy s w f)).send .request s.cur.core 512
        (.copyChunkTranslate s.cur.core (x.toNat / 16 % 16))))))

/-- R172 to R174 (07), R342 (15): a task that is neither faulted nor refused takes the lowest free slot of the cluster's queue, with the next
number in task order; a resume queues a suspended task again for its remaining rows. Both wait for the warp's writes into core SRAM (log entry 75). -/
def Obligations.TasksQueue : Prop :=
  (∀ (i : Instr) (fn : Nat) (tri : Bool) (t : MTrig) (s : State) (w w1 : Warp) (x : W64) (k a q : Nat) (h : W64) (f : FutAt),
    taskOf i = some (fn, tri, t) → Engine s w t.mv x k → w.newFuture 21 = some (w1, h, f) → s.writesLanded s.cur.core w.wid = true →
    let c := s.core s.cur.core
    let cl := s.cluster (s.cur.core / 4)
    let seg (n : Nat) := c.segs.getD n 0
    let r := seg t.buf.toNat
    Tab.lowestFree cl.tasks 64 = some q → r.getLsbD 63 = true → x.toNat % 64 = 0 → s.pinnedAt s.cur.core (s.tenOf w.nid) r x.toNat 64 = some a →
    let y : BitVec 512 := BitVec.ofNat 512 (leNat (readCells c.pool a 64))
    let bias := (opc w .mx).toNat
    s.taskFault w fn y bias = none → taskReason w fn y bias (opa w .mx) (opb w .mx) = none →
    ∃ z : Task, exec i s = .next { withHandle s w1 .mx h with
        clusters := Tab.put s.clusters (s.cur.core / 4) { cl with tasks := Tab.put cl.tasks q z, nextTask := cl.nextTask + 1 }, verdict := .done } ∧
      z.num = cl.nextTask ∧ z.t = s.now ∧ z.core = s.cur.core ∧ z.wid = w.wid ∧ z.nid = w.nid ∧ z.fut = f ∧ z.fn = fn ∧ z.tri = tri ∧ z.record = y ∧
      z.bias = bias ∧ z.st = .queued ∧ z.row0 = 0 ∧ z.prog = 0 ∧ z.behind = s.writesOf s.cur.core w.wid ∧
      z.p0 = predecessor cl w (opa w .mx) ∧ z.p1 = predecessor cl w (opb w .mx)) ∧
  (∀ (m : Mv) (s : State) (w w1 : Warp) (x : W64) (k : Nat) (h : W64) (f : FutAt) (z : Task), Engine s w m x k → w.newFuture 21 = some (w1, h, f) →
    let cl := s.cluster (s.cur.core / 4)
    s.writesLanded s.cur.core w.wid = true → Tab.look cl.tasks (x.toNat / 1024 % 64) = some z → z.wid = w.wid → z.st = .suspended (x.toNat % 16) →
    let y : Task := { z with
      behind := s.writesOf s.cur.core w.wid, fut := f, num := cl.nextTask, seq := cl.nextTask - cl.taskBase, t := s.now, st := .queued, row0 := z.prog, p0 := none, p1 := none, fail := 0 }
    exec (.taskResume m) s = .next { withHandle s w1 .mx h with
      clusters := Tab.put s.clusters (s.cur.core / 4) { cl with tasks := Tab.put cl.tasks (x.toNat / 1024 % 64) y, nextTask := cl.nextTask + 1 }
      verdict := .done })

/-- R332 to R334 (14): accumulator accesses enter the cluster; a row outside the warp's window faults. R335 (14), R185 (07): an accumulator access
in its cycle. -/
def Obligations.Accumulators : Prop :=
  ((∀ (m : Mv) (s : State) (w : Warp) (g : W32) (v : Lanes), Ready s w m false g v → g ≠ 0 →
    let cells := cellsOf w g v
    let rows := (cells.map fun c => c.2.1).eraseDups
    (∀ c, c ∈ cells → w.base ≤ c.2.1 ∧ c.2.1 < w.limit) →
    let id := (s.cluster (s.cur.core / 4)).nextId
    let p : Port := { (w.ctx.port .ac).seen s.now with pend := g, nres := [], nsec := [], due := none, op := id, npsn := 0 }
    exec (.acRd m) s = .next { s with
      warps := mePut s (withCtx w { w.ctx with ports := Tab.put w.ctx.ports Un.ac.code p })
      clusters := acEntered s w rows (.rd cells), verdict := .done } ∧
    exec (.acWr m) s = .next { s with
      clusters := acEntered s w rows (.wr (cells.map fun c => (c.2.1, c.2.2, (laneAt (w.ctx.port .ac).b c.1).setWidth 32))), verdict := .done }) ∧
  (∀ (m : Mv) (s : State) (w : Warp) (x : W64) (k : Nat), Engine s w m x k →
    let a := (laneAt (w.ctx.port .ac).a k).toNat
    let g := (laneAt (w.ctx.port .ac).b k).toNat
    (a = 0 → exec (.acZero m) s = .next (fin s)) ∧
    (0 < a → w.base ≤ x.toNat → x.toNat + a ≤ w.limit →
      exec (.acZero m) s = .next { s with
        clusters := acEntered s w ((List.range a).map fun j => x.toNat + j) (.zero x.toNat a), verdict := .done }) ∧
    (g < 255 → w.ix ∈ s.membersHere w g → (∀ j, j ∈ s.membersHere w g → w.ix ≤ j) → a ≤ x.toNat → x.toNat ≤ 8192 →
      exec (.win m) s = .next { s with clusters := acEntered s w [] (.win a x.toNat w.nid (s.membersHere w g)), verdict := .done }))) ∧
  (∀ (s : State) (cl id : Nat) (a : AcAcc), s.ev = some (.acAccess cl id) → (s.cluster cl).acs.find? (fun y => y.id == id) = some a →
    let c := s.cluster cl
    let rest := c.acs.filter fun y => y.id != id
    (∀ cells, a.act = .wr cells → storeWf c → (∀ x, x ∈ cells → x.2.1 < 256) → ∃ c', exec .acAccess s = .next { s with
      clusters := Tab.put (Tab.put s.clusters cl { c with acs := rest }) cl c' } ∧ cellsPut c c' cells ∧ c'.acs = rest ∧ c'.tasks = c.tasks ∧
      storeWf c') ∧
    (∀ row n, a.act = .zero row n → ∃ c', exec .acAccess s = .next { s with
      clusters := Tab.put (Tab.put s.clusters cl { c with acs := rest }) cl c' } ∧ c'.acs = rest ∧
      ∀ r k, k < 256 → c'.cell r k = if row ≤ r ∧ r < row + n then 0 else c.cell r k) ∧
    (∀ cells at_ w, a.act = .rd cells → s.findWid a.wid = some (at_, w) → (w.ctx.port .ac).op = id → (w.ctx.port .ac).pend ≠ 0 → ∃ p : Port,
      exec .acAccess s = .next ({ s with clusters := Tab.put s.clusters cl { c with acs := rest } }.putWarp at_ (withCtx w { w.ctx with
        ports := Tab.put w.ctx.ports Un.ac.code p })) ∧ p.due = some (c.lcyc + 4) ∧ p.pend = (w.ctx.port .ac).pend ∧
      ∀ i r k, i < 32 → cells.find? (fun x => x.1 == i) = some (i, r, k) → laneAt p.nres i = (c.cell r k).setWidth 64 ∧ laneAt p.nsec i = 0) ∧
    (∀ base limit nid mem, a.act = .win base limit nid mem → slotsWf s → ∃ t, exec .acAccess s = .next t ∧ t.mem = s.mem ∧ t.cores = s.cores ∧
      ∀ at_ w, at_.slot < 16 → s.warp? at_ = some w → t.warp? at_ = some (
        if at_.core / 4 = cl ∧ w.nid = nid ∧ w.responder = none ∧ w.ix ∈ mem then { w with base := base, limit := limit } else w)))

/-- R213 to R218 (09): acquire, release and fence: refused with a reason and, in the barrier modes, the object's phase, or begun. -/
def Obligations.Ordering : Prop :=
  ∀ (sc : Scope) (m : Mv) (s : State) (w w1 : Warp) (x : W64) (k : Nat) (h : W64) (f : FutAt), Engine s w m x k → w.newFuture 23 = some (w1, h, f) →
    let o := x.toNat % 65536
    let y := s.obj o
    let s1 := withHandle s w1 .sy h
    let mineObj := o ≠ 0xFFFF ∧ y.ten = some (s.tenOf w.nid)
    (¬ mineObj → exec (.acq sc m) s = .next (fin (s1.arriveFut s.cur.core f (refusedBy y 1))) ∧
      exec (.rel sc m) s = .next (fin (s1.arriveFut s.cur.core f (refusedBy y 1)))) ∧
    (mineObj → y.md = 0 → exec (.acq sc m) s = .next (fin (s1.arriveFut s.cur.core f (refusedWith 2)))) ∧
    (mineObj → y.md ≠ 0 → ∃ t, exec (.acq sc m) s = .next t ∧ Frame s t s1.warps) ∧
    (mineObj → y.md = 0 ∨ y.md = 3 ∨ (y.md = 1 ∧ y.holder ≠ some w.wid) →
      exec (.rel sc m) s = .next (fin (s1.arriveFut s.cur.core f (refusedBy y 2)))) ∧
    (mineObj → y.md = 2 ∨ (y.md = 1 ∧ y.holder = some w.wid) → ∃ t, exec (.rel sc m) s = .next t ∧ Frame s t s1.warps) ∧
    (∃ t, exec (.fence sc m) s = .next t ∧ Frame s t s1.warps)

/-- R345 to R349 (15): named barriers; at the end of a cycle a held warp's bit is set, or it goes on where the phase differs. R346, R347 (15): the barrier fault of a number above 47, and of a barrier that is not set. -/
def Obligations.NamedBarriers : Prop :=
  (∀ (m : Mv) (s : State) (w : Warp) (x : W64) (k : Nat), Engine s w m x k → x.toNat ≤ 47 →
    let c := s.core s.cur.core
    let b := x.toNat
    let y := c.bar b
    let e := (opa w .sy).toNat
    (1 ≤ e → e ≤ 255 → (y.own = none ∨ y.own = some w.nid) → y.cnt = 0 → y.wmask = 0 → y.emask = [] →
      exec (.barSet m) s = .next { withHandle s w .sy 0 with
        cores := Tab.put s.cores s.cur.core { c with bars := Tab.put c.bars b { y with exp := e, cnt := 0, own := some w.nid } }, verdict := .done }) ∧
    (y.exp ≠ 0 → y.own = some w.nid → opa w .sy = 0 →
      exec (.barArr m) s = .next { withHandle s w .sy (y.phase.setWidth 64) with
        cores := Tab.put s.cores s.cur.core { c with rels := c.rels ++ [s.barRel w b] }, verdict := .done }) ∧
    (y.exp ≠ 0 → exec (.barWait m) s = .next { s with
      warps := mePut s (withCtx w { w.ctx with hold := some (.bar b ((opa w .sy).setWidth 16)) }), verdict := .done }) ∧
    (y.exp ≠ 0 → y.own = some w.nid → s.relWaits s.cur.core (s.barRel w b) = false → ∃ t, exec (.barSync m) s = .next t ∧
      Frame s t (mePut s (withCtx w { w.ctx with hold := some (.bar b y.phase) })) ∧
      (t.core s.cur.core).rels = c.rels ++ [s.barRel w b] ∧ (t.core s.cur.core).bar b = y)) ∧
  (∀ (s : State) (cl b : Nat) (a : WarpAt) (w : Warp) (q : BitVec 16), s.liveIn cl = [(a, w)] → w.entering = none → w.ctx.hold = some (.bar b q) →
    let c := s.core a.core
    let y := c.bar b
    (y.phase = q → s.releaseHeld cl = s.putCore a.core { c with bars := Tab.put c.bars b { y with wmask := y.wmask ||| (1#16 <<< a.slot) } }) ∧
    (y.phase ≠ q → s.releaseHeld cl =
      s.putWarp a (withResult (withCtx w { w.ctx with hold := none }) (s.lcycOf a.core) .sy (y.phase.setWidth 64)))) ∧
  (∀ (m : Mv) (s : State) (w : Warp) (x : W64) (k : Nat), Engine s w m x k → 47 < x.toNat ∨ ((s.core s.cur.core).bar x.toNat).exp = 0 →
    let f : Out := .next { s.raiseTrap s.cur 0x12 (s.loc k x.toNat) with verdict := .faulted 0x12 (s.loc k x.toNat) }
    exec (.barWait m) s = f ∧ (s.relWaits s.cur.core (s.barRel w x.toNat) = false → exec (.barSync m) s = f))

/-- R351 (15), R353, R354 (15), R213 (09): group barriers and byte-count barriers; a refusal shows the object's phase in its barrier modes. -/
def Obligations.GroupAndCountBarriers : Prop :=
  ∀ (m : Mv) (s : State) (w w1 : Warp) (x : W64) (k : Nat) (h : W64) (f : FutAt), Engine s w m x k → w.newFuture 23 = some (w1, h, f) →
    let s1 := withHandle s w1 .sy h
    let o := x.toNat % 65536
    let y := s.obj o
    let n := (opa w .sy).toNat
    (∀ nd, s.node? w.nid = some nd → x.toNat < 255 → w.responder = none → w.ix ∈ nd.members x.toNat w.die w.clus → Tab.look w.gbars x.toNat = none →
      ∃ t, exec (.gbar m) s = .next t ∧ Frame s t (mePut s { withResult w1 s.now .sy h with gbars := Tab.put w1.gbars x.toNat f })) ∧
    (o = 0xFFFF ∨ y.ten ≠ some (s.tenOf w.nid) → exec (.bcarm m) s = .next (fin (s1.arriveFut s.cur.core f (refusedBy y 1))) ∧
      exec (.bcwait m) s = .next (fin (s1.arriveFut s.cur.core f (refusedBy y 1)))) ∧
    (o ≠ 0xFFFF → y.ten = some (s.tenOf w.nid) → y.md ≠ 3 → exec (.bcarm m) s = .next (fin (s1.arriveFut s.cur.core f (refusedBy y 2))) ∧
      exec (.bcwait m) s = .next (fin (s1.arriveFut s.cur.core f (refusedBy y 2)))) ∧
    (o ≠ 0xFFFF → y.ten = some (s.tenOf w.nid) → y.md = 3 →
      (n = 0 ∨ 2 ^ 48 ≤ n → exec (.bcarm m) s = .next (fin (s1.arriveFut s.cur.core f (refusedBy y 3)))) ∧
      (0 < n → n < 2 ^ 48 → exec (.bcarm m) s = .next { s1 with
        flight := s.flight ++ [⟨.request, s.cur.core, 512, .releaseAtObject (.arm f o n)⟩], verdict := .done }) ∧
      exec (.bcwait m) s = .next { s1 with
        flight := s.flight ++ [⟨.request, s.cur.core, 512, .releaseAtObject (.wait f o ((opa w .sy).setWidth 16))⟩], verdict := .done })

/-- R199, R203 (08), R355 (15): a solicit with a bad operand is refused; a sound one begins its release; a reply ends its responder. -/
def Obligations.Solicits : Prop :=
  (∀ (t : MTrig) (s : State) (w w1 : Warp) (x : W64) (k : Nat) (h : W64) (f : FutAt), Engine s w t.mv x k → w.newFuture 24 = some (w1, h, f) →
    s.pinnedBad (s.mapping s.cur.core) s.cur.core (s.tenOf w.nid) ((s.core s.cur.core).segs.getD t.buf.toNat 0) (opc w .so).toNat 8 none = none →
    let s1 := withHandle s w1 .so h
    let good := x.toNat < 64 ∧ x.toNat / 16 ≤ 2 ∧ x.toNat % 16 ≤ 7 ∧ (opa w .so).toNat < 2 ^ 48
    (¬ good → exec (.sol t) s = .next (fin (s1.arriveFut s.cur.core f 6))) ∧
    (good → ∃ y, exec (.sol t) s = .next y ∧ Frame s y s1.warps)) ∧
  (∀ (m : Mv) (s : State) (w : Warp) (x : W64) (k : Nat), Engine s w m x k →
    (w.responder = none → exec (.sreply m) s = .next { s.raiseTrap s.cur 0x13 (s.loc k 0) with verdict := .faulted 0x13 (s.loc k 0) }) ∧
    (w.responder ≠ none → ∃ y, exec (.sreply m) s = .next y ∧ Frame s y (mePut s { w with leaving := some true })))

/-- R194, R195, R196, R198 (08): insertions, deletions and moves of tiles. A program sees what commits have changed from its cluster's next
admission on, and a move's copy starts at an admission (log entry 74); a move waits for the warp's writes (log entry 75). -/
def Obligations.Tiles : Prop :=
  (∀ (t : MTrig) (s : State) (w w1 : Warp) (x : W64) (k e : Nat) (h : W64) (f : FutAt), Engine s w t.mv x k → w.newFuture 24 = some (w1, h, f) →
    let c := s.core s.cur.core
    let key := opa w .so
    let len := (opc w .so).toNat
    let s1 := withHandle s w1 .so h
    w.responder = none →
    s.pinnedBad (s.mapping s.cur.core) s.cur.core (s.tenOf w.nid) (c.segs.getD t.buf.toNat 0) (opb w .so).toNat len (some (w.nid, s.homeKey w)) = none →
    let good := key.toNat < 2 ^ 48 ∧ len % 256 = 0 ∧ 256 ≤ len ∧ len ≤ 2 ^ 22 ∧ x.toNat % 32 = 0
    (¬ good → exec (.tins t) s = .next (fin (s1.arriveFut s.cur.core f (refusedWith 1)))) ∧
    (good → (∀ j, j < 128 → ¬ vacant c j) → exec (.tins t) s = .next (fin (s1.arriveFut s.cur.core f (refusedWith 2)))) ∧
    (good → e < 128 → vacant c e → (∀ j, j < e → ¬ vacant c j) →
      exec (.tins t) s = .next { s1 with
        cores := Tab.put s.cores s.cur.core { c with tiles := Tab.put c.tiles e (newTile s w t x key len f) }
        flight := s.flight ++ [⟨.request, s.cur.core, 512, .censusOrder (.insert s.cur.core e f)⟩], verdict := .done })) ∧
  (∀ (m : Mv) (s : State) (w w1 : Warp) (x : W64) (k : Nat) (h : W64) (f : FutAt), Engine s w m x k → w.newFuture 24 = some (w1, h, f) →
    let c := s.core s.cur.core
    let s1 := withHandle s w1 .so h
    (w.responder ≠ none → exec (.tdel m) s = .next (fin (s1.arriveFut s.cur.core f (refusedWith 4)))) ∧
    (w.responder = none → (∀ y, c.tileSeen x.toNat = some y → y.st ≠ .present ∨ y.nid ≠ w.nid) →
      exec (.tdel m) s = .next (fin (s1.arriveFut s.cur.core f (refusedWith 3)))) ∧
    (∀ y, w.responder = none → c.tileSeen x.toNat = some y → y.st = .present → y.nid = w.nid →
      let gone : Tile := { y with st := .departing, leave := some f }
      exec (.tdel m) s = .next { s1 with
        cores := Tab.put s.cores s.cur.core { c with
          tiles := if Tab.look c.tiles x.toNat = some y then Tab.put c.tiles x.toNat gone else c.tiles
          oldTiles := if (Tab.look c.oldTiles x.toNat).isSome then Tab.put c.oldTiles x.toNat gone else c.oldTiles }
        flight := s.flight ++ [⟨.request, s.cur.core, 512, .censusOrder (.delete s.cur.core x.toNat f)⟩], verdict := .done })) ∧
  (∀ (t : MTrig) (s : State) (w w1 : Warp) (x : W64) (k e : Nat) (h : W64) (f : FutAt) (y : Tile), Engine s w t.mv x k →
    w.newFuture 24 = some (w1, h, f) →
    let c := s.core s.cur.core
    let d := (opa w .so).toNat
    let r := c.segs.getD t.buf.toNat 0
    let s1 := withHandle s w1 .so h
    w.responder = none → s.writesLanded s.cur.core w.wid = true → d < 256 → e < 128 → vacant (s.core d) e → (∀ j, j < e → ¬ vacant (s.core d) j) →
    c.tileSeen x.toNat = some y → y.st = .present → y.nid = w.nid →
    ((s.launchCore w.nid d = false ∨ (s.pinnedBad (s.mapping s.cur.core) d (s.tenOf w.nid) r (opb w .so).toNat (y.len * 256) none).isSome = true) →
      ∃ log, (log ≠ s.errLog → ∃ q, s.walkBad (s.mapping s.cur.core) (s.tenOf w.nid) r q ≠ none) ∧
        exec (.tmove t) s = .next (fin (State.arriveFut { s1 with errLog := log } s.cur.core f (refusedWith 5)))) ∧
    (s.launchCore w.nid d = true → s.pinnedBad (s.mapping s.cur.core) d (s.tenOf w.nid) r (opb w .so).toNat (y.len * 256) none = none →
      ∃ z, exec (.tmove t) s = .next z ∧ Frame s z s1.warps ∧ z.nextMove = s.nextMove + 1 ∧
        Tab.look z.tmoves s.nextMove = some ⟨f, s.cur.core, x.toNat, d, e, r, t.buf.toNat, (opb w .so).toNat, s.owedFrom s.cur.core x.toNat, false,
          s.writesOf s.cur.core w.wid⟩ ∧
        (s.owedFrom s.cur.core x.toNat = [] → (s.findWid w.wid).map Prod.fst = some s.cur →
          ∃ l, (z.cluster (s.cur.core / 4)).arrived = l ++ [(w.wid, .tmoveCopy s.nextMove)])))

/-- R358, R359, R363, R364 (15): sends, receives and probes. A receive's length is judged before its buffer's place (log entry 30). -/
def Obligations.Messages : Prop :=
  ∀ (t : MTrig) (m : Mv) (s : State) (w w1 : Warp) (x : W64) (k : Nat) (h : W64) (f : FutAt), w.newFuture 25 = some (w1, h, f) →
    let core := s.cur.core
    let r := (s.core core).segs.getD t.buf.toNat 0
    let len := (opc w .ms).toNat
    let a := opa w .ms
    let b := opb w .ms
    let s1 := withHandle s w1 .ms h
    let span := s.pinnedSpan (s.mapping core) core (s.tenOf w.nid) r x.toNat len
    let placed := s.pinnedBad (s.mapping core) core (s.tenOf w.nid) r x.toNat len none = none
    (Engine s w t.mv x k → s.writesLanded core w.wid = true → 1 ≤ len → len ≤ 4096 → placed →
      (∀ reason, s.sendReason w a b len = some reason → exec (.send t) s = .next (fin (s1.arriveFut core f (refusedWith reason)))) ∧
      (∀ nd, s.sendReason w a b len = none → a.toNat / 2 ^ 48 % 256 = 0 → s.destNode w (a.toNat / 65536 % 2 ^ 32) = some nd →
        ∃ msg : MsgRec, msg.sender = some f ∧ msg.sdev = 0 ∧ msg.ddev = 0 ∧ msg.nid = nd.nid ∧ msg.ddie = a.toNat / 256 % 16 ∧
          msg.dclus = a.toNat / 64 % 4 ∧ msg.dwarp = a.toNat % 64 ∧ msg.snid = w.nid ∧ msg.sdie = w.die ∧ msg.sclus = w.clus ∧
          msg.tag = b.setWidth 32 ∧ msg.payload = (span.map fun o => readCell (s.core core).pool o) ∧ msg.since = none ∧
          exec (.send t) s = .next { s1 with flight := s.flight ++ [⟨.request, core, 512, .messageArrival msg⟩], verdict := .done })) ∧
    (Engine s w t.mv x k → 1 ≤ len → len ≤ 4096 → placed →
      (∀ reason, s.matchReason w a b = some reason → exec (.post t) s = .next (fin (s1.arriveFut core f (refusedWith reason)))) ∧
      (s.matchReason w a b = none → 64 ≤ (s.cluster (core / 4)).posts →
        exec (.post t) s = .next (fin (s1.arriveFut core f (refusedWith 4)))) ∧
      (s.matchReason w a b = none → (s.cluster (core / 4)).posts < 64 →
        exec (.post t) s = .next { s1 with
          clusters := Tab.put s.clusters (core / 4) { s.cluster (core / 4) with posts := (s.cluster (core / 4)).posts + 1 }
          flight := s.flight ++ [⟨.request, core, 512, .postArrival (recvOf w1 f a b core span)⟩], verdict := .done })) ∧
    (Engine s w t.mv x k → len = 0 ∨ 4096 < len → s.matchReason w a b = none → exec (.post t) s = .next (fin (s1.arriveFut core f (refusedWith 2)))) ∧
    (Engine s w m x k →
      (∀ reason, s.matchReason w a b = some reason → exec (.probe m) s = .next (fin (s1.arriveFut core f (refusedWith reason)))) ∧
      (s.matchReason w a b = none → exec (.probe m) s = .next { s1 with
        flight := s.flight ++ [⟨.request, core, 512, .probeRequest (recvOf w1 f a b core [])⟩], verdict := .done }))

/-- R358, R359, R363 (15): with a free future, operands without reserved bits, a peer within the launch and, where they use one, a buffer in pinned
pages, a send, a receive and a probe leave for the mailbox. -/
def Obligations.MessagesLeave : Prop :=
  ∀ (t : MTrig) (m : Mv) (s : State) (w : Warp) (x : W64) (k : Nat) (n : Node), s.node? w.nid = some n → (∃ e, e < 64 ∧ Tab.look w.ctx.futs e = none) →
    let core := s.cur.core
    let r := (s.core core).segs.getD t.buf.toNat 0
    let len := (opc w .ms).toNat
    let a := (opa w .ms).toNat
    let b := (opb w .ms).toNat
    let span := s.pinnedSpan (s.mapping core) core (s.tenOf w.nid) r x.toNat len
    let placed := s.pinnedBad (s.mapping core) core (s.tenOf w.nid) r x.toNat len none = none
    let ours := a < 2 ^ 12 ∧ a / 256 < lrD n.raw ∧ a / 64 % 4 < lrC n.raw ∧ a % 64 < lrW n.raw
    let any := a / 2 ^ 56 = 128
    (Engine s w t.mv x k → s.writesLanded core w.wid = true → 1 ≤ len → len ≤ 4096 → placed → ours → b < 2 ^ 32 →
      ∃ w1 h f msg, w.newFuture 25 = some (w1, h, f) ∧ exec (.send t) s = .next { withHandle s w1 .ms h with
        flight := s.flight ++ [⟨.request, core, 512, .messageArrival msg⟩], verdict := .done } ∧
        msg.payload = span.map fun o => readCell (s.core core).pool o) ∧
    (Engine s w t.mv x k → 1 ≤ len → len ≤ 4096 → placed → ours ∨ any → b < 2 ^ 33 → (s.cluster (core / 4)).posts < 64 →
      ∃ w1 h f, w.newFuture 25 = some (w1, h, f) ∧ exec (.post t) s = .next { withHandle s w1 .ms h with
        clusters := Tab.put s.clusters (core / 4) { s.cluster (core / 4) with posts := (s.cluster (core / 4)).posts + 1 }
        flight := s.flight ++ [⟨.request, core, 512, .postArrival (recvOf w1 f (opa w .ms) (opb w .ms) core span)⟩], verdict := .done }) ∧
    (Engine s w m x k → ours ∨ any → b < 2 ^ 33 →
      ∃ w1 h f, w.newFuture 25 = some (w1, h, f) ∧ exec (.probe m) s = .next { withHandle s w1 .ms h with
        flight := s.flight ++ [⟨.request, core, 512, .probeRequest (recvOf w1 f (opa w .ms) (opb w .ms) core [])⟩], verdict := .done })

/-- R140, R143 (05), R337, R338 (14): rings are made, freed, advanced, awaited and counted. R141, R142 (05), R339 (14): a push to a ring tail. -/
def Obligations.Rings : Prop :=
  (∀ (m : Mv) (s : State) (w : Warp) (x : W64) (k : Nat), Engine s w m x k →
    let c := s.core s.cur.core
    let cl := s.cluster (s.cur.core / 4)
    let n := (opa w .rg).toNat
    let kind := (opb w .rg).toNat
    let answer (v : Nat) := withHandle s w .rg (BitVec.ofNat 64 v)
    (∀ j, n ≤ 15 → Tab.look c.rings n = none → kind ≤ 1 → x.toNat = 2 ^ j → j < (if kind = 1 then 16 else 12) →
      let size := unitsOf (kind == 1) x.toNat
      (1024 < cl.ringUsed + size → exec (.rmake m) s = .next (fin (answer 1))) ∧
      (cl.ringUsed + size ≤ 1024 → exec (.rmake m) s = .next { answer 0 with
        clusters := Tab.put s.clusters (s.cur.core / 4) { cl with ringUsed := cl.ringUsed + size }
        cores := Tab.put s.cores s.cur.core { c with rings := Tab.put c.rings n ⟨kind == 1, x.toNat, w.nid, []⟩ }
        verdict := .done })) ∧
    (∀ r, ownsRing s w x.toNat r →
      exec (.rfree m) s = .next { answer 0 with
        clusters := Tab.put s.clusters (s.cur.core / 4) { cl with ringBack := cl.ringBack + unitsOf r.scalar r.depth }
        cores := Tab.put s.cores s.cur.core { c with rings := Tab.del c.rings x.toNat }
        verdict := .done } ∧
      exec (.rcnt m) s = .next (fin (answer r.elems.length))) ∧
    (∀ r, ownsRing s w n r → 1 ≤ x.toNat → x.toNat ≤ r.elems.length → r.elems.length ≤ r.depth →
      exec (.radv m) s = .next { answer (r.elems.length - x.toNat) with
        cores := Tab.put s.cores s.cur.core { c with rings := c.rings.map fun y => (y.1, if y.1 = n then { y.2 with elems := y.2.elems.drop x.toNat } else y.2) }
        verdict := .done } ∧
      exec (.rwait m) s = .next (fin (answer r.elems.length))) ∧
    (∀ r, ownsRing s w n r → r.elems.length < x.toNat → x.toNat ≤ r.depth →
      exec (.radv m) s = .next { s with verdict := .neighbour } ∧ exec (.rwait m) s = .next { s with verdict := .neighbour })) ∧
  (∀ (n : BitVec 4) (m : Mv) (s : State) (w : Warp) (g : W32) (v : Lanes) (k : Nat) (r : Ring), Ready s w m false g v → LowestLane g k →
    Tab.look s.srcRings n.toNat = some r →
    (r.elems.length < r.depth → ∃ e : Lanes, (r.scalar = true → ∀ i, i < 32 → laneAt e i = laneAt v k) ∧
      (r.scalar = false → ∀ i, i < 32 → laneAt e i = if g.getLsbD i then ((laneAt v i).setWidth 32).setWidth 64 else 0) ∧
      exec (.ringPush n m) s = .next { s with
        cores := Tab.put s.cores s.cur.core { s.core s.cur.core with rings := (s.core s.cur.core).rings.map fun x =>
          (x.1, if x.1 = n.toNat then { x.2 with elems := x.2.elems ++ [ringElem x.2 g v] } else x.2) }
        verdict := .done } ∧ ringElem r g v = e) ∧
    (r.depth ≤ r.elems.length → exec (.ringPush n m) s = .next { s with verdict := .neighbour }))

/-- R281, R283, R284 (12): launches, gangs, and the wait for predecessors. -/
def Obligations.LaunchingWork : Prop :=
  ∀ (s : State) (w w1 : Warp) (sd sa : BitVec 6) (v : W64) (h : W64) (f : FutAt) (gang : Bool), CtlReady s w sa v →
    let core := s.cur.core
    let r := (s.core core).segs.getD (v.toNat / 2 ^ 58) 0
    let pos := v.toNat % 2 ^ 47
    let x : Ctx := if sd = 0 then w1.ctx else
      { w1.ctx with sregs := Tab.put w1.ctx.sregs sd.toNat h, watch := w1.ctx.watch ||| (1#64 <<< sd.toNat) }
    let ws := mePut s (withCtx w1 { x with pc := w.ctx.pc + 32 })
    let i : Instr := if gang then .gang sd sa else .launch sd sa
    (s.storesLanded core w.wid = true → w.newFuture (if gang then 0xC1 else 0xC0) = some (w1, h, f) →
      s.pinnedBad (s.mapping core) core (s.tenOf w.nid) r pos 64 none = none →
      ∃ t, exec i s = .next t ∧ Frame s t ws) ∧
    ((∀ n, s.node? w.nid = some n → n.preds = []) → ∃ t, exec .pwait s = .next t ∧ Frame s t (mePut s (atPc w (w.ctx.pc + 32)))) ∧
    (∀ n, s.node? w.nid = some n → n.preds ≠ [] → exec .pwait s = .next { s with verdict := .admission })

/-- R128, R132 (05), R90, R92, R94, R97 to R99 (04), R272, R265, R267 (12), R329 (14): the steps of a cluster. R139, R145 (05), R201, R202 (08),
R346, R348 (15), R387 to R389 (17): grants, responders, checks, engine arrivals and trap entries. -/
def Obligations.ClusterSteps : Prop :=
  ((∀ (s : State) (a : WarpAt) (w : Warp) (u : Un) (due : Nat) (fl : BitVec 8), s.ev = some (.unitResult a u due fl) → s.warp? a = some w →
    (w.ctx.port u).due = some due → ∃ p : Port,
    exec .unitResult s = .next (s.putWarp a { w with
      units := w.units.filter fun x => !(x.1 == u && x.2.1 == due)
      ctx := { w.ctx with flags := w.ctx.flags ||| fl.setWidth 64, ports := Tab.put w.ctx.ports u.code p } }) ∧
    p.pend = 0 ∧ ∀ i, i < 32 →
      laneAt p.res i = (if (w.ctx.port u).pend.getLsbD i then laneAt (w.ctx.port u).nres i else laneAt (w.ctx.port u).res i) ∧
      laneAt p.sec i = (if (w.ctx.port u).pend.getLsbD i then laneAt (w.ctx.port u).nsec i else laneAt (w.ctx.port u).sec i)) ∧
  (∀ (s : State) (core line : Nat), s.ev = some (.instructionCacheMiss core line false) →
    let s1 : State := { s with clusters := Tab.put s.clusters (core / 4) { s.cluster (core / 4) with stopped := true } }
    let home := s1.reachAll (linesOf (s1.fetchLines core line))
    (∀ t, home = some t → exec .instructionCacheMiss s = .next { t with
      flight := t.flight ++ [⟨.response, 512, core, .instructionCacheMiss core line true⟩] }) ∧
    (home = none → ∃ t, exec .instructionCacheMiss s = .next t ∧ t.parked = s.parked ++ [⟨.request, 512, core, .instructionCacheMiss core line false⟩] ∧
      t.clusters = s1.clusters ∧ t.warps = s.warps ∧ t.mem = s.mem)) ∧
  (∀ (s : State) (core line : Nat), s.ev = some (.instructionCacheMiss core line true) → ∃ ls : List Nat, line ∈ ls ∧
    (∀ n, n ∈ ls ↔ n = line ∨ n ∈ (s.core core).ilines) ∧
    exec .instructionCacheMiss s = .next { s with cores := Tab.put s.cores core { s.core core with ilines := ls } }) ∧
  (∀ (s : State) (core id : Nat) (data : List Byte) (psn : BitVec 4) (r : Req), s.ev = some (.loadLineArrival core id data psn) →
    Tab.look (s.core core).reqs id = some r → (r.why = .write ∨ ∃ l, r.why = .load l) → (s.core core).memq = [] → (s.core core).rels = [] →
    ∃ t, exec .loadLineArrival s = .next t ∧ t.warps = s.warps ∧ t.mem = s.mem ∧ (t.core core).reqs = Tab.del (s.core core).reqs id ∧
      (t.core core).pool = (s.core core).pool ∧ (t.core core).l1 = (s.core core).l1 ∧
      (r.why = .write → (t.core core).loads = (s.core core).loads) ∧
      (∀ n, r.why = .load n → ∃ (d : List Byte) (q : BitVec 4),
        (∀ i, i < 256 → d.getD i 0 = match presentFor (s.core core) r (i / 64) with
          | some y => y.bytes.getD i 0
          | none => data.getD i 0) ∧
        (∀ k, k < 4 → q.getLsbD k = match presentFor (s.core core) r k with
          | some y => (y.sect k).psn
          | none => psn.getLsbD k) ∧
        (t.core core).loads = (s.core core).loads.map fun y =>
          if y.id = n then { y with lines := y.lines.map (lineWith r.msg.space r.msg.line d q) } else y)) ∧
  (∀ (s : State) (a : WarpAt) (w : Warp) (u : Un) (l : Load), s.ev = some (.loadDue a u) → s.warp? a = some w →
    let p := w.ctx.port u
    let t := s.lcycOf a.core
    (s.core a.core).loads.find? (fun y => y.wid == w.wid && y.un == u && y.due == t + 1 && y.id == p.op) = some l → l.atomic = false → ∃ q : Port,
    exec .loadDue s = .next (s.putWarp a (withCtx w { w.ctx with ports := Tab.put w.ctx.ports u.code q })) ∧
    q.due = some (t + 1) ∧ q.pend = p.pend ∧ q.res = p.res ∧ q.sec = p.sec ∧
    ∀ i x, i < 32 → (if l.scalar then l.lanes.head? else l.lanes.find? fun y => y.lane == i) = some x →
      let b := x.places.map (s.loadByte a.core l)
      let v := leNat (b.map Prod.fst)
      let n := 8 * b.length
      laneAt q.nres i = (if b.any Prod.snd then 0 else if l.signed && n != 0 then BitVec.ofInt 64 (signed n v) else BitVec.ofNat 64 v) ∧
      laneAt q.nsec i = if u = .sl then 0 else if x.resident then 1 else 0) ∧
  (∀ (s : State) (cl id : Nat) (l : Land), s.ev = some (.laneStoreLanding cl id) → (s.cluster cl).lands.find? (fun y => y.id == id) = some l →
    l.atom = none → cellsWf (s.core l.core).pool = true → ∃ t, exec .laneStoreLanding s = .next t ∧ t.warps = s.warps ∧ t.mem = s.mem ∧
    t.slices = s.slices ∧ (t.cluster cl).lands = ((s.cluster cl).lands.filter fun y => y.id != id) ∧
    (∀ n, n ≠ l.core → t.core n = s.core n) ∧
    bytesPut (s.core l.core).pool (t.core l.core).pool l.bytes) ∧
  (∀ (s : State) (cl : Nat) (o : OutWrite) (rest : List OutWrite), s.ev = some (.outsideWriteLanding cl) → (s.cluster cl).outs = o :: rest →
    o.atom = none → o.copy = none → o.pinned = none → cellsWf (s.core o.core).pool = true → ∃ t, exec .outsideWriteLanding s = .next t ∧ t.warps = s.warps ∧
    t.mem = s.mem ∧ (t.cluster cl).outs = rest ∧ t.flight = s.flight ++ (o.next.map fun x => ⟨.response, o.core, x.1, x.2⟩) ∧
    (∀ n, n ≠ o.core → t.core n = s.core n) ∧
    bytesPut (s.core o.core).pool (t.core o.core).pool o.bytes) ∧
  (∀ (s : State) (a : WarpAt) (w : Warp), s.ev = some (.outsideEventAdmission a) → s.warp? a = some w → ∃ t,
    exec .outsideEventAdmission s = .next t ∧ t.warps = s.warps ∧ t.mem = s.mem ∧
    t.agenda = ((s.cluster (a.core / 4)).arrived.filter fun x => x.1 == w.wid || s.gone x.1).map Prod.snd ++ s.agenda ∧
    (t.cluster (a.core / 4)).arrived = ((s.cluster (a.core / 4)).arrived.filter fun x => !(x.1 == w.wid || s.gone x.1)) ∧
    (t.cluster (a.core / 4)).adm = true ∧ (t.cluster (a.core / 4)).oldLeaves = []) ∧
  (∀ (s : State) (f : FutAt) (v : W64) (a : WarpAt) (w : Warp), s.ev = some (.futureResolution f v .nothing) → s.findWid f.wid = some (a, w) →
    Tab.look w.ctx.futs f.ent = some f.ser → ∃ t w', exec .futureResolution s = .next t ∧ t.mem = s.mem ∧ t.warp? a = some w' ∧
    w'.vregs = w.vregs ∧ w'.ctx.pc = w.ctx.pc ∧ w'.ctx.mask = w.ctx.mask ∧ w'.ctx.preds = w.ctx.preds ∧
    w'.ctx.futs = Tab.del w.ctx.futs f.ent ∧ ∀ n, n < 64 →
      let hit := w.ctx.watch.getLsbD n && names f (w.ctx.sreg n)
      w'.ctx.sreg n = (if hit then v else w.ctx.sreg n) ∧ w'.ctx.watch.getLsbD n = (w.ctx.watch.getLsbD n && !hit)) ∧
  (∀ (s : State) (a : WarpAt) (w : Warp) (d d' word : Nat), s.ev = some (.skip a) → s.warp? a = some w → w.ctx.skip = some d →
    s.fetch a.core w.nid w.ctx.pc = .ok word → skipOver w.ctx d word = some d' →
    exec .skip s = .next (s.putWarp a (withCtx w { w.ctx with skip := some d', pc := w.ctx.pc + 32 }))) ∧
  (∀ (s : State) (a : WarpAt) (w : Warp) (l : Modulo), s.ev = some (.moduloInitiation a) → s.warp? a = some w → w.ctx.loop = some l →
    exec .moduloInitiation s = .next (s.putWarp a (withCtx w (
      if l.n.toNat + l.stages - 2 < l.j.toNat + 1 then { w.ctx with loop := none, pc := l.va + BitVec.ofNat 64 (32 * (l.ii + 1)) }
      else { w.ctx with loop := some { l with j := l.j + 1, s := 0 }, rrb := w.ctx.rrb + 1, pc := l.va + 32 }))))) ∧
  ((∀ (s : State) (core slot n : Nat) (rest : List (Nat × Nat)) (w : Warp), s.ev = some (.claimGrant core) → (s.core core).claims = (slot, n) :: rest →
    s.warp? ⟨core, slot⟩ = some w → n ≤ (s.core core).free → Tab.get (s.core core).held 0 w.nid + n ≤ s.quota w.nid → w.regs + n ≤ 256 →
    ∃ vr, (∀ j i, j < w.regs → regAt vr w.ctx.rrb j i = regAt w.vregs w.ctx.rrb j i) ∧
      (∀ j i, w.regs ≤ j → j < w.regs + n → regAt vr w.ctx.rrb j i = 0) ∧
      exec .claimGrant s = .next { s with
        warps := Tab.put s.warps (warpKey ⟨core, slot⟩) (withResult { w with
          regs := w.regs + n, vregs := vr, ctx := { w.ctx with hold := none, claimAt := none } } (s.lcycOf core) .rg (BitVec.ofNat 64 (w.regs + n)))
        cores := Tab.put s.cores core { s.core core with
          claims := rest, free := (s.core core).free - n
          held := Tab.put (s.core core).held w.nid (Tab.get (s.core core).held 0 w.nid + n) } }) ∧
  (∀ (s : State) (core : Nat), s.ev = some (.spawn core true) → (∀ x, x ∈ (s.core core).spawns → x.ready = false → s.spawnMay core x = false) →
    exec .spawn s = .next (s.putCore core { s.core core with spawns := (s.core core).spawns.map fun x => { x with ready := true } })) ∧
  (∀ (s : State) (core slot : Nat) (x : Spawn) (c : Census),
    (s.ev = some (.spawn core false) ∧ s.nextSpawn core = some x) ∨
      (s.ev = some (.spawn core true) ∧ (s.core core).spawns.filter (fun y => !y.ready) = [x] ∧ s.spawnMay core x = true) →
    Tab.look s.censuses x.cen = some c → s.groupEnded x.tile.nid x.tile.grp = false → slot < 16 → s.warp? ⟨core, slot⟩ = none →
    (∀ k, k < slot → s.warp? ⟨core, k⟩ ≠ none) → ∃ t w, exec .spawn s = .next t ∧ t.warp? ⟨core, slot⟩ = some w ∧ t.mem = s.mem ∧
      t.agenda = s.agenda ++ [.outsideEventAdmission ⟨core, slot⟩] ∧ w.wid = s.nextWid ∧ w.nid = x.tile.nid ∧ w.ctx.pc = x.tile.hva ∧
      w.ctx.mask = 0xFFFFFFFF ∧ w.vregs = [] ∧ w.ctx.toks = [] ∧ w.responder = some ⟨x.cen, c.num, x.entry, c.scope, x.tile.grp⟩ ∧
      w.ctx.sreg 1 = c.key.setWidth 64 ∧ w.ctx.sreg 2 = c.arg ∧ w.ctx.sreg 3 = BitVec.ofNat 64 x.tile.tpos ∧
      w.ctx.sreg 4 = BitVec.ofNat 64 (x.tile.len * 256) ∧ w.ctx.sreg 5 = c.num.setWidth 64 ∧ w.ctx.sreg 6 = BitVec.ofNat 64 x.tile.tbuf ∧
      w.ctx.sreg 7 = BitVec.ofNat 64 (c.asker.core * 16 + c.asker.slot) ∧ w.ctx.sreg 8 = 0) ∧
  (∀ (s : State) (cl core n : Nat) (r : Ring), s.ev = some (.ringCheck cl) → s.ringCheckActs cl = true →
    leastRing (s.fullRings cl) = some (unitsOf r.scalar r.depth, core, n) → Tab.look (s.core core).rings n = some r →
    2 * r.depth ≤ (if r.scalar then 32768 else 2048) →
    (s.cluster cl).ringUsed + (unitsOf r.scalar (2 * r.depth) - unitsOf r.scalar r.depth) ≤ 1024 → exec .ringCheck s = .next { s with
      clusters := Tab.put s.clusters cl { s.cluster cl with
        ringUsed := (s.cluster cl).ringUsed + (unitsOf r.scalar (2 * r.depth) - unitsOf r.scalar r.depth) }
      cores := Tab.put s.cores core { s.core core with rings := Tab.put (s.core core).rings n { r with depth := 2 * r.depth } } }) ∧
  (∀ (s : State) (cl core n : Nat) (a : WarpAt) (w : Warp) (pc : W64) (lp : Option Modulo) (rrb : BitVec 5), s.ev = some (.claimCheck cl) →
    s.claimCores cl = [core] → s.liveOn core = [(a, w)] → s.warp? a = some w → w.ctx.hold = some (.claim n) → w.ctx.claimAt = some (pc, lp, rrb) →
    ∃ t, exec .claimCheck s = .next t ∧ t.mem = s.mem ∧ t.warp? a = some { w with
      ctx := { w.ctx with hold := none, claimAt := none, pc := pc, loop := lp, rrb := rrb }, waiting := false, blocked := false
      entering := some ⟨.user, 0x11, BitVec.ofNat 64 n, pc⟩ }) ∧
  (∀ (s : State) (core b e : Nat) (f : FutAt), s.ev = some (.engineArrival core b e) → Tab.look ((s.core core).bar b).emask e = some f →
    let x := (s.core core).bar b
    let m := Tab.del x.emask e
    exec .engineArrival s = .next (s.putCore core { s.core core with bars := Tab.put (s.core core).bars b (
      if x.exp = 0 then { x with emask := m }
      else if x.exp ≤ x.cnt + 1 then { x with emask := m, phase := x.phase + 1, cnt := 0, wmask := 0 }
      else { x with emask := m, cnt := x.cnt + 1 }) })) ∧
  (∀ (s : State) (a : WarpAt) (cause tpc : Nat) (info : W64) (w : Warp) (r : TrapReq), s.ev = some (.trapEntry a cause info tpc) → s.warp? a = some w →
    w.entering = some r →
    let entry := s.handlerEntry w r.kind
    (w.drained (s.lcycOf a.core) = true → entry ≠ 0 → w.handler = none → ∃ (t : State) (x : Ctx), exec .trapEntry s = .next t ∧ t.mem = s.mem ∧
      t.warp? a = some { w with
        units := [], entering := none, waiting := false, blocked := false, handler := some ⟨r, { x with pc := r.tpc }⟩
        ctx := { x with pc := entry, mask := 0xFFFFFFFF, toks := [], loop := none, hold := none, claimAt := none, skip := none } } ∧
      x.sregs = w.ctx.sregs ∧ x.preds = w.ctx.preds ∧ x.mode = w.ctx.mode ∧ x.mask = w.ctx.mask ∧ x.toks = w.ctx.toks ∧ x.rrb = w.ctx.rrb ∧
      x.loop = w.ctx.loop ∧ x.gens = w.ctx.gens ∧ x.futs = w.ctx.futs ∧ x.fser = w.ctx.fser ∧ x.watch = w.ctx.watch) ∧
    (r.kind = .user → w.handler ≠ none ∨ entry = 0 → slotsWf s → a.slot < 16 → ∃ t, exec .trapEntry s = .next t ∧ t.warp? a = none ∧
      ∃ e, e ∈ t.errLog ∧ e.kind = 6 ∧ e.aux = r.cause)))

/-- R107, R109 to R111 (04): the chunks of a copy, and its final status. -/
def Obligations.CopySteps : Prop :=
  (∀ (s : State) (core slot : Nat) (c : Copy), s.ev = some (.copyChunkTranslate core slot) → Tab.look (s.core core).copies slot = some c →
    c.st = .running → c.fetching = true → c.fin = none → c.paced = true → c.mcast = false → c.lost = [] → s.anyOpen core c.behind = false →
    (∀ s1 : State, s.chunkCode core c c.k = 0 → coherentOf (s.chunkPlaces core c c.k) = [] → s.reachAll (linesOf (s.chunkPlaces core c c.k)) = some s1 →
      (c.k + 1 < c.chunks → c.staged.length < 31 →
        exec .copyChunkTranslate s = .next ((s1.updCopy core slot fun _ => { c with
          staged := c.staged ++ [⟨c.k, s1.chunkBytes core c c.k, 0⟩], k := c.k + 1, fetching := true }).send .request core 512
            (.copyChunkTranslate core slot))) ∧
      (c.chunks ≤ c.k + 1 ∨ 31 ≤ c.staged.length →
        exec .copyChunkTranslate s = .next (s1.updCopy core slot fun _ => { c with
          staged := c.staged ++ [⟨c.k, s1.chunkBytes core c c.k, 0⟩], k := c.k + 1, fetching := false }))) ∧
    (s.chunkCode core c c.k ≠ 0 →
      exec .copyChunkTranslate s = .next ((walkLogged s (if s.chunkCode core c c.k = 2 then s.chunkWalk core c c.k else none)).updCopy core slot fun _ => { c with
        staged := c.staged ++ [⟨c.k, [], s.chunkCode core c c.k⟩], k := c.k + 1, fetching := false }))) ∧
  (∀ (s : State) (core slot n : Nat) (c : Copy) (ch : Chunk), s.ev = some (.copyChunkLanding core slot) →
    Tab.look (s.core core).copies slot = some c → c.st = .running → c.paced = true → c.fin = none → c.cancelled = false → c.mcast = false →
    c.staged = [ch] → c.due ch.k ≤ s.lcycOf core → ch.code = 0 → chunkTargets ch.bytes = [(0, .core n)] →
    let bytes := (chunkFor ch.bytes 0 (.core n)).1
    s.landCode n bytes (chunkOwners ch.bytes 0 (.core n)) = 0 → cellsWf (s.core n).pool = true →
    ∃ t, exec .copyChunkLanding s = .next t ∧ t.warps = s.warps ∧ t.mem = s.mem ∧ bytesPut (s.core n).pool (t.core n).pool bytes ∧
      (∀ j, j ≠ n → (t.core j).pool = (s.core j).pool) ∧
      (∃ y, Tab.look (t.core core).copies slot = some y ∧ y.landed = c.landed + ch.bytes.length ∧ y.staged = [] ∧
        y.poison = (c.poison || ch.bytes.any ChunkByte.psn)) ∧
      (c.chunks ≤ ch.k + 1 → t.agenda = s.agenda ++ [.copyFinalStatus core slot (if c.poison || ch.bytes.any ChunkByte.psn then 7 else 0)]) ∧
      (ch.k + 1 < c.chunks → t.agenda = s.agenda)) ∧
  (∀ (s : State) (core slot n : Nat) (c : Copy) (ch : Chunk) (rest : List Chunk), s.ev = some (.unpacedChunkDelivery core slot) →
    Tab.look (s.core core).copies slot = some c → c.st = .running → c.paced = false → c.fin = none → c.cancelled = false →
    c.staged = ch :: rest → chunkTargets ch.bytes = [(0, .slice n)] → cellsWf (s.slice n).pool = true →
    ∃ t, exec .unpacedChunkDelivery s = .next t ∧ t.warps = s.warps ∧ t.mem = s.mem ∧
      bytesPut (s.slice n).pool (t.slice n).pool (chunkFor ch.bytes 0 (.slice n)).1 ∧ (∀ j, j ≠ n → t.slice j = s.slice j) ∧
      (∃ y, Tab.look (t.core core).copies slot = some y ∧ y.landed = c.landed + (c.range ch.k).length ∧ y.staged = rest) ∧
      (c.k < c.chunks → t.flight = s.flight ++ [⟨.request, core, 512, .copyChunkTranslate core slot⟩])) ∧
  (∀ (s : State) (core slot code : Nat) (c : Copy), s.ev = some (.copyFinalStatus core slot code) → Tab.look (s.core core).copies slot = some c →
    c.tmove = none →
    ((s.findWid c.fut.wid).isSome = true → code = 1 ∨ code = 2 → exec .copyFinalStatus s = .next ((s.updCopy core slot fun z => { z with
      st := .suspended code, k := (z.landed + 255) / 256, staged := [], fetching := false, fin := none }).later
        [.futureResolution c.fut (c.status slot code) .nothing])) ∧
    (code ≠ 1 → code ≠ 2 → ∃ t, exec .copyFinalStatus s = .next t ∧ t.warps = s.warps ∧ t.mem = s.mem ∧
      t.agenda = s.agenda ++ (if (s.findWid c.fut.wid).isSome then [.futureResolution c.fut (c.status slot code) .nothing] else []) ∧
      (t.core core).copies = Tab.del (s.core core).copies slot ∧
      (t.core core).ctag = (if cwTge c.comp then (s.core core).ctag ||| (1#64 <<< cwTag c.comp) else (s.core core).ctag) ∧
      t.flight = s.flight ++ if cwBce c.comp && (code = 0 || code = 4) then
        [⟨.request, core, 512, .byteCountAdd (cwBobj c.comp) (c.landed * c.reached.length) c.ten c.lines⟩] else []))

/-- R175, R177, R178, R187 (07): a task is dispatched, its operand lines are read, it retires. R168 (06), R179, R184 (07): the cells that a
retiring `mm` writes, when its rounding is not stochastic. -/
def Obligations.TaskSteps : Prop :=
  ((∀ (s : State) (cl q eng : Nat) (t : Task), s.ev = some (.taskDispatch cl q eng) → Tab.look (s.cluster cl).tasks q = some t →
    let c := s.cluster cl
    let p := s.taskProgress t c.oldLeaves t.ten
    let d := c.lcyc + 1
    exec .taskDispatch s = .next ((walkLogged s (if p.2 = 2 then s.taskWalk t c.oldLeaves t.ten p.1 else none)).putCluster cl { c with tasks := Tab.put c.tasks q { t with
      prog := p.1, fail := p.2, eng := eng, old := c.oldLeaves, opA := [], opB := [], opS := []
      st := .dispatched d (d + retireTime t (p.1 - t.row0)) eng } })) ∧
  (∀ (s s1 : State) (cl q : Nat) (t : Task), s.ev = some (.taskOperandLineDue cl q 0) → Tab.look (s.cluster cl).tasks q = some t → t.fn = 7 →
    coherentOf (s.passPlaces t 0) = [] → s.reachAll (linesOf (s.passPlaces t 0)) = some s1 →
    let c := s1.cluster cl
    let r := t.record
    exec .taskOperandLineDue s = .next (s1.putCluster cl { c with tasks := Tab.put c.tasks q { t with
      opS := s1.opBytes t t.sbuf (tkSpos r) (tkM r * tkKb r + 256 * tkKb r) } })) ∧
  (∀ (s s1 : State) (cl q p : Nat) (t : Task), s.ev = some (.taskOperandLineDue cl q p) → Tab.look (s.cluster cl).tasks q = some t →
    1 ≤ t.fn → t.fn ≤ 5 → coherentOf (s.passPlaces t p) = [] → s.reachAll (linesOf (s.passPlaces t p)) = some s1 → 256 * (p + 1) ≤ 32 * tkKb t.record →
    let size := if t.fn ≤ 2 then 2 else 1
    let r := t.record
    ∃ y : Task, exec .taskOperandLineDue s = .next (s1.putCluster cl { s1.cluster cl with tasks := Tab.put (s1.cluster cl).tasks q y }) ∧
      y.st = t.st ∧ y.record = t.record ∧ y.opS = t.opS ∧
      (∀ m, t.row0 ≤ m → m < t.prog → Tab.get y.opA [] m = Tab.get t.opA [] m ++ s1.opBytes t t.abuf (tkApos r + m * tkAstr r + 256 * p * size) (256 * size)) ∧
      (∀ j, 256 * p ≤ j → j < 256 * p + 256 → Tab.get y.opB [] j = s1.opBytes t t.bbuf (tkBpos r + j * tkBstr r) (256 * size))) ∧
  (∀ (s : State) (cl q : Nat) (t : Task), s.ev = some (.taskRetire cl q) → Tab.look (s.cluster cl).tasks q = some t → t.row0 < t.prog →
    let o := s.taskOut cl t
    o.bytes = [] → s.gone t.wid = false → (s.findWid t.fut.wid).isSome = true →
    let bad := t.poison || t.poisoned
    let code := if t.prog < tkM t.record then t.fail else if bad then 7 else 0
    ∃ z, exec .taskRetire s = .next z ∧ z.warps = s.warps ∧ z.mem = s.mem ∧ z.cores = s.cores ∧
      z.agenda = s.agenda ++ [.futureResolution t.fut (taskStatus t.prog (t.xf ||| o.fl) 0 q t.eng code) .nothing] ∧
      (z.cluster cl).acc = ((s.cluster cl).accPut o.cells).acc ∧
      (code ≠ 1 → code ≠ 2 → (z.cluster cl).tasks = Tab.del (Tab.put (s.cluster cl).tasks q { t with
        xf := t.xf ||| o.fl, poison := bad, opA := [], opB := [], opS := [] }) q) ∧
      (code = 1 ∨ code = 2 → Tab.look (z.cluster cl).tasks q = some { t with
        xf := t.xf ||| o.fl, poison := bad, opA := [], opB := [], opS := [], st := .suspended code }))) ∧
  (∀ (s : State) (cl q : Nat) (t : Task), s.ev = some (.taskRetire cl q) → Tab.look (s.cluster cl).tasks q = some t → 1 ≤ t.fn → t.fn ≤ 5 →
    t.row0 < t.prog → storeWf (s.cluster cl) →
    let r := rctl 1 t.rnd.toNat
    r.rm ≠ .sr →
    ∃ z, exec .taskRetire s = .next z ∧ ∀ m j, t.row0 ≤ m → m < t.prog → j < 256 →
      let row := tkAccrow t.record + t.bias + m
      let old := (s.cluster cl).cell row j
      let a := elemsOf t.fn r.ftz (Tab.get t.opA [] m)
      let b := (List.range (32 * tkKb t.record)).map fun k => (elemsOf t.fn r.ftz (Tab.get t.opB [] k)).getD j quiet
      let whole := t.tri = true ∧ ((32 * (j / 32) : Nat) : Int) > (min (m / 32 * 32 + 31) (tkM t.record - 1) : Nat) + tkDlt t.record
      let masked := t.tri = true ∧ (j : Int) > (m : Int) + tkDlt t.record
      (whole → (z.cluster cl).cell row j = old) ∧
      (¬ whole → masked → (z.cluster cl).cell row j = tkTcon t.record) ∧
      (¬ whole → ¬ masked → (z.cluster cl).cell row j =
        BitVec.ofNat 32 (dotAcc r (if t.fn = 5 then intProd else prodF) (blocks32 (tkKb t.record) (a.zip b)) (if tkInit t.record then 0 else old.toNat) 0 0).1))

/-- R31 to R33 (01), R42 (02): requests at the home. -/
def Obligations.HomeRequests : Prop :=
  ∀ (s : State) (r : HomeReq) (c w : Nat) (l : LLine),
    let x := r.line * 4
    (s.ev = some (.readShared r) → ServedAtOnce s 0 r c w l → r.cls = .non → ∃ t, exec .readShared s = .next t ∧ t.mem = s.mem ∧ t.dir = s.dir ∧
      t.flight = s.flight ++ [answerTo r c (s.homeLine r.line) (s.homePsn4 r.line)]) ∧
    (s.ev = some (.readShared r) → ServedAtOnce s 0 r c w l → r.cls ≠ .non → r.smask = 1 → (s.dirOf x).hown = true → 2 ≤ (s.dirOf x).htok →
      ∃ t, exec .readShared s = .next t ∧ t.mem = s.mem ∧ t.flight = s.flight ++ [dataTokens s c x 1 false] ∧
        t.dir = Tab.put s.dir x { s.dirOf x with htok := (s.dirOf x).htok - 1, dmask := (s.dirOf x).dmask ||| (1#16 <<< (c / 16)) }) ∧
    (s.ev = some (.readShared r) → ServedAtOnce s 0 r c w l → r.cls ≠ .non → r.smask = 1 → (s.dirOf x).hown = false →
      ∃ t, exec .readShared s = .next t ∧ t.mem = s.mem ∧
        t.flight = s.flight ++ [⟨.forward, portOf r.line, (s.dirOf x).ocore, .forwardedRead (s.dirOf x).ocore x c⟩] ∧
        t.dir = Tab.put s.dir x { s.dirOf x with dmask := (s.dirOf x).dmask ||| (1#16 <<< (c / 16)) }) ∧
    (s.ev = some (.readForOwnership r) → ServedAtOnce s 1 r c w l → r.cls ≠ .non → r.smask = 1 → (s.dirOf x).hown = true → (s.dirOf x).host = 0 →
      0 < (s.dirOf x).htok → ∃ t, exec .readForOwnership s = .next t ∧ t.mem = s.mem ∧
        t.flight = s.flight ++ [dataTokens s c x (s.dirOf x).htok true] ++ ((List.range 16).filter fun k => (s.dirOf x).dmask.getLsbD k).flatMap fun k =>
          (List.range 4).map fun j => ⟨.forward, portOf r.line, 16 * k + 4 * j, .demandForAllTokens (4 * k + j) x (some c)⟩) ∧
    (s.ev = some (.writeAtHome r) → ServedAtOnce s 2 r c w l → r.cls = .non → s.deadWindow r = false → (∀ b, b ∈ r.bytes → b.1 < 256) →
      ∃ t l', exec .writeAtHome s = .next t ∧ t.mem = s.mem ∧ t.dir = s.dir ∧ t.flight = s.flight ++ [answerTo r c [] 0] ∧
        (t.slice (sliceOf r.line)).find r.line = some (w, l') ∧ l'.bytes.length = 256 ∧
        (∀ k, k < 256 → (∀ b, b ∈ r.bytes → b.1 ≠ k) → l'.bytes.getD k 0 = l.bytes.getD k 0) ∧
        (∀ k v, (k, v) ∈ r.bytes → (∀ b, b ∈ r.bytes → b.1 = k → b.2 = v) → l'.bytes.getD k 0 = v) ∧
        (∀ b, b ∈ r.bytes → l'.dirty.getLsbD (b.1 / 64) = true)) ∧
    (∀ off wide op ls, s.ev = some (.atomicAtHome r) → ServedAtOnce s 3 r c w l → r.cls = .non → r.atom = some (off, wide, op, ls) →
      off + (if wide then 8 else 4) ≤ 256 →
      let n := if wide then 8 else 4
      let g := atGroup op wide (leNat ((s.homeLine r.line).drop off |>.take n)) ls
      ∃ t l', exec .atomicAtHome s = .next t ∧ t.mem = s.mem ∧ t.dir = s.dir ∧
        t.flight = s.flight ++ [answerTo r c (g.2.flatMap fun y => leBytes 8 y.2.1.toNat ++ [if y.2.2 then 1 else 0]) 0] ∧
        (t.slice (sliceOf r.line)).find r.line = some (w, l') ∧
        ∀ k, k < 256 → l'.bytes.getD k 0 = if off ≤ k ∧ k < off + n then BitVec.ofNat 8 (g.1 / 256 ^ (k - off)) else l.bytes.getD k 0) ∧
    (s.ev = some (.copyRead r) → ServedAtOnce s 4 r c w l → r.cls = .non → ∃ t, exec .copyRead s = .next t ∧ t.mem = s.mem ∧ t.dir = s.dir ∧
      t.flight = s.flight ++ [answerTo r c (s.homeLine r.line) (s.homePsn4 r.line)]) ∧
    (s.ev = some (.uncachedRead r) → ServedAtOnce s 5 r c w l → r.cls = .non → ∃ t, exec .uncachedRead s = .next t ∧ t.mem = s.mem ∧ t.dir = s.dir ∧
      t.flight = s.flight ++ [answerTo r c (s.homeLine r.line) (s.homePsn4 r.line)]) ∧
    (s.ev = some (.uncachedRead r) → ServedAtOnce s 5 r c w l → r.cls ≠ .non → ∃ t, exec .uncachedRead s = .next t ∧ t.mem = s.mem ∧ t.dir = s.dir ∧
      t.flight = s.flight ++ [answerTo r c [] 0])

/-- R30, R32, R33 (01), R43 to R46 (02): fills, write-backs, retries, tokens. -/
def Obligations.TokensAndFills : Prop :=
  (∀ (s : State) (core id : Nat) (r : Req), Tab.look (s.core core).reqs id = some r → r.persistent = false → r.kind ≤ 1 → r.msg.space = .pa →
    let ev : Ev := if 3 ≤ r.tries then .persistentRequest r.msg (r.kind == 1) else if r.kind = 0 then .readShared r.msg else .readForOwnership r.msg
    let t : State := (s.updCore core fun c => { c with reqs := Tab.put c.reqs id { r with
      tries := r.tries + 1, persistent := decide (3 ≤ r.tries), since := s.root } }).send .request core (portOf r.msg.line) ev
    (s.ev = some (.retryReissue core id) → exec .retryReissue s = .next t) ∧
    (s.ev = some (.requestTimeout core id) → r.since + 320 ≤ s.root → exec .requestTimeout s = .next t) ∧
    (s.ev = some (.requestTimeout core id) → s.root < r.since + 320 → exec .requestTimeout s = .next s)) ∧
  (∀ (s : State) (line c w : Nat) (l : LLine) (r : HomeReq), s.ev = some (.lineFill line) →
    (s.slice (sliceOf line)).find line = some (w, l) → l.pending = true → l.waiters = [⟨5, r⟩] → r.line = line → r.cls = .non → r.agent = .core c →
    (s.slice (sliceOf line)).bypass = [] → idleSlice s (sliceOf line) → (∀ k, k < 4 → (s.dirOf (line * 4 + k)).barred = false) →
    farLine line = false →
    ∃ t w' l' psn, exec .lineFill s = .next t ∧ t.mem = s.mem ∧ t.flight = s.flight ++ [answerTo r c (s.homeLine line) psn] ∧
      (t.slice (sliceOf line)).find line = some (w', l') ∧ l'.pending = false ∧ l'.valid = 0xF ∧ l'.bytes = s.homeLine line) ∧
  (∀ (s : State) (n : Nat) (e : WbEntry) (rest : List WbEntry), s.ev = some (.writeBackDrain n) → (s.slice n).wb = e :: rest →
    idleSlice s n → e.bytes.length = 256 → s.MemWf → ∃ t, exec .writeBackDrain s = .next t ∧ t.warps = s.warps ∧ (t.slice n).wb = rest ∧
      (∀ k, k < 256 → readCell t.mem (e.line * 256 + k) = if e.dirty.getLsbD (k / 64) then e.bytes.getD k 0 else readCell s.mem (e.line * 256 + k)) ∧
      (∀ a, a / 256 ≠ e.line → readCell t.mem a = readCell s.mem a)) ∧
  (∀ (s : State) (core x req : Nat) (y : Sect), s.ev = some (.forwardedRead core x req) → s.answers core = true → (s.core core).sect x = some y →
    (badSect y → exec .forwardedRead s = .next { s with flight := s.flight ++ [⟨.request, core, portOf (x / 4), .directoryError x true⟩] }) ∧
    (¬ badSect y → y.own = false → exec .forwardedRead s = .next s) ∧
    (¬ badSect y → y.own = true → 2 ≤ y.tok → exec .forwardedRead s = .next { s with
      flight := s.flight ++ [coreTokens s core (some req) x 1 false false true y.psn]
      cores := Tab.put s.cores core ((s.core core).putSect x { y with tok := y.tok - 1 }) }) ∧
    (¬ badSect y → y.own = true → y.tok < 2 → exec .forwardedRead s = .next { s with
      flight := s.flight ++ [coreTokens s core (some req) x 1 true y.dty true y.psn]
      cores := Tab.put s.cores core ((s.core core).putSect x {}) })) ∧
  (∀ (s : State) (cl k x : Nat) (req : Option Nat) (y : Sect), s.ev = some (.demandForAllTokens cl x req) → s.answers (4 * cl) = true → k < 4 →
    (s.core (4 * cl + k)).sect x = some y → 0 < y.tok → y.tok ≤ 512 ∨ req = none → req ≠ some (4 * cl + k) →
    (∀ j, j < 4 → j ≠ k → (s.core (4 * cl + j)).sect x = none) → exec .demandForAllTokens s = .next { s with
      flight := s.flight ++ [coreTokens s (4 * cl + k) req x y.tok y.own y.dty y.own y.psn]
      cores := Tab.put s.cores (4 * cl + k) ((s.core (4 * cl + k)).putSect x {}) }) ∧
  (∀ (s : State) (core x : Nat) (y : Sect), s.ev = some (.ownerRecall core x) → s.answers core = true → (s.core core).sect x = some y →
    (¬ badSect y → y.own = false → exec .ownerRecall s = .next s) ∧
    (¬ badSect y → y.own = true → exec .ownerRecall s = .next { s with
      flight := s.flight ++ [coreTokens s core none x 1 true y.dty true y.psn]
      cores := Tab.put s.cores core ((s.core core).putSect x (if 1 < y.tok then { y with own := false, dty := false, tok := y.tok - 1 } else {})) })) ∧
  (∀ (s : State) (m : TokMsg), s.ev = some (.tokenTransfer m) → m.src = none → m.dst = none → m.dty = false → s.activeFor m.sector = none →
    idleSlice s (sliceOf (m.sector / 4)) → (∀ x, x ∈ s.cores → x.2.rels = []) →
    let d := s.dirOf m.sector
    let outside := if d.host = 1 then 1 else if d.host = 2 then 512 else 0
    (d.htok + m.tok + outside ≤ 512 → (m.own = true → d.hown = false ∧ 0 < m.tok) → exec .tokenTransfer s = .next { s with
      dir := Tab.put s.dir m.sector { d with htok := d.htok + m.tok, hown := d.hown || m.own } })) ∧
  (∀ (s : State) (core line : Nat) (l : L1Line), s.ev = some (.l1Eviction core line) → s.answers core = true → Tab.look (s.core core).l1 line = some l → l.cls ≠ .non →
    ∃ t, exec .l1Eviction s = .next t ∧ t.mem = s.mem ∧ t.warps = s.warps ∧ (t.core core).l1 = Tab.del (s.core core).l1 line ∧
      t.flight = s.flight ++ ((List.range 4).filter fun k => decide (0 < (l.sect k).tok)).map fun k =>
        coreTokens s core none (line * 4 + k) (l.sect k).tok (l.sect k).own (l.sect k).dty (l.sect k).own (l.sect k).psn) ∧
  (∀ (s : State) (r : HomeReq) (c : Nat), s.ev = some (.persistentRequest r true) → r.agent = .core c → freshAt s r.line c r.inc →
    r.smask = 1 → farLine r.line = false → (s.slice (sliceOf r.line)).persist = [] → (s.slice (sliceOf r.line)).persistWait = [] → s.canGather (r.line * 4) = true →
    ∃ t data psn, exec .persistentRequest s = .next t ∧ (t.slice (sliceOf r.line)).persist = [⟨r, true, true⟩] ∧
      t.dirOf (r.line * 4) = { htok := 0, hown := false, host := 0, dmask := 1#16 <<< (c / 16), ocore := c } ∧
      t.flight.getLast? = some ⟨.response, portOf r.line, c, .tokenTransfer ⟨some c, r.line * 4, 512, true, some data, false, psn, none⟩⟩) ∧
  (∀ (s : State) (c x : Nat) (inc : BitVec 16) (e : Persist), s.ev = some (.deactivation c x inc) → freshAt s (x / 4) c inc → (s.slice (sliceOf (x / 4))).persist = [e] →
    (s.slice (sliceOf (x / 4))).persistWait = [] → e.req.agent = .core c → reqSectors e.req = [x] → ∃ t, exec .deactivation s = .next t ∧
      (t.slice (sliceOf (x / 4))).persist = [] ∧ t.mem = s.mem ∧ t.dir = s.dir ∧ t.flight = s.flight) ∧
  (∀ (s : State) (c x : Nat) (inc : BitVec 16), s.ev = some (.deactivation c x inc) → ¬ freshAt s (x / 4) c inc → ∃ t, exec .deactivation s = .next t ∧
    t.slices = s.slices ∧ t.errLog.head? = some ⟨s.root, 3, 2, c / 16, inc.toNat, x * 64, some .request⟩)

/-- R49 to R54, R57, R61 (02): time, leases, the death of a die, recalls, directory errors. -/
def Obligations.TimeAndLeases : Prop :=
  (∀ (s : State), s.ev = some .almanacTick → s.bringUp = 0 → exec .almanacTick s = .next s) ∧
  (∀ (s : State), s.ev = some .almanacTick → s.bringUp ≠ 0 → s.linkWait = [] → (∀ x, x ∈ s.slices → x.2.input = [] ∧ x.2.persist = [] ∧ x.2.persistWait = []) →
    ∃ t, exec .almanacTick s = .next t ∧ t.root = s.root + 1 ∧ t.mem = s.mem ∧ t.warps = s.warps ∧ t.flight = s.parked ++ s.flight ∧ t.parked = [] ∧
      ∀ k d, Tab.look s.dies k = some d → ∃ d', Tab.look t.dies k = some d' ∧ d.almanac ≤ d'.almanac ∧
        (d.powered = true → s.root + 1 ≤ d'.almanac + 4) ∧ (d.almanac ≤ s.root + 5 → d'.almanac ≤ s.root + 5)) ∧
  (∀ (s : State) (k : Nat), s.ev = some .almanacTick → s.bringUp ≠ 0 → k < 66 →
    (∀ x, x ∈ s.slices → x.2.input = [] ∧ x.2.persist = [] ∧ x.2.persistWait = []) → ∃ t, exec .almanacTick s = .next t ∧
      s.almanacs.getD k 0 ≤ t.almanacs.getD k 0 ∧ s.root + 1 ≤ t.almanacs.getD k 0 + 4 ∧
      (s.almanacs.getD k 0 ≤ s.root + 5 → t.almanacs.getD k 0 ≤ s.root + 5)) ∧
  (∀ (s : State) (n : Nat), s.ev = some (.renewalSend n) → (s.die n).powered = true → (s.die n).dead = false →
    exec .renewalSend s = .next ((s.putDie n { s.die n with nextRenewal := (s.die n).almanac + 2 ^ 14 }).send .request (16 * n) 512
      (.renewal n (s.die n).almanac (s.die n).inc))) ∧
  (∀ (s : State) (n t : Nat) (inc : BitVec 16), s.ev = some (.renewal n t inc) →
    let d := s.die n
    let ok := d.powered = true ∧ d.dead = false ∧ inc = d.inc ∧ (d.fresh = true ∨ d.debugHold = true ∨ s.root < d.expiry)
    (ok → s.bringUp ≠ 5 → exec .renewal s = .next ((s.putDie n { d with expiry := t + 2 ^ 16, fresh := false, slowest := d.mhz }).send .response 512 (16 * n)
      (.acknowledgement n (t + 2 ^ 16)))) ∧
    (¬ ok → exec .renewal s = .next (s.log 7 4 n inc.toNat 0))) ∧
  (∀ (s : State) (n e : Nat), s.ev = some (.acknowledgement n e) → (s.die n).dead = false → (s.die n).known < e →
    exec .acknowledgement s = .next (s.putDie n { s.die n with known := e, leaseStop := false })) ∧
  (∀ (s : State) (n : Nat), s.ev = some (.leaseStop n) → (s.die n).powered = true → (s.die n).dead = false → (s.die n).leaseStop = false →
    (s.die n).debugHold = false → (s.die n).known ≤ (s.die n).almanac + 8 + (1600 + (s.die n).slowest - 1) / (s.die n).slowest →
    exec .leaseStop s = .next (s.putDie n { s.die n with leaseStop := true })) ∧
  (∀ (s : State) (n : Nat), s.ev = some (.declaredDead n) → (s.die n).powered = true → (s.die n).dead = false → (s.die n).fresh = false →
    (s.die n).debugHold = false → (s.die n).expiry + 8 + (1600 + (s.die n).slowest - 1) / (s.die n).slowest ≤ s.root →
    ∃ t, exec .declaredDead s = .next t ∧ (t.die n).dead = true ∧ (t.die n).fenced = true ∧ (t.die n).inc = (s.die n).inc + 1 ∧
      (∀ k, k < 64 → Tab.get (t.slice k).incs 0 n = (s.die n).inc + 1) ∧ ∀ f, f ∈ t.parked → f.dst < 256 → f.dst / 16 ≠ n) ∧
  (∀ (s : State) (x : Nat), s.ev = some (.recallTimeout x) → (s.dirOf x).locked = false → exec .recallTimeout s = .next s) ∧
  (∀ (s : State) (x : Nat), s.ev = some (.recallTimeout x) → (s.dirOf x).locked = true →
    (s.recallOpen x = true → exec .recallTimeout s = .next (s.park 512 512 (.recallTimeout x))) ∧
    (s.recallOpen x = false → (s.dirOf x).error = false → idleSlice s (sliceOf (x / 4)) → (∀ c, c ∈ s.cores → c.2.rels = []) →
      exec .recallTimeout s = .next (s.putDir x {})) ∧
    (s.recallOpen x = false → (s.dirOf x).error = true → idleSlice s (sliceOf (x / 4)) → (∀ c, c ∈ s.cores → c.2.rels = []) →
      let whole := (s.dirOf x).htok = 512 ∧ (s.dirOf x).hown = true ∧ (s.dirOf x).extra = false
      (whole → exec .recallTimeout s = .next (s.putDir x {})) ∧
      (¬ whole → ∃ t, exec .recallTimeout s = .next t ∧ t.homePsn x = true ∧ t.dirOf x = {} ∧
        t.errLog.head? = some ⟨s.root, 5, 1, sliceOf (x / 4), 0, x * 64, none⟩))) ∧
  (∀ (s : State) (x : Nat), s.ev = some (.directoryError x false) →
    exec .directoryError s = .next (s.log 1 1 (sliceOf (x / 4)) 0 (x * 64))) ∧
  (∀ (s : State) (x : Nat), s.ev = some (.directoryError x true) → ∃ t, exec .directoryError s = .next t ∧ (t.dirOf x).locked = true ∧
    (t.dirOf x).error = true ∧ (t.dirOf x).dmask = 0xFFFF ∧ t.mem = s.mem ∧ t.flight.getLast? = some ⟨.request, 512, 512, .recallTimeout x⟩ ∧
    ∀ k j, k < 16 → j < 4 → (s.die k).powered = true → (s.die k).dead = false →
      (⟨.forward, portOf (x / 4), 16 * k + 4 * j, .demandForAllTokens (4 * k + j) x none⟩ : Flight) ∈ t.flight)

/-- R63 to R65 (02), R79, R85 (03), R407, R409, R413 (18): the host's accesses, and changes of mappings. The kind with which a refused access is
logged is log entry 44's; that a request names its class, and counts as one to a cached page, log entry 61's. -/
def Obligations.HostAndMappings : Prop :=
  (∀ (s : State) (port ld pa want : Nat) (cls : Cls), s.ev = some (.hostCxlMemRead port ld pa cls want) →
    (s.bound ld = false → exec .hostCxlMemRead s = .next (s.emit (.completionError ld))) ∧
    (s.bound ld = true → s.hostMay ld pa = false → exec .hostCxlMemRead s = .next ((s.log 0 2 ld ((s.ldTenant ld).getD 0) (pa / 256 * 256)).emit
      (.hostData ld pa (List.replicate 64 0) true))) ∧
    (∀ s1 : State, s.hostMay ld pa = true → s.reachAll [(pa / 64 / 4, cls, false, pa / 64 % 4 * 64)] = some s1 →
      (s1.dirOf (pa / 64)).barred = false →
      let data := Emit.hostData ld pa (s1.homeBytes (pa / 64 * 64) 64) (s1.homePsn (pa / 64))
      (cls ≠ .system → exec .hostCxlMemRead s = .next (s1.emit data)) ∧
      (cls = .system → want = 1 → (s1.dirOf (pa / 64)).hown = true → (s1.dirOf (pa / 64)).host = 0 → 2 ≤ (s1.dirOf (pa / 64)).htok →
        exec .hostCxlMemRead s = .next (((s1.emit data).putDir (pa / 64) { s1.dirOf (pa / 64) with
          htok := (s1.dirOf (pa / 64)).htok - 1, host := 1 }).emit (.hostGrant (pa / 64) 1)))) ∧
    (∀ w l, s.hostMay ld pa = true → Stands s (pa / 64 / 4) w l → (s.dirOf (pa / 64)).barred = false → cls ≠ .system →
      ∃ t, exec .hostCxlMemRead s = .next t ∧ t.mem = s.mem ∧ t.dir = s.dir ∧ t.warps = s.warps ∧
        t.out = .hostData ld pa (s.homeBytes (pa / 64 * 64) 64) (s.homePsn (pa / 64)) :: s.out)) ∧
  (∀ (s : State) (port ld pa : Nat) (cls : Cls) (b : List (Nat × Byte)), s.ev = some (.hostCxlMemWrite port ld pa cls b) →
    (s.bound ld = false → exec .hostCxlMemWrite s = .next (s.emit (.completionError ld))) ∧
    (s.bound ld = true → s.hostMay ld pa = false → exec .hostCxlMemWrite s = .next ((s.log 0 2 ld ((s.ldTenant ld).getD 0) (pa / 256 * 256)).emit (.hostError ld pa))) ∧
    (s.hostMay ld pa = true → (s.dirOf (pa / 64)).barred = false → cls = .non → (∀ y, y ∈ b → y.1 / 64 = pa / 64 % 4 ∧ y.1 < 256) →
      (s.MemWf → atMemory s (pa / 64 / 4) → (∀ e, e ∈ (s.slice (sliceOf (pa / 64 / 4))).input → e.req.line ≠ pa / 64 / 4) →
        (s.slice (sliceOf (pa / 64 / 4))).allocatable = [] → ∃ t, exec .hostCxlMemWrite s = .next t ∧ t.warps = s.warps ∧ t.dir = s.dir ∧
        bytesPut s.mem t.mem (b.map fun y => (pa / 256 * 256 + y.1, y.2))) ∧
      (∀ w l, Stands s (pa / 64 / 4) w l → ∃ t, exec .hostCxlMemWrite s = .next t ∧ t.warps = s.warps ∧ t.dir = s.dir ∧ t.mem = s.mem ∧
        (∀ a, (∀ y, y ∈ b → a ≠ pa / 256 * 256 + y.1) → t.homeByte a = s.homeByte a) ∧
        ∀ k v, (k, v) ∈ b → (∀ y, y ∈ b → y.1 = k → y.2 = v) → t.homeByte (pa / 256 * 256 + k) = v))) ∧
  (∀ (s : State) (x : Nat), s.ev = some (.backInvalidateSnoop x none) → (s.dirOf x).error = false → idleSlice s (sliceOf (x / 4)) →
    (∀ c, c ∈ s.cores → c.2.rels = []) → (s.dirOf x).host = 1 ∨ (s.dirOf x).host = 2 →
    exec .backInvalidateSnoop s = .next (s.putDir x { s.dirOf x with
      host := 0, snooped := false, htok := Nat.min 512 ((s.dirOf x).htok + if (s.dirOf x).host = 2 then 512 else 1)
      hown := (s.dirOf x).hown || (s.dirOf x).host == 2 })) ∧
  (∀ (s : State) (x : Nat) (data : Option (List Byte)), s.ev = some (.hostSnoop x data) → windowOf (x * 64) = some 256 → s.canGather x = true →
    s.MemWf → ∃ t d q, exec .hostSnoop s = .next t ∧ t.warps = s.warps ∧ t.out = .hostData 16 (x * 64) d q :: s.out ∧
      ∀ b, data = some b → b.length = 64 → ∀ k, k < 64 → readCell t.mem (x * 64 + k) = b.getD k 0) ∧
  (∀ (s : State) (pa : Nat) (v : W64), s.ev = some (.pageResident pa v) ∨ s.ev = some (.leafChange pa v) → s.MemWf → atMemory s (pa / 8 * 8 / 256) →
    s.preqs = [] → ∃ t, (s.ev = some (.pageResident pa v) → exec .pageResident s = .next t) ∧
      (s.ev = some (.leafChange pa v) → exec .leafChange s = .next t) ∧ t.warps = s.warps ∧
      (∀ k, k < 8 → readCell t.mem (pa / 8 * 8 + k) = BitVec.ofNat 8 (v.toNat / 256 ^ k)) ∧
      (∀ a, a / 8 ≠ pa / 8 → readCell t.mem a = readCell s.mem a) ∧
      ∀ n c, Tab.look s.clusters n = some c → s.liveIn n ≠ [] → Tab.look c.oldLeaves (pa / 8 * 8) = none →
        Tab.look (t.cluster n).oldLeaves (pa / 8 * 8) = some (BitVec.ofNat 64 (leNat (s.homeBytes (pa / 8 * 8) 8)))) ∧
  (∀ (s : State) (va : Nat) (p : Preq), s.ev = some (.pageError va) → s.preqs = [p] →
    (p.sent = true → exec .pageError s = .next s) ∧
    (p.sent = false → (∃ q, q ∈ p.at_ ∧ (brVbase p.record + q) / 65536 = va / 65536) → exec .pageError s = .next (State.arriveFut { s with preqs := [] } p.core p.fut 1)) ∧
    ((∀ q, q ∈ p.at_ → (brVbase p.record + q) / 65536 ≠ va / 65536) → exec .pageError s = .next s))

/-- R192 to R197, R200, R203 to R205 (08): the census network. A move commit changes both cores in one step (log entry 23), and what a commit changes
shows to programs at their next admission (log entry 74). -/
def Obligations.CensusSteps : Prop :=
  (∀ (s : State) (core cen : Nat) (x : Census), s.ev = some (.keyArrival core cen) → Tab.look s.censuses cen = some x → openTo s core →
    let ms := (s.core core).tiles.filter fun y => (y.2.st == .present || y.2.st == .departing) && y.2.key == x.key && y.2.ten == x.ten
    (∀ y, y ∈ ms → y.2.orphan = false ∧ s.groupEnded y.2.nid y.2.grp = false) →
    ∃ t, exec .keyArrival s = .next t ∧ t.warps = s.warps ∧ t.mem = s.mem ∧ Tab.look t.censuses cen = some { x with
        unheard := x.unheard.filter fun k => k != core, owed := x.owed ++ ms.map fun y => (core, y.1) } ∧
      (t.core core).spawns = (s.core core).spawns ++ ms.map fun y => ⟨cen, y.1, y.2, false⟩) ∧
  (∀ (s : State) (f : FutAt) (key : BitVec 48) (arg : W64) (scope cmb core slot ten : Nat) (at_ : List Nat) (stopped : Bool),
    s.ev = some (.censusOrder (.solicit f key arg scope cmb core slot ten at_ stopped)) → s.censuses.length < 4096 →
    ∃ t x, exec .censusOrder s = .next t ∧ t.warps = s.warps ∧ t.nextCensus = s.nextCensus + 1 ∧ Tab.look t.censuses s.nextCensus = some x ∧
      x.num = BitVec.ofNat 24 s.nextCensus ∧ x.fut = f ∧ x.asker = ⟨core, slot⟩ ∧ x.ten = ten ∧ x.key = key ∧ x.arg = arg ∧ x.scope = scope ∧
      x.cmb = cmb ∧ x.at_ = at_ ∧ x.owed = [] ∧ x.replies = [] ∧ x.cancelled = stopped ∧
      (∀ c, c ∈ x.unheard ↔ c < 256 ∧ (scope ≠ 0 ∨ c / 16 = core / 16) ∧ (s.die (c / 16)).powered = true ∧ (s.die (c / 16)).dead = false) ∧
      ∀ c, c ∈ x.unheard → fromBase c (.keyArrival c s.nextCensus) ∈ t.flight) ∧
  (∀ (s : State) (core e : Nat) (f : FutAt),
    (s.ev = some (.censusOrder (.insert core e f)) → exec .censusOrder s = .next { s with flight := s.flight ++ [fromBase core (.insertCommit core e f)] }) ∧
    (s.ev = some (.censusOrder (.delete core e f)) → exec .censusOrder s = .next { s with flight := s.flight ++ [fromBase core (.deleteCommit core e f)] }) ∧
    (s.ev = some (.censusOrder (.drop core e f)) → exec .censusOrder s = .next { s with flight := s.flight ++ [fromBase core (.dropCommit core e f)] }) ∧
    (openTo s core →
      let c := s.core core
      ∀ y, Tab.look c.tiles e = some y →
      let free := s.putCore core { c with tiles := Tab.del c.tiles e, oldTiles := seenStill s core e y }
      (s.ev = some (.insertCommit core e f) → y.fut = f → y.orphan = false → s.groupEnded y.nid y.grp = false →
        exec .insertCommit s = .next (State.arriveFut (s.putCore core { c with
          tiles := c.tiles.map fun z => (z.1, if z.1 = e then { z.2 with st := .present } else z.2)
          oldTiles := seenStill s core e y }) core f (entryDone e))) ∧
      (s.ev = some (.deleteCommit core e f) → y.leave = some f → exec .deleteCommit s = .next (State.arriveFut free core f (entryDone e))) ∧
      (s.ev = some (.dropCommit core e f) → y.fut = f → y.orphan = true → exec .dropCommit s = .next free) ∧
      (s.ev = some (.dropCommit core e f) → y.fut ≠ f → exec .dropCommit s = .next s))) ∧
  (∀ (s : State) (id slot : Nat) (m : TMove) (y : Tile), s.ev = some (.tmoveCopy id) → Tab.look s.tmoves id = some m →
    let core := s.homeOf m.core m.fut
    Tab.lowestFree (s.core core).copies 16 = some slot → Tab.look (s.core m.core).tiles m.entry = some y → y.leave = some m.fut →
    y.len * 256 < 2 ^ 32 → y.tpos < 2 ^ 47 → m.dpos < 2 ^ 47 → ∃ t c, exec .tmoveCopy s = .next t ∧ t.warps = s.warps ∧ t.mem = s.mem ∧
      Tab.look (t.core core).copies slot = some c ∧ c.tmove = some id ∧ c.behind = m.behind ∧ c.paced = false ∧ c.mcast = false ∧ shBytes c.shape = y.len * 256 ∧
      shSoff c.shape = y.tpos ∧ shDoff c.shape = m.dpos ∧ c.src = (s.core m.core).segs.getD y.tbuf 0 ∧ c.dst = m.dbuf ∧
      t.flight = s.flight ++ [toBase core (.copyChunkTranslate core slot)]) ∧
  (∀ (s : State) (id : Nat) (m : TMove) (x y : Tile), s.ev = some (.moveCommit id) → Tab.look s.tmoves id = some m → m.core ≠ m.dcore →
    Tab.look (s.core m.core).tiles m.entry = some x → x.leave = some m.fut → Tab.look (s.core m.dcore).tiles m.dentry = some y → y.fut = m.fut →
    y.orphan = false → s.groupEnded y.nid y.grp = false →
    let c := s.core m.core
    let d := s.core m.dcore
    exec .moveCommit s = .next (State.arriveFut { s with
      tmoves := Tab.del s.tmoves id
      cores := Tab.put (Tab.put s.cores m.core { c with tiles := Tab.del c.tiles m.entry, oldTiles := seenStill s m.core m.entry x }) m.dcore { d with
        tiles := d.tiles.map fun z => (z.1, if z.1 = m.dentry then { z.2 with st := .present } else z.2)
        oldTiles := seenStill s m.dcore m.dentry y } } m.core m.fut (entryDone m.dentry))) ∧
  (∀ (s : State) (cen core e : Nat) (v : Option W64) (x : Census), s.ev = some (.reply cen core e v) → Tab.look s.censuses cen = some x →
    s.tmoves = [] →
    let x' : Census := { x with owed := x.owed.filter fun y => y != (core, e), replies := x.replies ++ [(core, e, v)] }
    ((core, e) ∉ x.owed → exec .reply s = .next s) ∧
    ((core, e) ∈ x.owed → x.unheard = [] ∧ x'.owed = [] → exec .reply s = .next { s with
      censuses := Tab.put s.censuses cen x', flight := s.flight ++ [fromBase 512 (.censusCompletion cen)] }) ∧
    ((core, e) ∈ x.owed → x.unheard ≠ [] ∨ x'.owed ≠ [] → exec .reply s = .next { s with censuses := Tab.put s.censuses cen x' })) ∧
  (∀ (s : State) (cen : Nat) (x : Census), s.ev = some (.censusCompletion cen) → Tab.look s.censuses cen = some x → x.unheard = [] → x.owed = [] →
    x.cancelled = false → s.censusWait = [] →
    let bad := x.replies.countP fun y => y.2.2.isNone
    let good := x.replies.countP fun y => y.2.2.isSome
    let status := BitVec.ofNat 64 (bad % 65536 * 2 ^ 48 + good % 65536 * 2 ^ 32 + x.num.toNat * 256 + if bad = 0 then 0 else 1)
    ∃ block : Nat, (x.cmb = 1 → block = good) ∧
      (x.cmb = 5 → (∀ y, y ∈ x.replies → y.1 < 256 ∧ y.2.1 < 128) →
        block = (x.replies.map fun y => (y.2.2.getD 0).toNat).sum % 2 ^ 64) ∧
      let bytes := if x.cmb = 0 then [] else x.at_.zip (leBytes 8 block)
      exec .censusCompletion s = .next (State.arriveFut (State.intoPath { s with censuses := Tab.del s.censuses cen } x.core x.fut bytes)
        x.core x.fut status (.census x.core bytes)))

/-- R210, R213, R216 (09), R353, R354 (15), R111 (04), R351 (15): synchronisation objects and group barriers at the base. R360 to R363 (15): the
mailboxes. That an acquire or a `bcwait` of a byte-count barrier takes the whole lines that were counted is log entry 24's choice. -/
def Obligations.ObjectAndMailSteps : Prop :=
  ((∀ (s : State) (f : FutAt) (o : Nat),
    let x := s.obj o
    let wake := fromBase 512 (.acquireWake o)
    (s.ev = some (.releaseAtObject (.rel f o)) → x.md = 1 → x.holder = some f.wid → exec .releaseAtObject s = .next (State.send
      (State.arriveFut (s.putObj o { x with count := 0, holder := none }) 0 f 0) .request 512 512 (.acquireWake o))) ∧
    (s.ev = some (.releaseAtObject (.rel f o)) → x.md = 2 →
      let rels := Tab.put x.rels f.wid x.phase
      (x.count + 1 < x.expected → exec .releaseAtObject s = .next (State.arriveFut (s.putObj o { x with rels := rels, count := x.count + 1 }) 0 f
        (phased x.phase))) ∧
      (x.expected ≤ x.count + 1 → exec .releaseAtObject s = .next (State.send (State.arriveFut (s.putObj o { x with
        rels := rels, count := 0, phase := x.phase + 1 }) 0 f (phased (x.phase + 1))) .request 512 512 (.acquireWake o)))) ∧
    (∀ q, s.ev = some (.releaseAtObject (.acq f o q)) → x.md = 1 →
      (s.gone f.wid = true → exec .releaseAtObject s = .next s) ∧
      (∀ a, s.gone f.wid = false → x.count = 0 → x.waiters = [] → s.placeOf f.wid = some a → exec .releaseAtObject s = .next (State.arriveFut (s.putObj o { x with
        count := a.core * 16 + a.slot + 1, holder := some f.wid, lost := false }) a.core f (if x.lost then 1 else 0) (.acquire o))) ∧
      (s.gone f.wid = false → x.count ≠ 0 ∨ x.waiters ≠ [] → exec .releaseAtObject s = .next (s.putObj o { x with waiters := x.waiters ++ [(f, none)] }))) ∧
    (∀ q, s.ev = some (.releaseAtObject (.acq f o q)) → x.md = 2 →
      let p := Tab.get x.rels q f.wid
      (x.phase ≠ p → exec .releaseAtObject s = .next (s.arriveFut 0 f (phased x.phase) (.acquire o))) ∧
      (x.phase = p → exec .releaseAtObject s = .next (s.putObj o { x with waiters := x.waiters ++ [(f, some p)] }))) ∧
    (∀ n, s.ev = some (.releaseAtObject (.arm f o n)) → x.md = 3 → ∃ cs,
      let y : Obj := if n ≤ x.count then { x with expected := n, phase := x.phase + 1, count := x.count - n, counted := cs } else { x with expected := n }
      exec .releaseAtObject s = .next { State.arriveFut (s.putObj o y) 0 f (phased y.phase) with
        flight := (State.arriveFut (s.putObj o y) 0 f (phased y.phase)).flight ++ [wake] }) ∧
    (∀ q, s.ev = some (.releaseAtObject (.wait f o q)) → x.md = 3 →
      (x.phase = q → exec .releaseAtObject s = .next (s.putObj o { x with waiters := x.waiters ++ [(f, some q)], bcs := x.bcs ++ [f] })) ∧
      (x.phase ≠ q → ∃ ls, exec .releaseAtObject s = .next (s.arriveFut 0 f (phased x.phase) (.flip none ls)) ∧
        ∀ n, n ∈ ls ↔ countedSince x q n)) ∧
    (∀ q, s.ev = some (.releaseAtObject (.acq f o q)) → x.md = 3 →
      (x.phase = q → exec .releaseAtObject s = .next (s.putObj o { x with waiters := x.waiters ++ [(f, some q)] })) ∧
      (x.phase ≠ q → ∃ ls, exec .releaseAtObject s = .next (s.arriveFut 0 f (phased x.phase) (.flip (some o) ls)) ∧
        ∀ n, n ∈ ls ↔ countedSince x q n))) ∧
  (∀ (s : State) (o : Nat), s.ev = some (.acquireWake o) →
    let x := s.obj o
    (∀ f q rest a, x.md = 1 → x.count = 0 → x.waiters = (f, q) :: rest → (∀ y, y ∈ x.waiters → s.gone y.1.wid = false) → s.placeOf f.wid = some a →
      exec .acquireWake s = .next (State.arriveFut { s with objs := Tab.put (Tab.put s.objs o { x with waiters := rest }) o { x with
        waiters := rest, count := a.core * 16 + a.slot + 1, holder := some f.wid, lost := false } } a.core f (if x.lost then 1 else 0) (.acquire o))) ∧
    (x.md = 1 → x.count ≠ 0 → exec .acquireWake s = .next s) ∧
    (∀ f q, x.md = 2 → x.waiters = [(f, some q)] → q ≠ x.phase →
      exec .acquireWake s = .next (State.arriveFut (s.putObj o { x with waiters := [], bcs := [] }) 0 f (phased x.phase) (.acquire o)))) ∧
  (∀ (s : State) (o n ten : Nat) (lines : List Nat), s.ev = some (.byteCountAdd o n ten lines) →
    let x := s.obj o
    let sum := (x.count + n) % 2 ^ 48
    (o < 0xFFFF → x.md = 3 → x.ten = some ten → ∃ cs,
      let y : Obj := if x.expected ≤ sum then { x with phase := x.phase + 1, count := sum - x.expected, counted := cs } else { x with count := sum, counted := cs }
      exec .byteCountAdd s = .next { s.putObj o y with flight := s.flight ++ [fromBase 512 (.acquireWake o)] } ∧
      ∀ k, k ∈ lines → k ∈ Tab.get cs [] x.phase.toNat) ∧
    (0xFFFF ≤ o ∨ x.md ≠ 3 ∨ x.ten ≠ some ten → exec .byteCountAdd s = .next (s.log 8 6 o ten 0))) ∧
  (∀ (s : State) (nid key : Nat) (n : Node), s.ev = some (.groupBarrierCompletion nid key) → s.node? nid = some n →
    let b := Tab.get s.gbars {} (mailKey nid key)
    b.arrived ≠ [] → (∀ y, y ∈ b.arrived → (s.findWid y.2.wid).isSome = true) → (∀ i, i ∈ n.keyed key → i ∈ n.gone ∨ ∃ f, (i, f) ∈ b.arrived) →
    n.groupScope key = .cl →
    exec .groupBarrierCompletion s = .next { s with
      gbars := Tab.put s.gbars (mailKey nid key) ⟨b.phase + 1, []⟩
      agenda := s.agenda ++ b.arrived.map fun y => .futureResolution y.2 (phased (b.phase + 1)) (.acquire 0xFFFF) })) ∧
  ((∀ (s : State) (m : MsgRec) (f : FutAt), s.ev = some (.messageArrival m) → m.sender = some f →
    let k := s.mailOf m.nid m.ddie m.dclus m.dwarp
    let x := s.mail k
    let src := senderCore s m
    (s.hasWarp m = false → exec .messageArrival s = .next (s.arriveFut src f 3)) ∧
    (s.hasWarp m = true → s.mailAway k = false → x.waiting = [] →
      (∀ r before after, x.posts = before ++ r :: after → wants r m = true → (∀ y, y ∈ before → wants y m = false) → x.posts.Nodup →
        exec .messageArrival s = .next (State.arriveFut (received (s.putMail k { x with posts := before ++ after }) r m) src f 0)) ∧
      ((∀ y, y ∈ x.posts → wants y m = false) → x.queue.length < 256 →
        exec .messageArrival s = .next (State.arriveFut (s.putMail k { x with queue := x.queue ++ [{ m with since := none }] }) src f 1)) ∧
      ((∀ y, y ∈ x.posts → wants y m = false) → 256 ≤ x.queue.length → m.since = none →
        exec .messageArrival s = .next (s.putMail k { x with waiting := [{ m with since := some s.root }] })))) ∧
  (∀ (s : State) (r : RecvRec), s.ev = some (.postArrival r) →
    let k := s.mailOf r.nid r.die r.clus r.warp
    let x := s.mail k
    r.cancel = false → (s.findWid r.fut.wid).isSome = true →
    ((∀ m, m ∈ x.queue ∨ m ∈ x.waiting → wants r m = false) → exec .postArrival s = .next (s.putMail k { x with posts := x.posts ++ [r] })) ∧
    (∀ m before after, x.queue = before ++ m :: after → wants r m = true → (∀ y, y ∈ before → wants r y = false) → x.waiting = [] →
      exec .postArrival s = .next (received (s.putMail k { x with queue := before ++ after }) r m)) ∧
    (∀ m f before after, (∀ y, y ∈ x.queue → wants r y = false) → x.waiting = before ++ m :: after → wants r m = true →
      (∀ y, y ∈ before → wants r y = false) → m.sender = some f →
      exec .postArrival s = .next (State.arriveFut (received (s.putMail k { x with waiting := before ++ after }) r m) (senderCore s m) f 0))) ∧
  (∀ (s : State) (r : RecvRec), s.ev = some (.probeRequest r) →
    let x := s.mail (s.mailOf r.nid r.die r.clus r.warp)
    ((∀ m, m ∈ x.queue → wants r m = false) → exec .probeRequest s = .next (s.arriveFut r.core r.fut 2)) ∧
    (∀ m before after, x.queue = before ++ m :: after → wants r m = true → (∀ y, y ∈ before → wants r y = false) →
      exec .probeRequest s = .next (s.arriveFut r.core r.fut (recvStatus m m.payload.length false)))) ∧
  (∀ (s : State) (k : Nat) (m : MsgRec) (f : FutAt) (t0 : Nat), s.ev = some (.overflowTimeout k) → (s.mail k).waiting = [m] → m.since = some t0 →
    m.sender = some f →
    (s.root < t0 + 2 ^ 20 → exec .overflowTimeout s = .next s) ∧
    (t0 + 2 ^ 20 ≤ s.root → slotsWf s → ∃ t, exec .overflowTimeout s = .next t ∧ t.mem = s.mem ∧ (t.mail k).waiting = [] ∧
      ∀ a w, a.slot < 16 → s.warp? a = some w → t.warp? a = some (
        if w.nid = k / 4096 ∧ w.responder = none ∧ s.homeKey w = k % 4096 then
          { w with overflow := some (if 1024 ≤ k % 4096 then 252 else k % 4096) } else w))))

/-- R367 to R374 (16), R281 (12), R406 (18): the work queues, acceptance, and the end of a node. Which tail writes are ignored, by their
distance from the head, is log entry 48's reading; that the tables are read through their home slices as engines read, log entry 14's. -/
def Obligations.QueueSteps : Prop :=
  (∀ (s : State) (q : Nat) (v : BitVec 8), s.ev = some (.tail q v) →
    let x := s.queue q
    ((v - x.head).toNat < (x.tail - x.head).toNat → exec .tail s = .next (s.log 9 5 q (x.ten.getD 0) 0)) ∧
    ((x.tail - x.head).toNat ≤ (v - x.head).toNat → exec .tail s = .next (s.putQueue q { x with tail := v }))) ∧
  (∀ (s : State) (ld q off : Nat) (v : W64), s.ev = some (.queueRegisterWrite ld q off v) →
    let x := s.queue q
    (s.bound ld = false → exec .queueRegisterWrite s = .next (s.emit (.completionError ld))) ∧
    (s.bound ld = true → 64 ≤ q ∨ x.ten = none ∨ s.ldTenant ld ≠ x.ten → exec .queueRegisterWrite s = .next (s.log 9 5 q ((s.ldTenant ld).getD 0) 0)) ∧
    (s.bound ld = true → q < 64 → x.ten ≠ none → s.ldTenant ld = x.ten → off < 0x4000 → ∃ e, exec .queueRegisterWrite s = .next (s.putQueue q { x with
        ring := Tab.put x.ring (off / 64) { Tab.get x.ring {} (off / 64) with raw := e } }) ∧ ∀ k, k < 8 →
      e.extractLsb' (64 * k) 64 = if k = off / 8 % 8 then v else (Tab.get x.ring {} (off / 64)).raw.extractLsb' (64 * k) 64) ∧
    (s.bound ld = true → q < 64 → x.ten ≠ none → s.ldTenant ld = x.ten → off = 0x4000 → (x.tail - x.head).toNat ≤ (v.setWidth 8 - x.head).toNat →
      exec .queueRegisterWrite s = .next (s.putQueue q { x with tail := v.setWidth 8 }))) ∧
  (∀ (s : State) (q : Nat), s.ev = some .acceptance → s.poolSize < 4096 → s.nextQueueNo = some q → (s.queue q).take ≠ (s.queue q).tail →
    (s.queue q).device = [] →
    let x := s.queue q
    let e := Tab.get x.ring {} x.take.toNat
    let lines := s.tableLines (x.ten.getD 64) x.root x.levels e.raw
    (s.reachAll lines = none → exec .acceptance s = .next (s.askAhead [] lines)) ∧
    ∀ r, s.reachAll lines = some r → r.walksOf (x.ten.getD 64) x.root x.levels e.raw = [] →
    let t0 := r.readTables (x.ten.getD 64) x.root x.levels e.raw
    let s1 := { r with
      nextQueue := (q + 1) % 64
      queues := Tab.put r.queues q { x with
        take := x.take + 1, hostLast := true, ring := Tab.put x.ring x.take.toNat { e with taken := true, ended := false } } }
    (∀ reason rec_, s1.refuses q (x.ten.getD 64) e.raw true false false t0 = some (reason, rec_) →
      exec .acceptance s = .next (s1.putQueue q ((s1.queue q).endEntry x.take.toNat (launchStatus (lrTag e.raw) rec_ reason 6)))) ∧
    (s1.refuses q (x.ten.getD 64) e.raw true false false t0 = none →
      ∃ t n, exec .acceptance s = .next t ∧ t.warps = r.warps ∧ t.mem = r.mem ∧ t.queues = s1.queues ∧ n ∈ t.nodes ∧ n.nid = r.nextNid ∧
        n.raw = e.raw ∧ n.ten = x.ten.getD 64 ∧ n.queue = q ∧ n.entry = some x.take.toNat ∧ n.fut = none ∧
        n.st = (if lrGang e.raw = 0 then .pool else .held) ∧
        n.preds = ((r.nodes.filter fun m => !m.ended && m.ten == x.ten.getD 64 && ((lrPreds e.raw).filter fun p => p != 0).contains m.tag).map Node.nid))) ∧
  (∀ (s : State) (q : Nat) (r : DevRec), s.ev = some .acceptance → s.poolSize < 4096 → s.nextQueueNo = some q → (s.queue q).device = [r] →
    (s.queue q).waiting = [] → (s.queue q).take = (s.queue q).tail → r.bad = true → 1 ≤ lrD r.raw → lrD r.raw ≤ 16 → 1 ≤ lrC r.raw → lrC r.raw ≤ 4 →
    1 ≤ lrW r.raw → lrW r.raw ≤ 64 → ∀ y, s.reachAll (s.tableLines r.ten (s.queue q).root (s.queue q).levels r.raw) = some y →
    y.walksOf r.ten (s.queue q).root (s.queue q).levels r.raw = [] →
    exec .acceptance s = .next (State.arriveFut { y with
      nextQueue := (q + 1) % 64, queues := Tab.put y.queues q { s.queue q with device := [], hostLast := false } } 0 r.fut
      (launchStatus (lrTag r.raw) 0 2 6))) ∧
  (∀ (s : State), s.ev = some .acceptance → 4096 ≤ s.poolSize ∨ s.nextQueueNo = none → exec .acceptance s = .next s) ∧
  (∀ (s : State) (nid : Nat) (n : Node) (f : FutAt), s.node? nid = some n → n.fut = some f → n.entry = none →
    let code := if n.killed then 1 else 0
    let ended (c : Nat) (t : State) : Prop := t.node? nid = none ∧ t.mem = s.mem ∧ t.warps = s.warps ∧
      t.clusters = (State.arriveFut { s with saved := s.saved.filter fun g => g.nid != nid } 0 f (launchStatus n.tag 0 0 c)).clusters ∧
      ∀ m, m ∈ t.nodes → nid ∉ m.preds
    (s.ev = some (.nodeCompletion nid) → n.ended = false → n.exits = 0 → n.places ≠ [] → (∀ i, i ∈ n.all → i ∈ n.gone) →
      (noResponders s nid → ∃ t, exec .nodeCompletion s = .next t ∧ ended code t) ∧
      ((∃ a w, (a, w) ∈ s.live ∧ w.nid = nid ∧ w.responder ≠ none) → ∃ t m, exec .nodeCompletion s = .next t ∧ m ∈ t.nodes ∧ m.nid = nid ∧
        m.ended = true ∧ m.raw = n.raw ∧ m.segs = n.segs ∧ t.warps = s.warps ∧ t.mem = s.mem)) ∧
    (s.ev = some (.nodeCompletion nid) → n.exits ≠ 0 ∨ n.places = [] ∨ (∃ i, i ∈ n.all ∧ i ∉ n.gone) → exec .nodeCompletion s = .next s) ∧
    (s.ev = some (.heldRecordRemoval nid) → n.st = .held → n.prepAt = none → noResponders s nid → ∃ t, exec .heldRecordRemoval s = .next t ∧ ended 5 t) ∧
    (s.ev = some (.heldRecordRemoval nid) → n.st ≠ .held ∨ n.prepAt ≠ none → exec .heldRecordRemoval s = .next s))

/-- R377 to R380 (16), R390, R394 to R397 (17), R134 (05): a node starts, is pre-empted, saved and resumed. What the vector registers hold after a
resume is log entry 43's choice. -/
def Obligations.SchedulingSteps : Prop :=
  (∀ (s : State), s.ev = some .nodePlacement → s.controlDie = false → exec .nodePlacement s = .next s) ∧
  (∀ (s : State) (n : Node) (cl : Nat), s.ev = some .nodePlacement → s.controlDie = true → s.candidates = [n] → s.node? n.nid = some n →
    n.st = .pool → s.findPlace n [] [] = some [cl] → s.wasSaved n.nid = false → n.W = 1 → (s.die (cl / 4)).dead = false →
    (s.core (cl * 4)).fenced = false → s.warp? ⟨cl * 4, 0⟩ = none →
    (s.setUpWaits n [cl] = true → exec .nodePlacement s = .next s) ∧
    (s.setUpWaits n [cl] = false → ∃ t w, exec .nodePlacement s = .next t ∧ t.warp? ⟨cl * 4, 0⟩ = some w ∧
      t.mem = s.mem ∧ w.nid = n.nid ∧ w.die = 0 ∧ w.clus = 0 ∧ w.warp = 0 ∧ w.regs = lrRegs n.raw ∧ w.vregs = [] ∧
      w.ctx.pc = BitVec.ofNat 64 (lrPva n.raw) ∧ w.ctx.mode = 1 ∧ w.ctx.flags = 0 ∧ w.ctx.mask = 0xFFFFFFFF ∧ w.ctx.preds = [] ∧ w.ctx.toks = [] ∧
      w.ctx.rrb = 0 ∧ w.handler = none ∧ w.fhnd = 0 ∧ (∀ k, k < 63 → w.ctx.sreg (k + 1) = n.args.getD k 0) ∧ (t.cluster cl).base = (s.cluster cl).lcyc + (if s.cursor.cluster = cl ∧ s.cursor.phase ≠ 0 then 1 else 0) ∧
      (t.core (cl * 4)).segs = n.segs ∧ (t.core (cl * 4)).pool = [])) ∧
  (∀ (s : State) (nid key : Nat) (n : Node), s.node? nid = some n → slotsWf s →
    let mine (w : Warp) : Prop := w.nid = nid ∧ s.homeKey w = key
    let limit (a : WarpAt) : Nat := s.lcycOf a.core + 2 ^ 20
    (s.ev = some (.preEmption nid key) → ∃ t, exec .preEmption s = .next t ∧ t.mem = s.mem ∧
      ∀ a w, a.slot < 16 → s.warp? a = some w → mine w → w.preLimit = none → t.warp? a =
        if Config.preemptEntry (lrPva n.raw) = 0 then none
        else some { w with asyncs := w.asyncs ++ [⟨.preempt, 0x30, 0, w.ctx.pc⟩], preLimit := some (limit a) }) ∧
    (s.ev = some (.preEmptionTimeout nid key) → (∃ a w t0, a.slot < 16 ∧ s.warp? a = some w ∧ mine w ∧ w.yielded = false ∧ w.preLimit = some t0 ∧
        t0 ≤ s.lcycOf a.core) → ∃ t, exec .preEmptionTimeout s = .next t ∧ (∀ a w, a.slot < 16 → s.warp? a = some w → mine w → t.warp? a = none) ∧
      ∃ e, e ∈ t.errLog ∧ e.kind = 6 ∧ e.aux = 0x30) ∧
    (s.ev = some (.preEmptionTimeout nid key) → (∀ a w, (a, w) ∈ s.ofGroup nid key → w.yielded = true ∨ w.preLimit = none) →
      exec .preEmptionTimeout s = .next s) ∧
    (∀ a w, s.ev = some (.preEmptionSave nid key) → s.ofGroup nid key = [(a, w)] → s.warp? a = some w → w.yielded = true →
      (s.core a.core).copies = [] → (s.core a.core).tagWaits = [] → (∀ c, c ∈ s.clusters → c.2.tasks = []) → (∀ c, c ∈ s.cores → c.2.rels = []) →
      (∀ k, (s.core k).enginesDue = []) → ∃ t g m, exec .preEmptionSave s = .next t ∧ t.mem = s.mem ∧ t.saved.length = s.saved.length + 1 ∧
        t.saved.getLast? = some g ∧ g.nid = nid ∧ g.grp = key ∧ g.warps = [(a, w)] ∧ t.node? nid = some m ∧ m.ready = some s.nextReady ∧
        t.warp? a = none ∧ (t.core a.core).free = (s.core a.core).free + w.regs ∧
        (w.responder = none → (∀ y, y ∈ s.live → y.1.core = a.core → y.2.nid = nid → y.1 = a) →
          (∀ b x, (b, x) ∈ (s.core a.core).bars → x.own = some nid → (a.core, b, { x with wmask := 0 }) ∈ g.bars) ∧
          ∀ r x, (r, x) ∈ (s.core a.core).rings → x.nid = nid → (a.core, r, x) ∈ g.rings))) ∧
  (∀ (s : State) (cl p : Nat) (a : WarpAt) (w : Warp) (r : TrapReq) (rest : List TrapReq), s.agenda = [] → s.tape = [] → s.flight = [] →
    s.cursor = ⟨cl, p⟩ → 0 < p → p < 4 → s.dieUp cl = true → a.core = cl * 4 + p → a.slot < 16 → s.liveOn a.core = [(a, w)] → w.leaving = none →
    w.entering = none → w.handler = none → w.overflow = none → w.ringGone = false → w.ctx.hold ≠ none → w.asyncs = r :: rest → r.kind ≠ .user →
    ∃ t, step s = .next t ∧ t.mem = s.mem ∧ t.cursor = ⟨cl, p + 1⟩ ∧
      t.warp? a = some { w with asyncs := rest, entering := some { r with tpc := w.ctx.pc }, waiting := false, blocked := false } ∧
      (∀ y, y ∈ (t.core a.core).claims → y.1 ≠ a.slot) ∧ ∀ b x, (b, x) ∈ (t.core a.core).bars → x.wmask.getLsbD a.slot = false) ∧
  (∀ (s : State) (nid core : Nat) (n : Node) (g : Saved) (a : WarpAt) (w : Warp) (h : Handler), s.ev = some (.resume nid) → s.node? nid = some n →
    n.st = .running → s.saved = [g] → g.nid = nid → g.warps = [(a, w)] → w.nid = nid → g.bars = [] → g.rings = [] → g.arrived = [] → w.handler = some h →
    (∀ c, c ∈ s.cores → c.2.tiles = []) → (s.mail (mailKey nid g.grp)).waiting = [] → s.newCore n g a.core = core → s.warp? ⟨core, 0⟩ = none →
    (s.groupFits n g = false → ∃ t, exec .resume s = .next t ∧ t.mem = s.mem ∧ t.saved = [g] ∧ t.warps = s.warps) ∧
    (s.groupFits n g = true → ∃ t w', exec .resume s = .next t ∧ t.mem = s.mem ∧ t.saved = [] ∧ t.warp? ⟨core, 0⟩ = some w' ∧ w'.regs = w.regs ∧ w'.vregs = [] ∧
      w'.base = 0 ∧ w'.limit = 8192 ∧ w'.yielded = false ∧ w'.preLimit = none ∧ w'.ctx.mask = 0xFFFFFFFF ∧ w'.ctx.toks = [] ∧ w'.ctx.sregs = h.saved.sregs ∧
      w'.ctx.preds = h.saved.preds ∧ w'.ctx.pc = Config.resumeEntry (lrPva n.raw) ∧
      ∃ x, w'.handler = some ⟨⟨.resume, 0x31, 0, h.saved.pc⟩, x⟩ ∧ x.pc = h.saved.pc ∧ x.mask = h.saved.mask ∧ x.toks = h.saved.toks ∧
        x.sregs = h.saved.sregs ∧ x.preds = h.saved.preds)) ∧
  (∀ (s : State) (nid : Nat), s.ev = some (.resume nid) → (∀ g, g ∈ s.saved → g.nid ≠ nid) → exec .resume s = .next s) ∧
  (∀ (s : State) (id : Nat) (n : Node), s.ev = some (.gangAbort id) → id ≠ 0 → s.nodes = [n] → lrGang n.raw = id → n.st = .running → s.saved = [] →
    slotsWf s → (∀ a w, (a, w) ∈ s.live → w.nid = n.nid → w.preLimit = none) → ∃ t, exec .gangAbort s = .next t ∧ t.mem = s.mem ∧ ∀ a w, a.slot < 16 → s.warp? a = some w → w.nid = n.nid →
      t.warp? a = some { w with asyncs := w.asyncs ++ [⟨.gangAbort, 0x32, BitVec.ofNat 64 id, w.ctx.pc⟩] })

/-- R382, R383 (16), R284 (12): gang launches. R410 to R412 (18), R20 (01): peers. The kind of the log entry of an atomic that is refused is log
entry 44's choice, the device's own number in a reply log entry 76's free value. -/
def Obligations.GangAndPeerSteps : Prop :=
  ((∀ (s : State) (id : Nat), s.ev = some (.prepare id) → (∀ n, n ∈ s.nodes → lrGang n.raw ≠ id ∨ n.st ≠ .held) →
    exec .prepare s = .next (s.emit (.gang id 4))) ∧
  (∀ (s : State) (id : Nat) (n : Node) (p : List Nat), s.ev = some (.prepare id) → id ≠ 0 → s.nodes = [n] → lrGang n.raw = id → n.st = .held →
    n.leads = false → (s.gang id).coord ≠ some n.nid → s.controlDie = true → n.preds = [] → s.wasSaved n.nid = false →
    let n1 : Node := { n with prepAt := some (n.prepAt.getD s.root) }
    State.findPlace { s with nodes := [n1] } n [] [] = some p →
    exec .prepare s = .next { s with nodes := [{ n1 with st := .prepared, places := p }], out := .gang id 3 :: s.out }) ∧
  (∀ (s : State) (id : Nat) (n : Node), s.gangNode id = some n →
    let g := s.gang id
    (s.ev = some (.commit id) → n.st = .prepared → s.setUpWaits n n.places = true → exec .commit s = .next (s.park 512 512 (.commit id))) ∧
    (s.ev = some (.commit id) → n.st = .prepared → s.setUpWaits n n.places = false → g.coord ≠ some n.nid → exec .commit s = .next
      ({ s with gangs := Tab.put s.gangs id { g with coord := none, acked := [], since := none, committed := true } }.startNode n.nid n.places)) ∧
    (s.ev = some (.commit id) → n.st = .prepared → s.setUpWaits n n.places = false → g.coord = some n.nid → exec .commit s = .next
      ({ s with
        gangs := Tab.put s.gangs id { g with coord := none, acked := [], since := none, committed := true }
        out := .gang id 1 :: s.out }.startNode n.nid n.places)) ∧
    (s.node? n.nid = some n → noResponders s n.nid → s.ev = some (.abort id) → ∃ t, exec .abort s = .next t ∧ t.node? n.nid = none ∧ t.mem = s.mem ∧ t.warps = s.warps ∧
      (g.coord = some n.nid → t.out = .gang id 2 :: s.out)) ∧
    (∀ t0, s.node? n.nid = some n → noResponders s n.nid → s.ev = some (.gangTimeout id) → g.since = some t0 →
      (t0 + 2 ^ 24 ≤ s.root → ∃ t, exec .gangTimeout s = .next t ∧ t.node? n.nid = none ∧ t.mem = s.mem) ∧
      (s.root < t0 + 2 ^ 24 → exec .gangTimeout s = .next s))) ∧
  (∀ (s : State) (id t0 : Nat) (n : Node), s.ev = some (.prepareDecline id) → id ≠ 0 → s.nodes = [n] → lrGang n.raw = id → n.st = .held →
    n.prepAt = some t0 → (s.gang id).coord ≠ some n.nid →
    (s.root < t0 + 2 ^ 24 → exec .prepareDecline s = .next s) ∧
    (t0 + 2 ^ 24 ≤ s.root → exec .prepareDecline s = .next { s with nodes := [{ n with prepAt := none }], out := .gang id 4 :: s.out }))) ∧
  ((∀ (s : State), s.ev = some .heartbeatSend →
    (s.root < s.nextBeat → exec .heartbeatSend s = .next s) ∧
    (s.nextBeat ≤ s.root → ∃ t, exec .heartbeatSend s = .next t ∧ t.nextBeat = s.root + 2 ^ 20 ∧ t.mem = s.mem ∧ t.warps = s.warps ∧
      ∀ p, p ∈ s.peers → p ∉ s.deadPeers → .beat p ∈ t.out ∧ (Tab.look s.beats p = none → Tab.look t.beats p = some s.root))) ∧
  (∀ (s : State) (p : Nat), s.ev = some (.heartbeat p) →
    (p ∈ s.deadPeers → exec .heartbeat s = .next s) ∧
    (p ∉ s.deadPeers → exec .heartbeat s = .next { s with beats := Tab.put s.beats p s.root })) ∧
  (∀ (s : State) (p t0 : Nat) (f : FutAt), s.ev = some (.peerDeath p) → Tab.look s.beats p = some t0 → p ∉ s.deadPeers → s.gangs = [] →
    s.peerSends = [(p, f)] →
    (s.root < t0 + 2 ^ 22 → exec .peerDeath s = .next s) ∧
    (t0 + 2 ^ 22 ≤ s.root → s.farWait = [] → exec .peerDeath s = .next (State.arriveFut { s with deadPeers := p :: s.deadPeers, peerSends := [] } 0 f 3)) ∧
    ∀ (x : FarReq) (c : Nat), t0 + 2 ^ 22 ≤ s.root → s.farWait = [x] → x.kind = 5 → x.req.agent = .core c → x.req.space = .pa →
      windowOf (x.req.line * 256) = some p → 1 ≤ p → p ≤ 255 → freshAt s x.req.line c x.req.inc →
      exec .peerDeath s = .next (State.arriveFut { s with
        deadPeers := p :: s.deadPeers, peerSends := [], farWait := []
        flight := s.flight ++ [answerTo x.req c (List.replicate 256 0) 0xF] } 0 f 3)) ∧
  (∀ (s : State) (m : MsgRec), s.ev = some (.vendorDefinedMessage m) →
    (m.sdev ∈ s.deadPeers → exec .vendorDefinedMessage s = .next s) ∧
    (∀ f, m.sdev ∉ s.deadPeers → m.sender = some f → s.peerSends = [(m.sdev, f)] →
      exec .vendorDefinedMessage s = .next (State.arriveFut { s with peerSends := [] } 0 f (m.tag.setWidth 64))) ∧
    (∀ n, m.sdev ∉ s.deadPeers → m.sender = none → m.nid ≠ 0 → s.nodes = [n] → n.tag = m.nid → n.ended = false → (n.st = .running ∨ s.wasSaved n.nid = true) → s.isPeer n.ten m.sdev = true →
      let y : MsgRec := { m with nid := n.nid, snid := 0, ddev := 0 }
      let k := s.mailOf n.nid m.ddie m.dclus m.dwarp
      let x := s.mail k
      s.hasWarp y = true → s.mailAway k = false → x.waiting = [] → x.posts = [] → x.queue.length < 256 →
      exec .vendorDefinedMessage s = .next (State.emit (s.putMail k { x with queue := x.queue ++ [{ y with since := none }] })
        (.peer m.sdev { y with ddev := m.sdev, sdev := Config.deviceNumber m.sdev, tag := 1, payload := [] })))) ∧
  (∀ (s : State) (r : HomeReq), s.ev = some (.peerAtomic r) → r.agent = .host → Config.dramEnd ≤ r.line * 256 →
    exec .peerAtomic s = .next ((s.log 0 1 (sliceOf r.line) 0 (r.line * 256)).emit (.peerError (r.line * 256)))) ∧
  (∀ (s : State) (r : HomeReq) (off : Nat) (wide : Bool) (op : AtOp) (ls : List AtLane), s.ev = some (.peerAtomic r) → r.agent = .host →
    r.line * 256 < Config.dramEnd → r.cls = .non → s.mustWait 3 r = false → r.atom = some (off, wide, op, ls) → off + (if wide then 8 else 4) ≤ 256 →
    s.MemWf →
    let n := if wide then 8 else 4
    let g := atGroup op wide (leNat ((List.range n).map fun k => s.homeByte (r.line * 256 + off + k))) ls
    let bytes := (List.range n).map fun k => (r.line * 256 + off + k, BitVec.ofNat 8 (g.1 / 256 ^ k))
    let old := Emit.oldValue (r.line * 256 + off) (g.2.flatMap fun y => leBytes 8 y.2.1.toNat ++ [if y.2.2 then 1 else 0])
    (atMemory s r.line → (∀ e, e ∈ (s.slice (sliceOf r.line)).input → e.req.line ≠ r.line) →
      (r.nllc = true ∧ (s.slice (sliceOf r.line)).bypass.length < 32) ∨ (r.nllc = false ∧ (s.slice (sliceOf r.line)).allocatable = []) →
      ∃ t, exec .peerAtomic s = .next t ∧ t.warps = s.warps ∧ t.out = old :: s.out ∧ bytesPut s.mem t.mem bytes) ∧
    (∀ w l, Stands s r.line w l → ∃ t, exec .peerAtomic s = .next t ∧ t.warps = s.warps ∧ t.out = old :: s.out ∧ t.mem = s.mem ∧
      (∀ y, y ∈ bytes → t.homeByte y.1 = y.2) ∧ ∀ a, (∀ y, y ∈ bytes → a ≠ y.1) → t.homeByte a = s.homeByte a)))

/-- R399 (17), R402, R403, R407, R408, R413 (18), R27 (01), R417, R418 (19), R401 (17), R54 (02): what the firmwares set. What a pinned pool holds
after a change of its ways, and that a count above 12 is ignored, are log entry 63's choices; that an unbinding waits, and the log entry of a port
that stays down, are log entry 49's. -/
def Obligations.FirmwareSteps : Prop :=
  (∀ (s : State) (ld h : Nat), s.ev = some (.bind ld (some h)) →
    let ok := (ld = 16 ∧ 64 * 512 + 257 + h ∈ s.windows) ∨ (ld < 16 ∧ ∃ ten, s.ldTenant ld = some ten ∧ ten * 512 + 257 + h ∈ s.windows)
    (ok → exec .bind s = .next { s with lds := Tab.put s.lds ld h }) ∧ (¬ ok → exec .bind s = .next s)) ∧
  (∀ (s : State) (ld : Nat), s.ev = some (.bind ld none) →
    ((∀ f, f ∈ s.flight ∨ f ∈ s.parked → through ld f = false) →
      exec .bind s = .next { s with lds := Tab.del s.lds ld, unbinding := s.unbinding.filter fun x => x != ld }) ∧
    ((∃ f, (f ∈ s.flight ∨ f ∈ s.parked) ∧ through ld f = true) →
      exec .bind s = .next (State.park { s with unbinding := (ld :: s.unbinding).eraseDups } 512 512 (.bind ld none)))) ∧
  (∀ (s : State) (port : Nat) (mode : Option Bool), s.ev = some (.linkTraining port mode) → port < 18 →
    let bad := Tab.get s.badLanes [] port
    let low := ∃ k, k ∈ bad ∧ k < 4
    let high := ∃ k, k ∈ bad ∧ 4 ≤ k
    let is (p : FabPort) : Prop := exec .linkTraining s = .next { s with fab := Tab.put s.fab port p }
    (Tab.look s.fab port = some .fenced → exec .linkTraining s = .next s) ∧
    (Tab.look s.fab port ≠ some .fenced → mode = none ∨ mode = some true ∧ 1 < port →
      exec .linkTraining s = .next (State.log { s with fab := Tab.put s.fab port .down } 2 3 port 0 0)) ∧
    ∀ d, Tab.look s.fab port ≠ some .fenced → mode = some d → (d = true → port ≤ 1) → s.farWait = [] →
      (bad = [] → is (.up d [] false)) ∧ (low ∧ high → is .fenced) ∧ (bad ≠ [] → ¬ (low ∧ high) → is (.up d bad true))) ∧
  (∀ (s : State) (port : Nat) (direct : Bool) (bad : List Nat) (half : Bool), s.ev = some (.retrain port) → s.fab = [(port, .up direct bad half)] →
    let low := ∃ k, k ∈ bad ∧ k < 4
    let high := ∃ k, k ∈ bad ∧ 4 ≤ k
    (bad = [] → exec .retrain s = .next s) ∧ (low ∧ high → exec .retrain s = .next { s with fab := [(port, .fenced)] }) ∧
    (bad ≠ [] → ¬ (low ∧ high) → exec .retrain s = .next { s with fab := [(port, .up direct bad true)] })) ∧
  (∀ (s : State) (x : Assignment), s.ev = some (.isolationTableWrite x) → s.image = none → exec .isolationTableWrite s = .next s) ∧
  (∀ (s : State) (x : Assignment), s.ev = some (.isolationTableWrite x) → s.image ≠ none →
    (∀ d ten, x = .die d (some ten) → ten < 64 → exec .isolationTableWrite s = .next { s with dieTen := Tab.put s.dieTen d ten }) ∧
    (∀ d, x = .die d none → exec .isolationTableWrite s = .next { s with dieTen := Tab.del s.dieTen d }) ∧
    (∀ q ten root levels, x = .queue q ten root levels → (∀ n, ten = some n → n < 64) →
      exec .isolationTableWrite s = .next (s.putQueue q { s.queue q with ten := ten, root := root, levels := levels })) ∧
    (∀ o ten, x = .object o ten → o < 0xFFFF → (∀ n, ten = some n → n < 64) → exec .isolationTableWrite s = .next (s.putObj o { s.obj o with ten := ten })) ∧
    (∀ o md n, x = .allocate o md n → o < 0xFFFF → ∃ y, exec .isolationTableWrite s = .next (s.putObj o y) ∧
      y.ten = (s.obj o).ten ∧ y.md = md ∧ y.expected = n.toNat ∧ y.count = 0 ∧ y.phase = 0 ∧ y.lost = false ∧ y.waiters = [] ∧ y.rels = [] ∧
      y.holder = none) ∧
    (∀ ten n on, x = .window ten n on → ten ≤ 64 → ∃ t, exec .isolationTableWrite s = .next t ∧ t = { s with windows := t.windows } ∧
      (ten * 512 + n ∈ t.windows ↔ on = true) ∧ ∀ y, y ≠ ten * 512 + n → (y ∈ t.windows ↔ y ∈ s.windows)) ∧
    (∀ f ten, x = .frame f (some ten) → ten < 64 → (∀ e, Tab.look s.frameTen f = some e → e % 64 = ten) →
      exec .isolationTableWrite s = .next { s with frameTen := Tab.put s.frameTen f ten }) ∧
    (∀ f ten e, x = .frame f (some ten) → ten < 64 → Tab.look s.frameTen f = some e → e % 64 ≠ ten → (∀ y, y ∈ s.dir → y.1 / 1024 ≠ f) →
      ∃ t, exec .isolationTableWrite s = .next t ∧ Tab.look t.frameTen f = some ten ∧ t.warps = s.warps ∧
        (∀ a, a / 65536 = f → readCell t.mem a = 0) ∧ (∀ a, a / 65536 ≠ f → readCell t.mem a = readCell s.mem a) ∧
        ∀ n y, (n, y) ∈ t.slices → (∀ b, b ∈ y.wb → b.line / 256 ≠ f) ∧
          ∀ w l, (w, l) ∈ y.lines → l.line / 256 = f → l.pending = false → ∀ b, b ∈ l.bytes → b = 0) ∧
    (∀ f e, x = .frame f none → Tab.look s.frameTen f = some e →
      exec .isolationTableWrite s = .next { s with frameTen := Tab.put s.frameTen f (64 + e % 64) }) ∧
    (∀ ten, 64 ≤ ten → (∃ k r l, x = .die k (some ten) ∨ x = .queue k (some ten) r l ∨ x = .object k (some ten) ∨ x = .frame k (some ten)) ∨
      64 < ten ∧ (∃ n on, x = .window ten n on) → exec .isolationTableWrite s = .next s)) ∧
  (∀ (s : State) (r : Resource), s.ev = some (.selfTest r true) → (∀ n w, r = .llcWay n w → idleSlice s n) → (∀ p k, r = .lane p k → s.farWait = []) →
    ∃ src k, exec .selfTest s = .next { s.log 1 src k 0 0 with testing := s.testing.filter fun x => x != r } ∧ (src, k) = match r with
      | .sramWay c _ => (0, c)
      | .coreLogic c => (0, c)
      | .llcWay n _ => (1, n)
      | .dieFailures d => (2, d)
      | .lane p _ => (3, p)) ∧
  (∀ (s : State) (r : Resource) (c : Nat), s.ev = some (.selfTest r false) → r = .coreLogic c ∨ (∃ w, r = .sramWay c w) →
    (s.die (c / 16)).leaseStop = true ∨ (s.die (c / 16)).debugHold = true → exec .selfTest s = .next (s.park 512 512 (.selfTest r false))) ∧
  (∀ (s : State) (r : Resource), s.ev = some (.selfTest r false) →
    (∀ n w, r = .llcWay n w → idleSlice s n ∧ ∀ k l, (k, l) ∈ (s.slice n).lines → k % 16 = w → l.waiters = []) →
    (∀ c, r = .coreLogic c ∨ (∃ w, r = .sramWay c w) → (s.die (c / 16)).leaseStop = false ∧ (s.die (c / 16)).debugHold = false) →
    (∀ p k, r = .lane p k → s.farWait = []) →
    ∃ t, exec .selfTest s = .next t ∧ r ∉ t.testing ∧
    (∀ c w, r = .sramWay c w → w ∈ (t.core c).fencedWays ∧ t.errLog.head? = some ⟨s.root, 2, 0, c, 0, 0, none⟩) ∧
    (∀ n w, r = .llcWay n w → w ∈ (t.slice n).fencedWays ∧ (∀ k l, (k, l) ∈ (t.slice n).lines → k % 16 ≠ w) ∧
      t.errLog.head? = some ⟨s.root, 2, 1, n, 0, 0, none⟩) ∧
    (∀ c, r = .coreLogic c → slotsWf s → (t.core c).fenced = true ∧ (t.core c).tiles = [] ∧ (t.core c).spawns = [] ∧
      (∀ k, k < 16 → t.warp? ⟨c, k⟩ = none) ∧ t.errLog.head? = some ⟨s.root, 2, 0, c, 0, 0, none⟩) ∧
    (∀ p k direct bad half, r = .lane p k → Tab.look s.fab p = some (.up direct bad half) → k ∉ bad →
      Tab.look t.fab p = some (.up direct (k :: bad.eraseDups) half) ∧ k ∈ Tab.get t.badLanes [] p ∧ t.agenda = s.agenda ++ [.retrain p] ∧
      t.errLog.head? = some ⟨s.root, 2, 3, p, 0, 0, none⟩) ∧
    (∀ d, r = .dieFailures d → (t.die d).dead = true ∧ (t.die d).failures = (s.die d).failures + 1 ∧
      t.errLog.head? = some ⟨s.root, 2, 2, d, 0, 0, none⟩)) ∧
  (∀ (s : State) (n ways : Nat), s.ev = some (.pinnedPoolSet n ways) →
    (64 ≤ n ∨ 12 < ways → exec .pinnedPoolSet s = .next s) ∧
    (n < 64 → ways ≤ 12 → s.poolMapped n = true → exec .pinnedPoolSet s = .next { s with out := .poolBusy n :: s.out }) ∧
    (n < 64 → ways ≤ 12 → s.poolMapped n = false →
      let keeps := (s.slice n).ways = ways
      ∃ t, exec .pinnedPoolSet s = .next t ∧ (t.slice n).ways = ways ∧ (t.slice n).pool = (if keeps then (s.slice n).pool else []) ∧
        t.warps = s.warps ∧ (∀ k l, (k, l) ∈ (t.slice n).lines → k % 16 + ways < 16) ∧
        ((∀ x, x ∈ (s.slice n).lines → x.1 % 16 + ways < 16) → t = s.putSlice n { s.slice n with
          ways := ways, pool := if keeps then (s.slice n).pool else [], psn := if keeps then (s.slice n).psn else [] }))) ∧
  (∀ (s : State) (d mhz : Nat), s.ev = some (.clockChange d mhz) →
    let ok := d < 16 ∧ 400 ≤ mhz ∧ mhz ≤ 800 ∧ mhz % 50 = 0
    (ok → s.controlDie = true → ∃ e, s.root ≤ e ∧ e ≤ s.root + 2000 ∧ exec .clockChange s = .next (s.putDie d { s.die d with
      mhz := mhz, slowest := min (s.die d).slowest mhz, relock := e })) ∧
    (ok → s.controlDie = false → exec .clockChange s = .next (s.park 512 512 (.clockChange d mhz))) ∧
    (¬ ok → exec .clockChange s = .next s)) ∧
  (∀ (s : State) (d : Nat), s.ev = some (.overcurrent d) →
    (d < 16 → ∃ e, s.root ≤ e ∧ e ≤ s.root + 2000 ∧ exec .overcurrent s = .next (State.emit (s.putDie d { s.die d with
      mhz := 400, slowest := min (s.die d).slowest 400, relock := e }) (.overcurrent d))) ∧
    (16 ≤ d → exec .overcurrent s = .next s)) ∧
  (∀ (s : State) (i q : Nat), s.ev = some (.currentLimit i q) → s.image = none → exec .currentLimit s = .next s) ∧
  (∀ (s : State) (i q : Nat), s.ev = some (.currentLimit i q) → s.image ≠ none → s.LimitsWf → i < 37 → ∃ t, exec .currentLimit s = .next t ∧
    t = { s with limits := t.limits } ∧ t.LimitsWf ∧ t.limits.getD i 0 = min q (Config.islandFigure i) ∧
      ∀ j, j ≠ i → t.limits.getD j 0 = s.limits.getD j 0) ∧
  (∀ (s : State) (d : Nat), s.ev = some (.debugHold d) →
    (((s.die d).powered = true ∧ (s.die d).dead = false) → exec .debugHold s = .next (s.putDie d { s.die d with debugHold := true })) ∧
    (¬ ((s.die d).powered = true ∧ (s.die d).dead = false) → exec .debugHold s = .next s)) ∧
  (∀ (s : State) (d : Nat), s.ev = some (.debugHoldEnd d) →
    ((s.die d).debugHold = true → exec .debugHoldEnd s = .next ((s.putDie d { s.die d with
      debugHold := false, expiry := s.root + 2 ^ 16 }).send .response 512 (16 * d) (.acknowledgement d (s.root + 2 ^ 16)))) ∧
    ((s.die d).debugHold = false → exec .debugHoldEnd s = .next s))

/-- R55 (02), R399 (17), R414 (18), R420 to R426 (19): resets, bring-up, power and attestation. That a die stands stopped from its reset to its first
acknowledgement is log entry 45's choice, that memory without power reads 0 log entry 3's; the numbers of the causes, and the key of the images'
signatures, are log entry 9's. -/
def Obligations.PowerSteps : Prop :=
  (∀ (s : State) (ten : Nat), s.ev = some (.tenantReset ten) → ∃ t, exec .tenantReset s = .next t ∧
    (∀ d, Tab.look s.dieTen d = some ten → (t.die d).dead = true) ∧
    (∀ o, (t.obj o).ten = some ten → (t.obj o).count = 0 ∧ (t.obj o).waiters = [] ∧ (t.obj o).holder = none) ∧
    ∀ q, (s.queue q).ten = some ten → (t.queue q).head = (t.queue q).tail ∧ (t.queue q).take = (t.queue q).tail ∧
      (t.queue q).device = [] ∧ (t.queue q).waiting = []) ∧
  (∀ (s : State) (d : Nat) (fence : Bool), s.ev = some (.dieReset d fence) →
    ((s.die d).powered = false → exec .dieReset s = .next s) ∧
    ((s.die d).powered = true → (s.die d).dead = false → ∃ t, exec .dieReset s = .next t ∧ (t.die d).inc = (s.die d).inc + 1 ∧
      ((fence = true ∨ (s.die d).failures ≠ 0) → (t.die d).dead = true ∧ (t.die d).fenced = true) ∧
      (fence = false → (s.die d).failures = 0 → (t.die d).dead = false ∧ (t.die d).fenced = false ∧ (t.die d).leaseStop = true ∧
        (t.die d).fresh = true ∧ (t.die d).known = 0 ∧
        t.flight.getLast? = some (toBase (16 * d) (.renewal d (t.die d).almanac ((s.die d).inc + 1)))))) ∧
  (∀ (s : State),
    (s.ev = some (.controlDieReset false) →
      exec .controlDieReset s = .next { s with controlDie := false, flight := s.flight ++ [toBase 512 .controlDiePowerUp] }) ∧
    (s.ev = some (.controlDieReset true) → exec .controlDieReset s = .next { s with controlDie := false, controlFenced := true })) ∧
  (∀ (s : State) (n : Nat), s.bringUp + 1 ≠ n ∨ s.upFailed ≠ none →
    (n = 1 → s.ev = some .baseField0PowerUp → exec .baseField0PowerUp s = .next s) ∧
    (n = 2 → ∀ x, s.ev = some (.firmwareDownload x) → exec .firmwareDownload s = .next s) ∧
    (n = 3 → s.bringUp < 3 → s.ev = some .controlDiePowerUp → exec .controlDiePowerUp s = .next s) ∧
    (n = 4 → s.ev = some .baseFieldsPowerUp → exec .baseFieldsPowerUp s = .next s) ∧
    (n = 5 → ∀ l, s.ev = some (.stackTraining l) → exec .stackTraining s = .next s) ∧
    (n = 6 → ∀ l, s.ev = some (.computeDiePowerUp l) → exec .computeDiePowerUp s = .next s)) ∧
  (∀ (s : State), s.upFailed = none →
    let up (n : Nat) : State := { s with bringUp := n, out := .bringUp n none :: s.out }
    (s.bringUp = 0 → s.ev = some .baseField0PowerUp → exec .baseField0PowerUp s = .next { up 1 with root := 0, fields := [0] }) ∧
    (∀ x, s.bringUp = 1 → s.ev = some (.firmwareDownload x) → verified x → s.LimitsWf → ∃ t, exec .firmwareDownload s = .next t ∧ t.bringUp = 2 ∧
      t.image = some x ∧ t.leaf = s.flashLeaf ∧ t.warps = s.warps ∧
      (x.tables = [] → t.out = .bringUp 2 none :: s.out ∧ t.mem = s.mem ∧ ∀ i, i < 37 → t.limits.getD i 0 = if i < x.limits.length then min (x.limits.getD i 0) (Config.islandFigure i) else s.limits.getD i 0) ∧
      ∀ d ten, x.tables = [.die d (some ten)] → ten < 64 → Tab.look t.dieTen d = some ten) ∧
    (∀ x, s.bringUp = 1 → s.ev = some (.firmwareDownload x) → ¬ verified x → ∃ c,
      exec .firmwareDownload s = .next { s with upFailed := some 2, out := .bringUp 2 (some c) :: s.out }) ∧
    (s.bringUp = 2 → s.image ≠ none → s.ev = some .controlDiePowerUp → exec .controlDiePowerUp s = .next { up 3 with controlDie := true }) ∧
    (s.bringUp = 3 → s.ev = some .baseFieldsPowerUp → exec .baseFieldsPowerUp s = .next { up 4 with fields := [0, 1, 2, 3], slices := [], dir := [] }) ∧
    (s.bringUp = 4 → ∀ l, s.ev = some (.stackTraining l) → exec .stackTraining s = .next { up 5 with stacksFenced := l }) ∧
    (s.bringUp = 5 → ∀ l, s.ev = some (.computeDiePowerUp l) → (∀ d, d ∈ s.dies → d.2.powered = false) → ∃ t, exec .computeDiePowerUp s = .next t ∧
      ((∃ d, d < 16 ∧ d ∉ l) → t.bringUp = 5 ∧ t.out = s.out) ∧
      ((∀ d, d < 16 → d ∈ l) → t.bringUp = 6 ∧ t.out = .bringUp 6 none :: s.out) ∧ t.mem = s.mem ∧ t.warps = s.warps ∧
      (∀ d, d < 16 → d ∉ l → (t.die d).powered = true ∧ (t.die d).dead = false ∧ (t.die d).leaseStop = true ∧ (t.die d).fresh = true ∧
        toBase (16 * d) (.renewal d (t.die d).almanac (t.die d).inc) ∈ t.flight) ∧
      ∀ d, d < 16 → d ∈ l → (t.die d).fenced = true ∧ (t.die d).powered = false)) ∧
  (∀ (s : State) (n t0 : Nat), s.ev = some (.renewal n t0 (s.die n).inc) → (s.die n).powered = true → (s.die n).dead = false → (s.die n).fresh = true →
    s.bringUp = 5 →
    let t := (s.putDie n { s.die n with expiry := t0 + 2 ^ 16, fresh := false, slowest := (s.die n).mhz }).send .response 512 (16 * n)
      (.acknowledgement n (t0 + 2 ^ 16))
    let all := ∀ k, k < 16 → (t.die k).fenced = true ∨ (t.die k).powered = true ∧ (t.die k).fresh = false
    (all → exec .renewal s = .next { t with bringUp := 6, out := .bringUp 6 none :: s.out }) ∧ (¬ all → exec .renewal s = .next t)) ∧
  (∀ (s : State) (cause : Nat) (r : List Choice), s.agenda = [] → s.tape = .stepFails cause :: r → s.bringUp < 4 → s.upFailed = none →
    step s = .next { s with
      tape := r, upFailed := some (s.bringUp + 1), out := if s.bringUp = 0 then s.out else .bringUp (s.bringUp + 1) (some cause) :: s.out }) ∧
  (∀ (s : State), s.ev = some .controlDiePowerUp → 3 ≤ s.bringUp →
    (s.image ≠ none → s.controlFenced = false → exec .controlDiePowerUp s = .next { s with controlDie := true }) ∧
    (s.controlFenced = true → exec .controlDiePowerUp s = .next s)) ∧
  (∀ (s : State),
    let off : State := { State.reset with
      flashLeaf := s.flashLeaf, flashCert := s.flashCert, out := s.out, tape := s.tape, mem := s.mem.filter fun c => decide (Config.dramEnd ≤ c.1) }
    (s.ev = some .powerLoss → exec .powerLoss s = .next off) ∧
    (s.ev = some .powerDown → (∀ f, f ∈ s.fields → f = 0) → exec .powerDown s = .next off) ∧
    (s.ev = some .powerDown → (∃ f, f ∈ s.fields ∧ f ≠ 0) → ∃ t, exec .powerDown s = .next t ∧ t.flight = [toBase 512 .powerDown] ∧
      (∀ f, f ∈ t.fields ↔ f ∈ s.fields ∧ f = 0) ∧ t.warps = [] ∧ t.slices = [] ∧ t.mem = off.mem ∧ (∀ d, (t.die d).powered = false) ∧
      t.image = s.image ∧ t.controlDie = s.controlDie ∧ t.flashLeaf = s.flashLeaf ∧ t.out = s.out)) ∧
  (∀ (s : State), s.ev = some (.attestation false) →
    (s.image ≠ none → s.signing = none → exec .attestation s = .next (State.send { s with
      flashLeaf := s.flashLeaf + 1, leaf := s.flashLeaf + 1, signing := some s.flashLeaf } .request 512 512 (.attestation true))) ∧
    (s.image = none ∨ s.signing ≠ none → exec .attestation s = .next s)) ∧
  (∀ (s : State), s.ev = some (.attestation true) →
    (∀ x leaf, s.image = some x → s.signing = some leaf →
      let v := Config.shake256 x.vigil.body
      let f := Config.shake256 x.service.body
      let t := Config.shake256 x.trims.body
      exec .attestation s = .next { s with
        signing := none
        out := .report leaf v f t s.flashCert (Config.xmssSigns (Config.attestationKey Config.pufSeed) leaf (v ++ f ++ t)) :: s.out }) ∧
    (s.image = none ∨ s.signing = none → exec .attestation s = .next s))

/-- R402, R404 to R407, R409, R410 (18), R420 (19): what comes to the package's edge, and what leaves it. That a tail reads all ones is log entry 49's
choice; that the lowest port with a credit carries a request, and that what waits does so in arrival order, log entry 69's. -/
def Obligations.EdgeSteps : Prop :=
  (∀ (s : State) (ld off : Nat) (r : List Choice), s.agenda = [] → s.tape = .barRead ld off :: r →
    let s1 : State := { s with tape := r }
    let ones : W64 := 0xFFFFFFFFFFFFFFFF
    (s.bound ld = false ∨ ld ∈ s.unbinding → step s = .next (s1.emit (.completionError ld))) ∧
    (s.bound ld = true → ld ∉ s.unbinding → ∃ v, step s = .next (s1.emit (.barData ld off v)) ∧ (0x500000 ≤ off → v = ones) ∧
      ∀ q k, q < 64 → k < 0x10000 → off = 0x100000 + q * 0x10000 + k →
        ((s.queue q).ten = none ∨ s.ldTenant ld ≠ (s.queue q).ten → v = ones) ∧
        ((s.queue q).ten ≠ none → s.ldTenant ld = (s.queue q).ten →
          (k = 0x4008 → v = (s.queue q).head.setWidth 64) ∧ (k = 0x4010 → v = (s.queue q).done) ∧ (k = 0x4000 → v = ones) ∧
          (k < 0x4000 → v = (Tab.get (s.queue q).ring {} (k / 64)).raw.extractLsb' (64 * (k / 8 % 8)) 64)))) ∧
  (∀ (s : State) (ld off : Nat) (v : W64) (r : List Choice), s.agenda = [] → s.tape = .barWrite ld off v :: r → s.bound ld = true → ld ∉ s.unbinding →
    let s1 : State := { s with tape := r }
    (0x500000 ≤ off → step s = .next s1) ∧
    (off < 0x100000 → ld < 17 → ∃ t, step s = .next t ∧ t = { s1 with ldRegs := t.ldRegs } ∧
      ∀ ld' off', off' < 0x100000 → Tab.get t.ldRegs 0 (ld' * 2 ^ 17 + off' / 8) =
        if ld' = ld ∧ off' / 8 = off / 8 then v else Tab.get s.ldRegs 0 (ld' * 2 ^ 17 + off' / 8)) ∧
    ∀ q k, q < 64 → k < 0x10000 → off = 0x100000 + q * 0x10000 + k →
      step s = .next { s1 with flight := s.flight ++ [fromBase 512 (.queueRegisterWrite ld q k v)] }) ∧
  (∀ (s : State) (p ld i base size dpa pa want : Nat) (cls : Cls) (r : List Choice) (d : Bool) (bad : List Nat) (half : Bool), s.agenda = [] →
    s.tape = .event (.hostCxlMemRead p ld pa cls want) :: r → i < 16 → s.hdm = [(ld * 16 + i, (base, size, dpa))] → base ≤ pa → pa < base + size →
    ld ∉ s.unbinding → s.fields = [0, 1, 2, 3] → s.testing = [] → s.fab = [(p, .up d bad half)] →
    let mine := (s.flight ++ s.parked).countP fun f => eventPort f.ev == some p
    (mine < 4096 → step s = .next { s with
      tape := r, flight := s.flight ++ [fromBase 512 (.hostCxlMemRead p ld (dpa + (pa - base)) cls want)] }) ∧
    (4096 ≤ mine → step s = .next { s with tape := r, linkWait := s.linkWait ++ [.hostCxlMemRead p ld pa cls want] })) ∧
  (∀ (s : State) (p ld pa want : Nat) (cls : Cls) (r : List Choice), s.agenda = [] → s.tape = .event (.hostCxlMemRead p ld pa cls want) :: r →
    let s1 : State := { s with tape := r }
    (ld ∈ s.unbinding → step s = .next (s1.emit (.completionError ld))) ∧
    (ld ∉ s.unbinding → s.fields = [] ∨ s.fab = [] → step s = .next { s1 with linkWait := s.linkWait ++ [.hostCxlMemRead p ld pa cls want] })) ∧
  (∀ (s : State) (r : HomeReq) (c n p : Nat) (d : Bool) (bad : List Nat) (half : Bool), r.agent = .core c → r.space = .pa → freshAt s r.line c r.inc →
    windowOf (r.line * 256) = some n → 1 ≤ n → n ≤ 255 → n ∉ s.deadPeers → s.farWait = [] → s.testing = [] → s.fab = [(p, .up d bad half)] →
    (s.ev = some (.uncachedRead r) → exec .uncachedRead s = .next { s with
      farWait := [{ kind := 5, req := r, port := some p }], out := .farRead r.line :: s.out }) ∧
    (s.ev = some (.writeAtHome r) → exec .writeAtHome s = .next { s with
      farWait := [{ kind := 2, req := r, port := some p }], out := .farWrite r.line r.bytes :: s.out }) ∧
    (∀ off wide op ls, r.atom = some (off, wide, op, ls) → s.ev = some (.atomicAtHome r) → exec .atomicAtHome s = .next { s with
      farWait := [{ kind := 3, req := r, port := some p }], out := .peerAtomic r.line off wide op ls :: s.out })) ∧
  (∀ (s : State) (x : FarReq) (c p : Nat) (r : List Choice), s.agenda = [] → s.tape = .farAnswer 0 :: r → s.farWait = [x] → x.kind = 5 →
    x.port = some p → x.req.agent = .core c → x.req.space = .pa → freshAt s x.req.line c x.req.inc → s.deadWindow x.req = false →
    step s = .next { s with
      tape := r, farWait := [], flight := s.flight ++ [answerTo x.req c (s.homeLine x.req.line) (s.homePsn4 x.req.line)] }) ∧
  (∀ (s : State) (r : HomeReq) (c p w : Nat) (l : LLine) (d : Bool) (bad : List Nat) (half own : Bool), r.agent = .core c → r.space = .pa → freshAt s r.line c r.inc →
    windowOf (r.line * 256) = some 256 → r.cls ≠ .non → r.smask = 1 → Stands s r.line w l →
    (s.dirOf (r.line * 4)).broken = false → (s.dirOf (r.line * 4)).host ≠ 2 →
    (Tab.look s.hostHeld (r.line * 4) = none ∨ own = true ∧ Tab.look s.hostHeld (r.line * 4) = some false) → s.farWait = [] → s.testing = [] →
    s.fab = [(p, .up d bad half)] → s.ev = some (if own then .readForOwnership r else .readShared r) →
    ∃ t, exec (if own then .readForOwnership else .readShared) s = .next t ∧ t.mem = s.mem ∧ t.dir = s.dir ∧ t.flight = s.flight ∧
      t.out = .cacheRequest (r.line * 4) own :: s.out ∧ ∃ x, t.farWait = [x] ∧ x.kind = (if own then 9 else 8) ∧ x.port = some p ∧ x.req.smask = 1) ∧
  (∀ (s : State) (x : FarReq) (p : Nat) (r : List Choice), s.agenda = [] → s.tape = .farAnswer 0 :: r → s.farWait = [x] → x.kind = 8 ∨ x.kind = 9 →
    x.port = some p → x.req.smask = 1 → idleSlice s (sliceOf x.req.line) → (s.slice (sliceOf x.req.line)).persist = [] →
    (s.slice (sliceOf x.req.line)).persistWait = [] → (∀ y, y ∈ s.cores → y.2.rels = []) → ∃ t, step s = .next t ∧ t.farWait = [] ∧ t.mem = s.mem ∧
      t.dir = s.dir ∧ t.warps = s.warps ∧ Tab.look t.hostHeld (x.req.line * 4) = some (x.kind == 9 || Tab.get s.hostHeld false (x.req.line * 4)))

/-- R235 to R250 (11), R213 (09), R208 (08), R116 (04), R190 (07), R343, R356 (15): words written out in the spec, and what they say. -/
def Obligations.DecodingWords : Prop :=
  let g : Guard := ⟨false, 0⟩
  let d (w : Nat) : Option Instr := decodeTableWord 256 (alone w)
  let bundle (a b c e : Nat) : Nat := a + b * 2 ^ 64 + c * 2 ^ 128 + e * 2 ^ 192
  decodeBundle (bundle 0x41000000E0400000 0x00052C4200000400 0x0000000004004301 0x0000800000000080) = .ok ⟨none,
    [(0, .moveToPort .la .a false ⟨g, .special 0⟩), (1, .moveToPort .la .b false ⟨g, .imm 0⟩), (2, .moveToPort .la .c false ⟨g, .imm 600⟩),
     (3, .ld .first ⟨⟨g, .imm 0⟩, 0⟩)]⟩ ∧
  decodeBundle (bundle 0x0000008000000000 0x0080000000008000 0x0000000080000000 0x40001C0004000000) = .ok ⟨some (.vwhile 4 false), []⟩ ∧
  decodeBundle (0x00C3100000 + 0x0101132800 * 2 ^ 40 + 0x003D000000 * 2 ^ 80 + 2 ^ 159 + 2 ^ 199 + 2 ^ 239 + 2 ^ 242) = .ok ⟨none,
    [(0, .moveToPort .fa .a false ⟨g, .res .cv⟩), (1, .faMul .first .f32 ⟨⟨g, .litZ 0x3D000000⟩, 0⟩)]⟩ ∧
  d 0x00C3100000 = some (.moveToPort .fa .a false ⟨g, .res .cv⟩) ∧
  d 0x0401DF1200 = some (.barSync ⟨g, .imm 3⟩) ∧ d 0x04185F2100 = some (.bcwait ⟨g, .imm 0x30⟩) ∧
  d 0x14115F0203 = some (.rel .dev ⟨⟨false, 2⟩, .imm 0x22⟩) ∧ d 0x0086670106 = some (.send ⟨⟨g, .sreg 12⟩, 6⟩) ∧
  d 0x8802670206 = some (.post ⟨⟨⟨true, 1⟩, .vreg 4⟩, 6⟩) ∧ d 0x0400570844 = some (.drain true ⟨⟨g, .imm 0⟩, 4⟩) ∧
  d 0x0081630200 = some (.sreply ⟨g, .sreg 2⟩) ∧
  decodeTableWord 256 (bundle 0x0000008000000000 0x0080000000008000 0xFFFFFFFB80000000 0x4000010000000000) = some (.br 0xFFFFFFFB) ∧
  decodeTableWord 256 (alone (2 ^ 39)) = some .noOperation

/-- R235 to R252 (11): an encoding that is decoded is legal; what R236 to R239 call illegal is refused where R252 says. -/
def Obligations.DecodedWellFormed : Prop :=
  (∀ (w : Nat) (b : Bundle), decodeBundle w = .ok b →
    (∀ c, b.ctl = some c → WellFormed c ∧ c.control = true ∧ b.moves.length ≤ 4) ∧ b.moves.length ≤ 6 ∧ (b.moves.Pairwise fun x y => x.1 < y.1) ∧
    ∀ k i, (k, i) ∈ b.moves → k < 6 ∧ WellFormed i ∧ i.encodable = true ∧ i.control = false ∧ i ≠ .noOperation) ∧
  (∀ w, 2 ≤ w / 2 ^ 254 % 4 → decodeBundle w = .error (7, .bundleKind)) ∧
  (∀ w, w / 2 ^ 254 % 4 < 2 → w / 2 ^ 246 % 2 ^ 8 ≠ 0 → decodeBundle w = .error (7, .headerReserved)) ∧
  (∀ w, w / 2 ^ 254 % 4 = 1 → w / 2 ^ 246 % 2 ^ 8 = 0 → w / 2 ^ 244 % 4 ≠ 0 → decodeBundle w = .error (7, .controlLitBits)) ∧
  (∀ x, x < 2 ^ 35 → x ≠ 0 → decodeBundle (alone (2 ^ 39 + x)) = .error (0, .slotNotEmpty))

/-- For every instruction of the table that has an encoding, decoding what `encode` gives is the instruction, with every operand. -/
def Obligations.DecodeEncode : Prop :=
  ∀ (i : Instr), WellFormed i → i.encodable = true → ∃ w, encode i = some w ∧ w < 2 ^ 256 ∧ decodeTableWord 256 w = some i

/-- R124, R147 (05), R252 (11): a step of a core's turn runs the instruction that the bundle at the program counter decodes to, or its instructions
in the order of R124, then advances the program counter past a bundle without a control operation; an illegal bundle raises cause 0x02 with its
slot. That a page of a bundle which does not translate raises the fetch fault is log entry 35's choice. -/
def Obligations.StepRunsDecoded : Prop :=
  (∀ (s t : State) (cl p k word : Nat) (a : WarpAt) (w : Warp) (i : Instr) (b : Bundle), TurnOf s cl p a w →
    s.fetch a.core w.nid w.ctx.pc = .ok word → decodeBundle word = .ok b →
    (b = ⟨none, [(k, i)]⟩ ∨ b = ⟨some i, []⟩ ∧ k = 6 ∧ w.ctx.loop = none ∨ b = ⟨none, []⟩ ∧ i = .noOperation ∧ k = 7) → moveRange w i = none →
    (w.waiting = true ↔ ∃ sd sa, b.ctl = some (.ftest sd sa)) → exec i (issuing s a w k) = .next t →
    (t.verdict = .done → step s = .next (issuedBy (if b.moves = [] then t else t.advance a).idle a)) ∧
    (∀ c x, t.verdict = .faulted c x → step s = .next (issuedBy (s.raiseTrap a c x) a)) ∧
    (∀ u x, t.verdict = .poisoned u x → step s = .next (issuedBy (s.raisePoison a u x) a)) ∧
    (∀ pa c x, t.verdict = .walkRefused pa c x → step s = .next (issuedBy (s.raiseWalk a pa c x) a)) ∧
    ((t.verdict = .neighbour ∨ t.verdict = .room ∨ t.verdict = .waits) → step s = .next { s with cursor := ⟨cl, p + 1⟩ })) ∧
  (∀ (s t : State) (cl p word : Nat) (a : WarpAt) (w : Warp) (b : Bundle), TurnOf s cl p a w → s.fetch a.core w.nid w.ctx.pc = .ok word →
    decodeBundle word = .ok b → conflict b.moves ((b.ctl.map controlKeys).getD []) = none → firstRange w b.moves = none →
    (b.ctl ≠ none → w.ctx.loop = none ∧ w.responder = none) → (w.waiting = true ↔ ∃ sd sa, b.ctl = some (.ftest sd sa)) →
    runParts (issuing s a w s.mslot) (partsOf b) = some t →
    step s = .next (issuedBy (if b.ctl = none ∧ b.moves ≠ [] then t.advance a else t).idle a)) ∧
  (∀ (s : State) (cl p k word : Nat) (a : WarpAt) (w : Warp) (e : Reject), TurnOf s cl p a w → s.fetch a.core w.nid w.ctx.pc = .ok word →
    w.waiting = false → decodeBundle word = .error (k, e) →
    step s = .next (issuedBy (s.raiseTrap a 0x02 (BitVec.ofNat 64 (k * 2 ^ 61))) a)) ∧
  (∀ (s : State) (cl p : Nat) (a : WarpAt) (w : Warp), TurnOf s cl p a w → w.waiting = false → s.fetch a.core w.nid w.ctx.pc = .bad →
    step s = .next (issuedBy ((walkLogged s (s.fetchWalk a.core w.nid w.ctx.pc)).raiseTrap a 0x04 ((w.ctx.pc.setWidth 56).setWidth 64)) a))

/-- No step stops: every state has a next one. An instruction of a program answers a next state where the cursor names a live warp, and stops with
`noWarp` where it names none, which no step does; every other row answers a next state. -/
def Obligations.StepAnswers : Prop :=
  (∀ (s : State), ∃ t, step s = .next t) ∧
  (∀ (i : Instr) (s : State) (w : Warp), s.warp? s.cur = some w → ∃ t, exec i s = .next t) ∧
  (∀ (i : Instr) (s : State), inProgram i = false → ∃ t, exec i s = .next t) ∧
  (∀ (i : Instr) (s : State), inProgram i = true → s.warp? s.cur = none → exec i s = .fault .noWarp)

/-- What no instruction of a program changes by itself: the home copy of every line that its own L1 does not hold coherently, the directories,
the dies, the limits, the isolation tables, the fabric, the pools of the slices, the other warps of the package, the accumulators and clocks of the
clusters, the page records and the SRAM bytes of the cores (but for `csize`); the error log, but where a walker read is refused. A release writes
coherent lines of its own L1 back at once (log entry 14). What an instruction sends to its home, or to an engine, the events of the table do. -/
def Obligations.ProgramFrame : Prop :=
  ∀ (i : Instr) (s t : State), i.encodable = true → exec i s = .next t →
    (∀ a, notOwn s a → t.homeByte a = s.homeByte a) ∧
    t = { s with
      mem := t.mem, badDram := t.badDram, slices := t.slices, errLog := t.errLog, censusWait := t.censusWait
      warps := t.warps, cores := t.cores, clusters := t.clusters, saved := t.saved, queues := t.queues, nodes := t.nodes, nextReady := t.nextReady
      gbars := t.gbars, mails := t.mails, objs := t.objs, censuses := t.censuses, tmoves := t.tmoves, nextMove := t.nextMove, preqs := t.preqs
      peerSends := t.peerSends, gangs := t.gangs, out := t.out, agenda := t.agenda, flight := t.flight, verdict := t.verdict } ∧
    (∀ a, warpKey a ≠ warpKey s.cur → t.warp? a = s.warp? a) ∧
    (∀ c, (t.cluster c).acc = (s.cluster c).acc ∧ (t.cluster c).lcyc = (s.cluster c).lcyc) ∧
    (∀ n, (t.slice n).pool = (s.slice n).pool) ∧
    ((∀ pa c x, t.verdict ≠ .walkRefused pa c x) → t.errLog = s.errLog) ∧
    (∀ c, (t.core c).segs = (s.core c).segs) ∧
    (∀ c, c ≠ s.cur.core → (t.core c).pool = (s.core c).pool) ∧
    ((∀ m, i ≠ .csize m) → (∀ r, r ∈ (s.core s.cur.core).rels → ∀ f n, r.act ≠ .csize f n) → (t.core s.cur.core).pool = (s.core s.cur.core).pool)

/-- The state after reset keeps the invariant, and nothing is powered, lives or is stored in it. The values are log entry 6's where the spec gives
none; R417 (19) gives the limits, R421 (19) the almanac. -/
def Obligations.ResetInv : Prop :=
  State.reset.Inv ∧ State.reset.root = 0 ∧ State.reset.bringUp = 0 ∧ State.reset.image = none ∧ State.reset.controlDie = false ∧
  (∀ a, readCell State.reset.mem a = 0) ∧ (∀ a, State.reset.warp? a = none) ∧
  (∀ d, (State.reset.die d).powered = false ∧ (State.reset.die d).mhz = 800) ∧ (∀ n, (State.reset.slice n).ways = 0) ∧
  ∀ i, State.reset.limits.getD i 0 = Config.islandFigure i

/-- Every step keeps memory in its canonical form, every current limit at or below its figure (19 R417), and the error log at 4,096 entries (17
R400). -/
def Obligations.StepKeepsInv : Prop :=
  ∀ (s t : State), s.Inv → step s = .next t → t.Inv
end

