-- ==== Sys2Proof/Laws/State.lean ====
section
/-! SUPPORT. Laws of State: what each field is after each of the named updates, true by unfolding, so that no proof unfolds a record. -/

namespace Sys2Proof.Machine

/-! ### `putCore` -/

@[simp] theorem State.putCore_root (s : State) (n : Nat) (x : Core) : (s.putCore n x).root = s.root := rfl
@[simp] theorem State.putCore_mem (s : State) (n : Nat) (x : Core) : (s.putCore n x).mem = s.mem := rfl
@[simp] theorem State.putCore_badDram (s : State) (n : Nat) (x : Core) : (s.putCore n x).badDram = s.badDram := rfl
@[simp] theorem State.putCore_bringUp (s : State) (n : Nat) (x : Core) : (s.putCore n x).bringUp = s.bringUp := rfl
@[simp] theorem State.putCore_upFailed (s : State) (n : Nat) (x : Core) : (s.putCore n x).upFailed = s.upFailed := rfl
@[simp] theorem State.putCore_fields (s : State) (n : Nat) (x : Core) : (s.putCore n x).fields = s.fields := rfl
@[simp] theorem State.putCore_image (s : State) (n : Nat) (x : Core) : (s.putCore n x).image = s.image := rfl
@[simp] theorem State.putCore_controlDie (s : State) (n : Nat) (x : Core) : (s.putCore n x).controlDie = s.controlDie := rfl
@[simp] theorem State.putCore_controlFenced (s : State) (n : Nat) (x : Core) : (s.putCore n x).controlFenced = s.controlFenced := rfl
@[simp] theorem State.putCore_almanacs (s : State) (n : Nat) (x : Core) : (s.putCore n x).almanacs = s.almanacs := rfl
@[simp] theorem State.putCore_controlIncs (s : State) (n : Nat) (x : Core) : (s.putCore n x).controlIncs = s.controlIncs := rfl
@[simp] theorem State.putCore_testing (s : State) (n : Nat) (x : Core) : (s.putCore n x).testing = s.testing := rfl
@[simp] theorem State.putCore_flashLeaf (s : State) (n : Nat) (x : Core) : (s.putCore n x).flashLeaf = s.flashLeaf := rfl
@[simp] theorem State.putCore_leaf (s : State) (n : Nat) (x : Core) : (s.putCore n x).leaf = s.leaf := rfl
@[simp] theorem State.putCore_flashCert (s : State) (n : Nat) (x : Core) : (s.putCore n x).flashCert = s.flashCert := rfl
@[simp] theorem State.putCore_signing (s : State) (n : Nat) (x : Core) : (s.putCore n x).signing = s.signing := rfl
@[simp] theorem State.putCore_limits (s : State) (n : Nat) (x : Core) : (s.putCore n x).limits = s.limits := rfl
@[simp] theorem State.putCore_stacksFenced (s : State) (n : Nat) (x : Core) : (s.putCore n x).stacksFenced = s.stacksFenced := rfl
@[simp] theorem State.putCore_errLog (s : State) (n : Nat) (x : Core) : (s.putCore n x).errLog = s.errLog := rfl
@[simp] theorem State.putCore_dieTen (s : State) (n : Nat) (x : Core) : (s.putCore n x).dieTen = s.dieTen := rfl
@[simp] theorem State.putCore_frameTen (s : State) (n : Nat) (x : Core) : (s.putCore n x).frameTen = s.frameTen := rfl
@[simp] theorem State.putCore_windows (s : State) (n : Nat) (x : Core) : (s.putCore n x).windows = s.windows := rfl
@[simp] theorem State.putCore_fab (s : State) (n : Nat) (x : Core) : (s.putCore n x).fab = s.fab := rfl
@[simp] theorem State.putCore_lds (s : State) (n : Nat) (x : Core) : (s.putCore n x).lds = s.lds := rfl
@[simp] theorem State.putCore_unbinding (s : State) (n : Nat) (x : Core) : (s.putCore n x).unbinding = s.unbinding := rfl
@[simp] theorem State.putCore_hdm (s : State) (n : Nat) (x : Core) : (s.putCore n x).hdm = s.hdm := rfl
@[simp] theorem State.putCore_ldRegs (s : State) (n : Nat) (x : Core) : (s.putCore n x).ldRegs = s.ldRegs := rfl
@[simp] theorem State.putCore_linkWait (s : State) (n : Nat) (x : Core) : (s.putCore n x).linkWait = s.linkWait := rfl
@[simp] theorem State.putCore_badLanes (s : State) (n : Nat) (x : Core) : (s.putCore n x).badLanes = s.badLanes := rfl
@[simp] theorem State.putCore_gangs (s : State) (n : Nat) (x : Core) : (s.putCore n x).gangs = s.gangs := rfl
@[simp] theorem State.putCore_beats (s : State) (n : Nat) (x : Core) : (s.putCore n x).beats = s.beats := rfl
@[simp] theorem State.putCore_nextBeat (s : State) (n : Nat) (x : Core) : (s.putCore n x).nextBeat = s.nextBeat := rfl
@[simp] theorem State.putCore_deadPeers (s : State) (n : Nat) (x : Core) : (s.putCore n x).deadPeers = s.deadPeers := rfl
@[simp] theorem State.putCore_dies (s : State) (n : Nat) (x : Core) : (s.putCore n x).dies = s.dies := rfl
@[simp] theorem State.putCore_clusters (s : State) (n : Nat) (x : Core) : (s.putCore n x).clusters = s.clusters := rfl
@[simp] theorem State.putCore_cores (s : State) (n : Nat) (x : Core) : (s.putCore n x).cores = Tab.put s.cores n x := rfl
@[simp] theorem State.putCore_warps (s : State) (n : Nat) (x : Core) : (s.putCore n x).warps = s.warps := rfl
@[simp] theorem State.putCore_nextWid (s : State) (n : Nat) (x : Core) : (s.putCore n x).nextWid = s.nextWid := rfl
@[simp] theorem State.putCore_ghosts (s : State) (n : Nat) (x : Core) : (s.putCore n x).ghosts = s.ghosts := rfl
@[simp] theorem State.putCore_slices (s : State) (n : Nat) (x : Core) : (s.putCore n x).slices = s.slices := rfl
@[simp] theorem State.putCore_dir (s : State) (n : Nat) (x : Core) : (s.putCore n x).dir = s.dir := rfl
@[simp] theorem State.putCore_hostHeld (s : State) (n : Nat) (x : Core) : (s.putCore n x).hostHeld = s.hostHeld := rfl
@[simp] theorem State.putCore_farWait (s : State) (n : Nat) (x : Core) : (s.putCore n x).farWait = s.farWait := rfl
@[simp] theorem State.putCore_objs (s : State) (n : Nat) (x : Core) : (s.putCore n x).objs = s.objs := rfl
@[simp] theorem State.putCore_mails (s : State) (n : Nat) (x : Core) : (s.putCore n x).mails = s.mails := rfl
@[simp] theorem State.putCore_gbars (s : State) (n : Nat) (x : Core) : (s.putCore n x).gbars = s.gbars := rfl
@[simp] theorem State.putCore_queues (s : State) (n : Nat) (x : Core) : (s.putCore n x).queues = s.queues := rfl
@[simp] theorem State.putCore_nextQueue (s : State) (n : Nat) (x : Core) : (s.putCore n x).nextQueue = s.nextQueue := rfl
@[simp] theorem State.putCore_nodes (s : State) (n : Nat) (x : Core) : (s.putCore n x).nodes = s.nodes := rfl
@[simp] theorem State.putCore_nextNid (s : State) (n : Nat) (x : Core) : (s.putCore n x).nextNid = s.nextNid := rfl
@[simp] theorem State.putCore_nextReady (s : State) (n : Nat) (x : Core) : (s.putCore n x).nextReady = s.nextReady := rfl
@[simp] theorem State.putCore_saved (s : State) (n : Nat) (x : Core) : (s.putCore n x).saved = s.saved := rfl
@[simp] theorem State.putCore_censuses (s : State) (n : Nat) (x : Core) : (s.putCore n x).censuses = s.censuses := rfl
@[simp] theorem State.putCore_nextCensus (s : State) (n : Nat) (x : Core) : (s.putCore n x).nextCensus = s.nextCensus := rfl
@[simp] theorem State.putCore_censusWait (s : State) (n : Nat) (x : Core) : (s.putCore n x).censusWait = s.censusWait := rfl
@[simp] theorem State.putCore_tmoves (s : State) (n : Nat) (x : Core) : (s.putCore n x).tmoves = s.tmoves := rfl
@[simp] theorem State.putCore_nextMove (s : State) (n : Nat) (x : Core) : (s.putCore n x).nextMove = s.nextMove := rfl
@[simp] theorem State.putCore_preqs (s : State) (n : Nat) (x : Core) : (s.putCore n x).preqs = s.preqs := rfl
@[simp] theorem State.putCore_peerSends (s : State) (n : Nat) (x : Core) : (s.putCore n x).peerSends = s.peerSends := rfl
@[simp] theorem State.putCore_out (s : State) (n : Nat) (x : Core) : (s.putCore n x).out = s.out := rfl
@[simp] theorem State.putCore_agenda (s : State) (n : Nat) (x : Core) : (s.putCore n x).agenda = s.agenda := rfl
@[simp] theorem State.putCore_tape (s : State) (n : Nat) (x : Core) : (s.putCore n x).tape = s.tape := rfl
@[simp] theorem State.putCore_flight (s : State) (n : Nat) (x : Core) : (s.putCore n x).flight = s.flight := rfl
@[simp] theorem State.putCore_parked (s : State) (n : Nat) (x : Core) : (s.putCore n x).parked = s.parked := rfl
@[simp] theorem State.putCore_cursor (s : State) (n : Nat) (x : Core) : (s.putCore n x).cursor = s.cursor := rfl
@[simp] theorem State.putCore_cur (s : State) (n : Nat) (x : Core) : (s.putCore n x).cur = s.cur := rfl
@[simp] theorem State.putCore_mslot (s : State) (n : Nat) (x : Core) : (s.putCore n x).mslot = s.mslot := rfl
@[simp] theorem State.putCore_snap (s : State) (n : Nat) (x : Core) : (s.putCore n x).snap = s.snap := rfl
@[simp] theorem State.putCore_ev (s : State) (n : Nat) (x : Core) : (s.putCore n x).ev = s.ev := rfl
@[simp] theorem State.putCore_verdict (s : State) (n : Nat) (x : Core) : (s.putCore n x).verdict = s.verdict := rfl

/-! ### `putCluster` -/

@[simp] theorem State.putCluster_root (s : State) (n : Nat) (x : Cluster) : (s.putCluster n x).root = s.root := rfl
@[simp] theorem State.putCluster_mem (s : State) (n : Nat) (x : Cluster) : (s.putCluster n x).mem = s.mem := rfl
@[simp] theorem State.putCluster_badDram (s : State) (n : Nat) (x : Cluster) : (s.putCluster n x).badDram = s.badDram := rfl
@[simp] theorem State.putCluster_bringUp (s : State) (n : Nat) (x : Cluster) : (s.putCluster n x).bringUp = s.bringUp := rfl
@[simp] theorem State.putCluster_upFailed (s : State) (n : Nat) (x : Cluster) : (s.putCluster n x).upFailed = s.upFailed := rfl
@[simp] theorem State.putCluster_fields (s : State) (n : Nat) (x : Cluster) : (s.putCluster n x).fields = s.fields := rfl
@[simp] theorem State.putCluster_image (s : State) (n : Nat) (x : Cluster) : (s.putCluster n x).image = s.image := rfl
@[simp] theorem State.putCluster_controlDie (s : State) (n : Nat) (x : Cluster) : (s.putCluster n x).controlDie = s.controlDie := rfl
@[simp] theorem State.putCluster_controlFenced (s : State) (n : Nat) (x : Cluster) : (s.putCluster n x).controlFenced = s.controlFenced := rfl
@[simp] theorem State.putCluster_almanacs (s : State) (n : Nat) (x : Cluster) : (s.putCluster n x).almanacs = s.almanacs := rfl
@[simp] theorem State.putCluster_controlIncs (s : State) (n : Nat) (x : Cluster) : (s.putCluster n x).controlIncs = s.controlIncs := rfl
@[simp] theorem State.putCluster_testing (s : State) (n : Nat) (x : Cluster) : (s.putCluster n x).testing = s.testing := rfl
@[simp] theorem State.putCluster_flashLeaf (s : State) (n : Nat) (x : Cluster) : (s.putCluster n x).flashLeaf = s.flashLeaf := rfl
@[simp] theorem State.putCluster_leaf (s : State) (n : Nat) (x : Cluster) : (s.putCluster n x).leaf = s.leaf := rfl
@[simp] theorem State.putCluster_flashCert (s : State) (n : Nat) (x : Cluster) : (s.putCluster n x).flashCert = s.flashCert := rfl
@[simp] theorem State.putCluster_signing (s : State) (n : Nat) (x : Cluster) : (s.putCluster n x).signing = s.signing := rfl
@[simp] theorem State.putCluster_limits (s : State) (n : Nat) (x : Cluster) : (s.putCluster n x).limits = s.limits := rfl
@[simp] theorem State.putCluster_stacksFenced (s : State) (n : Nat) (x : Cluster) : (s.putCluster n x).stacksFenced = s.stacksFenced := rfl
@[simp] theorem State.putCluster_errLog (s : State) (n : Nat) (x : Cluster) : (s.putCluster n x).errLog = s.errLog := rfl
@[simp] theorem State.putCluster_dieTen (s : State) (n : Nat) (x : Cluster) : (s.putCluster n x).dieTen = s.dieTen := rfl
@[simp] theorem State.putCluster_frameTen (s : State) (n : Nat) (x : Cluster) : (s.putCluster n x).frameTen = s.frameTen := rfl
@[simp] theorem State.putCluster_windows (s : State) (n : Nat) (x : Cluster) : (s.putCluster n x).windows = s.windows := rfl
@[simp] theorem State.putCluster_fab (s : State) (n : Nat) (x : Cluster) : (s.putCluster n x).fab = s.fab := rfl
@[simp] theorem State.putCluster_lds (s : State) (n : Nat) (x : Cluster) : (s.putCluster n x).lds = s.lds := rfl
@[simp] theorem State.putCluster_unbinding (s : State) (n : Nat) (x : Cluster) : (s.putCluster n x).unbinding = s.unbinding := rfl
@[simp] theorem State.putCluster_hdm (s : State) (n : Nat) (x : Cluster) : (s.putCluster n x).hdm = s.hdm := rfl
@[simp] theorem State.putCluster_ldRegs (s : State) (n : Nat) (x : Cluster) : (s.putCluster n x).ldRegs = s.ldRegs := rfl
@[simp] theorem State.putCluster_linkWait (s : State) (n : Nat) (x : Cluster) : (s.putCluster n x).linkWait = s.linkWait := rfl
@[simp] theorem State.putCluster_badLanes (s : State) (n : Nat) (x : Cluster) : (s.putCluster n x).badLanes = s.badLanes := rfl
@[simp] theorem State.putCluster_gangs (s : State) (n : Nat) (x : Cluster) : (s.putCluster n x).gangs = s.gangs := rfl
@[simp] theorem State.putCluster_beats (s : State) (n : Nat) (x : Cluster) : (s.putCluster n x).beats = s.beats := rfl
@[simp] theorem State.putCluster_nextBeat (s : State) (n : Nat) (x : Cluster) : (s.putCluster n x).nextBeat = s.nextBeat := rfl
@[simp] theorem State.putCluster_deadPeers (s : State) (n : Nat) (x : Cluster) : (s.putCluster n x).deadPeers = s.deadPeers := rfl
@[simp] theorem State.putCluster_dies (s : State) (n : Nat) (x : Cluster) : (s.putCluster n x).dies = s.dies := rfl
@[simp] theorem State.putCluster_clusters (s : State) (n : Nat) (x : Cluster) : (s.putCluster n x).clusters = Tab.put s.clusters n x := rfl
@[simp] theorem State.putCluster_cores (s : State) (n : Nat) (x : Cluster) : (s.putCluster n x).cores = s.cores := rfl
@[simp] theorem State.putCluster_warps (s : State) (n : Nat) (x : Cluster) : (s.putCluster n x).warps = s.warps := rfl
@[simp] theorem State.putCluster_nextWid (s : State) (n : Nat) (x : Cluster) : (s.putCluster n x).nextWid = s.nextWid := rfl
@[simp] theorem State.putCluster_ghosts (s : State) (n : Nat) (x : Cluster) : (s.putCluster n x).ghosts = s.ghosts := rfl
@[simp] theorem State.putCluster_slices (s : State) (n : Nat) (x : Cluster) : (s.putCluster n x).slices = s.slices := rfl
@[simp] theorem State.putCluster_dir (s : State) (n : Nat) (x : Cluster) : (s.putCluster n x).dir = s.dir := rfl
@[simp] theorem State.putCluster_hostHeld (s : State) (n : Nat) (x : Cluster) : (s.putCluster n x).hostHeld = s.hostHeld := rfl
@[simp] theorem State.putCluster_farWait (s : State) (n : Nat) (x : Cluster) : (s.putCluster n x).farWait = s.farWait := rfl
@[simp] theorem State.putCluster_objs (s : State) (n : Nat) (x : Cluster) : (s.putCluster n x).objs = s.objs := rfl
@[simp] theorem State.putCluster_mails (s : State) (n : Nat) (x : Cluster) : (s.putCluster n x).mails = s.mails := rfl
@[simp] theorem State.putCluster_gbars (s : State) (n : Nat) (x : Cluster) : (s.putCluster n x).gbars = s.gbars := rfl
@[simp] theorem State.putCluster_queues (s : State) (n : Nat) (x : Cluster) : (s.putCluster n x).queues = s.queues := rfl
@[simp] theorem State.putCluster_nextQueue (s : State) (n : Nat) (x : Cluster) : (s.putCluster n x).nextQueue = s.nextQueue := rfl
@[simp] theorem State.putCluster_nodes (s : State) (n : Nat) (x : Cluster) : (s.putCluster n x).nodes = s.nodes := rfl
@[simp] theorem State.putCluster_nextNid (s : State) (n : Nat) (x : Cluster) : (s.putCluster n x).nextNid = s.nextNid := rfl
@[simp] theorem State.putCluster_nextReady (s : State) (n : Nat) (x : Cluster) : (s.putCluster n x).nextReady = s.nextReady := rfl
@[simp] theorem State.putCluster_saved (s : State) (n : Nat) (x : Cluster) : (s.putCluster n x).saved = s.saved := rfl
@[simp] theorem State.putCluster_censuses (s : State) (n : Nat) (x : Cluster) : (s.putCluster n x).censuses = s.censuses := rfl
@[simp] theorem State.putCluster_nextCensus (s : State) (n : Nat) (x : Cluster) : (s.putCluster n x).nextCensus = s.nextCensus := rfl
@[simp] theorem State.putCluster_censusWait (s : State) (n : Nat) (x : Cluster) : (s.putCluster n x).censusWait = s.censusWait := rfl
@[simp] theorem State.putCluster_tmoves (s : State) (n : Nat) (x : Cluster) : (s.putCluster n x).tmoves = s.tmoves := rfl
@[simp] theorem State.putCluster_nextMove (s : State) (n : Nat) (x : Cluster) : (s.putCluster n x).nextMove = s.nextMove := rfl
@[simp] theorem State.putCluster_preqs (s : State) (n : Nat) (x : Cluster) : (s.putCluster n x).preqs = s.preqs := rfl
@[simp] theorem State.putCluster_peerSends (s : State) (n : Nat) (x : Cluster) : (s.putCluster n x).peerSends = s.peerSends := rfl
@[simp] theorem State.putCluster_out (s : State) (n : Nat) (x : Cluster) : (s.putCluster n x).out = s.out := rfl
@[simp] theorem State.putCluster_agenda (s : State) (n : Nat) (x : Cluster) : (s.putCluster n x).agenda = s.agenda := rfl
@[simp] theorem State.putCluster_tape (s : State) (n : Nat) (x : Cluster) : (s.putCluster n x).tape = s.tape := rfl
@[simp] theorem State.putCluster_flight (s : State) (n : Nat) (x : Cluster) : (s.putCluster n x).flight = s.flight := rfl
@[simp] theorem State.putCluster_parked (s : State) (n : Nat) (x : Cluster) : (s.putCluster n x).parked = s.parked := rfl
@[simp] theorem State.putCluster_cursor (s : State) (n : Nat) (x : Cluster) : (s.putCluster n x).cursor = s.cursor := rfl
@[simp] theorem State.putCluster_cur (s : State) (n : Nat) (x : Cluster) : (s.putCluster n x).cur = s.cur := rfl
@[simp] theorem State.putCluster_mslot (s : State) (n : Nat) (x : Cluster) : (s.putCluster n x).mslot = s.mslot := rfl
@[simp] theorem State.putCluster_snap (s : State) (n : Nat) (x : Cluster) : (s.putCluster n x).snap = s.snap := rfl
@[simp] theorem State.putCluster_ev (s : State) (n : Nat) (x : Cluster) : (s.putCluster n x).ev = s.ev := rfl
@[simp] theorem State.putCluster_verdict (s : State) (n : Nat) (x : Cluster) : (s.putCluster n x).verdict = s.verdict := rfl

/-! ### `putDie` -/

@[simp] theorem State.putDie_root (s : State) (n : Nat) (x : Die) : (s.putDie n x).root = s.root := rfl
@[simp] theorem State.putDie_mem (s : State) (n : Nat) (x : Die) : (s.putDie n x).mem = s.mem := rfl
@[simp] theorem State.putDie_badDram (s : State) (n : Nat) (x : Die) : (s.putDie n x).badDram = s.badDram := rfl
@[simp] theorem State.putDie_bringUp (s : State) (n : Nat) (x : Die) : (s.putDie n x).bringUp = s.bringUp := rfl
@[simp] theorem State.putDie_upFailed (s : State) (n : Nat) (x : Die) : (s.putDie n x).upFailed = s.upFailed := rfl
@[simp] theorem State.putDie_fields (s : State) (n : Nat) (x : Die) : (s.putDie n x).fields = s.fields := rfl
@[simp] theorem State.putDie_image (s : State) (n : Nat) (x : Die) : (s.putDie n x).image = s.image := rfl
@[simp] theorem State.putDie_controlDie (s : State) (n : Nat) (x : Die) : (s.putDie n x).controlDie = s.controlDie := rfl
@[simp] theorem State.putDie_controlFenced (s : State) (n : Nat) (x : Die) : (s.putDie n x).controlFenced = s.controlFenced := rfl
@[simp] theorem State.putDie_almanacs (s : State) (n : Nat) (x : Die) : (s.putDie n x).almanacs = s.almanacs := rfl
@[simp] theorem State.putDie_controlIncs (s : State) (n : Nat) (x : Die) : (s.putDie n x).controlIncs = s.controlIncs := rfl
@[simp] theorem State.putDie_testing (s : State) (n : Nat) (x : Die) : (s.putDie n x).testing = s.testing := rfl
@[simp] theorem State.putDie_flashLeaf (s : State) (n : Nat) (x : Die) : (s.putDie n x).flashLeaf = s.flashLeaf := rfl
@[simp] theorem State.putDie_leaf (s : State) (n : Nat) (x : Die) : (s.putDie n x).leaf = s.leaf := rfl
@[simp] theorem State.putDie_flashCert (s : State) (n : Nat) (x : Die) : (s.putDie n x).flashCert = s.flashCert := rfl
@[simp] theorem State.putDie_signing (s : State) (n : Nat) (x : Die) : (s.putDie n x).signing = s.signing := rfl
@[simp] theorem State.putDie_limits (s : State) (n : Nat) (x : Die) : (s.putDie n x).limits = s.limits := rfl
@[simp] theorem State.putDie_stacksFenced (s : State) (n : Nat) (x : Die) : (s.putDie n x).stacksFenced = s.stacksFenced := rfl
@[simp] theorem State.putDie_errLog (s : State) (n : Nat) (x : Die) : (s.putDie n x).errLog = s.errLog := rfl
@[simp] theorem State.putDie_dieTen (s : State) (n : Nat) (x : Die) : (s.putDie n x).dieTen = s.dieTen := rfl
@[simp] theorem State.putDie_frameTen (s : State) (n : Nat) (x : Die) : (s.putDie n x).frameTen = s.frameTen := rfl
@[simp] theorem State.putDie_windows (s : State) (n : Nat) (x : Die) : (s.putDie n x).windows = s.windows := rfl
@[simp] theorem State.putDie_fab (s : State) (n : Nat) (x : Die) : (s.putDie n x).fab = s.fab := rfl
@[simp] theorem State.putDie_lds (s : State) (n : Nat) (x : Die) : (s.putDie n x).lds = s.lds := rfl
@[simp] theorem State.putDie_unbinding (s : State) (n : Nat) (x : Die) : (s.putDie n x).unbinding = s.unbinding := rfl
@[simp] theorem State.putDie_hdm (s : State) (n : Nat) (x : Die) : (s.putDie n x).hdm = s.hdm := rfl
@[simp] theorem State.putDie_ldRegs (s : State) (n : Nat) (x : Die) : (s.putDie n x).ldRegs = s.ldRegs := rfl
@[simp] theorem State.putDie_linkWait (s : State) (n : Nat) (x : Die) : (s.putDie n x).linkWait = s.linkWait := rfl
@[simp] theorem State.putDie_badLanes (s : State) (n : Nat) (x : Die) : (s.putDie n x).badLanes = s.badLanes := rfl
@[simp] theorem State.putDie_gangs (s : State) (n : Nat) (x : Die) : (s.putDie n x).gangs = s.gangs := rfl
@[simp] theorem State.putDie_beats (s : State) (n : Nat) (x : Die) : (s.putDie n x).beats = s.beats := rfl
@[simp] theorem State.putDie_nextBeat (s : State) (n : Nat) (x : Die) : (s.putDie n x).nextBeat = s.nextBeat := rfl
@[simp] theorem State.putDie_deadPeers (s : State) (n : Nat) (x : Die) : (s.putDie n x).deadPeers = s.deadPeers := rfl
@[simp] theorem State.putDie_dies (s : State) (n : Nat) (x : Die) : (s.putDie n x).dies = Tab.put s.dies n x := rfl
@[simp] theorem State.putDie_clusters (s : State) (n : Nat) (x : Die) : (s.putDie n x).clusters = s.clusters := rfl
@[simp] theorem State.putDie_cores (s : State) (n : Nat) (x : Die) : (s.putDie n x).cores = s.cores := rfl
@[simp] theorem State.putDie_warps (s : State) (n : Nat) (x : Die) : (s.putDie n x).warps = s.warps := rfl
@[simp] theorem State.putDie_nextWid (s : State) (n : Nat) (x : Die) : (s.putDie n x).nextWid = s.nextWid := rfl
@[simp] theorem State.putDie_ghosts (s : State) (n : Nat) (x : Die) : (s.putDie n x).ghosts = s.ghosts := rfl
@[simp] theorem State.putDie_slices (s : State) (n : Nat) (x : Die) : (s.putDie n x).slices = s.slices := rfl
@[simp] theorem State.putDie_dir (s : State) (n : Nat) (x : Die) : (s.putDie n x).dir = s.dir := rfl
@[simp] theorem State.putDie_hostHeld (s : State) (n : Nat) (x : Die) : (s.putDie n x).hostHeld = s.hostHeld := rfl
@[simp] theorem State.putDie_farWait (s : State) (n : Nat) (x : Die) : (s.putDie n x).farWait = s.farWait := rfl
@[simp] theorem State.putDie_objs (s : State) (n : Nat) (x : Die) : (s.putDie n x).objs = s.objs := rfl
@[simp] theorem State.putDie_mails (s : State) (n : Nat) (x : Die) : (s.putDie n x).mails = s.mails := rfl
@[simp] theorem State.putDie_gbars (s : State) (n : Nat) (x : Die) : (s.putDie n x).gbars = s.gbars := rfl
@[simp] theorem State.putDie_queues (s : State) (n : Nat) (x : Die) : (s.putDie n x).queues = s.queues := rfl
@[simp] theorem State.putDie_nextQueue (s : State) (n : Nat) (x : Die) : (s.putDie n x).nextQueue = s.nextQueue := rfl
@[simp] theorem State.putDie_nodes (s : State) (n : Nat) (x : Die) : (s.putDie n x).nodes = s.nodes := rfl
@[simp] theorem State.putDie_nextNid (s : State) (n : Nat) (x : Die) : (s.putDie n x).nextNid = s.nextNid := rfl
@[simp] theorem State.putDie_nextReady (s : State) (n : Nat) (x : Die) : (s.putDie n x).nextReady = s.nextReady := rfl
@[simp] theorem State.putDie_saved (s : State) (n : Nat) (x : Die) : (s.putDie n x).saved = s.saved := rfl
@[simp] theorem State.putDie_censuses (s : State) (n : Nat) (x : Die) : (s.putDie n x).censuses = s.censuses := rfl
@[simp] theorem State.putDie_nextCensus (s : State) (n : Nat) (x : Die) : (s.putDie n x).nextCensus = s.nextCensus := rfl
@[simp] theorem State.putDie_censusWait (s : State) (n : Nat) (x : Die) : (s.putDie n x).censusWait = s.censusWait := rfl
@[simp] theorem State.putDie_tmoves (s : State) (n : Nat) (x : Die) : (s.putDie n x).tmoves = s.tmoves := rfl
@[simp] theorem State.putDie_nextMove (s : State) (n : Nat) (x : Die) : (s.putDie n x).nextMove = s.nextMove := rfl
@[simp] theorem State.putDie_preqs (s : State) (n : Nat) (x : Die) : (s.putDie n x).preqs = s.preqs := rfl
@[simp] theorem State.putDie_peerSends (s : State) (n : Nat) (x : Die) : (s.putDie n x).peerSends = s.peerSends := rfl
@[simp] theorem State.putDie_out (s : State) (n : Nat) (x : Die) : (s.putDie n x).out = s.out := rfl
@[simp] theorem State.putDie_agenda (s : State) (n : Nat) (x : Die) : (s.putDie n x).agenda = s.agenda := rfl
@[simp] theorem State.putDie_tape (s : State) (n : Nat) (x : Die) : (s.putDie n x).tape = s.tape := rfl
@[simp] theorem State.putDie_flight (s : State) (n : Nat) (x : Die) : (s.putDie n x).flight = s.flight := rfl
@[simp] theorem State.putDie_parked (s : State) (n : Nat) (x : Die) : (s.putDie n x).parked = s.parked := rfl
@[simp] theorem State.putDie_cursor (s : State) (n : Nat) (x : Die) : (s.putDie n x).cursor = s.cursor := rfl
@[simp] theorem State.putDie_cur (s : State) (n : Nat) (x : Die) : (s.putDie n x).cur = s.cur := rfl
@[simp] theorem State.putDie_mslot (s : State) (n : Nat) (x : Die) : (s.putDie n x).mslot = s.mslot := rfl
@[simp] theorem State.putDie_snap (s : State) (n : Nat) (x : Die) : (s.putDie n x).snap = s.snap := rfl
@[simp] theorem State.putDie_ev (s : State) (n : Nat) (x : Die) : (s.putDie n x).ev = s.ev := rfl
@[simp] theorem State.putDie_verdict (s : State) (n : Nat) (x : Die) : (s.putDie n x).verdict = s.verdict := rfl

/-! ### `putSlice` -/

@[simp] theorem State.putSlice_root (s : State) (n : Nat) (x : Slice) : (s.putSlice n x).root = s.root := rfl
@[simp] theorem State.putSlice_mem (s : State) (n : Nat) (x : Slice) : (s.putSlice n x).mem = s.mem := rfl
@[simp] theorem State.putSlice_badDram (s : State) (n : Nat) (x : Slice) : (s.putSlice n x).badDram = s.badDram := rfl
@[simp] theorem State.putSlice_bringUp (s : State) (n : Nat) (x : Slice) : (s.putSlice n x).bringUp = s.bringUp := rfl
@[simp] theorem State.putSlice_upFailed (s : State) (n : Nat) (x : Slice) : (s.putSlice n x).upFailed = s.upFailed := rfl
@[simp] theorem State.putSlice_fields (s : State) (n : Nat) (x : Slice) : (s.putSlice n x).fields = s.fields := rfl
@[simp] theorem State.putSlice_image (s : State) (n : Nat) (x : Slice) : (s.putSlice n x).image = s.image := rfl
@[simp] theorem State.putSlice_controlDie (s : State) (n : Nat) (x : Slice) : (s.putSlice n x).controlDie = s.controlDie := rfl
@[simp] theorem State.putSlice_controlFenced (s : State) (n : Nat) (x : Slice) : (s.putSlice n x).controlFenced = s.controlFenced := rfl
@[simp] theorem State.putSlice_almanacs (s : State) (n : Nat) (x : Slice) : (s.putSlice n x).almanacs = s.almanacs := rfl
@[simp] theorem State.putSlice_controlIncs (s : State) (n : Nat) (x : Slice) : (s.putSlice n x).controlIncs = s.controlIncs := rfl
@[simp] theorem State.putSlice_testing (s : State) (n : Nat) (x : Slice) : (s.putSlice n x).testing = s.testing := rfl
@[simp] theorem State.putSlice_flashLeaf (s : State) (n : Nat) (x : Slice) : (s.putSlice n x).flashLeaf = s.flashLeaf := rfl
@[simp] theorem State.putSlice_leaf (s : State) (n : Nat) (x : Slice) : (s.putSlice n x).leaf = s.leaf := rfl
@[simp] theorem State.putSlice_flashCert (s : State) (n : Nat) (x : Slice) : (s.putSlice n x).flashCert = s.flashCert := rfl
@[simp] theorem State.putSlice_signing (s : State) (n : Nat) (x : Slice) : (s.putSlice n x).signing = s.signing := rfl
@[simp] theorem State.putSlice_limits (s : State) (n : Nat) (x : Slice) : (s.putSlice n x).limits = s.limits := rfl
@[simp] theorem State.putSlice_stacksFenced (s : State) (n : Nat) (x : Slice) : (s.putSlice n x).stacksFenced = s.stacksFenced := rfl
@[simp] theorem State.putSlice_errLog (s : State) (n : Nat) (x : Slice) : (s.putSlice n x).errLog = s.errLog := rfl
@[simp] theorem State.putSlice_dieTen (s : State) (n : Nat) (x : Slice) : (s.putSlice n x).dieTen = s.dieTen := rfl
@[simp] theorem State.putSlice_frameTen (s : State) (n : Nat) (x : Slice) : (s.putSlice n x).frameTen = s.frameTen := rfl
@[simp] theorem State.putSlice_windows (s : State) (n : Nat) (x : Slice) : (s.putSlice n x).windows = s.windows := rfl
@[simp] theorem State.putSlice_fab (s : State) (n : Nat) (x : Slice) : (s.putSlice n x).fab = s.fab := rfl
@[simp] theorem State.putSlice_lds (s : State) (n : Nat) (x : Slice) : (s.putSlice n x).lds = s.lds := rfl
@[simp] theorem State.putSlice_unbinding (s : State) (n : Nat) (x : Slice) : (s.putSlice n x).unbinding = s.unbinding := rfl
@[simp] theorem State.putSlice_hdm (s : State) (n : Nat) (x : Slice) : (s.putSlice n x).hdm = s.hdm := rfl
@[simp] theorem State.putSlice_ldRegs (s : State) (n : Nat) (x : Slice) : (s.putSlice n x).ldRegs = s.ldRegs := rfl
@[simp] theorem State.putSlice_linkWait (s : State) (n : Nat) (x : Slice) : (s.putSlice n x).linkWait = s.linkWait := rfl
@[simp] theorem State.putSlice_badLanes (s : State) (n : Nat) (x : Slice) : (s.putSlice n x).badLanes = s.badLanes := rfl
@[simp] theorem State.putSlice_gangs (s : State) (n : Nat) (x : Slice) : (s.putSlice n x).gangs = s.gangs := rfl
@[simp] theorem State.putSlice_beats (s : State) (n : Nat) (x : Slice) : (s.putSlice n x).beats = s.beats := rfl
@[simp] theorem State.putSlice_nextBeat (s : State) (n : Nat) (x : Slice) : (s.putSlice n x).nextBeat = s.nextBeat := rfl
@[simp] theorem State.putSlice_deadPeers (s : State) (n : Nat) (x : Slice) : (s.putSlice n x).deadPeers = s.deadPeers := rfl
@[simp] theorem State.putSlice_dies (s : State) (n : Nat) (x : Slice) : (s.putSlice n x).dies = s.dies := rfl
@[simp] theorem State.putSlice_clusters (s : State) (n : Nat) (x : Slice) : (s.putSlice n x).clusters = s.clusters := rfl
@[simp] theorem State.putSlice_cores (s : State) (n : Nat) (x : Slice) : (s.putSlice n x).cores = s.cores := rfl
@[simp] theorem State.putSlice_warps (s : State) (n : Nat) (x : Slice) : (s.putSlice n x).warps = s.warps := rfl
@[simp] theorem State.putSlice_nextWid (s : State) (n : Nat) (x : Slice) : (s.putSlice n x).nextWid = s.nextWid := rfl
@[simp] theorem State.putSlice_ghosts (s : State) (n : Nat) (x : Slice) : (s.putSlice n x).ghosts = s.ghosts := rfl
@[simp] theorem State.putSlice_slices (s : State) (n : Nat) (x : Slice) : (s.putSlice n x).slices = Tab.put s.slices n x := rfl
@[simp] theorem State.putSlice_dir (s : State) (n : Nat) (x : Slice) : (s.putSlice n x).dir = s.dir := rfl
@[simp] theorem State.putSlice_hostHeld (s : State) (n : Nat) (x : Slice) : (s.putSlice n x).hostHeld = s.hostHeld := rfl
@[simp] theorem State.putSlice_farWait (s : State) (n : Nat) (x : Slice) : (s.putSlice n x).farWait = s.farWait := rfl
@[simp] theorem State.putSlice_objs (s : State) (n : Nat) (x : Slice) : (s.putSlice n x).objs = s.objs := rfl
@[simp] theorem State.putSlice_mails (s : State) (n : Nat) (x : Slice) : (s.putSlice n x).mails = s.mails := rfl
@[simp] theorem State.putSlice_gbars (s : State) (n : Nat) (x : Slice) : (s.putSlice n x).gbars = s.gbars := rfl
@[simp] theorem State.putSlice_queues (s : State) (n : Nat) (x : Slice) : (s.putSlice n x).queues = s.queues := rfl
@[simp] theorem State.putSlice_nextQueue (s : State) (n : Nat) (x : Slice) : (s.putSlice n x).nextQueue = s.nextQueue := rfl
@[simp] theorem State.putSlice_nodes (s : State) (n : Nat) (x : Slice) : (s.putSlice n x).nodes = s.nodes := rfl
@[simp] theorem State.putSlice_nextNid (s : State) (n : Nat) (x : Slice) : (s.putSlice n x).nextNid = s.nextNid := rfl
@[simp] theorem State.putSlice_nextReady (s : State) (n : Nat) (x : Slice) : (s.putSlice n x).nextReady = s.nextReady := rfl
@[simp] theorem State.putSlice_saved (s : State) (n : Nat) (x : Slice) : (s.putSlice n x).saved = s.saved := rfl
@[simp] theorem State.putSlice_censuses (s : State) (n : Nat) (x : Slice) : (s.putSlice n x).censuses = s.censuses := rfl
@[simp] theorem State.putSlice_nextCensus (s : State) (n : Nat) (x : Slice) : (s.putSlice n x).nextCensus = s.nextCensus := rfl
@[simp] theorem State.putSlice_censusWait (s : State) (n : Nat) (x : Slice) : (s.putSlice n x).censusWait = s.censusWait := rfl
@[simp] theorem State.putSlice_tmoves (s : State) (n : Nat) (x : Slice) : (s.putSlice n x).tmoves = s.tmoves := rfl
@[simp] theorem State.putSlice_nextMove (s : State) (n : Nat) (x : Slice) : (s.putSlice n x).nextMove = s.nextMove := rfl
@[simp] theorem State.putSlice_preqs (s : State) (n : Nat) (x : Slice) : (s.putSlice n x).preqs = s.preqs := rfl
@[simp] theorem State.putSlice_peerSends (s : State) (n : Nat) (x : Slice) : (s.putSlice n x).peerSends = s.peerSends := rfl
@[simp] theorem State.putSlice_out (s : State) (n : Nat) (x : Slice) : (s.putSlice n x).out = s.out := rfl
@[simp] theorem State.putSlice_agenda (s : State) (n : Nat) (x : Slice) : (s.putSlice n x).agenda = s.agenda := rfl
@[simp] theorem State.putSlice_tape (s : State) (n : Nat) (x : Slice) : (s.putSlice n x).tape = s.tape := rfl
@[simp] theorem State.putSlice_flight (s : State) (n : Nat) (x : Slice) : (s.putSlice n x).flight = s.flight := rfl
@[simp] theorem State.putSlice_parked (s : State) (n : Nat) (x : Slice) : (s.putSlice n x).parked = s.parked := rfl
@[simp] theorem State.putSlice_cursor (s : State) (n : Nat) (x : Slice) : (s.putSlice n x).cursor = s.cursor := rfl
@[simp] theorem State.putSlice_cur (s : State) (n : Nat) (x : Slice) : (s.putSlice n x).cur = s.cur := rfl
@[simp] theorem State.putSlice_mslot (s : State) (n : Nat) (x : Slice) : (s.putSlice n x).mslot = s.mslot := rfl
@[simp] theorem State.putSlice_snap (s : State) (n : Nat) (x : Slice) : (s.putSlice n x).snap = s.snap := rfl
@[simp] theorem State.putSlice_ev (s : State) (n : Nat) (x : Slice) : (s.putSlice n x).ev = s.ev := rfl
@[simp] theorem State.putSlice_verdict (s : State) (n : Nat) (x : Slice) : (s.putSlice n x).verdict = s.verdict := rfl

/-! ### `putDir` -/

@[simp] theorem State.putDir_root (s : State) (n : Nat) (x : DirEntry) : (s.putDir n x).root = s.root := rfl
@[simp] theorem State.putDir_mem (s : State) (n : Nat) (x : DirEntry) : (s.putDir n x).mem = s.mem := rfl
@[simp] theorem State.putDir_badDram (s : State) (n : Nat) (x : DirEntry) : (s.putDir n x).badDram = s.badDram := rfl
@[simp] theorem State.putDir_bringUp (s : State) (n : Nat) (x : DirEntry) : (s.putDir n x).bringUp = s.bringUp := rfl
@[simp] theorem State.putDir_upFailed (s : State) (n : Nat) (x : DirEntry) : (s.putDir n x).upFailed = s.upFailed := rfl
@[simp] theorem State.putDir_fields (s : State) (n : Nat) (x : DirEntry) : (s.putDir n x).fields = s.fields := rfl
@[simp] theorem State.putDir_image (s : State) (n : Nat) (x : DirEntry) : (s.putDir n x).image = s.image := rfl
@[simp] theorem State.putDir_controlDie (s : State) (n : Nat) (x : DirEntry) : (s.putDir n x).controlDie = s.controlDie := rfl
@[simp] theorem State.putDir_controlFenced (s : State) (n : Nat) (x : DirEntry) : (s.putDir n x).controlFenced = s.controlFenced := rfl
@[simp] theorem State.putDir_almanacs (s : State) (n : Nat) (x : DirEntry) : (s.putDir n x).almanacs = s.almanacs := rfl
@[simp] theorem State.putDir_controlIncs (s : State) (n : Nat) (x : DirEntry) : (s.putDir n x).controlIncs = s.controlIncs := rfl
@[simp] theorem State.putDir_testing (s : State) (n : Nat) (x : DirEntry) : (s.putDir n x).testing = s.testing := rfl
@[simp] theorem State.putDir_flashLeaf (s : State) (n : Nat) (x : DirEntry) : (s.putDir n x).flashLeaf = s.flashLeaf := rfl
@[simp] theorem State.putDir_leaf (s : State) (n : Nat) (x : DirEntry) : (s.putDir n x).leaf = s.leaf := rfl
@[simp] theorem State.putDir_flashCert (s : State) (n : Nat) (x : DirEntry) : (s.putDir n x).flashCert = s.flashCert := rfl
@[simp] theorem State.putDir_signing (s : State) (n : Nat) (x : DirEntry) : (s.putDir n x).signing = s.signing := rfl
@[simp] theorem State.putDir_limits (s : State) (n : Nat) (x : DirEntry) : (s.putDir n x).limits = s.limits := rfl
@[simp] theorem State.putDir_stacksFenced (s : State) (n : Nat) (x : DirEntry) : (s.putDir n x).stacksFenced = s.stacksFenced := rfl
@[simp] theorem State.putDir_errLog (s : State) (n : Nat) (x : DirEntry) : (s.putDir n x).errLog = s.errLog := rfl
@[simp] theorem State.putDir_dieTen (s : State) (n : Nat) (x : DirEntry) : (s.putDir n x).dieTen = s.dieTen := rfl
@[simp] theorem State.putDir_frameTen (s : State) (n : Nat) (x : DirEntry) : (s.putDir n x).frameTen = s.frameTen := rfl
@[simp] theorem State.putDir_windows (s : State) (n : Nat) (x : DirEntry) : (s.putDir n x).windows = s.windows := rfl
@[simp] theorem State.putDir_fab (s : State) (n : Nat) (x : DirEntry) : (s.putDir n x).fab = s.fab := rfl
@[simp] theorem State.putDir_lds (s : State) (n : Nat) (x : DirEntry) : (s.putDir n x).lds = s.lds := rfl
@[simp] theorem State.putDir_unbinding (s : State) (n : Nat) (x : DirEntry) : (s.putDir n x).unbinding = s.unbinding := rfl
@[simp] theorem State.putDir_hdm (s : State) (n : Nat) (x : DirEntry) : (s.putDir n x).hdm = s.hdm := rfl
@[simp] theorem State.putDir_ldRegs (s : State) (n : Nat) (x : DirEntry) : (s.putDir n x).ldRegs = s.ldRegs := rfl
@[simp] theorem State.putDir_linkWait (s : State) (n : Nat) (x : DirEntry) : (s.putDir n x).linkWait = s.linkWait := rfl
@[simp] theorem State.putDir_badLanes (s : State) (n : Nat) (x : DirEntry) : (s.putDir n x).badLanes = s.badLanes := rfl
@[simp] theorem State.putDir_gangs (s : State) (n : Nat) (x : DirEntry) : (s.putDir n x).gangs = s.gangs := rfl
@[simp] theorem State.putDir_beats (s : State) (n : Nat) (x : DirEntry) : (s.putDir n x).beats = s.beats := rfl
@[simp] theorem State.putDir_nextBeat (s : State) (n : Nat) (x : DirEntry) : (s.putDir n x).nextBeat = s.nextBeat := rfl
@[simp] theorem State.putDir_deadPeers (s : State) (n : Nat) (x : DirEntry) : (s.putDir n x).deadPeers = s.deadPeers := rfl
@[simp] theorem State.putDir_dies (s : State) (n : Nat) (x : DirEntry) : (s.putDir n x).dies = s.dies := rfl
@[simp] theorem State.putDir_clusters (s : State) (n : Nat) (x : DirEntry) : (s.putDir n x).clusters = s.clusters := rfl
@[simp] theorem State.putDir_cores (s : State) (n : Nat) (x : DirEntry) : (s.putDir n x).cores = s.cores := rfl
@[simp] theorem State.putDir_warps (s : State) (n : Nat) (x : DirEntry) : (s.putDir n x).warps = s.warps := rfl
@[simp] theorem State.putDir_nextWid (s : State) (n : Nat) (x : DirEntry) : (s.putDir n x).nextWid = s.nextWid := rfl
@[simp] theorem State.putDir_ghosts (s : State) (n : Nat) (x : DirEntry) : (s.putDir n x).ghosts = s.ghosts := rfl
@[simp] theorem State.putDir_slices (s : State) (n : Nat) (x : DirEntry) : (s.putDir n x).slices = s.slices := rfl
@[simp] theorem State.putDir_dir (s : State) (n : Nat) (x : DirEntry) : (s.putDir n x).dir = Tab.put s.dir n x := rfl
@[simp] theorem State.putDir_hostHeld (s : State) (n : Nat) (x : DirEntry) : (s.putDir n x).hostHeld = s.hostHeld := rfl
@[simp] theorem State.putDir_farWait (s : State) (n : Nat) (x : DirEntry) : (s.putDir n x).farWait = s.farWait := rfl
@[simp] theorem State.putDir_objs (s : State) (n : Nat) (x : DirEntry) : (s.putDir n x).objs = s.objs := rfl
@[simp] theorem State.putDir_mails (s : State) (n : Nat) (x : DirEntry) : (s.putDir n x).mails = s.mails := rfl
@[simp] theorem State.putDir_gbars (s : State) (n : Nat) (x : DirEntry) : (s.putDir n x).gbars = s.gbars := rfl
@[simp] theorem State.putDir_queues (s : State) (n : Nat) (x : DirEntry) : (s.putDir n x).queues = s.queues := rfl
@[simp] theorem State.putDir_nextQueue (s : State) (n : Nat) (x : DirEntry) : (s.putDir n x).nextQueue = s.nextQueue := rfl
@[simp] theorem State.putDir_nodes (s : State) (n : Nat) (x : DirEntry) : (s.putDir n x).nodes = s.nodes := rfl
@[simp] theorem State.putDir_nextNid (s : State) (n : Nat) (x : DirEntry) : (s.putDir n x).nextNid = s.nextNid := rfl
@[simp] theorem State.putDir_nextReady (s : State) (n : Nat) (x : DirEntry) : (s.putDir n x).nextReady = s.nextReady := rfl
@[simp] theorem State.putDir_saved (s : State) (n : Nat) (x : DirEntry) : (s.putDir n x).saved = s.saved := rfl
@[simp] theorem State.putDir_censuses (s : State) (n : Nat) (x : DirEntry) : (s.putDir n x).censuses = s.censuses := rfl
@[simp] theorem State.putDir_nextCensus (s : State) (n : Nat) (x : DirEntry) : (s.putDir n x).nextCensus = s.nextCensus := rfl
@[simp] theorem State.putDir_censusWait (s : State) (n : Nat) (x : DirEntry) : (s.putDir n x).censusWait = s.censusWait := rfl
@[simp] theorem State.putDir_tmoves (s : State) (n : Nat) (x : DirEntry) : (s.putDir n x).tmoves = s.tmoves := rfl
@[simp] theorem State.putDir_nextMove (s : State) (n : Nat) (x : DirEntry) : (s.putDir n x).nextMove = s.nextMove := rfl
@[simp] theorem State.putDir_preqs (s : State) (n : Nat) (x : DirEntry) : (s.putDir n x).preqs = s.preqs := rfl
@[simp] theorem State.putDir_peerSends (s : State) (n : Nat) (x : DirEntry) : (s.putDir n x).peerSends = s.peerSends := rfl
@[simp] theorem State.putDir_out (s : State) (n : Nat) (x : DirEntry) : (s.putDir n x).out = s.out := rfl
@[simp] theorem State.putDir_agenda (s : State) (n : Nat) (x : DirEntry) : (s.putDir n x).agenda = s.agenda := rfl
@[simp] theorem State.putDir_tape (s : State) (n : Nat) (x : DirEntry) : (s.putDir n x).tape = s.tape := rfl
@[simp] theorem State.putDir_flight (s : State) (n : Nat) (x : DirEntry) : (s.putDir n x).flight = s.flight := rfl
@[simp] theorem State.putDir_parked (s : State) (n : Nat) (x : DirEntry) : (s.putDir n x).parked = s.parked := rfl
@[simp] theorem State.putDir_cursor (s : State) (n : Nat) (x : DirEntry) : (s.putDir n x).cursor = s.cursor := rfl
@[simp] theorem State.putDir_cur (s : State) (n : Nat) (x : DirEntry) : (s.putDir n x).cur = s.cur := rfl
@[simp] theorem State.putDir_mslot (s : State) (n : Nat) (x : DirEntry) : (s.putDir n x).mslot = s.mslot := rfl
@[simp] theorem State.putDir_snap (s : State) (n : Nat) (x : DirEntry) : (s.putDir n x).snap = s.snap := rfl
@[simp] theorem State.putDir_ev (s : State) (n : Nat) (x : DirEntry) : (s.putDir n x).ev = s.ev := rfl
@[simp] theorem State.putDir_verdict (s : State) (n : Nat) (x : DirEntry) : (s.putDir n x).verdict = s.verdict := rfl

/-! ### `putObj` -/

@[simp] theorem State.putObj_root (s : State) (n : Nat) (x : Obj) : (s.putObj n x).root = s.root := rfl
@[simp] theorem State.putObj_mem (s : State) (n : Nat) (x : Obj) : (s.putObj n x).mem = s.mem := rfl
@[simp] theorem State.putObj_badDram (s : State) (n : Nat) (x : Obj) : (s.putObj n x).badDram = s.badDram := rfl
@[simp] theorem State.putObj_bringUp (s : State) (n : Nat) (x : Obj) : (s.putObj n x).bringUp = s.bringUp := rfl
@[simp] theorem State.putObj_upFailed (s : State) (n : Nat) (x : Obj) : (s.putObj n x).upFailed = s.upFailed := rfl
@[simp] theorem State.putObj_fields (s : State) (n : Nat) (x : Obj) : (s.putObj n x).fields = s.fields := rfl
@[simp] theorem State.putObj_image (s : State) (n : Nat) (x : Obj) : (s.putObj n x).image = s.image := rfl
@[simp] theorem State.putObj_controlDie (s : State) (n : Nat) (x : Obj) : (s.putObj n x).controlDie = s.controlDie := rfl
@[simp] theorem State.putObj_controlFenced (s : State) (n : Nat) (x : Obj) : (s.putObj n x).controlFenced = s.controlFenced := rfl
@[simp] theorem State.putObj_almanacs (s : State) (n : Nat) (x : Obj) : (s.putObj n x).almanacs = s.almanacs := rfl
@[simp] theorem State.putObj_controlIncs (s : State) (n : Nat) (x : Obj) : (s.putObj n x).controlIncs = s.controlIncs := rfl
@[simp] theorem State.putObj_testing (s : State) (n : Nat) (x : Obj) : (s.putObj n x).testing = s.testing := rfl
@[simp] theorem State.putObj_flashLeaf (s : State) (n : Nat) (x : Obj) : (s.putObj n x).flashLeaf = s.flashLeaf := rfl
@[simp] theorem State.putObj_leaf (s : State) (n : Nat) (x : Obj) : (s.putObj n x).leaf = s.leaf := rfl
@[simp] theorem State.putObj_flashCert (s : State) (n : Nat) (x : Obj) : (s.putObj n x).flashCert = s.flashCert := rfl
@[simp] theorem State.putObj_signing (s : State) (n : Nat) (x : Obj) : (s.putObj n x).signing = s.signing := rfl
@[simp] theorem State.putObj_limits (s : State) (n : Nat) (x : Obj) : (s.putObj n x).limits = s.limits := rfl
@[simp] theorem State.putObj_stacksFenced (s : State) (n : Nat) (x : Obj) : (s.putObj n x).stacksFenced = s.stacksFenced := rfl
@[simp] theorem State.putObj_errLog (s : State) (n : Nat) (x : Obj) : (s.putObj n x).errLog = s.errLog := rfl
@[simp] theorem State.putObj_dieTen (s : State) (n : Nat) (x : Obj) : (s.putObj n x).dieTen = s.dieTen := rfl
@[simp] theorem State.putObj_frameTen (s : State) (n : Nat) (x : Obj) : (s.putObj n x).frameTen = s.frameTen := rfl
@[simp] theorem State.putObj_windows (s : State) (n : Nat) (x : Obj) : (s.putObj n x).windows = s.windows := rfl
@[simp] theorem State.putObj_fab (s : State) (n : Nat) (x : Obj) : (s.putObj n x).fab = s.fab := rfl
@[simp] theorem State.putObj_lds (s : State) (n : Nat) (x : Obj) : (s.putObj n x).lds = s.lds := rfl
@[simp] theorem State.putObj_unbinding (s : State) (n : Nat) (x : Obj) : (s.putObj n x).unbinding = s.unbinding := rfl
@[simp] theorem State.putObj_hdm (s : State) (n : Nat) (x : Obj) : (s.putObj n x).hdm = s.hdm := rfl
@[simp] theorem State.putObj_ldRegs (s : State) (n : Nat) (x : Obj) : (s.putObj n x).ldRegs = s.ldRegs := rfl
@[simp] theorem State.putObj_linkWait (s : State) (n : Nat) (x : Obj) : (s.putObj n x).linkWait = s.linkWait := rfl
@[simp] theorem State.putObj_badLanes (s : State) (n : Nat) (x : Obj) : (s.putObj n x).badLanes = s.badLanes := rfl
@[simp] theorem State.putObj_gangs (s : State) (n : Nat) (x : Obj) : (s.putObj n x).gangs = s.gangs := rfl
@[simp] theorem State.putObj_beats (s : State) (n : Nat) (x : Obj) : (s.putObj n x).beats = s.beats := rfl
@[simp] theorem State.putObj_nextBeat (s : State) (n : Nat) (x : Obj) : (s.putObj n x).nextBeat = s.nextBeat := rfl
@[simp] theorem State.putObj_deadPeers (s : State) (n : Nat) (x : Obj) : (s.putObj n x).deadPeers = s.deadPeers := rfl
@[simp] theorem State.putObj_dies (s : State) (n : Nat) (x : Obj) : (s.putObj n x).dies = s.dies := rfl
@[simp] theorem State.putObj_clusters (s : State) (n : Nat) (x : Obj) : (s.putObj n x).clusters = s.clusters := rfl
@[simp] theorem State.putObj_cores (s : State) (n : Nat) (x : Obj) : (s.putObj n x).cores = s.cores := rfl
@[simp] theorem State.putObj_warps (s : State) (n : Nat) (x : Obj) : (s.putObj n x).warps = s.warps := rfl
@[simp] theorem State.putObj_nextWid (s : State) (n : Nat) (x : Obj) : (s.putObj n x).nextWid = s.nextWid := rfl
@[simp] theorem State.putObj_ghosts (s : State) (n : Nat) (x : Obj) : (s.putObj n x).ghosts = s.ghosts := rfl
@[simp] theorem State.putObj_slices (s : State) (n : Nat) (x : Obj) : (s.putObj n x).slices = s.slices := rfl
@[simp] theorem State.putObj_dir (s : State) (n : Nat) (x : Obj) : (s.putObj n x).dir = s.dir := rfl
@[simp] theorem State.putObj_hostHeld (s : State) (n : Nat) (x : Obj) : (s.putObj n x).hostHeld = s.hostHeld := rfl
@[simp] theorem State.putObj_farWait (s : State) (n : Nat) (x : Obj) : (s.putObj n x).farWait = s.farWait := rfl
@[simp] theorem State.putObj_objs (s : State) (n : Nat) (x : Obj) : (s.putObj n x).objs = Tab.put s.objs n x := rfl
@[simp] theorem State.putObj_mails (s : State) (n : Nat) (x : Obj) : (s.putObj n x).mails = s.mails := rfl
@[simp] theorem State.putObj_gbars (s : State) (n : Nat) (x : Obj) : (s.putObj n x).gbars = s.gbars := rfl
@[simp] theorem State.putObj_queues (s : State) (n : Nat) (x : Obj) : (s.putObj n x).queues = s.queues := rfl
@[simp] theorem State.putObj_nextQueue (s : State) (n : Nat) (x : Obj) : (s.putObj n x).nextQueue = s.nextQueue := rfl
@[simp] theorem State.putObj_nodes (s : State) (n : Nat) (x : Obj) : (s.putObj n x).nodes = s.nodes := rfl
@[simp] theorem State.putObj_nextNid (s : State) (n : Nat) (x : Obj) : (s.putObj n x).nextNid = s.nextNid := rfl
@[simp] theorem State.putObj_nextReady (s : State) (n : Nat) (x : Obj) : (s.putObj n x).nextReady = s.nextReady := rfl
@[simp] theorem State.putObj_saved (s : State) (n : Nat) (x : Obj) : (s.putObj n x).saved = s.saved := rfl
@[simp] theorem State.putObj_censuses (s : State) (n : Nat) (x : Obj) : (s.putObj n x).censuses = s.censuses := rfl
@[simp] theorem State.putObj_nextCensus (s : State) (n : Nat) (x : Obj) : (s.putObj n x).nextCensus = s.nextCensus := rfl
@[simp] theorem State.putObj_censusWait (s : State) (n : Nat) (x : Obj) : (s.putObj n x).censusWait = s.censusWait := rfl
@[simp] theorem State.putObj_tmoves (s : State) (n : Nat) (x : Obj) : (s.putObj n x).tmoves = s.tmoves := rfl
@[simp] theorem State.putObj_nextMove (s : State) (n : Nat) (x : Obj) : (s.putObj n x).nextMove = s.nextMove := rfl
@[simp] theorem State.putObj_preqs (s : State) (n : Nat) (x : Obj) : (s.putObj n x).preqs = s.preqs := rfl
@[simp] theorem State.putObj_peerSends (s : State) (n : Nat) (x : Obj) : (s.putObj n x).peerSends = s.peerSends := rfl
@[simp] theorem State.putObj_out (s : State) (n : Nat) (x : Obj) : (s.putObj n x).out = s.out := rfl
@[simp] theorem State.putObj_agenda (s : State) (n : Nat) (x : Obj) : (s.putObj n x).agenda = s.agenda := rfl
@[simp] theorem State.putObj_tape (s : State) (n : Nat) (x : Obj) : (s.putObj n x).tape = s.tape := rfl
@[simp] theorem State.putObj_flight (s : State) (n : Nat) (x : Obj) : (s.putObj n x).flight = s.flight := rfl
@[simp] theorem State.putObj_parked (s : State) (n : Nat) (x : Obj) : (s.putObj n x).parked = s.parked := rfl
@[simp] theorem State.putObj_cursor (s : State) (n : Nat) (x : Obj) : (s.putObj n x).cursor = s.cursor := rfl
@[simp] theorem State.putObj_cur (s : State) (n : Nat) (x : Obj) : (s.putObj n x).cur = s.cur := rfl
@[simp] theorem State.putObj_mslot (s : State) (n : Nat) (x : Obj) : (s.putObj n x).mslot = s.mslot := rfl
@[simp] theorem State.putObj_snap (s : State) (n : Nat) (x : Obj) : (s.putObj n x).snap = s.snap := rfl
@[simp] theorem State.putObj_ev (s : State) (n : Nat) (x : Obj) : (s.putObj n x).ev = s.ev := rfl
@[simp] theorem State.putObj_verdict (s : State) (n : Nat) (x : Obj) : (s.putObj n x).verdict = s.verdict := rfl

/-! ### `putQueue` -/

@[simp] theorem State.putQueue_root (s : State) (n : Nat) (x : Queue) : (s.putQueue n x).root = s.root := rfl
@[simp] theorem State.putQueue_mem (s : State) (n : Nat) (x : Queue) : (s.putQueue n x).mem = s.mem := rfl
@[simp] theorem State.putQueue_badDram (s : State) (n : Nat) (x : Queue) : (s.putQueue n x).badDram = s.badDram := rfl
@[simp] theorem State.putQueue_bringUp (s : State) (n : Nat) (x : Queue) : (s.putQueue n x).bringUp = s.bringUp := rfl
@[simp] theorem State.putQueue_upFailed (s : State) (n : Nat) (x : Queue) : (s.putQueue n x).upFailed = s.upFailed := rfl
@[simp] theorem State.putQueue_fields (s : State) (n : Nat) (x : Queue) : (s.putQueue n x).fields = s.fields := rfl
@[simp] theorem State.putQueue_image (s : State) (n : Nat) (x : Queue) : (s.putQueue n x).image = s.image := rfl
@[simp] theorem State.putQueue_controlDie (s : State) (n : Nat) (x : Queue) : (s.putQueue n x).controlDie = s.controlDie := rfl
@[simp] theorem State.putQueue_controlFenced (s : State) (n : Nat) (x : Queue) : (s.putQueue n x).controlFenced = s.controlFenced := rfl
@[simp] theorem State.putQueue_almanacs (s : State) (n : Nat) (x : Queue) : (s.putQueue n x).almanacs = s.almanacs := rfl
@[simp] theorem State.putQueue_controlIncs (s : State) (n : Nat) (x : Queue) : (s.putQueue n x).controlIncs = s.controlIncs := rfl
@[simp] theorem State.putQueue_testing (s : State) (n : Nat) (x : Queue) : (s.putQueue n x).testing = s.testing := rfl
@[simp] theorem State.putQueue_flashLeaf (s : State) (n : Nat) (x : Queue) : (s.putQueue n x).flashLeaf = s.flashLeaf := rfl
@[simp] theorem State.putQueue_leaf (s : State) (n : Nat) (x : Queue) : (s.putQueue n x).leaf = s.leaf := rfl
@[simp] theorem State.putQueue_flashCert (s : State) (n : Nat) (x : Queue) : (s.putQueue n x).flashCert = s.flashCert := rfl
@[simp] theorem State.putQueue_signing (s : State) (n : Nat) (x : Queue) : (s.putQueue n x).signing = s.signing := rfl
@[simp] theorem State.putQueue_limits (s : State) (n : Nat) (x : Queue) : (s.putQueue n x).limits = s.limits := rfl
@[simp] theorem State.putQueue_stacksFenced (s : State) (n : Nat) (x : Queue) : (s.putQueue n x).stacksFenced = s.stacksFenced := rfl
@[simp] theorem State.putQueue_errLog (s : State) (n : Nat) (x : Queue) : (s.putQueue n x).errLog = s.errLog := rfl
@[simp] theorem State.putQueue_dieTen (s : State) (n : Nat) (x : Queue) : (s.putQueue n x).dieTen = s.dieTen := rfl
@[simp] theorem State.putQueue_frameTen (s : State) (n : Nat) (x : Queue) : (s.putQueue n x).frameTen = s.frameTen := rfl
@[simp] theorem State.putQueue_windows (s : State) (n : Nat) (x : Queue) : (s.putQueue n x).windows = s.windows := rfl
@[simp] theorem State.putQueue_fab (s : State) (n : Nat) (x : Queue) : (s.putQueue n x).fab = s.fab := rfl
@[simp] theorem State.putQueue_lds (s : State) (n : Nat) (x : Queue) : (s.putQueue n x).lds = s.lds := rfl
@[simp] theorem State.putQueue_unbinding (s : State) (n : Nat) (x : Queue) : (s.putQueue n x).unbinding = s.unbinding := rfl
@[simp] theorem State.putQueue_hdm (s : State) (n : Nat) (x : Queue) : (s.putQueue n x).hdm = s.hdm := rfl
@[simp] theorem State.putQueue_ldRegs (s : State) (n : Nat) (x : Queue) : (s.putQueue n x).ldRegs = s.ldRegs := rfl
@[simp] theorem State.putQueue_linkWait (s : State) (n : Nat) (x : Queue) : (s.putQueue n x).linkWait = s.linkWait := rfl
@[simp] theorem State.putQueue_badLanes (s : State) (n : Nat) (x : Queue) : (s.putQueue n x).badLanes = s.badLanes := rfl
@[simp] theorem State.putQueue_gangs (s : State) (n : Nat) (x : Queue) : (s.putQueue n x).gangs = s.gangs := rfl
@[simp] theorem State.putQueue_beats (s : State) (n : Nat) (x : Queue) : (s.putQueue n x).beats = s.beats := rfl
@[simp] theorem State.putQueue_nextBeat (s : State) (n : Nat) (x : Queue) : (s.putQueue n x).nextBeat = s.nextBeat := rfl
@[simp] theorem State.putQueue_deadPeers (s : State) (n : Nat) (x : Queue) : (s.putQueue n x).deadPeers = s.deadPeers := rfl
@[simp] theorem State.putQueue_dies (s : State) (n : Nat) (x : Queue) : (s.putQueue n x).dies = s.dies := rfl
@[simp] theorem State.putQueue_clusters (s : State) (n : Nat) (x : Queue) : (s.putQueue n x).clusters = s.clusters := rfl
@[simp] theorem State.putQueue_cores (s : State) (n : Nat) (x : Queue) : (s.putQueue n x).cores = s.cores := rfl
@[simp] theorem State.putQueue_warps (s : State) (n : Nat) (x : Queue) : (s.putQueue n x).warps = s.warps := rfl
@[simp] theorem State.putQueue_nextWid (s : State) (n : Nat) (x : Queue) : (s.putQueue n x).nextWid = s.nextWid := rfl
@[simp] theorem State.putQueue_ghosts (s : State) (n : Nat) (x : Queue) : (s.putQueue n x).ghosts = s.ghosts := rfl
@[simp] theorem State.putQueue_slices (s : State) (n : Nat) (x : Queue) : (s.putQueue n x).slices = s.slices := rfl
@[simp] theorem State.putQueue_dir (s : State) (n : Nat) (x : Queue) : (s.putQueue n x).dir = s.dir := rfl
@[simp] theorem State.putQueue_hostHeld (s : State) (n : Nat) (x : Queue) : (s.putQueue n x).hostHeld = s.hostHeld := rfl
@[simp] theorem State.putQueue_farWait (s : State) (n : Nat) (x : Queue) : (s.putQueue n x).farWait = s.farWait := rfl
@[simp] theorem State.putQueue_objs (s : State) (n : Nat) (x : Queue) : (s.putQueue n x).objs = s.objs := rfl
@[simp] theorem State.putQueue_mails (s : State) (n : Nat) (x : Queue) : (s.putQueue n x).mails = s.mails := rfl
@[simp] theorem State.putQueue_gbars (s : State) (n : Nat) (x : Queue) : (s.putQueue n x).gbars = s.gbars := rfl
@[simp] theorem State.putQueue_queues (s : State) (n : Nat) (x : Queue) : (s.putQueue n x).queues = Tab.put s.queues n x := rfl
@[simp] theorem State.putQueue_nextQueue (s : State) (n : Nat) (x : Queue) : (s.putQueue n x).nextQueue = s.nextQueue := rfl
@[simp] theorem State.putQueue_nodes (s : State) (n : Nat) (x : Queue) : (s.putQueue n x).nodes = s.nodes := rfl
@[simp] theorem State.putQueue_nextNid (s : State) (n : Nat) (x : Queue) : (s.putQueue n x).nextNid = s.nextNid := rfl
@[simp] theorem State.putQueue_nextReady (s : State) (n : Nat) (x : Queue) : (s.putQueue n x).nextReady = s.nextReady := rfl
@[simp] theorem State.putQueue_saved (s : State) (n : Nat) (x : Queue) : (s.putQueue n x).saved = s.saved := rfl
@[simp] theorem State.putQueue_censuses (s : State) (n : Nat) (x : Queue) : (s.putQueue n x).censuses = s.censuses := rfl
@[simp] theorem State.putQueue_nextCensus (s : State) (n : Nat) (x : Queue) : (s.putQueue n x).nextCensus = s.nextCensus := rfl
@[simp] theorem State.putQueue_censusWait (s : State) (n : Nat) (x : Queue) : (s.putQueue n x).censusWait = s.censusWait := rfl
@[simp] theorem State.putQueue_tmoves (s : State) (n : Nat) (x : Queue) : (s.putQueue n x).tmoves = s.tmoves := rfl
@[simp] theorem State.putQueue_nextMove (s : State) (n : Nat) (x : Queue) : (s.putQueue n x).nextMove = s.nextMove := rfl
@[simp] theorem State.putQueue_preqs (s : State) (n : Nat) (x : Queue) : (s.putQueue n x).preqs = s.preqs := rfl
@[simp] theorem State.putQueue_peerSends (s : State) (n : Nat) (x : Queue) : (s.putQueue n x).peerSends = s.peerSends := rfl
@[simp] theorem State.putQueue_out (s : State) (n : Nat) (x : Queue) : (s.putQueue n x).out = s.out := rfl
@[simp] theorem State.putQueue_agenda (s : State) (n : Nat) (x : Queue) : (s.putQueue n x).agenda = s.agenda := rfl
@[simp] theorem State.putQueue_tape (s : State) (n : Nat) (x : Queue) : (s.putQueue n x).tape = s.tape := rfl
@[simp] theorem State.putQueue_flight (s : State) (n : Nat) (x : Queue) : (s.putQueue n x).flight = s.flight := rfl
@[simp] theorem State.putQueue_parked (s : State) (n : Nat) (x : Queue) : (s.putQueue n x).parked = s.parked := rfl
@[simp] theorem State.putQueue_cursor (s : State) (n : Nat) (x : Queue) : (s.putQueue n x).cursor = s.cursor := rfl
@[simp] theorem State.putQueue_cur (s : State) (n : Nat) (x : Queue) : (s.putQueue n x).cur = s.cur := rfl
@[simp] theorem State.putQueue_mslot (s : State) (n : Nat) (x : Queue) : (s.putQueue n x).mslot = s.mslot := rfl
@[simp] theorem State.putQueue_snap (s : State) (n : Nat) (x : Queue) : (s.putQueue n x).snap = s.snap := rfl
@[simp] theorem State.putQueue_ev (s : State) (n : Nat) (x : Queue) : (s.putQueue n x).ev = s.ev := rfl
@[simp] theorem State.putQueue_verdict (s : State) (n : Nat) (x : Queue) : (s.putQueue n x).verdict = s.verdict := rfl

/-! ### `putMail` -/

@[simp] theorem State.putMail_root (s : State) (n : Nat) (x : Mail) : (s.putMail n x).root = s.root := rfl
@[simp] theorem State.putMail_mem (s : State) (n : Nat) (x : Mail) : (s.putMail n x).mem = s.mem := rfl
@[simp] theorem State.putMail_badDram (s : State) (n : Nat) (x : Mail) : (s.putMail n x).badDram = s.badDram := rfl
@[simp] theorem State.putMail_bringUp (s : State) (n : Nat) (x : Mail) : (s.putMail n x).bringUp = s.bringUp := rfl
@[simp] theorem State.putMail_upFailed (s : State) (n : Nat) (x : Mail) : (s.putMail n x).upFailed = s.upFailed := rfl
@[simp] theorem State.putMail_fields (s : State) (n : Nat) (x : Mail) : (s.putMail n x).fields = s.fields := rfl
@[simp] theorem State.putMail_image (s : State) (n : Nat) (x : Mail) : (s.putMail n x).image = s.image := rfl
@[simp] theorem State.putMail_controlDie (s : State) (n : Nat) (x : Mail) : (s.putMail n x).controlDie = s.controlDie := rfl
@[simp] theorem State.putMail_controlFenced (s : State) (n : Nat) (x : Mail) : (s.putMail n x).controlFenced = s.controlFenced := rfl
@[simp] theorem State.putMail_almanacs (s : State) (n : Nat) (x : Mail) : (s.putMail n x).almanacs = s.almanacs := rfl
@[simp] theorem State.putMail_controlIncs (s : State) (n : Nat) (x : Mail) : (s.putMail n x).controlIncs = s.controlIncs := rfl
@[simp] theorem State.putMail_testing (s : State) (n : Nat) (x : Mail) : (s.putMail n x).testing = s.testing := rfl
@[simp] theorem State.putMail_flashLeaf (s : State) (n : Nat) (x : Mail) : (s.putMail n x).flashLeaf = s.flashLeaf := rfl
@[simp] theorem State.putMail_leaf (s : State) (n : Nat) (x : Mail) : (s.putMail n x).leaf = s.leaf := rfl
@[simp] theorem State.putMail_flashCert (s : State) (n : Nat) (x : Mail) : (s.putMail n x).flashCert = s.flashCert := rfl
@[simp] theorem State.putMail_signing (s : State) (n : Nat) (x : Mail) : (s.putMail n x).signing = s.signing := rfl
@[simp] theorem State.putMail_limits (s : State) (n : Nat) (x : Mail) : (s.putMail n x).limits = s.limits := rfl
@[simp] theorem State.putMail_stacksFenced (s : State) (n : Nat) (x : Mail) : (s.putMail n x).stacksFenced = s.stacksFenced := rfl
@[simp] theorem State.putMail_errLog (s : State) (n : Nat) (x : Mail) : (s.putMail n x).errLog = s.errLog := rfl
@[simp] theorem State.putMail_dieTen (s : State) (n : Nat) (x : Mail) : (s.putMail n x).dieTen = s.dieTen := rfl
@[simp] theorem State.putMail_frameTen (s : State) (n : Nat) (x : Mail) : (s.putMail n x).frameTen = s.frameTen := rfl
@[simp] theorem State.putMail_windows (s : State) (n : Nat) (x : Mail) : (s.putMail n x).windows = s.windows := rfl
@[simp] theorem State.putMail_fab (s : State) (n : Nat) (x : Mail) : (s.putMail n x).fab = s.fab := rfl
@[simp] theorem State.putMail_lds (s : State) (n : Nat) (x : Mail) : (s.putMail n x).lds = s.lds := rfl
@[simp] theorem State.putMail_unbinding (s : State) (n : Nat) (x : Mail) : (s.putMail n x).unbinding = s.unbinding := rfl
@[simp] theorem State.putMail_hdm (s : State) (n : Nat) (x : Mail) : (s.putMail n x).hdm = s.hdm := rfl
@[simp] theorem State.putMail_ldRegs (s : State) (n : Nat) (x : Mail) : (s.putMail n x).ldRegs = s.ldRegs := rfl
@[simp] theorem State.putMail_linkWait (s : State) (n : Nat) (x : Mail) : (s.putMail n x).linkWait = s.linkWait := rfl
@[simp] theorem State.putMail_badLanes (s : State) (n : Nat) (x : Mail) : (s.putMail n x).badLanes = s.badLanes := rfl
@[simp] theorem State.putMail_gangs (s : State) (n : Nat) (x : Mail) : (s.putMail n x).gangs = s.gangs := rfl
@[simp] theorem State.putMail_beats (s : State) (n : Nat) (x : Mail) : (s.putMail n x).beats = s.beats := rfl
@[simp] theorem State.putMail_nextBeat (s : State) (n : Nat) (x : Mail) : (s.putMail n x).nextBeat = s.nextBeat := rfl
@[simp] theorem State.putMail_deadPeers (s : State) (n : Nat) (x : Mail) : (s.putMail n x).deadPeers = s.deadPeers := rfl
@[simp] theorem State.putMail_dies (s : State) (n : Nat) (x : Mail) : (s.putMail n x).dies = s.dies := rfl
@[simp] theorem State.putMail_clusters (s : State) (n : Nat) (x : Mail) : (s.putMail n x).clusters = s.clusters := rfl
@[simp] theorem State.putMail_cores (s : State) (n : Nat) (x : Mail) : (s.putMail n x).cores = s.cores := rfl
@[simp] theorem State.putMail_warps (s : State) (n : Nat) (x : Mail) : (s.putMail n x).warps = s.warps := rfl
@[simp] theorem State.putMail_nextWid (s : State) (n : Nat) (x : Mail) : (s.putMail n x).nextWid = s.nextWid := rfl
@[simp] theorem State.putMail_ghosts (s : State) (n : Nat) (x : Mail) : (s.putMail n x).ghosts = s.ghosts := rfl
@[simp] theorem State.putMail_slices (s : State) (n : Nat) (x : Mail) : (s.putMail n x).slices = s.slices := rfl
@[simp] theorem State.putMail_dir (s : State) (n : Nat) (x : Mail) : (s.putMail n x).dir = s.dir := rfl
@[simp] theorem State.putMail_hostHeld (s : State) (n : Nat) (x : Mail) : (s.putMail n x).hostHeld = s.hostHeld := rfl
@[simp] theorem State.putMail_farWait (s : State) (n : Nat) (x : Mail) : (s.putMail n x).farWait = s.farWait := rfl
@[simp] theorem State.putMail_objs (s : State) (n : Nat) (x : Mail) : (s.putMail n x).objs = s.objs := rfl
@[simp] theorem State.putMail_mails (s : State) (n : Nat) (x : Mail) : (s.putMail n x).mails = Tab.put s.mails n x := rfl
@[simp] theorem State.putMail_gbars (s : State) (n : Nat) (x : Mail) : (s.putMail n x).gbars = s.gbars := rfl
@[simp] theorem State.putMail_queues (s : State) (n : Nat) (x : Mail) : (s.putMail n x).queues = s.queues := rfl
@[simp] theorem State.putMail_nextQueue (s : State) (n : Nat) (x : Mail) : (s.putMail n x).nextQueue = s.nextQueue := rfl
@[simp] theorem State.putMail_nodes (s : State) (n : Nat) (x : Mail) : (s.putMail n x).nodes = s.nodes := rfl
@[simp] theorem State.putMail_nextNid (s : State) (n : Nat) (x : Mail) : (s.putMail n x).nextNid = s.nextNid := rfl
@[simp] theorem State.putMail_nextReady (s : State) (n : Nat) (x : Mail) : (s.putMail n x).nextReady = s.nextReady := rfl
@[simp] theorem State.putMail_saved (s : State) (n : Nat) (x : Mail) : (s.putMail n x).saved = s.saved := rfl
@[simp] theorem State.putMail_censuses (s : State) (n : Nat) (x : Mail) : (s.putMail n x).censuses = s.censuses := rfl
@[simp] theorem State.putMail_nextCensus (s : State) (n : Nat) (x : Mail) : (s.putMail n x).nextCensus = s.nextCensus := rfl
@[simp] theorem State.putMail_censusWait (s : State) (n : Nat) (x : Mail) : (s.putMail n x).censusWait = s.censusWait := rfl
@[simp] theorem State.putMail_tmoves (s : State) (n : Nat) (x : Mail) : (s.putMail n x).tmoves = s.tmoves := rfl
@[simp] theorem State.putMail_nextMove (s : State) (n : Nat) (x : Mail) : (s.putMail n x).nextMove = s.nextMove := rfl
@[simp] theorem State.putMail_preqs (s : State) (n : Nat) (x : Mail) : (s.putMail n x).preqs = s.preqs := rfl
@[simp] theorem State.putMail_peerSends (s : State) (n : Nat) (x : Mail) : (s.putMail n x).peerSends = s.peerSends := rfl
@[simp] theorem State.putMail_out (s : State) (n : Nat) (x : Mail) : (s.putMail n x).out = s.out := rfl
@[simp] theorem State.putMail_agenda (s : State) (n : Nat) (x : Mail) : (s.putMail n x).agenda = s.agenda := rfl
@[simp] theorem State.putMail_tape (s : State) (n : Nat) (x : Mail) : (s.putMail n x).tape = s.tape := rfl
@[simp] theorem State.putMail_flight (s : State) (n : Nat) (x : Mail) : (s.putMail n x).flight = s.flight := rfl
@[simp] theorem State.putMail_parked (s : State) (n : Nat) (x : Mail) : (s.putMail n x).parked = s.parked := rfl
@[simp] theorem State.putMail_cursor (s : State) (n : Nat) (x : Mail) : (s.putMail n x).cursor = s.cursor := rfl
@[simp] theorem State.putMail_cur (s : State) (n : Nat) (x : Mail) : (s.putMail n x).cur = s.cur := rfl
@[simp] theorem State.putMail_mslot (s : State) (n : Nat) (x : Mail) : (s.putMail n x).mslot = s.mslot := rfl
@[simp] theorem State.putMail_snap (s : State) (n : Nat) (x : Mail) : (s.putMail n x).snap = s.snap := rfl
@[simp] theorem State.putMail_ev (s : State) (n : Nat) (x : Mail) : (s.putMail n x).ev = s.ev := rfl
@[simp] theorem State.putMail_verdict (s : State) (n : Nat) (x : Mail) : (s.putMail n x).verdict = s.verdict := rfl

/-! ### `putWarp` -/

@[simp] theorem State.putWarp_root (s : State) (a : WarpAt) (x : Warp) : (s.putWarp a x).root = s.root := rfl
@[simp] theorem State.putWarp_mem (s : State) (a : WarpAt) (x : Warp) : (s.putWarp a x).mem = s.mem := rfl
@[simp] theorem State.putWarp_badDram (s : State) (a : WarpAt) (x : Warp) : (s.putWarp a x).badDram = s.badDram := rfl
@[simp] theorem State.putWarp_bringUp (s : State) (a : WarpAt) (x : Warp) : (s.putWarp a x).bringUp = s.bringUp := rfl
@[simp] theorem State.putWarp_upFailed (s : State) (a : WarpAt) (x : Warp) : (s.putWarp a x).upFailed = s.upFailed := rfl
@[simp] theorem State.putWarp_fields (s : State) (a : WarpAt) (x : Warp) : (s.putWarp a x).fields = s.fields := rfl
@[simp] theorem State.putWarp_image (s : State) (a : WarpAt) (x : Warp) : (s.putWarp a x).image = s.image := rfl
@[simp] theorem State.putWarp_controlDie (s : State) (a : WarpAt) (x : Warp) : (s.putWarp a x).controlDie = s.controlDie := rfl
@[simp] theorem State.putWarp_controlFenced (s : State) (a : WarpAt) (x : Warp) : (s.putWarp a x).controlFenced = s.controlFenced := rfl
@[simp] theorem State.putWarp_almanacs (s : State) (a : WarpAt) (x : Warp) : (s.putWarp a x).almanacs = s.almanacs := rfl
@[simp] theorem State.putWarp_controlIncs (s : State) (a : WarpAt) (x : Warp) : (s.putWarp a x).controlIncs = s.controlIncs := rfl
@[simp] theorem State.putWarp_testing (s : State) (a : WarpAt) (x : Warp) : (s.putWarp a x).testing = s.testing := rfl
@[simp] theorem State.putWarp_flashLeaf (s : State) (a : WarpAt) (x : Warp) : (s.putWarp a x).flashLeaf = s.flashLeaf := rfl
@[simp] theorem State.putWarp_leaf (s : State) (a : WarpAt) (x : Warp) : (s.putWarp a x).leaf = s.leaf := rfl
@[simp] theorem State.putWarp_flashCert (s : State) (a : WarpAt) (x : Warp) : (s.putWarp a x).flashCert = s.flashCert := rfl
@[simp] theorem State.putWarp_signing (s : State) (a : WarpAt) (x : Warp) : (s.putWarp a x).signing = s.signing := rfl
@[simp] theorem State.putWarp_limits (s : State) (a : WarpAt) (x : Warp) : (s.putWarp a x).limits = s.limits := rfl
@[simp] theorem State.putWarp_stacksFenced (s : State) (a : WarpAt) (x : Warp) : (s.putWarp a x).stacksFenced = s.stacksFenced := rfl
@[simp] theorem State.putWarp_errLog (s : State) (a : WarpAt) (x : Warp) : (s.putWarp a x).errLog = s.errLog := rfl
@[simp] theorem State.putWarp_dieTen (s : State) (a : WarpAt) (x : Warp) : (s.putWarp a x).dieTen = s.dieTen := rfl
@[simp] theorem State.putWarp_frameTen (s : State) (a : WarpAt) (x : Warp) : (s.putWarp a x).frameTen = s.frameTen := rfl
@[simp] theorem State.putWarp_windows (s : State) (a : WarpAt) (x : Warp) : (s.putWarp a x).windows = s.windows := rfl
@[simp] theorem State.putWarp_fab (s : State) (a : WarpAt) (x : Warp) : (s.putWarp a x).fab = s.fab := rfl
@[simp] theorem State.putWarp_lds (s : State) (a : WarpAt) (x : Warp) : (s.putWarp a x).lds = s.lds := rfl
@[simp] theorem State.putWarp_unbinding (s : State) (a : WarpAt) (x : Warp) : (s.putWarp a x).unbinding = s.unbinding := rfl
@[simp] theorem State.putWarp_hdm (s : State) (a : WarpAt) (x : Warp) : (s.putWarp a x).hdm = s.hdm := rfl
@[simp] theorem State.putWarp_ldRegs (s : State) (a : WarpAt) (x : Warp) : (s.putWarp a x).ldRegs = s.ldRegs := rfl
@[simp] theorem State.putWarp_linkWait (s : State) (a : WarpAt) (x : Warp) : (s.putWarp a x).linkWait = s.linkWait := rfl
@[simp] theorem State.putWarp_badLanes (s : State) (a : WarpAt) (x : Warp) : (s.putWarp a x).badLanes = s.badLanes := rfl
@[simp] theorem State.putWarp_gangs (s : State) (a : WarpAt) (x : Warp) : (s.putWarp a x).gangs = s.gangs := rfl
@[simp] theorem State.putWarp_beats (s : State) (a : WarpAt) (x : Warp) : (s.putWarp a x).beats = s.beats := rfl
@[simp] theorem State.putWarp_nextBeat (s : State) (a : WarpAt) (x : Warp) : (s.putWarp a x).nextBeat = s.nextBeat := rfl
@[simp] theorem State.putWarp_deadPeers (s : State) (a : WarpAt) (x : Warp) : (s.putWarp a x).deadPeers = s.deadPeers := rfl
@[simp] theorem State.putWarp_dies (s : State) (a : WarpAt) (x : Warp) : (s.putWarp a x).dies = s.dies := rfl
@[simp] theorem State.putWarp_clusters (s : State) (a : WarpAt) (x : Warp) : (s.putWarp a x).clusters = s.clusters := rfl
@[simp] theorem State.putWarp_cores (s : State) (a : WarpAt) (x : Warp) : (s.putWarp a x).cores = s.cores := rfl
@[simp] theorem State.putWarp_warps (s : State) (a : WarpAt) (x : Warp) : (s.putWarp a x).warps = Tab.put s.warps (warpKey a) x := rfl
@[simp] theorem State.putWarp_nextWid (s : State) (a : WarpAt) (x : Warp) : (s.putWarp a x).nextWid = s.nextWid := rfl
@[simp] theorem State.putWarp_ghosts (s : State) (a : WarpAt) (x : Warp) : (s.putWarp a x).ghosts = s.ghosts := rfl
@[simp] theorem State.putWarp_slices (s : State) (a : WarpAt) (x : Warp) : (s.putWarp a x).slices = s.slices := rfl
@[simp] theorem State.putWarp_dir (s : State) (a : WarpAt) (x : Warp) : (s.putWarp a x).dir = s.dir := rfl
@[simp] theorem State.putWarp_hostHeld (s : State) (a : WarpAt) (x : Warp) : (s.putWarp a x).hostHeld = s.hostHeld := rfl
@[simp] theorem State.putWarp_farWait (s : State) (a : WarpAt) (x : Warp) : (s.putWarp a x).farWait = s.farWait := rfl
@[simp] theorem State.putWarp_objs (s : State) (a : WarpAt) (x : Warp) : (s.putWarp a x).objs = s.objs := rfl
@[simp] theorem State.putWarp_mails (s : State) (a : WarpAt) (x : Warp) : (s.putWarp a x).mails = s.mails := rfl
@[simp] theorem State.putWarp_gbars (s : State) (a : WarpAt) (x : Warp) : (s.putWarp a x).gbars = s.gbars := rfl
@[simp] theorem State.putWarp_queues (s : State) (a : WarpAt) (x : Warp) : (s.putWarp a x).queues = s.queues := rfl
@[simp] theorem State.putWarp_nextQueue (s : State) (a : WarpAt) (x : Warp) : (s.putWarp a x).nextQueue = s.nextQueue := rfl
@[simp] theorem State.putWarp_nodes (s : State) (a : WarpAt) (x : Warp) : (s.putWarp a x).nodes = s.nodes := rfl
@[simp] theorem State.putWarp_nextNid (s : State) (a : WarpAt) (x : Warp) : (s.putWarp a x).nextNid = s.nextNid := rfl
@[simp] theorem State.putWarp_nextReady (s : State) (a : WarpAt) (x : Warp) : (s.putWarp a x).nextReady = s.nextReady := rfl
@[simp] theorem State.putWarp_saved (s : State) (a : WarpAt) (x : Warp) : (s.putWarp a x).saved = s.saved := rfl
@[simp] theorem State.putWarp_censuses (s : State) (a : WarpAt) (x : Warp) : (s.putWarp a x).censuses = s.censuses := rfl
@[simp] theorem State.putWarp_nextCensus (s : State) (a : WarpAt) (x : Warp) : (s.putWarp a x).nextCensus = s.nextCensus := rfl
@[simp] theorem State.putWarp_censusWait (s : State) (a : WarpAt) (x : Warp) : (s.putWarp a x).censusWait = s.censusWait := rfl
@[simp] theorem State.putWarp_tmoves (s : State) (a : WarpAt) (x : Warp) : (s.putWarp a x).tmoves = s.tmoves := rfl
@[simp] theorem State.putWarp_nextMove (s : State) (a : WarpAt) (x : Warp) : (s.putWarp a x).nextMove = s.nextMove := rfl
@[simp] theorem State.putWarp_preqs (s : State) (a : WarpAt) (x : Warp) : (s.putWarp a x).preqs = s.preqs := rfl
@[simp] theorem State.putWarp_peerSends (s : State) (a : WarpAt) (x : Warp) : (s.putWarp a x).peerSends = s.peerSends := rfl
@[simp] theorem State.putWarp_out (s : State) (a : WarpAt) (x : Warp) : (s.putWarp a x).out = s.out := rfl
@[simp] theorem State.putWarp_agenda (s : State) (a : WarpAt) (x : Warp) : (s.putWarp a x).agenda = s.agenda := rfl
@[simp] theorem State.putWarp_tape (s : State) (a : WarpAt) (x : Warp) : (s.putWarp a x).tape = s.tape := rfl
@[simp] theorem State.putWarp_flight (s : State) (a : WarpAt) (x : Warp) : (s.putWarp a x).flight = s.flight := rfl
@[simp] theorem State.putWarp_parked (s : State) (a : WarpAt) (x : Warp) : (s.putWarp a x).parked = s.parked := rfl
@[simp] theorem State.putWarp_cursor (s : State) (a : WarpAt) (x : Warp) : (s.putWarp a x).cursor = s.cursor := rfl
@[simp] theorem State.putWarp_cur (s : State) (a : WarpAt) (x : Warp) : (s.putWarp a x).cur = s.cur := rfl
@[simp] theorem State.putWarp_mslot (s : State) (a : WarpAt) (x : Warp) : (s.putWarp a x).mslot = s.mslot := rfl
@[simp] theorem State.putWarp_snap (s : State) (a : WarpAt) (x : Warp) : (s.putWarp a x).snap = s.snap := rfl
@[simp] theorem State.putWarp_ev (s : State) (a : WarpAt) (x : Warp) : (s.putWarp a x).ev = s.ev := rfl
@[simp] theorem State.putWarp_verdict (s : State) (a : WarpAt) (x : Warp) : (s.putWarp a x).verdict = s.verdict := rfl

/-! ### `setMe` -/

@[simp] theorem State.setMe_root (s : State) (x : Warp) : (s.setMe x).root = s.root := rfl
@[simp] theorem State.setMe_mem (s : State) (x : Warp) : (s.setMe x).mem = s.mem := rfl
@[simp] theorem State.setMe_badDram (s : State) (x : Warp) : (s.setMe x).badDram = s.badDram := rfl
@[simp] theorem State.setMe_bringUp (s : State) (x : Warp) : (s.setMe x).bringUp = s.bringUp := rfl
@[simp] theorem State.setMe_upFailed (s : State) (x : Warp) : (s.setMe x).upFailed = s.upFailed := rfl
@[simp] theorem State.setMe_fields (s : State) (x : Warp) : (s.setMe x).fields = s.fields := rfl
@[simp] theorem State.setMe_image (s : State) (x : Warp) : (s.setMe x).image = s.image := rfl
@[simp] theorem State.setMe_controlDie (s : State) (x : Warp) : (s.setMe x).controlDie = s.controlDie := rfl
@[simp] theorem State.setMe_controlFenced (s : State) (x : Warp) : (s.setMe x).controlFenced = s.controlFenced := rfl
@[simp] theorem State.setMe_almanacs (s : State) (x : Warp) : (s.setMe x).almanacs = s.almanacs := rfl
@[simp] theorem State.setMe_controlIncs (s : State) (x : Warp) : (s.setMe x).controlIncs = s.controlIncs := rfl
@[simp] theorem State.setMe_testing (s : State) (x : Warp) : (s.setMe x).testing = s.testing := rfl
@[simp] theorem State.setMe_flashLeaf (s : State) (x : Warp) : (s.setMe x).flashLeaf = s.flashLeaf := rfl
@[simp] theorem State.setMe_leaf (s : State) (x : Warp) : (s.setMe x).leaf = s.leaf := rfl
@[simp] theorem State.setMe_flashCert (s : State) (x : Warp) : (s.setMe x).flashCert = s.flashCert := rfl
@[simp] theorem State.setMe_signing (s : State) (x : Warp) : (s.setMe x).signing = s.signing := rfl
@[simp] theorem State.setMe_limits (s : State) (x : Warp) : (s.setMe x).limits = s.limits := rfl
@[simp] theorem State.setMe_stacksFenced (s : State) (x : Warp) : (s.setMe x).stacksFenced = s.stacksFenced := rfl
@[simp] theorem State.setMe_errLog (s : State) (x : Warp) : (s.setMe x).errLog = s.errLog := rfl
@[simp] theorem State.setMe_dieTen (s : State) (x : Warp) : (s.setMe x).dieTen = s.dieTen := rfl
@[simp] theorem State.setMe_frameTen (s : State) (x : Warp) : (s.setMe x).frameTen = s.frameTen := rfl
@[simp] theorem State.setMe_windows (s : State) (x : Warp) : (s.setMe x).windows = s.windows := rfl
@[simp] theorem State.setMe_fab (s : State) (x : Warp) : (s.setMe x).fab = s.fab := rfl
@[simp] theorem State.setMe_lds (s : State) (x : Warp) : (s.setMe x).lds = s.lds := rfl
@[simp] theorem State.setMe_unbinding (s : State) (x : Warp) : (s.setMe x).unbinding = s.unbinding := rfl
@[simp] theorem State.setMe_hdm (s : State) (x : Warp) : (s.setMe x).hdm = s.hdm := rfl
@[simp] theorem State.setMe_ldRegs (s : State) (x : Warp) : (s.setMe x).ldRegs = s.ldRegs := rfl
@[simp] theorem State.setMe_linkWait (s : State) (x : Warp) : (s.setMe x).linkWait = s.linkWait := rfl
@[simp] theorem State.setMe_badLanes (s : State) (x : Warp) : (s.setMe x).badLanes = s.badLanes := rfl
@[simp] theorem State.setMe_gangs (s : State) (x : Warp) : (s.setMe x).gangs = s.gangs := rfl
@[simp] theorem State.setMe_beats (s : State) (x : Warp) : (s.setMe x).beats = s.beats := rfl
@[simp] theorem State.setMe_nextBeat (s : State) (x : Warp) : (s.setMe x).nextBeat = s.nextBeat := rfl
@[simp] theorem State.setMe_deadPeers (s : State) (x : Warp) : (s.setMe x).deadPeers = s.deadPeers := rfl
@[simp] theorem State.setMe_dies (s : State) (x : Warp) : (s.setMe x).dies = s.dies := rfl
@[simp] theorem State.setMe_clusters (s : State) (x : Warp) : (s.setMe x).clusters = s.clusters := rfl
@[simp] theorem State.setMe_cores (s : State) (x : Warp) : (s.setMe x).cores = s.cores := rfl
@[simp] theorem State.setMe_warps (s : State) (x : Warp) : (s.setMe x).warps = Tab.put s.warps (warpKey s.cur) x := rfl
@[simp] theorem State.setMe_nextWid (s : State) (x : Warp) : (s.setMe x).nextWid = s.nextWid := rfl
@[simp] theorem State.setMe_ghosts (s : State) (x : Warp) : (s.setMe x).ghosts = s.ghosts := rfl
@[simp] theorem State.setMe_slices (s : State) (x : Warp) : (s.setMe x).slices = s.slices := rfl
@[simp] theorem State.setMe_dir (s : State) (x : Warp) : (s.setMe x).dir = s.dir := rfl
@[simp] theorem State.setMe_hostHeld (s : State) (x : Warp) : (s.setMe x).hostHeld = s.hostHeld := rfl
@[simp] theorem State.setMe_farWait (s : State) (x : Warp) : (s.setMe x).farWait = s.farWait := rfl
@[simp] theorem State.setMe_objs (s : State) (x : Warp) : (s.setMe x).objs = s.objs := rfl
@[simp] theorem State.setMe_mails (s : State) (x : Warp) : (s.setMe x).mails = s.mails := rfl
@[simp] theorem State.setMe_gbars (s : State) (x : Warp) : (s.setMe x).gbars = s.gbars := rfl
@[simp] theorem State.setMe_queues (s : State) (x : Warp) : (s.setMe x).queues = s.queues := rfl
@[simp] theorem State.setMe_nextQueue (s : State) (x : Warp) : (s.setMe x).nextQueue = s.nextQueue := rfl
@[simp] theorem State.setMe_nodes (s : State) (x : Warp) : (s.setMe x).nodes = s.nodes := rfl
@[simp] theorem State.setMe_nextNid (s : State) (x : Warp) : (s.setMe x).nextNid = s.nextNid := rfl
@[simp] theorem State.setMe_nextReady (s : State) (x : Warp) : (s.setMe x).nextReady = s.nextReady := rfl
@[simp] theorem State.setMe_saved (s : State) (x : Warp) : (s.setMe x).saved = s.saved := rfl
@[simp] theorem State.setMe_censuses (s : State) (x : Warp) : (s.setMe x).censuses = s.censuses := rfl
@[simp] theorem State.setMe_nextCensus (s : State) (x : Warp) : (s.setMe x).nextCensus = s.nextCensus := rfl
@[simp] theorem State.setMe_censusWait (s : State) (x : Warp) : (s.setMe x).censusWait = s.censusWait := rfl
@[simp] theorem State.setMe_tmoves (s : State) (x : Warp) : (s.setMe x).tmoves = s.tmoves := rfl
@[simp] theorem State.setMe_nextMove (s : State) (x : Warp) : (s.setMe x).nextMove = s.nextMove := rfl
@[simp] theorem State.setMe_preqs (s : State) (x : Warp) : (s.setMe x).preqs = s.preqs := rfl
@[simp] theorem State.setMe_peerSends (s : State) (x : Warp) : (s.setMe x).peerSends = s.peerSends := rfl
@[simp] theorem State.setMe_out (s : State) (x : Warp) : (s.setMe x).out = s.out := rfl
@[simp] theorem State.setMe_agenda (s : State) (x : Warp) : (s.setMe x).agenda = s.agenda := rfl
@[simp] theorem State.setMe_tape (s : State) (x : Warp) : (s.setMe x).tape = s.tape := rfl
@[simp] theorem State.setMe_flight (s : State) (x : Warp) : (s.setMe x).flight = s.flight := rfl
@[simp] theorem State.setMe_parked (s : State) (x : Warp) : (s.setMe x).parked = s.parked := rfl
@[simp] theorem State.setMe_cursor (s : State) (x : Warp) : (s.setMe x).cursor = s.cursor := rfl
@[simp] theorem State.setMe_cur (s : State) (x : Warp) : (s.setMe x).cur = s.cur := rfl
@[simp] theorem State.setMe_mslot (s : State) (x : Warp) : (s.setMe x).mslot = s.mslot := rfl
@[simp] theorem State.setMe_snap (s : State) (x : Warp) : (s.setMe x).snap = s.snap := rfl
@[simp] theorem State.setMe_ev (s : State) (x : Warp) : (s.setMe x).ev = s.ev := rfl
@[simp] theorem State.setMe_verdict (s : State) (x : Warp) : (s.setMe x).verdict = s.verdict := rfl

/-! ### `later` -/

@[simp] theorem State.later_root (s : State) (l : List Ev) : (s.later l).root = s.root := rfl
@[simp] theorem State.later_mem (s : State) (l : List Ev) : (s.later l).mem = s.mem := rfl
@[simp] theorem State.later_badDram (s : State) (l : List Ev) : (s.later l).badDram = s.badDram := rfl
@[simp] theorem State.later_bringUp (s : State) (l : List Ev) : (s.later l).bringUp = s.bringUp := rfl
@[simp] theorem State.later_upFailed (s : State) (l : List Ev) : (s.later l).upFailed = s.upFailed := rfl
@[simp] theorem State.later_fields (s : State) (l : List Ev) : (s.later l).fields = s.fields := rfl
@[simp] theorem State.later_image (s : State) (l : List Ev) : (s.later l).image = s.image := rfl
@[simp] theorem State.later_controlDie (s : State) (l : List Ev) : (s.later l).controlDie = s.controlDie := rfl
@[simp] theorem State.later_controlFenced (s : State) (l : List Ev) : (s.later l).controlFenced = s.controlFenced := rfl
@[simp] theorem State.later_almanacs (s : State) (l : List Ev) : (s.later l).almanacs = s.almanacs := rfl
@[simp] theorem State.later_controlIncs (s : State) (l : List Ev) : (s.later l).controlIncs = s.controlIncs := rfl
@[simp] theorem State.later_testing (s : State) (l : List Ev) : (s.later l).testing = s.testing := rfl
@[simp] theorem State.later_flashLeaf (s : State) (l : List Ev) : (s.later l).flashLeaf = s.flashLeaf := rfl
@[simp] theorem State.later_leaf (s : State) (l : List Ev) : (s.later l).leaf = s.leaf := rfl
@[simp] theorem State.later_flashCert (s : State) (l : List Ev) : (s.later l).flashCert = s.flashCert := rfl
@[simp] theorem State.later_signing (s : State) (l : List Ev) : (s.later l).signing = s.signing := rfl
@[simp] theorem State.later_limits (s : State) (l : List Ev) : (s.later l).limits = s.limits := rfl
@[simp] theorem State.later_stacksFenced (s : State) (l : List Ev) : (s.later l).stacksFenced = s.stacksFenced := rfl
@[simp] theorem State.later_errLog (s : State) (l : List Ev) : (s.later l).errLog = s.errLog := rfl
@[simp] theorem State.later_dieTen (s : State) (l : List Ev) : (s.later l).dieTen = s.dieTen := rfl
@[simp] theorem State.later_frameTen (s : State) (l : List Ev) : (s.later l).frameTen = s.frameTen := rfl
@[simp] theorem State.later_windows (s : State) (l : List Ev) : (s.later l).windows = s.windows := rfl
@[simp] theorem State.later_fab (s : State) (l : List Ev) : (s.later l).fab = s.fab := rfl
@[simp] theorem State.later_lds (s : State) (l : List Ev) : (s.later l).lds = s.lds := rfl
@[simp] theorem State.later_unbinding (s : State) (l : List Ev) : (s.later l).unbinding = s.unbinding := rfl
@[simp] theorem State.later_hdm (s : State) (l : List Ev) : (s.later l).hdm = s.hdm := rfl
@[simp] theorem State.later_ldRegs (s : State) (l : List Ev) : (s.later l).ldRegs = s.ldRegs := rfl
@[simp] theorem State.later_linkWait (s : State) (l : List Ev) : (s.later l).linkWait = s.linkWait := rfl
@[simp] theorem State.later_badLanes (s : State) (l : List Ev) : (s.later l).badLanes = s.badLanes := rfl
@[simp] theorem State.later_gangs (s : State) (l : List Ev) : (s.later l).gangs = s.gangs := rfl
@[simp] theorem State.later_beats (s : State) (l : List Ev) : (s.later l).beats = s.beats := rfl
@[simp] theorem State.later_nextBeat (s : State) (l : List Ev) : (s.later l).nextBeat = s.nextBeat := rfl
@[simp] theorem State.later_deadPeers (s : State) (l : List Ev) : (s.later l).deadPeers = s.deadPeers := rfl
@[simp] theorem State.later_dies (s : State) (l : List Ev) : (s.later l).dies = s.dies := rfl
@[simp] theorem State.later_clusters (s : State) (l : List Ev) : (s.later l).clusters = s.clusters := rfl
@[simp] theorem State.later_cores (s : State) (l : List Ev) : (s.later l).cores = s.cores := rfl
@[simp] theorem State.later_warps (s : State) (l : List Ev) : (s.later l).warps = s.warps := rfl
@[simp] theorem State.later_nextWid (s : State) (l : List Ev) : (s.later l).nextWid = s.nextWid := rfl
@[simp] theorem State.later_ghosts (s : State) (l : List Ev) : (s.later l).ghosts = s.ghosts := rfl
@[simp] theorem State.later_slices (s : State) (l : List Ev) : (s.later l).slices = s.slices := rfl
@[simp] theorem State.later_dir (s : State) (l : List Ev) : (s.later l).dir = s.dir := rfl
@[simp] theorem State.later_hostHeld (s : State) (l : List Ev) : (s.later l).hostHeld = s.hostHeld := rfl
@[simp] theorem State.later_farWait (s : State) (l : List Ev) : (s.later l).farWait = s.farWait := rfl
@[simp] theorem State.later_objs (s : State) (l : List Ev) : (s.later l).objs = s.objs := rfl
@[simp] theorem State.later_mails (s : State) (l : List Ev) : (s.later l).mails = s.mails := rfl
@[simp] theorem State.later_gbars (s : State) (l : List Ev) : (s.later l).gbars = s.gbars := rfl
@[simp] theorem State.later_queues (s : State) (l : List Ev) : (s.later l).queues = s.queues := rfl
@[simp] theorem State.later_nextQueue (s : State) (l : List Ev) : (s.later l).nextQueue = s.nextQueue := rfl
@[simp] theorem State.later_nodes (s : State) (l : List Ev) : (s.later l).nodes = s.nodes := rfl
@[simp] theorem State.later_nextNid (s : State) (l : List Ev) : (s.later l).nextNid = s.nextNid := rfl
@[simp] theorem State.later_nextReady (s : State) (l : List Ev) : (s.later l).nextReady = s.nextReady := rfl
@[simp] theorem State.later_saved (s : State) (l : List Ev) : (s.later l).saved = s.saved := rfl
@[simp] theorem State.later_censuses (s : State) (l : List Ev) : (s.later l).censuses = s.censuses := rfl
@[simp] theorem State.later_nextCensus (s : State) (l : List Ev) : (s.later l).nextCensus = s.nextCensus := rfl
@[simp] theorem State.later_censusWait (s : State) (l : List Ev) : (s.later l).censusWait = s.censusWait := rfl
@[simp] theorem State.later_tmoves (s : State) (l : List Ev) : (s.later l).tmoves = s.tmoves := rfl
@[simp] theorem State.later_nextMove (s : State) (l : List Ev) : (s.later l).nextMove = s.nextMove := rfl
@[simp] theorem State.later_preqs (s : State) (l : List Ev) : (s.later l).preqs = s.preqs := rfl
@[simp] theorem State.later_peerSends (s : State) (l : List Ev) : (s.later l).peerSends = s.peerSends := rfl
@[simp] theorem State.later_out (s : State) (l : List Ev) : (s.later l).out = s.out := rfl
@[simp] theorem State.later_agenda (s : State) (l : List Ev) : (s.later l).agenda = s.agenda ++ l := rfl
@[simp] theorem State.later_tape (s : State) (l : List Ev) : (s.later l).tape = s.tape := rfl
@[simp] theorem State.later_flight (s : State) (l : List Ev) : (s.later l).flight = s.flight := rfl
@[simp] theorem State.later_parked (s : State) (l : List Ev) : (s.later l).parked = s.parked := rfl
@[simp] theorem State.later_cursor (s : State) (l : List Ev) : (s.later l).cursor = s.cursor := rfl
@[simp] theorem State.later_cur (s : State) (l : List Ev) : (s.later l).cur = s.cur := rfl
@[simp] theorem State.later_mslot (s : State) (l : List Ev) : (s.later l).mslot = s.mslot := rfl
@[simp] theorem State.later_snap (s : State) (l : List Ev) : (s.later l).snap = s.snap := rfl
@[simp] theorem State.later_ev (s : State) (l : List Ev) : (s.later l).ev = s.ev := rfl
@[simp] theorem State.later_verdict (s : State) (l : List Ev) : (s.later l).verdict = s.verdict := rfl

/-! ### `send` -/

@[simp] theorem State.send_root (s : State) (c : NetClass) (a b : Nat) (e : Ev) : (s.send c a b e).root = s.root := rfl
@[simp] theorem State.send_mem (s : State) (c : NetClass) (a b : Nat) (e : Ev) : (s.send c a b e).mem = s.mem := rfl
@[simp] theorem State.send_badDram (s : State) (c : NetClass) (a b : Nat) (e : Ev) : (s.send c a b e).badDram = s.badDram := rfl
@[simp] theorem State.send_bringUp (s : State) (c : NetClass) (a b : Nat) (e : Ev) : (s.send c a b e).bringUp = s.bringUp := rfl
@[simp] theorem State.send_upFailed (s : State) (c : NetClass) (a b : Nat) (e : Ev) : (s.send c a b e).upFailed = s.upFailed := rfl
@[simp] theorem State.send_fields (s : State) (c : NetClass) (a b : Nat) (e : Ev) : (s.send c a b e).fields = s.fields := rfl
@[simp] theorem State.send_image (s : State) (c : NetClass) (a b : Nat) (e : Ev) : (s.send c a b e).image = s.image := rfl
@[simp] theorem State.send_controlDie (s : State) (c : NetClass) (a b : Nat) (e : Ev) : (s.send c a b e).controlDie = s.controlDie := rfl
@[simp] theorem State.send_controlFenced (s : State) (c : NetClass) (a b : Nat) (e : Ev) : (s.send c a b e).controlFenced = s.controlFenced := rfl
@[simp] theorem State.send_almanacs (s : State) (c : NetClass) (a b : Nat) (e : Ev) : (s.send c a b e).almanacs = s.almanacs := rfl
@[simp] theorem State.send_controlIncs (s : State) (c : NetClass) (a b : Nat) (e : Ev) : (s.send c a b e).controlIncs = s.controlIncs := rfl
@[simp] theorem State.send_testing (s : State) (c : NetClass) (a b : Nat) (e : Ev) : (s.send c a b e).testing = s.testing := rfl
@[simp] theorem State.send_flashLeaf (s : State) (c : NetClass) (a b : Nat) (e : Ev) : (s.send c a b e).flashLeaf = s.flashLeaf := rfl
@[simp] theorem State.send_leaf (s : State) (c : NetClass) (a b : Nat) (e : Ev) : (s.send c a b e).leaf = s.leaf := rfl
@[simp] theorem State.send_flashCert (s : State) (c : NetClass) (a b : Nat) (e : Ev) : (s.send c a b e).flashCert = s.flashCert := rfl
@[simp] theorem State.send_signing (s : State) (c : NetClass) (a b : Nat) (e : Ev) : (s.send c a b e).signing = s.signing := rfl
@[simp] theorem State.send_limits (s : State) (c : NetClass) (a b : Nat) (e : Ev) : (s.send c a b e).limits = s.limits := rfl
@[simp] theorem State.send_stacksFenced (s : State) (c : NetClass) (a b : Nat) (e : Ev) : (s.send c a b e).stacksFenced = s.stacksFenced := rfl
@[simp] theorem State.send_errLog (s : State) (c : NetClass) (a b : Nat) (e : Ev) : (s.send c a b e).errLog = s.errLog := rfl
@[simp] theorem State.send_dieTen (s : State) (c : NetClass) (a b : Nat) (e : Ev) : (s.send c a b e).dieTen = s.dieTen := rfl
@[simp] theorem State.send_frameTen (s : State) (c : NetClass) (a b : Nat) (e : Ev) : (s.send c a b e).frameTen = s.frameTen := rfl
@[simp] theorem State.send_windows (s : State) (c : NetClass) (a b : Nat) (e : Ev) : (s.send c a b e).windows = s.windows := rfl
@[simp] theorem State.send_fab (s : State) (c : NetClass) (a b : Nat) (e : Ev) : (s.send c a b e).fab = s.fab := rfl
@[simp] theorem State.send_lds (s : State) (c : NetClass) (a b : Nat) (e : Ev) : (s.send c a b e).lds = s.lds := rfl
@[simp] theorem State.send_unbinding (s : State) (c : NetClass) (a b : Nat) (e : Ev) : (s.send c a b e).unbinding = s.unbinding := rfl
@[simp] theorem State.send_hdm (s : State) (c : NetClass) (a b : Nat) (e : Ev) : (s.send c a b e).hdm = s.hdm := rfl
@[simp] theorem State.send_ldRegs (s : State) (c : NetClass) (a b : Nat) (e : Ev) : (s.send c a b e).ldRegs = s.ldRegs := rfl
@[simp] theorem State.send_linkWait (s : State) (c : NetClass) (a b : Nat) (e : Ev) : (s.send c a b e).linkWait = s.linkWait := rfl
@[simp] theorem State.send_badLanes (s : State) (c : NetClass) (a b : Nat) (e : Ev) : (s.send c a b e).badLanes = s.badLanes := rfl
@[simp] theorem State.send_gangs (s : State) (c : NetClass) (a b : Nat) (e : Ev) : (s.send c a b e).gangs = s.gangs := rfl
@[simp] theorem State.send_beats (s : State) (c : NetClass) (a b : Nat) (e : Ev) : (s.send c a b e).beats = s.beats := rfl
@[simp] theorem State.send_nextBeat (s : State) (c : NetClass) (a b : Nat) (e : Ev) : (s.send c a b e).nextBeat = s.nextBeat := rfl
@[simp] theorem State.send_deadPeers (s : State) (c : NetClass) (a b : Nat) (e : Ev) : (s.send c a b e).deadPeers = s.deadPeers := rfl
@[simp] theorem State.send_dies (s : State) (c : NetClass) (a b : Nat) (e : Ev) : (s.send c a b e).dies = s.dies := rfl
@[simp] theorem State.send_clusters (s : State) (c : NetClass) (a b : Nat) (e : Ev) : (s.send c a b e).clusters = s.clusters := rfl
@[simp] theorem State.send_cores (s : State) (c : NetClass) (a b : Nat) (e : Ev) : (s.send c a b e).cores = s.cores := rfl
@[simp] theorem State.send_warps (s : State) (c : NetClass) (a b : Nat) (e : Ev) : (s.send c a b e).warps = s.warps := rfl
@[simp] theorem State.send_nextWid (s : State) (c : NetClass) (a b : Nat) (e : Ev) : (s.send c a b e).nextWid = s.nextWid := rfl
@[simp] theorem State.send_ghosts (s : State) (c : NetClass) (a b : Nat) (e : Ev) : (s.send c a b e).ghosts = s.ghosts := rfl
@[simp] theorem State.send_slices (s : State) (c : NetClass) (a b : Nat) (e : Ev) : (s.send c a b e).slices = s.slices := rfl
@[simp] theorem State.send_dir (s : State) (c : NetClass) (a b : Nat) (e : Ev) : (s.send c a b e).dir = s.dir := rfl
@[simp] theorem State.send_hostHeld (s : State) (c : NetClass) (a b : Nat) (e : Ev) : (s.send c a b e).hostHeld = s.hostHeld := rfl
@[simp] theorem State.send_farWait (s : State) (c : NetClass) (a b : Nat) (e : Ev) : (s.send c a b e).farWait = s.farWait := rfl
@[simp] theorem State.send_objs (s : State) (c : NetClass) (a b : Nat) (e : Ev) : (s.send c a b e).objs = s.objs := rfl
@[simp] theorem State.send_mails (s : State) (c : NetClass) (a b : Nat) (e : Ev) : (s.send c a b e).mails = s.mails := rfl
@[simp] theorem State.send_gbars (s : State) (c : NetClass) (a b : Nat) (e : Ev) : (s.send c a b e).gbars = s.gbars := rfl
@[simp] theorem State.send_queues (s : State) (c : NetClass) (a b : Nat) (e : Ev) : (s.send c a b e).queues = s.queues := rfl
@[simp] theorem State.send_nextQueue (s : State) (c : NetClass) (a b : Nat) (e : Ev) : (s.send c a b e).nextQueue = s.nextQueue := rfl
@[simp] theorem State.send_nodes (s : State) (c : NetClass) (a b : Nat) (e : Ev) : (s.send c a b e).nodes = s.nodes := rfl
@[simp] theorem State.send_nextNid (s : State) (c : NetClass) (a b : Nat) (e : Ev) : (s.send c a b e).nextNid = s.nextNid := rfl
@[simp] theorem State.send_nextReady (s : State) (c : NetClass) (a b : Nat) (e : Ev) : (s.send c a b e).nextReady = s.nextReady := rfl
@[simp] theorem State.send_saved (s : State) (c : NetClass) (a b : Nat) (e : Ev) : (s.send c a b e).saved = s.saved := rfl
@[simp] theorem State.send_censuses (s : State) (c : NetClass) (a b : Nat) (e : Ev) : (s.send c a b e).censuses = s.censuses := rfl
@[simp] theorem State.send_nextCensus (s : State) (c : NetClass) (a b : Nat) (e : Ev) : (s.send c a b e).nextCensus = s.nextCensus := rfl
@[simp] theorem State.send_censusWait (s : State) (c : NetClass) (a b : Nat) (e : Ev) : (s.send c a b e).censusWait = s.censusWait := rfl
@[simp] theorem State.send_tmoves (s : State) (c : NetClass) (a b : Nat) (e : Ev) : (s.send c a b e).tmoves = s.tmoves := rfl
@[simp] theorem State.send_nextMove (s : State) (c : NetClass) (a b : Nat) (e : Ev) : (s.send c a b e).nextMove = s.nextMove := rfl
@[simp] theorem State.send_preqs (s : State) (c : NetClass) (a b : Nat) (e : Ev) : (s.send c a b e).preqs = s.preqs := rfl
@[simp] theorem State.send_peerSends (s : State) (c : NetClass) (a b : Nat) (e : Ev) : (s.send c a b e).peerSends = s.peerSends := rfl
@[simp] theorem State.send_out (s : State) (c : NetClass) (a b : Nat) (e : Ev) : (s.send c a b e).out = s.out := rfl
@[simp] theorem State.send_agenda (s : State) (c : NetClass) (a b : Nat) (e : Ev) : (s.send c a b e).agenda = s.agenda := rfl
@[simp] theorem State.send_tape (s : State) (c : NetClass) (a b : Nat) (e : Ev) : (s.send c a b e).tape = s.tape := rfl
@[simp] theorem State.send_flight (s : State) (c : NetClass) (a b : Nat) (e : Ev) : (s.send c a b e).flight = s.flight ++ [⟨c, a, b, e⟩] := rfl
@[simp] theorem State.send_parked (s : State) (c : NetClass) (a b : Nat) (e : Ev) : (s.send c a b e).parked = s.parked := rfl
@[simp] theorem State.send_cursor (s : State) (c : NetClass) (a b : Nat) (e : Ev) : (s.send c a b e).cursor = s.cursor := rfl
@[simp] theorem State.send_cur (s : State) (c : NetClass) (a b : Nat) (e : Ev) : (s.send c a b e).cur = s.cur := rfl
@[simp] theorem State.send_mslot (s : State) (c : NetClass) (a b : Nat) (e : Ev) : (s.send c a b e).mslot = s.mslot := rfl
@[simp] theorem State.send_snap (s : State) (c : NetClass) (a b : Nat) (e : Ev) : (s.send c a b e).snap = s.snap := rfl
@[simp] theorem State.send_ev (s : State) (c : NetClass) (a b : Nat) (e : Ev) : (s.send c a b e).ev = s.ev := rfl
@[simp] theorem State.send_verdict (s : State) (c : NetClass) (a b : Nat) (e : Ev) : (s.send c a b e).verdict = s.verdict := rfl

/-! ### `park` -/

@[simp] theorem State.park_root (s : State) (a b : Nat) (e : Ev) : (s.park a b e).root = s.root := rfl
@[simp] theorem State.park_mem (s : State) (a b : Nat) (e : Ev) : (s.park a b e).mem = s.mem := rfl
@[simp] theorem State.park_badDram (s : State) (a b : Nat) (e : Ev) : (s.park a b e).badDram = s.badDram := rfl
@[simp] theorem State.park_bringUp (s : State) (a b : Nat) (e : Ev) : (s.park a b e).bringUp = s.bringUp := rfl
@[simp] theorem State.park_upFailed (s : State) (a b : Nat) (e : Ev) : (s.park a b e).upFailed = s.upFailed := rfl
@[simp] theorem State.park_fields (s : State) (a b : Nat) (e : Ev) : (s.park a b e).fields = s.fields := rfl
@[simp] theorem State.park_image (s : State) (a b : Nat) (e : Ev) : (s.park a b e).image = s.image := rfl
@[simp] theorem State.park_controlDie (s : State) (a b : Nat) (e : Ev) : (s.park a b e).controlDie = s.controlDie := rfl
@[simp] theorem State.park_controlFenced (s : State) (a b : Nat) (e : Ev) : (s.park a b e).controlFenced = s.controlFenced := rfl
@[simp] theorem State.park_almanacs (s : State) (a b : Nat) (e : Ev) : (s.park a b e).almanacs = s.almanacs := rfl
@[simp] theorem State.park_controlIncs (s : State) (a b : Nat) (e : Ev) : (s.park a b e).controlIncs = s.controlIncs := rfl
@[simp] theorem State.park_testing (s : State) (a b : Nat) (e : Ev) : (s.park a b e).testing = s.testing := rfl
@[simp] theorem State.park_flashLeaf (s : State) (a b : Nat) (e : Ev) : (s.park a b e).flashLeaf = s.flashLeaf := rfl
@[simp] theorem State.park_leaf (s : State) (a b : Nat) (e : Ev) : (s.park a b e).leaf = s.leaf := rfl
@[simp] theorem State.park_flashCert (s : State) (a b : Nat) (e : Ev) : (s.park a b e).flashCert = s.flashCert := rfl
@[simp] theorem State.park_signing (s : State) (a b : Nat) (e : Ev) : (s.park a b e).signing = s.signing := rfl
@[simp] theorem State.park_limits (s : State) (a b : Nat) (e : Ev) : (s.park a b e).limits = s.limits := rfl
@[simp] theorem State.park_stacksFenced (s : State) (a b : Nat) (e : Ev) : (s.park a b e).stacksFenced = s.stacksFenced := rfl
@[simp] theorem State.park_errLog (s : State) (a b : Nat) (e : Ev) : (s.park a b e).errLog = s.errLog := rfl
@[simp] theorem State.park_dieTen (s : State) (a b : Nat) (e : Ev) : (s.park a b e).dieTen = s.dieTen := rfl
@[simp] theorem State.park_frameTen (s : State) (a b : Nat) (e : Ev) : (s.park a b e).frameTen = s.frameTen := rfl
@[simp] theorem State.park_windows (s : State) (a b : Nat) (e : Ev) : (s.park a b e).windows = s.windows := rfl
@[simp] theorem State.park_fab (s : State) (a b : Nat) (e : Ev) : (s.park a b e).fab = s.fab := rfl
@[simp] theorem State.park_lds (s : State) (a b : Nat) (e : Ev) : (s.park a b e).lds = s.lds := rfl
@[simp] theorem State.park_unbinding (s : State) (a b : Nat) (e : Ev) : (s.park a b e).unbinding = s.unbinding := rfl
@[simp] theorem State.park_hdm (s : State) (a b : Nat) (e : Ev) : (s.park a b e).hdm = s.hdm := rfl
@[simp] theorem State.park_ldRegs (s : State) (a b : Nat) (e : Ev) : (s.park a b e).ldRegs = s.ldRegs := rfl
@[simp] theorem State.park_linkWait (s : State) (a b : Nat) (e : Ev) : (s.park a b e).linkWait = s.linkWait := rfl
@[simp] theorem State.park_badLanes (s : State) (a b : Nat) (e : Ev) : (s.park a b e).badLanes = s.badLanes := rfl
@[simp] theorem State.park_gangs (s : State) (a b : Nat) (e : Ev) : (s.park a b e).gangs = s.gangs := rfl
@[simp] theorem State.park_beats (s : State) (a b : Nat) (e : Ev) : (s.park a b e).beats = s.beats := rfl
@[simp] theorem State.park_nextBeat (s : State) (a b : Nat) (e : Ev) : (s.park a b e).nextBeat = s.nextBeat := rfl
@[simp] theorem State.park_deadPeers (s : State) (a b : Nat) (e : Ev) : (s.park a b e).deadPeers = s.deadPeers := rfl
@[simp] theorem State.park_dies (s : State) (a b : Nat) (e : Ev) : (s.park a b e).dies = s.dies := rfl
@[simp] theorem State.park_clusters (s : State) (a b : Nat) (e : Ev) : (s.park a b e).clusters = s.clusters := rfl
@[simp] theorem State.park_cores (s : State) (a b : Nat) (e : Ev) : (s.park a b e).cores = s.cores := rfl
@[simp] theorem State.park_warps (s : State) (a b : Nat) (e : Ev) : (s.park a b e).warps = s.warps := rfl
@[simp] theorem State.park_nextWid (s : State) (a b : Nat) (e : Ev) : (s.park a b e).nextWid = s.nextWid := rfl
@[simp] theorem State.park_ghosts (s : State) (a b : Nat) (e : Ev) : (s.park a b e).ghosts = s.ghosts := rfl
@[simp] theorem State.park_slices (s : State) (a b : Nat) (e : Ev) : (s.park a b e).slices = s.slices := rfl
@[simp] theorem State.park_dir (s : State) (a b : Nat) (e : Ev) : (s.park a b e).dir = s.dir := rfl
@[simp] theorem State.park_hostHeld (s : State) (a b : Nat) (e : Ev) : (s.park a b e).hostHeld = s.hostHeld := rfl
@[simp] theorem State.park_farWait (s : State) (a b : Nat) (e : Ev) : (s.park a b e).farWait = s.farWait := rfl
@[simp] theorem State.park_objs (s : State) (a b : Nat) (e : Ev) : (s.park a b e).objs = s.objs := rfl
@[simp] theorem State.park_mails (s : State) (a b : Nat) (e : Ev) : (s.park a b e).mails = s.mails := rfl
@[simp] theorem State.park_gbars (s : State) (a b : Nat) (e : Ev) : (s.park a b e).gbars = s.gbars := rfl
@[simp] theorem State.park_queues (s : State) (a b : Nat) (e : Ev) : (s.park a b e).queues = s.queues := rfl
@[simp] theorem State.park_nextQueue (s : State) (a b : Nat) (e : Ev) : (s.park a b e).nextQueue = s.nextQueue := rfl
@[simp] theorem State.park_nodes (s : State) (a b : Nat) (e : Ev) : (s.park a b e).nodes = s.nodes := rfl
@[simp] theorem State.park_nextNid (s : State) (a b : Nat) (e : Ev) : (s.park a b e).nextNid = s.nextNid := rfl
@[simp] theorem State.park_nextReady (s : State) (a b : Nat) (e : Ev) : (s.park a b e).nextReady = s.nextReady := rfl
@[simp] theorem State.park_saved (s : State) (a b : Nat) (e : Ev) : (s.park a b e).saved = s.saved := rfl
@[simp] theorem State.park_censuses (s : State) (a b : Nat) (e : Ev) : (s.park a b e).censuses = s.censuses := rfl
@[simp] theorem State.park_nextCensus (s : State) (a b : Nat) (e : Ev) : (s.park a b e).nextCensus = s.nextCensus := rfl
@[simp] theorem State.park_censusWait (s : State) (a b : Nat) (e : Ev) : (s.park a b e).censusWait = s.censusWait := rfl
@[simp] theorem State.park_tmoves (s : State) (a b : Nat) (e : Ev) : (s.park a b e).tmoves = s.tmoves := rfl
@[simp] theorem State.park_nextMove (s : State) (a b : Nat) (e : Ev) : (s.park a b e).nextMove = s.nextMove := rfl
@[simp] theorem State.park_preqs (s : State) (a b : Nat) (e : Ev) : (s.park a b e).preqs = s.preqs := rfl
@[simp] theorem State.park_peerSends (s : State) (a b : Nat) (e : Ev) : (s.park a b e).peerSends = s.peerSends := rfl
@[simp] theorem State.park_out (s : State) (a b : Nat) (e : Ev) : (s.park a b e).out = s.out := rfl
@[simp] theorem State.park_agenda (s : State) (a b : Nat) (e : Ev) : (s.park a b e).agenda = s.agenda := rfl
@[simp] theorem State.park_tape (s : State) (a b : Nat) (e : Ev) : (s.park a b e).tape = s.tape := rfl
@[simp] theorem State.park_flight (s : State) (a b : Nat) (e : Ev) : (s.park a b e).flight = s.flight := rfl
@[simp] theorem State.park_parked (s : State) (a b : Nat) (e : Ev) : (s.park a b e).parked = s.parked ++ [⟨.request, a, b, e⟩] := rfl
@[simp] theorem State.park_cursor (s : State) (a b : Nat) (e : Ev) : (s.park a b e).cursor = s.cursor := rfl
@[simp] theorem State.park_cur (s : State) (a b : Nat) (e : Ev) : (s.park a b e).cur = s.cur := rfl
@[simp] theorem State.park_mslot (s : State) (a b : Nat) (e : Ev) : (s.park a b e).mslot = s.mslot := rfl
@[simp] theorem State.park_snap (s : State) (a b : Nat) (e : Ev) : (s.park a b e).snap = s.snap := rfl
@[simp] theorem State.park_ev (s : State) (a b : Nat) (e : Ev) : (s.park a b e).ev = s.ev := rfl
@[simp] theorem State.park_verdict (s : State) (a b : Nat) (e : Ev) : (s.park a b e).verdict = s.verdict := rfl

/-! ### `emit` -/

@[simp] theorem State.emit_root (s : State) (e : Emit) : (s.emit e).root = s.root := rfl
@[simp] theorem State.emit_mem (s : State) (e : Emit) : (s.emit e).mem = s.mem := rfl
@[simp] theorem State.emit_badDram (s : State) (e : Emit) : (s.emit e).badDram = s.badDram := rfl
@[simp] theorem State.emit_bringUp (s : State) (e : Emit) : (s.emit e).bringUp = s.bringUp := rfl
@[simp] theorem State.emit_upFailed (s : State) (e : Emit) : (s.emit e).upFailed = s.upFailed := rfl
@[simp] theorem State.emit_fields (s : State) (e : Emit) : (s.emit e).fields = s.fields := rfl
@[simp] theorem State.emit_image (s : State) (e : Emit) : (s.emit e).image = s.image := rfl
@[simp] theorem State.emit_controlDie (s : State) (e : Emit) : (s.emit e).controlDie = s.controlDie := rfl
@[simp] theorem State.emit_controlFenced (s : State) (e : Emit) : (s.emit e).controlFenced = s.controlFenced := rfl
@[simp] theorem State.emit_almanacs (s : State) (e : Emit) : (s.emit e).almanacs = s.almanacs := rfl
@[simp] theorem State.emit_controlIncs (s : State) (e : Emit) : (s.emit e).controlIncs = s.controlIncs := rfl
@[simp] theorem State.emit_testing (s : State) (e : Emit) : (s.emit e).testing = s.testing := rfl
@[simp] theorem State.emit_flashLeaf (s : State) (e : Emit) : (s.emit e).flashLeaf = s.flashLeaf := rfl
@[simp] theorem State.emit_leaf (s : State) (e : Emit) : (s.emit e).leaf = s.leaf := rfl
@[simp] theorem State.emit_flashCert (s : State) (e : Emit) : (s.emit e).flashCert = s.flashCert := rfl
@[simp] theorem State.emit_signing (s : State) (e : Emit) : (s.emit e).signing = s.signing := rfl
@[simp] theorem State.emit_limits (s : State) (e : Emit) : (s.emit e).limits = s.limits := rfl
@[simp] theorem State.emit_stacksFenced (s : State) (e : Emit) : (s.emit e).stacksFenced = s.stacksFenced := rfl
@[simp] theorem State.emit_errLog (s : State) (e : Emit) : (s.emit e).errLog = s.errLog := rfl
@[simp] theorem State.emit_dieTen (s : State) (e : Emit) : (s.emit e).dieTen = s.dieTen := rfl
@[simp] theorem State.emit_frameTen (s : State) (e : Emit) : (s.emit e).frameTen = s.frameTen := rfl
@[simp] theorem State.emit_windows (s : State) (e : Emit) : (s.emit e).windows = s.windows := rfl
@[simp] theorem State.emit_fab (s : State) (e : Emit) : (s.emit e).fab = s.fab := rfl
@[simp] theorem State.emit_lds (s : State) (e : Emit) : (s.emit e).lds = s.lds := rfl
@[simp] theorem State.emit_unbinding (s : State) (e : Emit) : (s.emit e).unbinding = s.unbinding := rfl
@[simp] theorem State.emit_hdm (s : State) (e : Emit) : (s.emit e).hdm = s.hdm := rfl
@[simp] theorem State.emit_ldRegs (s : State) (e : Emit) : (s.emit e).ldRegs = s.ldRegs := rfl
@[simp] theorem State.emit_linkWait (s : State) (e : Emit) : (s.emit e).linkWait = s.linkWait := rfl
@[simp] theorem State.emit_badLanes (s : State) (e : Emit) : (s.emit e).badLanes = s.badLanes := rfl
@[simp] theorem State.emit_gangs (s : State) (e : Emit) : (s.emit e).gangs = s.gangs := rfl
@[simp] theorem State.emit_beats (s : State) (e : Emit) : (s.emit e).beats = s.beats := rfl
@[simp] theorem State.emit_nextBeat (s : State) (e : Emit) : (s.emit e).nextBeat = s.nextBeat := rfl
@[simp] theorem State.emit_deadPeers (s : State) (e : Emit) : (s.emit e).deadPeers = s.deadPeers := rfl
@[simp] theorem State.emit_dies (s : State) (e : Emit) : (s.emit e).dies = s.dies := rfl
@[simp] theorem State.emit_clusters (s : State) (e : Emit) : (s.emit e).clusters = s.clusters := rfl
@[simp] theorem State.emit_cores (s : State) (e : Emit) : (s.emit e).cores = s.cores := rfl
@[simp] theorem State.emit_warps (s : State) (e : Emit) : (s.emit e).warps = s.warps := rfl
@[simp] theorem State.emit_nextWid (s : State) (e : Emit) : (s.emit e).nextWid = s.nextWid := rfl
@[simp] theorem State.emit_ghosts (s : State) (e : Emit) : (s.emit e).ghosts = s.ghosts := rfl
@[simp] theorem State.emit_slices (s : State) (e : Emit) : (s.emit e).slices = s.slices := rfl
@[simp] theorem State.emit_dir (s : State) (e : Emit) : (s.emit e).dir = s.dir := rfl
@[simp] theorem State.emit_hostHeld (s : State) (e : Emit) : (s.emit e).hostHeld = s.hostHeld := rfl
@[simp] theorem State.emit_farWait (s : State) (e : Emit) : (s.emit e).farWait = s.farWait := rfl
@[simp] theorem State.emit_objs (s : State) (e : Emit) : (s.emit e).objs = s.objs := rfl
@[simp] theorem State.emit_mails (s : State) (e : Emit) : (s.emit e).mails = s.mails := rfl
@[simp] theorem State.emit_gbars (s : State) (e : Emit) : (s.emit e).gbars = s.gbars := rfl
@[simp] theorem State.emit_queues (s : State) (e : Emit) : (s.emit e).queues = s.queues := rfl
@[simp] theorem State.emit_nextQueue (s : State) (e : Emit) : (s.emit e).nextQueue = s.nextQueue := rfl
@[simp] theorem State.emit_nodes (s : State) (e : Emit) : (s.emit e).nodes = s.nodes := rfl
@[simp] theorem State.emit_nextNid (s : State) (e : Emit) : (s.emit e).nextNid = s.nextNid := rfl
@[simp] theorem State.emit_nextReady (s : State) (e : Emit) : (s.emit e).nextReady = s.nextReady := rfl
@[simp] theorem State.emit_saved (s : State) (e : Emit) : (s.emit e).saved = s.saved := rfl
@[simp] theorem State.emit_censuses (s : State) (e : Emit) : (s.emit e).censuses = s.censuses := rfl
@[simp] theorem State.emit_nextCensus (s : State) (e : Emit) : (s.emit e).nextCensus = s.nextCensus := rfl
@[simp] theorem State.emit_censusWait (s : State) (e : Emit) : (s.emit e).censusWait = s.censusWait := rfl
@[simp] theorem State.emit_tmoves (s : State) (e : Emit) : (s.emit e).tmoves = s.tmoves := rfl
@[simp] theorem State.emit_nextMove (s : State) (e : Emit) : (s.emit e).nextMove = s.nextMove := rfl
@[simp] theorem State.emit_preqs (s : State) (e : Emit) : (s.emit e).preqs = s.preqs := rfl
@[simp] theorem State.emit_peerSends (s : State) (e : Emit) : (s.emit e).peerSends = s.peerSends := rfl
@[simp] theorem State.emit_out (s : State) (e : Emit) : (s.emit e).out = e :: s.out := rfl
@[simp] theorem State.emit_agenda (s : State) (e : Emit) : (s.emit e).agenda = s.agenda := rfl
@[simp] theorem State.emit_tape (s : State) (e : Emit) : (s.emit e).tape = s.tape := rfl
@[simp] theorem State.emit_flight (s : State) (e : Emit) : (s.emit e).flight = s.flight := rfl
@[simp] theorem State.emit_parked (s : State) (e : Emit) : (s.emit e).parked = s.parked := rfl
@[simp] theorem State.emit_cursor (s : State) (e : Emit) : (s.emit e).cursor = s.cursor := rfl
@[simp] theorem State.emit_cur (s : State) (e : Emit) : (s.emit e).cur = s.cur := rfl
@[simp] theorem State.emit_mslot (s : State) (e : Emit) : (s.emit e).mslot = s.mslot := rfl
@[simp] theorem State.emit_snap (s : State) (e : Emit) : (s.emit e).snap = s.snap := rfl
@[simp] theorem State.emit_ev (s : State) (e : Emit) : (s.emit e).ev = s.ev := rfl
@[simp] theorem State.emit_verdict (s : State) (e : Emit) : (s.emit e).verdict = s.verdict := rfl

/-! ### `log` -/

@[simp] theorem State.log_root (s : State) (k a b c d : Nat) : (s.log k a b c d).root = s.root := rfl
@[simp] theorem State.log_mem (s : State) (k a b c d : Nat) : (s.log k a b c d).mem = s.mem := rfl
@[simp] theorem State.log_badDram (s : State) (k a b c d : Nat) : (s.log k a b c d).badDram = s.badDram := rfl
@[simp] theorem State.log_bringUp (s : State) (k a b c d : Nat) : (s.log k a b c d).bringUp = s.bringUp := rfl
@[simp] theorem State.log_upFailed (s : State) (k a b c d : Nat) : (s.log k a b c d).upFailed = s.upFailed := rfl
@[simp] theorem State.log_fields (s : State) (k a b c d : Nat) : (s.log k a b c d).fields = s.fields := rfl
@[simp] theorem State.log_image (s : State) (k a b c d : Nat) : (s.log k a b c d).image = s.image := rfl
@[simp] theorem State.log_controlDie (s : State) (k a b c d : Nat) : (s.log k a b c d).controlDie = s.controlDie := rfl
@[simp] theorem State.log_controlFenced (s : State) (k a b c d : Nat) : (s.log k a b c d).controlFenced = s.controlFenced := rfl
@[simp] theorem State.log_almanacs (s : State) (k a b c d : Nat) : (s.log k a b c d).almanacs = s.almanacs := rfl
@[simp] theorem State.log_controlIncs (s : State) (k a b c d : Nat) : (s.log k a b c d).controlIncs = s.controlIncs := rfl
@[simp] theorem State.log_testing (s : State) (k a b c d : Nat) : (s.log k a b c d).testing = s.testing := rfl
@[simp] theorem State.log_flashLeaf (s : State) (k a b c d : Nat) : (s.log k a b c d).flashLeaf = s.flashLeaf := rfl
@[simp] theorem State.log_leaf (s : State) (k a b c d : Nat) : (s.log k a b c d).leaf = s.leaf := rfl
@[simp] theorem State.log_flashCert (s : State) (k a b c d : Nat) : (s.log k a b c d).flashCert = s.flashCert := rfl
@[simp] theorem State.log_signing (s : State) (k a b c d : Nat) : (s.log k a b c d).signing = s.signing := rfl
@[simp] theorem State.log_limits (s : State) (k a b c d : Nat) : (s.log k a b c d).limits = s.limits := rfl
@[simp] theorem State.log_stacksFenced (s : State) (k a b c d : Nat) : (s.log k a b c d).stacksFenced = s.stacksFenced := rfl
@[simp] theorem State.log_errLog (s : State) (k a b c d : Nat) : (s.log k a b c d).errLog = ({ time := s.root, kind := k, src := a, sidx := b, aux := c, addr := d } :: s.errLog).take 4096 := rfl
@[simp] theorem State.log_dieTen (s : State) (k a b c d : Nat) : (s.log k a b c d).dieTen = s.dieTen := rfl
@[simp] theorem State.log_frameTen (s : State) (k a b c d : Nat) : (s.log k a b c d).frameTen = s.frameTen := rfl
@[simp] theorem State.log_windows (s : State) (k a b c d : Nat) : (s.log k a b c d).windows = s.windows := rfl
@[simp] theorem State.log_fab (s : State) (k a b c d : Nat) : (s.log k a b c d).fab = s.fab := rfl
@[simp] theorem State.log_lds (s : State) (k a b c d : Nat) : (s.log k a b c d).lds = s.lds := rfl
@[simp] theorem State.log_unbinding (s : State) (k a b c d : Nat) : (s.log k a b c d).unbinding = s.unbinding := rfl
@[simp] theorem State.log_hdm (s : State) (k a b c d : Nat) : (s.log k a b c d).hdm = s.hdm := rfl
@[simp] theorem State.log_ldRegs (s : State) (k a b c d : Nat) : (s.log k a b c d).ldRegs = s.ldRegs := rfl
@[simp] theorem State.log_linkWait (s : State) (k a b c d : Nat) : (s.log k a b c d).linkWait = s.linkWait := rfl
@[simp] theorem State.log_badLanes (s : State) (k a b c d : Nat) : (s.log k a b c d).badLanes = s.badLanes := rfl
@[simp] theorem State.log_gangs (s : State) (k a b c d : Nat) : (s.log k a b c d).gangs = s.gangs := rfl
@[simp] theorem State.log_beats (s : State) (k a b c d : Nat) : (s.log k a b c d).beats = s.beats := rfl
@[simp] theorem State.log_nextBeat (s : State) (k a b c d : Nat) : (s.log k a b c d).nextBeat = s.nextBeat := rfl
@[simp] theorem State.log_deadPeers (s : State) (k a b c d : Nat) : (s.log k a b c d).deadPeers = s.deadPeers := rfl
@[simp] theorem State.log_dies (s : State) (k a b c d : Nat) : (s.log k a b c d).dies = s.dies := rfl
@[simp] theorem State.log_clusters (s : State) (k a b c d : Nat) : (s.log k a b c d).clusters = s.clusters := rfl
@[simp] theorem State.log_cores (s : State) (k a b c d : Nat) : (s.log k a b c d).cores = s.cores := rfl
@[simp] theorem State.log_warps (s : State) (k a b c d : Nat) : (s.log k a b c d).warps = s.warps := rfl
@[simp] theorem State.log_nextWid (s : State) (k a b c d : Nat) : (s.log k a b c d).nextWid = s.nextWid := rfl
@[simp] theorem State.log_ghosts (s : State) (k a b c d : Nat) : (s.log k a b c d).ghosts = s.ghosts := rfl
@[simp] theorem State.log_slices (s : State) (k a b c d : Nat) : (s.log k a b c d).slices = s.slices := rfl
@[simp] theorem State.log_dir (s : State) (k a b c d : Nat) : (s.log k a b c d).dir = s.dir := rfl
@[simp] theorem State.log_hostHeld (s : State) (k a b c d : Nat) : (s.log k a b c d).hostHeld = s.hostHeld := rfl
@[simp] theorem State.log_farWait (s : State) (k a b c d : Nat) : (s.log k a b c d).farWait = s.farWait := rfl
@[simp] theorem State.log_objs (s : State) (k a b c d : Nat) : (s.log k a b c d).objs = s.objs := rfl
@[simp] theorem State.log_mails (s : State) (k a b c d : Nat) : (s.log k a b c d).mails = s.mails := rfl
@[simp] theorem State.log_gbars (s : State) (k a b c d : Nat) : (s.log k a b c d).gbars = s.gbars := rfl
@[simp] theorem State.log_queues (s : State) (k a b c d : Nat) : (s.log k a b c d).queues = s.queues := rfl
@[simp] theorem State.log_nextQueue (s : State) (k a b c d : Nat) : (s.log k a b c d).nextQueue = s.nextQueue := rfl
@[simp] theorem State.log_nodes (s : State) (k a b c d : Nat) : (s.log k a b c d).nodes = s.nodes := rfl
@[simp] theorem State.log_nextNid (s : State) (k a b c d : Nat) : (s.log k a b c d).nextNid = s.nextNid := rfl
@[simp] theorem State.log_nextReady (s : State) (k a b c d : Nat) : (s.log k a b c d).nextReady = s.nextReady := rfl
@[simp] theorem State.log_saved (s : State) (k a b c d : Nat) : (s.log k a b c d).saved = s.saved := rfl
@[simp] theorem State.log_censuses (s : State) (k a b c d : Nat) : (s.log k a b c d).censuses = s.censuses := rfl
@[simp] theorem State.log_nextCensus (s : State) (k a b c d : Nat) : (s.log k a b c d).nextCensus = s.nextCensus := rfl
@[simp] theorem State.log_censusWait (s : State) (k a b c d : Nat) : (s.log k a b c d).censusWait = s.censusWait := rfl
@[simp] theorem State.log_tmoves (s : State) (k a b c d : Nat) : (s.log k a b c d).tmoves = s.tmoves := rfl
@[simp] theorem State.log_nextMove (s : State) (k a b c d : Nat) : (s.log k a b c d).nextMove = s.nextMove := rfl
@[simp] theorem State.log_preqs (s : State) (k a b c d : Nat) : (s.log k a b c d).preqs = s.preqs := rfl
@[simp] theorem State.log_peerSends (s : State) (k a b c d : Nat) : (s.log k a b c d).peerSends = s.peerSends := rfl
@[simp] theorem State.log_out (s : State) (k a b c d : Nat) : (s.log k a b c d).out = s.out := rfl
@[simp] theorem State.log_agenda (s : State) (k a b c d : Nat) : (s.log k a b c d).agenda = s.agenda := rfl
@[simp] theorem State.log_tape (s : State) (k a b c d : Nat) : (s.log k a b c d).tape = s.tape := rfl
@[simp] theorem State.log_flight (s : State) (k a b c d : Nat) : (s.log k a b c d).flight = s.flight := rfl
@[simp] theorem State.log_parked (s : State) (k a b c d : Nat) : (s.log k a b c d).parked = s.parked := rfl
@[simp] theorem State.log_cursor (s : State) (k a b c d : Nat) : (s.log k a b c d).cursor = s.cursor := rfl
@[simp] theorem State.log_cur (s : State) (k a b c d : Nat) : (s.log k a b c d).cur = s.cur := rfl
@[simp] theorem State.log_mslot (s : State) (k a b c d : Nat) : (s.log k a b c d).mslot = s.mslot := rfl
@[simp] theorem State.log_snap (s : State) (k a b c d : Nat) : (s.log k a b c d).snap = s.snap := rfl
@[simp] theorem State.log_ev (s : State) (k a b c d : Nat) : (s.log k a b c d).ev = s.ev := rfl
@[simp] theorem State.log_verdict (s : State) (k a b c d : Nat) : (s.log k a b c d).verdict = s.verdict := rfl

/-! ### `logStale` -/

@[simp] theorem State.logStale_root (s : State) (c : NetClass) (n : Nat) (i : BitVec 16) (a : Nat) : (s.logStale c n i a).root = s.root := rfl
@[simp] theorem State.logStale_mem (s : State) (c : NetClass) (n : Nat) (i : BitVec 16) (a : Nat) : (s.logStale c n i a).mem = s.mem := rfl
@[simp] theorem State.logStale_badDram (s : State) (c : NetClass) (n : Nat) (i : BitVec 16) (a : Nat) : (s.logStale c n i a).badDram = s.badDram := rfl
@[simp] theorem State.logStale_bringUp (s : State) (c : NetClass) (n : Nat) (i : BitVec 16) (a : Nat) : (s.logStale c n i a).bringUp = s.bringUp := rfl
@[simp] theorem State.logStale_upFailed (s : State) (c : NetClass) (n : Nat) (i : BitVec 16) (a : Nat) : (s.logStale c n i a).upFailed = s.upFailed := rfl
@[simp] theorem State.logStale_fields (s : State) (c : NetClass) (n : Nat) (i : BitVec 16) (a : Nat) : (s.logStale c n i a).fields = s.fields := rfl
@[simp] theorem State.logStale_image (s : State) (c : NetClass) (n : Nat) (i : BitVec 16) (a : Nat) : (s.logStale c n i a).image = s.image := rfl
@[simp] theorem State.logStale_controlDie (s : State) (c : NetClass) (n : Nat) (i : BitVec 16) (a : Nat) : (s.logStale c n i a).controlDie = s.controlDie := rfl
@[simp] theorem State.logStale_controlFenced (s : State) (c : NetClass) (n : Nat) (i : BitVec 16) (a : Nat) : (s.logStale c n i a).controlFenced = s.controlFenced := rfl
@[simp] theorem State.logStale_almanacs (s : State) (c : NetClass) (n : Nat) (i : BitVec 16) (a : Nat) : (s.logStale c n i a).almanacs = s.almanacs := rfl
@[simp] theorem State.logStale_controlIncs (s : State) (c : NetClass) (n : Nat) (i : BitVec 16) (a : Nat) : (s.logStale c n i a).controlIncs = s.controlIncs := rfl
@[simp] theorem State.logStale_testing (s : State) (c : NetClass) (n : Nat) (i : BitVec 16) (a : Nat) : (s.logStale c n i a).testing = s.testing := rfl
@[simp] theorem State.logStale_flashLeaf (s : State) (c : NetClass) (n : Nat) (i : BitVec 16) (a : Nat) : (s.logStale c n i a).flashLeaf = s.flashLeaf := rfl
@[simp] theorem State.logStale_leaf (s : State) (c : NetClass) (n : Nat) (i : BitVec 16) (a : Nat) : (s.logStale c n i a).leaf = s.leaf := rfl
@[simp] theorem State.logStale_flashCert (s : State) (c : NetClass) (n : Nat) (i : BitVec 16) (a : Nat) : (s.logStale c n i a).flashCert = s.flashCert := rfl
@[simp] theorem State.logStale_signing (s : State) (c : NetClass) (n : Nat) (i : BitVec 16) (a : Nat) : (s.logStale c n i a).signing = s.signing := rfl
@[simp] theorem State.logStale_limits (s : State) (c : NetClass) (n : Nat) (i : BitVec 16) (a : Nat) : (s.logStale c n i a).limits = s.limits := rfl
@[simp] theorem State.logStale_stacksFenced (s : State) (c : NetClass) (n : Nat) (i : BitVec 16) (a : Nat) : (s.logStale c n i a).stacksFenced = s.stacksFenced := rfl
@[simp] theorem State.logStale_errLog (s : State) (c : NetClass) (n : Nat) (i : BitVec 16) (a : Nat) : (s.logStale c n i a).errLog = ({ time := s.root, kind := 3, src := 2, sidx := n, aux := i.toNat, addr := a, mcls := some c } :: s.errLog).take 4096 := rfl
@[simp] theorem State.logStale_dieTen (s : State) (c : NetClass) (n : Nat) (i : BitVec 16) (a : Nat) : (s.logStale c n i a).dieTen = s.dieTen := rfl
@[simp] theorem State.logStale_frameTen (s : State) (c : NetClass) (n : Nat) (i : BitVec 16) (a : Nat) : (s.logStale c n i a).frameTen = s.frameTen := rfl
@[simp] theorem State.logStale_windows (s : State) (c : NetClass) (n : Nat) (i : BitVec 16) (a : Nat) : (s.logStale c n i a).windows = s.windows := rfl
@[simp] theorem State.logStale_fab (s : State) (c : NetClass) (n : Nat) (i : BitVec 16) (a : Nat) : (s.logStale c n i a).fab = s.fab := rfl
@[simp] theorem State.logStale_lds (s : State) (c : NetClass) (n : Nat) (i : BitVec 16) (a : Nat) : (s.logStale c n i a).lds = s.lds := rfl
@[simp] theorem State.logStale_unbinding (s : State) (c : NetClass) (n : Nat) (i : BitVec 16) (a : Nat) : (s.logStale c n i a).unbinding = s.unbinding := rfl
@[simp] theorem State.logStale_hdm (s : State) (c : NetClass) (n : Nat) (i : BitVec 16) (a : Nat) : (s.logStale c n i a).hdm = s.hdm := rfl
@[simp] theorem State.logStale_ldRegs (s : State) (c : NetClass) (n : Nat) (i : BitVec 16) (a : Nat) : (s.logStale c n i a).ldRegs = s.ldRegs := rfl
@[simp] theorem State.logStale_linkWait (s : State) (c : NetClass) (n : Nat) (i : BitVec 16) (a : Nat) : (s.logStale c n i a).linkWait = s.linkWait := rfl
@[simp] theorem State.logStale_badLanes (s : State) (c : NetClass) (n : Nat) (i : BitVec 16) (a : Nat) : (s.logStale c n i a).badLanes = s.badLanes := rfl
@[simp] theorem State.logStale_gangs (s : State) (c : NetClass) (n : Nat) (i : BitVec 16) (a : Nat) : (s.logStale c n i a).gangs = s.gangs := rfl
@[simp] theorem State.logStale_beats (s : State) (c : NetClass) (n : Nat) (i : BitVec 16) (a : Nat) : (s.logStale c n i a).beats = s.beats := rfl
@[simp] theorem State.logStale_nextBeat (s : State) (c : NetClass) (n : Nat) (i : BitVec 16) (a : Nat) : (s.logStale c n i a).nextBeat = s.nextBeat := rfl
@[simp] theorem State.logStale_deadPeers (s : State) (c : NetClass) (n : Nat) (i : BitVec 16) (a : Nat) : (s.logStale c n i a).deadPeers = s.deadPeers := rfl
@[simp] theorem State.logStale_dies (s : State) (c : NetClass) (n : Nat) (i : BitVec 16) (a : Nat) : (s.logStale c n i a).dies = s.dies := rfl
@[simp] theorem State.logStale_clusters (s : State) (c : NetClass) (n : Nat) (i : BitVec 16) (a : Nat) : (s.logStale c n i a).clusters = s.clusters := rfl
@[simp] theorem State.logStale_cores (s : State) (c : NetClass) (n : Nat) (i : BitVec 16) (a : Nat) : (s.logStale c n i a).cores = s.cores := rfl
@[simp] theorem State.logStale_warps (s : State) (c : NetClass) (n : Nat) (i : BitVec 16) (a : Nat) : (s.logStale c n i a).warps = s.warps := rfl
@[simp] theorem State.logStale_nextWid (s : State) (c : NetClass) (n : Nat) (i : BitVec 16) (a : Nat) : (s.logStale c n i a).nextWid = s.nextWid := rfl
@[simp] theorem State.logStale_ghosts (s : State) (c : NetClass) (n : Nat) (i : BitVec 16) (a : Nat) : (s.logStale c n i a).ghosts = s.ghosts := rfl
@[simp] theorem State.logStale_slices (s : State) (c : NetClass) (n : Nat) (i : BitVec 16) (a : Nat) : (s.logStale c n i a).slices = s.slices := rfl
@[simp] theorem State.logStale_dir (s : State) (c : NetClass) (n : Nat) (i : BitVec 16) (a : Nat) : (s.logStale c n i a).dir = s.dir := rfl
@[simp] theorem State.logStale_hostHeld (s : State) (c : NetClass) (n : Nat) (i : BitVec 16) (a : Nat) : (s.logStale c n i a).hostHeld = s.hostHeld := rfl
@[simp] theorem State.logStale_farWait (s : State) (c : NetClass) (n : Nat) (i : BitVec 16) (a : Nat) : (s.logStale c n i a).farWait = s.farWait := rfl
@[simp] theorem State.logStale_objs (s : State) (c : NetClass) (n : Nat) (i : BitVec 16) (a : Nat) : (s.logStale c n i a).objs = s.objs := rfl
@[simp] theorem State.logStale_mails (s : State) (c : NetClass) (n : Nat) (i : BitVec 16) (a : Nat) : (s.logStale c n i a).mails = s.mails := rfl
@[simp] theorem State.logStale_gbars (s : State) (c : NetClass) (n : Nat) (i : BitVec 16) (a : Nat) : (s.logStale c n i a).gbars = s.gbars := rfl
@[simp] theorem State.logStale_queues (s : State) (c : NetClass) (n : Nat) (i : BitVec 16) (a : Nat) : (s.logStale c n i a).queues = s.queues := rfl
@[simp] theorem State.logStale_nextQueue (s : State) (c : NetClass) (n : Nat) (i : BitVec 16) (a : Nat) : (s.logStale c n i a).nextQueue = s.nextQueue := rfl
@[simp] theorem State.logStale_nodes (s : State) (c : NetClass) (n : Nat) (i : BitVec 16) (a : Nat) : (s.logStale c n i a).nodes = s.nodes := rfl
@[simp] theorem State.logStale_nextNid (s : State) (c : NetClass) (n : Nat) (i : BitVec 16) (a : Nat) : (s.logStale c n i a).nextNid = s.nextNid := rfl
@[simp] theorem State.logStale_nextReady (s : State) (c : NetClass) (n : Nat) (i : BitVec 16) (a : Nat) : (s.logStale c n i a).nextReady = s.nextReady := rfl
@[simp] theorem State.logStale_saved (s : State) (c : NetClass) (n : Nat) (i : BitVec 16) (a : Nat) : (s.logStale c n i a).saved = s.saved := rfl
@[simp] theorem State.logStale_censuses (s : State) (c : NetClass) (n : Nat) (i : BitVec 16) (a : Nat) : (s.logStale c n i a).censuses = s.censuses := rfl
@[simp] theorem State.logStale_nextCensus (s : State) (c : NetClass) (n : Nat) (i : BitVec 16) (a : Nat) : (s.logStale c n i a).nextCensus = s.nextCensus := rfl
@[simp] theorem State.logStale_censusWait (s : State) (c : NetClass) (n : Nat) (i : BitVec 16) (a : Nat) : (s.logStale c n i a).censusWait = s.censusWait := rfl
@[simp] theorem State.logStale_tmoves (s : State) (c : NetClass) (n : Nat) (i : BitVec 16) (a : Nat) : (s.logStale c n i a).tmoves = s.tmoves := rfl
@[simp] theorem State.logStale_nextMove (s : State) (c : NetClass) (n : Nat) (i : BitVec 16) (a : Nat) : (s.logStale c n i a).nextMove = s.nextMove := rfl
@[simp] theorem State.logStale_preqs (s : State) (c : NetClass) (n : Nat) (i : BitVec 16) (a : Nat) : (s.logStale c n i a).preqs = s.preqs := rfl
@[simp] theorem State.logStale_peerSends (s : State) (c : NetClass) (n : Nat) (i : BitVec 16) (a : Nat) : (s.logStale c n i a).peerSends = s.peerSends := rfl
@[simp] theorem State.logStale_out (s : State) (c : NetClass) (n : Nat) (i : BitVec 16) (a : Nat) : (s.logStale c n i a).out = s.out := rfl
@[simp] theorem State.logStale_agenda (s : State) (c : NetClass) (n : Nat) (i : BitVec 16) (a : Nat) : (s.logStale c n i a).agenda = s.agenda := rfl
@[simp] theorem State.logStale_tape (s : State) (c : NetClass) (n : Nat) (i : BitVec 16) (a : Nat) : (s.logStale c n i a).tape = s.tape := rfl
@[simp] theorem State.logStale_flight (s : State) (c : NetClass) (n : Nat) (i : BitVec 16) (a : Nat) : (s.logStale c n i a).flight = s.flight := rfl
@[simp] theorem State.logStale_parked (s : State) (c : NetClass) (n : Nat) (i : BitVec 16) (a : Nat) : (s.logStale c n i a).parked = s.parked := rfl
@[simp] theorem State.logStale_cursor (s : State) (c : NetClass) (n : Nat) (i : BitVec 16) (a : Nat) : (s.logStale c n i a).cursor = s.cursor := rfl
@[simp] theorem State.logStale_cur (s : State) (c : NetClass) (n : Nat) (i : BitVec 16) (a : Nat) : (s.logStale c n i a).cur = s.cur := rfl
@[simp] theorem State.logStale_mslot (s : State) (c : NetClass) (n : Nat) (i : BitVec 16) (a : Nat) : (s.logStale c n i a).mslot = s.mslot := rfl
@[simp] theorem State.logStale_snap (s : State) (c : NetClass) (n : Nat) (i : BitVec 16) (a : Nat) : (s.logStale c n i a).snap = s.snap := rfl
@[simp] theorem State.logStale_ev (s : State) (c : NetClass) (n : Nat) (i : BitVec 16) (a : Nat) : (s.logStale c n i a).ev = s.ev := rfl
@[simp] theorem State.logStale_verdict (s : State) (c : NetClass) (n : Nat) (i : BitVec 16) (a : Nat) : (s.logStale c n i a).verdict = s.verdict := rfl

/-! ### `idle` -/

@[simp] theorem State.idle_root (s : State) : (s.idle).root = s.root := rfl
@[simp] theorem State.idle_mem (s : State) : (s.idle).mem = s.mem := rfl
@[simp] theorem State.idle_badDram (s : State) : (s.idle).badDram = s.badDram := rfl
@[simp] theorem State.idle_bringUp (s : State) : (s.idle).bringUp = s.bringUp := rfl
@[simp] theorem State.idle_upFailed (s : State) : (s.idle).upFailed = s.upFailed := rfl
@[simp] theorem State.idle_fields (s : State) : (s.idle).fields = s.fields := rfl
@[simp] theorem State.idle_image (s : State) : (s.idle).image = s.image := rfl
@[simp] theorem State.idle_controlDie (s : State) : (s.idle).controlDie = s.controlDie := rfl
@[simp] theorem State.idle_controlFenced (s : State) : (s.idle).controlFenced = s.controlFenced := rfl
@[simp] theorem State.idle_almanacs (s : State) : (s.idle).almanacs = s.almanacs := rfl
@[simp] theorem State.idle_controlIncs (s : State) : (s.idle).controlIncs = s.controlIncs := rfl
@[simp] theorem State.idle_testing (s : State) : (s.idle).testing = s.testing := rfl
@[simp] theorem State.idle_flashLeaf (s : State) : (s.idle).flashLeaf = s.flashLeaf := rfl
@[simp] theorem State.idle_leaf (s : State) : (s.idle).leaf = s.leaf := rfl
@[simp] theorem State.idle_flashCert (s : State) : (s.idle).flashCert = s.flashCert := rfl
@[simp] theorem State.idle_signing (s : State) : (s.idle).signing = s.signing := rfl
@[simp] theorem State.idle_limits (s : State) : (s.idle).limits = s.limits := rfl
@[simp] theorem State.idle_stacksFenced (s : State) : (s.idle).stacksFenced = s.stacksFenced := rfl
@[simp] theorem State.idle_errLog (s : State) : (s.idle).errLog = s.errLog := rfl
@[simp] theorem State.idle_dieTen (s : State) : (s.idle).dieTen = s.dieTen := rfl
@[simp] theorem State.idle_frameTen (s : State) : (s.idle).frameTen = s.frameTen := rfl
@[simp] theorem State.idle_windows (s : State) : (s.idle).windows = s.windows := rfl
@[simp] theorem State.idle_fab (s : State) : (s.idle).fab = s.fab := rfl
@[simp] theorem State.idle_lds (s : State) : (s.idle).lds = s.lds := rfl
@[simp] theorem State.idle_unbinding (s : State) : (s.idle).unbinding = s.unbinding := rfl
@[simp] theorem State.idle_hdm (s : State) : (s.idle).hdm = s.hdm := rfl
@[simp] theorem State.idle_ldRegs (s : State) : (s.idle).ldRegs = s.ldRegs := rfl
@[simp] theorem State.idle_linkWait (s : State) : (s.idle).linkWait = s.linkWait := rfl
@[simp] theorem State.idle_badLanes (s : State) : (s.idle).badLanes = s.badLanes := rfl
@[simp] theorem State.idle_gangs (s : State) : (s.idle).gangs = s.gangs := rfl
@[simp] theorem State.idle_beats (s : State) : (s.idle).beats = s.beats := rfl
@[simp] theorem State.idle_nextBeat (s : State) : (s.idle).nextBeat = s.nextBeat := rfl
@[simp] theorem State.idle_deadPeers (s : State) : (s.idle).deadPeers = s.deadPeers := rfl
@[simp] theorem State.idle_dies (s : State) : (s.idle).dies = s.dies := rfl
@[simp] theorem State.idle_clusters (s : State) : (s.idle).clusters = s.clusters := rfl
@[simp] theorem State.idle_cores (s : State) : (s.idle).cores = s.cores := rfl
@[simp] theorem State.idle_warps (s : State) : (s.idle).warps = s.warps := rfl
@[simp] theorem State.idle_nextWid (s : State) : (s.idle).nextWid = s.nextWid := rfl
@[simp] theorem State.idle_ghosts (s : State) : (s.idle).ghosts = s.ghosts := rfl
@[simp] theorem State.idle_slices (s : State) : (s.idle).slices = s.slices := rfl
@[simp] theorem State.idle_dir (s : State) : (s.idle).dir = s.dir := rfl
@[simp] theorem State.idle_hostHeld (s : State) : (s.idle).hostHeld = s.hostHeld := rfl
@[simp] theorem State.idle_farWait (s : State) : (s.idle).farWait = s.farWait := rfl
@[simp] theorem State.idle_objs (s : State) : (s.idle).objs = s.objs := rfl
@[simp] theorem State.idle_mails (s : State) : (s.idle).mails = s.mails := rfl
@[simp] theorem State.idle_gbars (s : State) : (s.idle).gbars = s.gbars := rfl
@[simp] theorem State.idle_queues (s : State) : (s.idle).queues = s.queues := rfl
@[simp] theorem State.idle_nextQueue (s : State) : (s.idle).nextQueue = s.nextQueue := rfl
@[simp] theorem State.idle_nodes (s : State) : (s.idle).nodes = s.nodes := rfl
@[simp] theorem State.idle_nextNid (s : State) : (s.idle).nextNid = s.nextNid := rfl
@[simp] theorem State.idle_nextReady (s : State) : (s.idle).nextReady = s.nextReady := rfl
@[simp] theorem State.idle_saved (s : State) : (s.idle).saved = s.saved := rfl
@[simp] theorem State.idle_censuses (s : State) : (s.idle).censuses = s.censuses := rfl
@[simp] theorem State.idle_nextCensus (s : State) : (s.idle).nextCensus = s.nextCensus := rfl
@[simp] theorem State.idle_censusWait (s : State) : (s.idle).censusWait = s.censusWait := rfl
@[simp] theorem State.idle_tmoves (s : State) : (s.idle).tmoves = s.tmoves := rfl
@[simp] theorem State.idle_nextMove (s : State) : (s.idle).nextMove = s.nextMove := rfl
@[simp] theorem State.idle_preqs (s : State) : (s.idle).preqs = s.preqs := rfl
@[simp] theorem State.idle_peerSends (s : State) : (s.idle).peerSends = s.peerSends := rfl
@[simp] theorem State.idle_out (s : State) : (s.idle).out = s.out := rfl
@[simp] theorem State.idle_agenda (s : State) : (s.idle).agenda = s.agenda := rfl
@[simp] theorem State.idle_tape (s : State) : (s.idle).tape = s.tape := rfl
@[simp] theorem State.idle_flight (s : State) : (s.idle).flight = s.flight := rfl
@[simp] theorem State.idle_parked (s : State) : (s.idle).parked = s.parked := rfl
@[simp] theorem State.idle_cursor (s : State) : (s.idle).cursor = s.cursor := rfl
@[simp] theorem State.idle_cur (s : State) : (s.idle).cur = s.cur := rfl
@[simp] theorem State.idle_mslot (s : State) : (s.idle).mslot = 7 := rfl
@[simp] theorem State.idle_snap (s : State) : (s.idle).snap = none := rfl
@[simp] theorem State.idle_ev (s : State) : (s.idle).ev = s.ev := rfl
@[simp] theorem State.idle_verdict (s : State) : (s.idle).verdict = .done := rfl

end Sys2Proof.Machine
end

