-- ==== Sys2Proof/Laws/Tables.lean ====
section
/-! SUPPORT. Laws of the sparse tables: what is found after an entry is set or taken out. They hold of every list of pairs. -/

namespace Sys2Proof

theorem Tab.look_put_self {α : Type} (t : Tab α) (k : Nat) (v : α) : Tab.look (Tab.put t k v) k = some v := by
  induction t with
  | nil => simp [Tab.put, Tab.look]
  | cons x r ih =>
    obtain ⟨a, w⟩ := x
    simp only [Tab.put]
    split
    · simp [Tab.look]
    · rename_i h
      split
      · simp [Tab.look]
      · simp [Tab.look, h, ih]

theorem Tab.look_put_ne {α : Type} (t : Tab α) (k : Nat) (v : α) (j : Nat) (h : j ≠ k) : Tab.look (Tab.put t k v) j = Tab.look t j := by
  induction t with
  | nil => simp [Tab.put, Tab.look, Ne.symm h]
  | cons x r ih =>
    obtain ⟨a, w⟩ := x
    simp only [Tab.put]
    split
    · rename_i e; subst e; simp [Tab.look, Ne.symm h]
    · split
      · simp [Tab.look, Ne.symm h]
      · simp only [Tab.look, ih]

theorem Tab.look_put {α : Type} (t : Tab α) (k : Nat) (v : α) (j : Nat) :
    Tab.look (Tab.put t k v) j = if j = k then some v else Tab.look t j := by
  split
  · rename_i h; rw [h, Tab.look_put_self]
  · rename_i h; exact Tab.look_put_ne t k v j h

theorem Tab.get_put {α : Type} (t : Tab α) (d : α) (k : Nat) (v : α) (j : Nat) :
    Tab.get (Tab.put t k v) d j = if j = k then v else Tab.get t d j := by
  simp only [Tab.get, Tab.look_put]
  split <;> rfl

theorem Tab.look_del_ne {α : Type} (t : Tab α) (k j : Nat) (h : j ≠ k) : Tab.look (Tab.del t k) j = Tab.look t j := by
  induction t with
  | nil => rfl
  | cons x r ih =>
    obtain ⟨a, w⟩ := x
    simp only [Tab.del]
    split
    · rename_i e; subst e; simp [Tab.look, Ne.symm h]
    · simp only [Tab.look, ih]

theorem Tab.look_none_of_not_mem {α : Type} (t : Tab α) (k : Nat) (h : k ∉ t.map Prod.fst) : Tab.look t k = none := by
  induction t with
  | nil => rfl
  | cons x r ih =>
    obtain ⟨a, w⟩ := x
    simp only [List.map_cons, List.mem_cons, not_or] at h
    simp only [Tab.look, Ne.symm h.1, if_false]
    exact ih h.2

theorem Tab.look_del_self {α : Type} (t : Tab α) (k : Nat) (h : (t.map Prod.fst).Nodup) : Tab.look (Tab.del t k) k = none := by
  induction t with
  | nil => rfl
  | cons x r ih =>
    obtain ⟨a, w⟩ := x
    simp only [List.map_cons, List.nodup_cons] at h
    simp only [Tab.del]
    split
    · rename_i e; subst e; exact Tab.look_none_of_not_mem r a h.1
    · rename_i e
      simp only [Tab.look, e, if_false]
      exact ih h.2

theorem Tab.look_mem {α : Type} (t : Tab α) (k : Nat) (v : α) (h : Tab.look t k = some v) : (k, v) ∈ t := by
  induction t with
  | nil => simp [Tab.look] at h
  | cons x r ih =>
    obtain ⟨a, w⟩ := x
    simp only [Tab.look] at h
    split at h
    · rename_i e; subst e; cases h; exact List.mem_cons_self
    · exact List.mem_cons_of_mem _ (ih h)

end Sys2Proof
end

