-- ==== Sys2Proof/Laws/Access.lean ====
section
/-! SUPPORT. Laws of the numbered parts: what a core, a cluster, a die or a warp is after a part is put in its place. -/

namespace Sys2Proof.Machine

theorem State.core_putCore (s : State) (n : Nat) (c : Core) (k : Nat) : (s.putCore n c).core k = if k = n then c else s.core k :=
  Tab.get_put s.cores {} n c k

theorem State.cluster_putCluster (s : State) (n : Nat) (c : Cluster) (k : Nat) :
    (s.putCluster n c).cluster k = if k = n then c else s.cluster k := Tab.get_put s.clusters {} n c k

theorem State.die_putDie (s : State) (n : Nat) (d : Die) (k : Nat) : (s.putDie n d).die k = if k = n then d else s.die k :=
  Tab.get_put s.dies {} n d k

theorem State.slice_putSlice (s : State) (n : Nat) (x : Slice) (k : Nat) : (s.putSlice n x).slice k = if k = n then x else s.slice k :=
  Tab.get_put s.slices {} n x k

theorem State.dirOf_putDir (s : State) (n : Nat) (x : DirEntry) (k : Nat) : (s.putDir n x).dirOf k = if k = n then x else s.dirOf k :=
  Tab.get_put s.dir {} n x k

theorem State.obj_putObj (s : State) (n : Nat) (x : Obj) (k : Nat) : (s.putObj n x).obj k = if k = n then x else s.obj k :=
  Tab.get_put s.objs {} n x k

theorem State.queue_putQueue (s : State) (n : Nat) (x : Queue) (k : Nat) : (s.putQueue n x).queue k = if k = n then x else s.queue k :=
  Tab.get_put s.queues {} n x k

theorem State.mail_putMail (s : State) (n : Nat) (x : Mail) (k : Nat) : (s.putMail n x).mail k = if k = n then x else s.mail k :=
  Tab.get_put s.mails {} n x k

/-- The warp of another slot is as it was. -/
theorem State.warp?_putWarp_ne (s : State) (a b : WarpAt) (w : Warp) (h : warpKey b ≠ warpKey a) : (s.putWarp a w).warp? b = s.warp? b :=
  Tab.look_put_ne s.warps (warpKey a) w (warpKey b) h

theorem State.warp?_putWarp_self (s : State) (a : WarpAt) (w : Warp) : (s.putWarp a w).warp? a = some w :=
  Tab.look_put_self s.warps (warpKey a) w

/-- Slots of a core below 16 have keys of their own. -/
theorem warpKey_inj (a b : WarpAt) (ha : a.slot < 16) (hb : b.slot < 16) (h : warpKey a = warpKey b) : a = b := by
  obtain ⟨c, k⟩ := a
  obtain ⟨d, j⟩ := b
  simp only [warpKey] at h ha hb
  have h1 : c = d := by omega
  have h2 : k = j := by omega
  rw [h1, h2]

theorem State.updWarp_some (s : State) (a : WarpAt) (f : Warp → Warp) (w : Warp) (h : s.warp? a = some w) :
    s.updWarp a f = s.putWarp a (f w) := by simp only [State.updWarp, h]

theorem State.updWarp_none (s : State) (a : WarpAt) (f : Warp → Warp) (h : s.warp? a = none) : s.updWarp a f = s := by
  simp only [State.updWarp, h]

/-- An update of a warp leaves the other slots. -/
theorem State.warp?_updWarp_ne (s : State) (a b : WarpAt) (f : Warp → Warp) (h : warpKey b ≠ warpKey a) :
    (s.updWarp a f).warp? b = s.warp? b := by
  unfold State.updWarp
  split
  · rfl
  · exact State.warp?_putWarp_ne s a b _ h

theorem State.warp?_updWarp_self (s : State) (a : WarpAt) (f : Warp → Warp) : (s.updWarp a f).warp? a = (s.warp? a).map f := by
  unfold State.updWarp
  split
  · rename_i h; simp [h]
  · rename_i w h; rw [State.warp?_putWarp_self]; simp [h]

/-- An update of a warp changes the warps alone. -/
theorem State.updWarp_frame (s : State) (a : WarpAt) (f : Warp → Warp) : s.updWarp a f = { s with warps := (s.updWarp a f).warps } := by
  unfold State.updWarp
  split <;> rfl

/-- s0 reads as 0 and discards what is written to it (05 R134). -/
theorem Ctx.sreg_zero (x : Ctx) : x.sreg 0 = 0 := rfl

theorem Ctx.putSreg_zero (x : Ctx) (v : W64) : x.putSreg 0 v = x := rfl

theorem Ctx.sreg_putSreg (x : Ctx) (n : Nat) (v : W64) (k : Nat) (h : n ≠ 0) : (x.putSreg n v).sreg k = if k = n then v else x.sreg k := by
  simp only [Ctx.putSreg, h, if_false, Ctx.sreg, Tab.get_put]
  by_cases hk : k = 0
  · subst hk; simp [Ne.symm h]
  · simp [hk]

theorem Ctx.port_putPort (x : Ctx) (u v : Un) (p : Port) : (x.putPort u p).port v = if v.code = u.code then p else x.port v :=
  Tab.get_put x.ports {} u.code p v.code

end Sys2Proof.Machine
end

