-- ==== Sys2Proof/Laws/Memory.lean ====
section
/-! SUPPORT. Laws of the memory cells: every operation keeps the canonical form, a byte reads as it was written, no other byte changes,
and equal readings are equal memories. -/

namespace Sys2Proof.Machine

open Host (Cell)

theorem cellsFrom_cons (lo a : Nat) (v : Byte) (r : List Cell) :
    cellsFrom lo ((a, v) :: r) = true ↔ lo ≤ a ∧ v ≠ 0 ∧ cellsFrom (a + 1) r = true := by
  simp [cellsFrom, and_assoc]

theorem cellsFrom_mono {lo hi : Nat} (m : List Cell) (h : lo ≤ hi) (hm : cellsFrom hi m = true) : cellsFrom lo m = true := by
  cases m with
  | nil => rfl
  | cons x r =>
    obtain ⟨a, v⟩ := x
    rw [cellsFrom_cons] at hm ⊢
    exact ⟨by omega, hm.2⟩

theorem readCell_below (m : List Cell) (lo k : Nat) (hm : cellsFrom lo m = true) (hk : k < lo) : readCell m k = 0 := by
  induction m generalizing lo with
  | nil => rfl
  | cons x r ih =>
    obtain ⟨a, v⟩ := x
    rw [cellsFrom_cons] at hm
    have : a ≠ k := by omega
    simp only [readCell, this, if_false]
    exact ih (a + 1) hm.2.2 (by omega)

/-- A write keeps the canonical form, from any bound that is not above its address. -/
theorem cellsFrom_write (m : List Cell) (lo k : Nat) (b : Byte) (hm : cellsFrom lo m = true) (hk : lo ≤ k) :
    cellsFrom lo (writeCell m k b) = true := by
  induction m generalizing lo with
  | nil =>
    simp only [writeCell]
    split
    · rfl
    · rename_i h; rw [cellsFrom_cons]; exact ⟨hk, h, rfl⟩
  | cons x r ih =>
    obtain ⟨a, v⟩ := x
    have h := (cellsFrom_cons lo a v r).mp hm
    simp only [writeCell]
    split
    · rename_i e
      split
      · exact cellsFrom_mono r (by omega) h.2.2
      · rename_i hb; rw [cellsFrom_cons]; exact ⟨hk, hb, e ▸ h.2.2⟩
    · split
      · rename_i hlt
        split
        · exact hm
        · rename_i hb
          rw [cellsFrom_cons, cellsFrom_cons]
          exact ⟨hk, hb, by omega, h.2.1, h.2.2⟩
      · rw [cellsFrom_cons]
        exact ⟨h.1, h.2.1, ih (a + 1) h.2.2 (by omega)⟩

theorem wf_writeCell (m : List Cell) (k : Nat) (b : Byte) (hm : cellsWf m = true) : cellsWf (writeCell m k b) = true :=
  cellsFrom_write m 0 k b hm (Nat.zero_le k)

theorem wf_writeCells (l : List (Nat × Byte)) (m : List Cell) (hm : cellsWf m = true) : cellsWf (writeCells m l) = true := by
  unfold writeCells
  induction l generalizing m with
  | nil => exact hm
  | cons x r ih => exact ih _ (wf_writeCell m x.1 x.2 hm)

theorem cellsFrom_filter (m : List Cell) (lo : Nat) (p : Cell → Bool) (hm : cellsFrom lo m = true) : cellsFrom lo (m.filter p) = true := by
  induction m generalizing lo with
  | nil => rfl
  | cons x r ih =>
    obtain ⟨a, v⟩ := x
    rw [cellsFrom_cons] at hm
    simp only [List.filter]
    split
    · rw [cellsFrom_cons]; exact ⟨hm.1, hm.2.1, ih _ hm.2.2⟩
    · exact cellsFrom_mono _ (by omega) (ih _ hm.2.2)

theorem wf_filter (m : List Cell) (p : Cell → Bool) (hm : cellsWf m = true) : cellsWf (m.filter p) = true := cellsFrom_filter m 0 p hm

/-- A byte reads as it was written. -/
theorem readCell_write_self (m : List Cell) (lo k : Nat) (b : Byte) (hm : cellsFrom lo m = true) : readCell (writeCell m k b) k = b := by
  induction m generalizing lo with
  | nil =>
    simp only [writeCell]
    split
    · rename_i h; simp [readCell, h]
    · simp [readCell]
  | cons x r ih =>
    obtain ⟨a, v⟩ := x
    rw [cellsFrom_cons] at hm
    simp only [writeCell]
    split
    · rename_i e
      split
      · rename_i hb; rw [hb]; exact readCell_below r (a + 1) k hm.2.2 (by omega)
      · simp [readCell]
    · rename_i e
      split
      · rename_i hlt
        split
        · rename_i hb
          simp only [readCell, e, if_false, hb]
          exact readCell_below r (a + 1) k hm.2.2 (by omega)
        · simp [readCell]
      · simp only [readCell, e, if_false]
        exact ih (a + 1) hm.2.2

/-- A write leaves every other byte alone; no form is needed for that. -/
theorem readCell_write_ne (m : List Cell) (k j : Nat) (b : Byte) (h : j ≠ k) : readCell (writeCell m k b) j = readCell m j := by
  induction m with
  | nil =>
    simp only [writeCell]
    split
    · rfl
    · simp [readCell, Ne.symm h]
  | cons x r ih =>
    obtain ⟨a, v⟩ := x
    simp only [writeCell]
    split
    · rename_i e
      subst e
      split
      · simp [readCell, Ne.symm h]
      · simp [readCell, Ne.symm h]
    · split
      · split
        · rfl
        · simp [readCell, Ne.symm h]
      · simp only [readCell, ih]

theorem readCell_write (m : List Cell) (k j : Nat) (b : Byte) (hm : cellsWf m = true) :
    readCell (writeCell m k b) j = if j = k then b else readCell m j := by
  split
  · rename_i h; rw [h]; exact readCell_write_self m 0 k b hm
  · rename_i h; exact readCell_write_ne m k j b h

/-- Bytes that a list of writes does not name read as before. -/
theorem readCell_writeCells_ne (l : List (Nat × Byte)) (m : List Cell) (j : Nat) (h : ∀ x, x ∈ l → x.1 ≠ j) :
    readCell (writeCells m l) j = readCell m j := by
  unfold writeCells
  induction l generalizing m with
  | nil => rfl
  | cons x r ih =>
    rw [List.foldl_cons, ih _ fun y hy => h y (List.mem_cons_of_mem _ hy)]
    exact readCell_write_ne m x.1 j x.2 (Ne.symm (h x List.mem_cons_self))

/-- Memories in canonical form that read alike are the same memory. -/
theorem cells_ext (m n : List Cell) (lo : Nat) (hm : cellsFrom lo m = true) (hn : cellsFrom lo n = true) (h : ∀ k, readCell m k = readCell n k) :
    m = n := by
  induction m generalizing n lo with
  | nil =>
    cases n with
    | nil => rfl
    | cons y t =>
      obtain ⟨b, w⟩ := y
      rw [cellsFrom_cons] at hn
      have := h b
      simp only [readCell, if_true] at this
      exact absurd this.symm hn.2.1
  | cons x r ih =>
    obtain ⟨a, v⟩ := x
    cases n with
    | nil =>
      rw [cellsFrom_cons] at hm
      have := h a
      simp only [readCell, if_true] at this
      exact absurd this hm.2.1
    | cons y t =>
      obtain ⟨b, w⟩ := y
      rw [cellsFrom_cons] at hm hn
      have hab : a = b := by
        rcases Nat.lt_trichotomy a b with hlt | heq | hgt
        · have h1 := h a
          have : b ≠ a := by omega
          simp only [readCell, if_true, this, if_false] at h1
          rw [readCell_below t (b + 1) a hn.2.2 (by omega)] at h1
          exact absurd h1 hm.2.1
        · exact heq
        · have h1 := h b
          have : a ≠ b := by omega
          simp only [readCell, if_true, this, if_false] at h1
          rw [readCell_below r (a + 1) b hm.2.2 (by omega)] at h1
          exact absurd h1.symm hn.2.1
      subst hab
      have hv : v = w := by
        have := h a
        simpa only [readCell, if_true] using this
      subst hv
      have hrt : r = t := ih t (a + 1) hm.2.2 hn.2.2 fun k => by
        by_cases hk : a = k
        · subst hk
          rw [readCell_below r (a + 1) a hm.2.2 (by omega), readCell_below t (a + 1) a hn.2.2 (by omega)]
        · have := h k
          simpa only [readCell, hk, if_false] using this
      rw [hrt]

/-- The memory of the machine after reset has the canonical form. -/
theorem reset_wf : cellsWf State.reset.mem = true := rfl

end Sys2Proof.Machine
end

