-- ==== Sys2Proof/Laws/Ops.lean ====
section
/-! SUPPORT. One lemma for each shared operation that says all it can do: the issue of an instruction, operands, triggers, traps, arrivals. -/

namespace Sys2Proof.Machine

open Host (Outcome)

/-! ### Issue -/

/-- Without a live warp an instruction of a program stops. -/
theorem issue_none {s : State} {f : Warp → Act} (h : s.warp? s.cur = none) : issue s f = .fault .noWarp := by simp only [issue, h]

/-- With one that takes effect, the next state is what it leaves. -/
theorem issue_done {s t : State} {f : Warp → Act} {w : Warp} (h : s.warp? s.cur = some w) (e : f w = .next t) :
    issue s f = .next { t with verdict := .done } := by simp only [issue, h, e]

/-- One that waits changes nothing. -/
theorem issue_wait {s : State} {f : Warp → Act} {w : Warp} {v : Verdict} (h : s.warp? s.cur = some w) (e : f w = .wait v) :
    issue s f = .next { s with verdict := v } := by simp only [issue, h, e]

/-- One that faults takes the trap of its cause. -/
theorem issue_fault {s : State} {f : Warp → Act} {w : Warp} {c : Nat} {i : W64} (h : s.warp? s.cur = some w) (e : f w = .fault c i) :
    issue s f = .next { s.raiseTrap s.cur c i with verdict := .faulted c i } := by simp only [issue, h, e]

/-- One that reads poison takes the poison trap. -/
theorem issue_poison {s : State} {f : Warp → Act} {w : Warp} {u : Un} {i : W64} (h : s.warp? s.cur = some w) (e : f w = .poison u i) :
    issue s f = .next { s.raisePoison s.cur u i with verdict := .poisoned u i } := by simp only [issue, h, e]

/-- One whose page-table walk a read in no window stopped takes the trap of its cause, and the base logs the read. -/
theorem issue_walk {s : State} {f : Warp → Act} {w : Warp} {pa c : Nat} {i : W64} (h : s.warp? s.cur = some w) (e : f w = .walkRefused pa c i) :
    issue s f = .next { s.raiseWalk s.cur pa c i with verdict := .walkRefused pa c i } := by simp only [issue, h, e]

/-- An instruction that answers a next state has waited, faulted, met poison, met a refused walk, or taken effect. -/
theorem issue_next {s t : State} {f : Warp → Act} (h : issue s f = .next t) : ∃ w, s.warp? s.cur = some w ∧
    ((∃ v, f w = .wait v ∧ t = { s with verdict := v }) ∨
     (∃ c i, f w = .fault c i ∧ t = { s.raiseTrap s.cur c i with verdict := .faulted c i }) ∨
     (∃ u i, f w = .poison u i ∧ t = { s.raisePoison s.cur u i with verdict := .poisoned u i }) ∨
     (∃ pa c i, f w = .walkRefused pa c i ∧ t = { s.raiseWalk s.cur pa c i with verdict := .walkRefused pa c i }) ∨
     ∃ t', f w = .next t' ∧ t = { t' with verdict := .done }) := by
  unfold issue at h
  split at h
  · cases h
  · rename_i w hw
    refine ⟨w, hw, ?_⟩
    split at h <;> cases h
    · rename_i v hv; exact .inl ⟨v, hv, rfl⟩
    · rename_i c i hv; exact .inr (.inl ⟨c, i, hv, rfl⟩)
    · rename_i u i hv; exact .inr (.inr (.inl ⟨u, i, hv, rfl⟩))
    · rename_i pa c i hv; exact .inr (.inr (.inr (.inl ⟨pa, c, i, hv, rfl⟩)))
    · rename_i t' hv; exact .inr (.inr (.inr (.inr ⟨t', hv, rfl⟩)))

/-! ### Operands -/

/-- A move whose source is readable acts on its guard's lanes and the value. -/
theorem withMove_of {s : State} {w : Warp} {m : Mv} {wide : Bool} {f : W32 → Lanes → Act} {l : Lanes}
    (h : s.source w m.src ((s.srcCtx w).guard m.g) wide = .ok l) : s.withMove w m wide f = f ((s.srcCtx w).guard m.g) l := by
  simp only [State.withMove, h]

/-- A move waits, faults or meets poison as its source does, or acts. -/
theorem withMove_cases (s : State) (w : Warp) (m : Mv) (wide : Bool) (f : W32 → Lanes → Act) :
    (∃ v, s.source w m.src ((s.srcCtx w).guard m.g) wide = .wait v ∧ s.withMove w m wide f = .wait v) ∨
    (∃ c i, s.source w m.src ((s.srcCtx w).guard m.g) wide = .fault c i ∧ s.withMove w m wide f = .fault c i) ∨
    (∃ u i, s.source w m.src ((s.srcCtx w).guard m.g) wide = .poison u i ∧ s.withMove w m wide f = .poison u i) ∨
    ∃ l, s.source w m.src ((s.srcCtx w).guard m.g) wide = .ok l ∧ s.withMove w m wide f = f ((s.srcCtx w).guard m.g) l := by
  cases h : s.source w m.src ((s.srcCtx w).guard m.g) wide with
  | ok l => exact .inr (.inr (.inr ⟨l, rfl, by simp only [State.withMove, h]⟩))
  | wait v => exact .inl ⟨v, rfl, by simp only [State.withMove, h]⟩
  | fault c i => exact .inr (.inl ⟨c, i, rfl, by simp only [State.withMove, h]⟩)
  | poison u i => exact .inr (.inr (.inl ⟨u, i, rfl, by simp only [State.withMove, h]⟩))

/-- A mask's bit. -/
theorem maskBit_eq (m : W32) (i : Nat) : maskBit m i = m.getLsbD i := by
  simp only [maskBit, BitVec.getLsbD, Nat.testBit, Nat.shiftRight_eq_div_pow, Nat.one_and_eq_mod_two]
  rcases Nat.mod_two_eq_zero_or_one (m.toNat / 2 ^ i) with h | h <;> simp [h]

/-- The lowest lane of a mask. -/
theorem lowest_some {m : W32} {k : Nat} (h : lowest m = some k) : k < 32 ∧ m.getLsbD k = true ∧ ∀ j, j < k → m.getLsbD j = false := by
  unfold lowest at h
  rw [List.find?_range_eq_some] at h
  obtain ⟨h1, h2, h3⟩ := h
  refine ⟨by simpa [nLanes] using h2, by rw [← maskBit_eq]; exact h1, fun j hj => ?_⟩
  have := h3 j hj
  rw [maskBit_eq] at this
  simpa using this

theorem lowest_none {m : W32} (h : lowest m = none) : m = 0 := by
  unfold lowest at h
  rw [List.find?_range_eq_none] at h
  apply BitVec.eq_of_getLsbD_eq
  intro i hi
  have := h i (by simpa [nLanes] using hi)
  rw [maskBit_eq] at this
  simpa using this

/-- The value of a lane of a function of the lanes. -/
theorem laneAt_lanesOf (f : Nat → W64) (i : Nat) (h : i < 32) : laneAt (lanesOf f) i = f i := by
  simp [laneAt, lanesOf, nLanes, h]

theorem laneAt_splat (v : W64) (i : Nat) (h : i < 32) : laneAt (splat v) i = v := by
  simp only [laneAt, splat, nLanes, List.getD_eq_getElem?_getD, List.getElem?_replicate, h, if_true, Option.getD_some]

/-- Lanes written where a mask is set; the others as they were. -/
theorem laneAt_mergeLanes (g : W32) (new old : Lanes) (i : Nat) (h : i < 32) :
    laneAt (mergeLanes g new old) i = if g.getLsbD i = true then laneAt new i else laneAt old i := by
  simp only [mergeLanes, laneAt_lanesOf _ i h, maskBit_eq]

/-! ### Triggers -/

/-- A trigger of an engine whose guard is true in a lane acts on the operand of its lowest lane; in none it does nothing. -/
theorem engineTrig_of {s : State} {w : Warp} {u : Un} {m : Mv} {f : Port → W64 → Nat → Act} {l : Lanes}
    (h : s.source w m.src ((s.srcCtx w).guard m.g) false = .ok l) : s.engineTrig w u m f = (match lowest ((s.srcCtx w).guard m.g) with
      | none => .next s
      | some k => f (w.ctx.port u) (laneAt l k) k) := by
  simp only [State.engineTrig, withMove_of h] <;> cases lowest ((s.srcCtx w).guard m.g) <;> rfl

/-- A unit that starts changes its own warp alone: its port holds the pending results, its flags wait for their cycle. -/
theorem startUnit_of (s : State) (w : Warp) (u : Un) (g : W32) (lat : Nat) (res sec : Lanes) (fl : BitVec 8) :
    ∃ w', s.startUnit w u g lat res sec fl = s.setMe w' ∧ w'.ctx.port u = (w.ctx.port u).start s.now g res sec (some (s.now + lat)) ∧
      w'.units = (w.units.filter fun (v, d, _) => v != u || d ≤ s.now) ++ [(u, s.now + lat, fl)] ∧
      (∀ v, v.code ≠ u.code → w'.ctx.port v = w.ctx.port v) ∧ w'.vregs = w.vregs ∧ w'.ctx.sregs = w.ctx.sregs ∧ w'.ctx.preds = w.ctx.preds ∧
      w'.ctx.pc = w.ctx.pc ∧ w'.ctx.mask = w.ctx.mask ∧ w'.ctx.flags = w.ctx.flags ∧ w'.handler = w.handler := by
  refine ⟨_, rfl, ?_, rfl, fun v hv => ?_, rfl, rfl, rfl, rfl, rfl, rfl, rfl⟩
  · simp only [Ctx.port_putPort, if_true]
  · simp only [Ctx.port_putPort, hv, if_false]

/-- An engine's trigger that returns a future waits while the table is full, and otherwise goes on with the new one. -/
theorem withFuture_of {s : State} {w w1 : Warp} {u : Un} {f : State → Warp → FutAt → State} {h : W64} {fu : FutAt}
    (e : w.newFuture u.code = some (w1, h, fu)) :
    s.withFuture w u f = .next (f (s.setMe (w1.engineResult s.now u h)) (w1.engineResult s.now u h) fu) := by
  simp only [State.withFuture, e]

theorem withFuture_full {s : State} {w : Warp} {u : Un} {f : State → Warp → FutAt → State} (e : w.newFuture u.code = none) :
    s.withFuture w u f = .wait .admission := by simp only [State.withFuture, e]

/-- A control operation's register: a wait while it is watched, else its value at the start of the cycle. -/
theorem ctlReg_of (s : State) (w : Warp) (n : BitVec 6) (f : W64 → Act) : s.ctlReg w n f =
    if (s.srcCtx w).watched n.toNat = true then .wait .admission else f ((s.srcCtx w).sreg n.toNat) := rfl

/-! ### Traps (17 R386 to R390) -/

/-- A trap that a warp takes: the warp at its slot enters nothing yet, and waits for its handler; a user trap takes a hold from the context, which a
pre-emption and a gang abort keep there. -/
theorem takeTrap_of {s : State} {a : WarpAt} {w : Warp} (r : TrapReq) (h : s.warp? a = some w) :
    (s.takeTrap a r).warp? a = some { w with
      entering := some r, waiting := false, blocked := false
      ctx := if r.kind = .user then { w.ctx with hold := none, claimAt := none } else w.ctx } := by
  unfold State.takeTrap
  rw [State.warp?_updWarp_self]
  by_cases hk : r.kind = .user
  · have hb : (r.kind == TrapKind.user) = true := by rw [hk]; rfl
    have hu : (s.unhold a).warp? a = some { w with ctx := { w.ctx with hold := none, claimAt := none } } := by
      unfold State.unhold
      rw [State.warp?_updWarp_self]
      show (s.warp? a).map _ = _
      rw [h]; rfl
    rw [if_pos hb, if_pos hk, hu]; rfl
  · have hb : ¬ (r.kind == TrapKind.user) = true := by simpa using hk
    have hu : (s.updCore a.core fun c => c.unhold a.slot).warp? a = some w := h
    rw [if_neg hb, if_neg hk, hu]; rfl

/-- A trap changes the warp and what holds it in its core; nothing else. -/
theorem takeTrap_frame (s : State) (a : WarpAt) (r : TrapReq) :
    s.takeTrap a r = { s with warps := (s.takeTrap a r).warps, cores := (s.takeTrap a r).cores } := by
  unfold State.takeTrap
  split
  · unfold State.unhold State.updCore
    rw [State.updWarp_frame, State.updWarp_frame]; rfl
  · unfold State.updCore
    rw [State.updWarp_frame]; rfl

/-- The other warps are as they were. -/
theorem takeTrap_others (s : State) (a b : WarpAt) (r : TrapReq) (h : warpKey b ≠ warpKey a) : (s.takeTrap a r).warp? b = s.warp? b := by
  unfold State.takeTrap
  rw [State.warp?_updWarp_ne _ _ _ _ h]
  split
  · unfold State.unhold
    rw [State.warp?_updWarp_ne _ _ _ _ h]
    rfl
  · rfl

/-- A fault takes the trap of its cause at the bundle's address. -/
theorem raiseTrap_of {s : State} {a : WarpAt} {w : Warp} (c : Nat) (i : W64) (h : s.warp? a = some w) :
    s.raiseTrap a c i = s.takeTrap a ⟨.user, c, i, w.ctx.pc⟩ := by simp only [State.raiseTrap, h]

theorem raiseTrap_frame (s : State) (a : WarpAt) (c : Nat) (i : W64) :
    s.raiseTrap a c i = { s with warps := (s.raiseTrap a c i).warps, cores := (s.raiseTrap a c i).cores } := by
  unfold State.raiseTrap
  split
  · rfl
  · exact takeTrap_frame _ _ _

/-- The entry into a handler: the small context and the address to return to are saved, the handler starts at its entry with every lane active
and no tokens, and the flags of pending results are set. -/
theorem enter_of (w : Warp) (entry : W64) (r : TrapReq) :
    (w.enter entry r).handler = some ⟨r, { w.settle.ctx with pc := r.tpc }⟩ ∧ (w.enter entry r).ctx.pc = entry ∧
    (w.enter entry r).ctx.mask = 0xFFFFFFFF ∧ (w.enter entry r).ctx.toks = [] ∧ (w.enter entry r).entering = none ∧
    (w.enter entry r).vregs = w.vregs ∧ (w.enter entry r).regs = w.regs ∧ (w.enter entry r).ctx.sregs = w.ctx.sregs := by
  exact ⟨rfl, rfl, rfl, rfl, rfl, rfl, rfl, rfl⟩

/-- The return from a handler gives the saved context back, with the futures that are still outstanding. -/
theorem leave_of (w : Warp) (h : Handler) (e : w.handler = some h) : w.leave.handler = none ∧ w.leave.ctx.pc = h.saved.pc ∧
    w.leave.ctx.mask = h.saved.mask ∧ w.leave.ctx.toks = h.saved.toks ∧ w.leave.ctx.sregs = h.saved.sregs ∧ w.leave.ctx.preds = h.saved.preds ∧
    w.leave.vregs = w.vregs := by
  simp only [Warp.leave, e]
  exact ⟨trivial, trivial, trivial, trivial, trivial, trivial, trivial⟩

/-! ### Arrivals (04 R92) -/

/-- What arrives for a warp changes the clusters or the saved groups, and nothing else. -/
theorem arrive_frame (s : State) (core wid : Nat) (e : Ev) :
    s.arrive core wid e = { s with clusters := (s.arrive core wid e).clusters, saved := (s.arrive core wid e).saved } := by
  unfold State.arrive
  split
  · rfl
  · split <;> rfl

/-- For a live warp it stands in the list of its cluster. -/
theorem arrive_live {s : State} {wid : Nat} {a : WarpAt} {w : Warp} (core : Nat) (e : Ev) (h : s.findWid wid = some (a, w)) :
    s.arrive core wid e = s.updCluster (clusterOf a.core) fun c => { c with arrived := c.arrived ++ [(wid, e)] } := by
  simp only [State.arrive, h]

/-! ### The next bundle -/

/-- Outside a modulo loop the program counter moves on by one bundle. -/
theorem advance_of {s : State} {a : WarpAt} {w : Warp} (h : s.warp? a = some w) (hl : w.ctx.loop = none) :
    s.advance a = s.putWarp a { w with ctx := { w.ctx with pc := w.ctx.pc + 32 } } := by
  simp only [State.advance, h, hl]

theorem advance_frame (s : State) (a : WarpAt) : s.advance a = { s with warps := (s.advance a).warps, agenda := (s.advance a).agenda } := by
  unfold State.advance
  split
  · rfl
  · split
    · rfl
    · split <;> rfl

end Sys2Proof.Machine
end

