-- ==== Sys2Proof/Laws/PerInstr.lean ====
section
/-! SUPPORT. What the encoding tables say of every constructor: a well-formed move or control operation fits its fields and is read from them. -/

namespace Sys2Proof.Laws.Encoding

theorem ofCode_code (ty : Ty) : Ty.ofCode ty.code = ty := by cases ty <;> rfl

theorem code_lt (ty : Ty) : ty.code < 16 := by cases ty <;> decide

/-- What the encoding tables say of one instruction: the fields that it is encoded in fit their places, and the decoder reads it from them. -/
def Statement (i : Instr) : Prop := WellFormed i →
  (∀ r, i.raw = some r → r.dst < 128 ∧ r.fn < 256 ∧ r.md < 256 ∧ moveOf r.dst r.fn r.md r.mv = .ok i) ∧
  ∀ f, i.ctl = some f → f.word < 2 ^ 80 ∧ decodeCtl f.word = .ok i

theorem of_neither {i : Instr} (hr : i.raw = none) (hc : i.ctl = none) : Statement i :=
  fun _ => ⟨fun r h => by simp [hr] at h, fun f h => by simp [hc] at h⟩

theorem of_raw {i : Instr} {r : RawMove} (h : i.raw = some r) (hc : i.ctl = none) (h1 : r.dst < 128) (h2 : r.fn < 256) (h3 : r.md < 256)
    (h4 : moveOf r.dst r.fn r.md r.mv = .ok i) : Statement i := by
  refine fun _ => ⟨fun r' hr => ?_, fun f hf => by simp [hc] at hf⟩
  rw [h] at hr; cases hr; exact ⟨h1, h2, h3, h4⟩

theorem trigger_lane {u : Un} {fn md : Nat} {m : Mv} (hu : u.isLane = true) :
    moveOf (u.code * 4 + 3) fn md m = laneTrigger u fn ⟨m, BitVec.ofNat 8 md⟩ := by
  cases u <;> first | rfl | (simp [Un.isLane, Un.code] at hu)

theorem trigger_other {u : Un} {fn md : Nat} {m : Mv} (hu : u.isLane = false) :
    moveOf (u.code * 4 + 3) fn md m = otherTrigger u fn md m := by
  cases u <;> first | rfl | (simp [Un.isLane, Un.code] at hu)

theorem dst_lt (u : Un) : u.code * 4 + 3 < 128 := by cases u <;> decide

/-- A trigger of the lane units, with its modifier as it stands. -/
theorem of_lane {u : Un} {fn : Nat} {t : Trig} {i : Instr} (hr : i.raw = some (rawOf u fn t.md.toNat t.mv)) (hc : i.ctl = none)
    (hl : laneTrigger u fn t = .ok i) (hu : u.isLane = true) (hfn : decide (fn < 256) = true) : Statement i := by
  refine of_raw hr hc (dst_lt u) (of_decide_eq_true hfn) t.md.isLt ?_
  simp only [rawOf]
  rw [trigger_lane hu]
  simpa using hl

/-- A typed function of 11 R244. -/
theorem of_typed {u : Un} {op : Nat} {ty : Ty} {t : Trig} {i : Instr} (hr : i.raw = some (rawOf u (op * 16 + ty.code) t.md.toNat t.mv))
    (hc : i.ctl = none) (ho : ofTyped u op ty t = some i) (hu : (u.isLane && u != .cv && u != .pl) = true)
    (hop : decide (op < 16) = true) : Statement i := by
  have h := code_lt ty
  have hop := of_decide_eq_true hop
  have h1 : (op * 16 + ty.code) / 16 = op := by omega
  have h2 : (op * 16 + ty.code) % 16 = ty.code := by omega
  simp only [Bool.and_eq_true, bne_iff_ne, ne_eq] at hu
  obtain ⟨⟨h0, h3⟩, h4⟩ := hu
  refine of_lane hr hc ?_ h0 (decide_eq_true (by omega))
  cases u <;> first | contradiction | (simp only [laneTrigger, h1, h2, ofCode_code, ho])

/-- A function of the predicate logic, whose type code is 15. -/
theorem of_logic {op : Nat} {t : Trig} {i : Instr} (hr : i.raw = some (rawOf .pl (op * 16 + Ty.untyped.code) t.md.toNat t.mv))
    (hc : i.ctl = none) (ho : ofTyped .pl op .untyped t = some i) (hop : decide (op < 16) = true) : Statement i := by
  have hop := of_decide_eq_true hop
  have h0 : Ty.untyped.code = 15 := rfl
  have h1 : (op * 16 + Ty.untyped.code) / 16 = op := by omega
  have h2 : (op * 16 + Ty.untyped.code) % 16 = 15 := by omega
  refine of_lane hr hc ?_ rfl (decide_eq_true (by omega))
  simp only [laneTrigger, h1, h2, ho, if_true]

/-- A function of the other units whose modifier is 0. -/
theorem of_plain {u : Un} {fn : Nat} {m : Mv} {i : Instr} (hr : i.raw = some (rawOf u fn 0 m)) (hc : i.ctl = none)
    (hl : plainForm u fn m = some i) (hu : u.isLane = false) (hfn : decide (fn < 256) = true) : Statement i := by
  refine of_raw hr hc (dst_lt u) (of_decide_eq_true hfn) (by simp [rawOf]) ?_
  simp only [rawOf, trigger_other hu, otherTrigger, hl, if_true]

/-- A function whose modifier names a buffer record. -/
theorem of_record {u : Un} {fn : Nat} {t : MTrig} {i : Instr} (hr : i.raw = some (rawOf u fn t.buf.toNat t.mv)) (hc : i.ctl = none)
    (hp : plainForm u fn t.mv = none) (hl : recordForm u fn t = some i) (hu : u.isLane = false) (hfn : decide (fn < 256) = true) : Statement i := by
  have hb : t.buf.toNat < 64 := t.buf.isLt
  refine of_raw hr hc (dst_lt u) (of_decide_eq_true hfn) (by simp only [rawOf]; omega) ?_
  have : (⟨t.mv, BitVec.ofNat 6 t.buf.toNat⟩ : MTrig) = t := by simp
  simp only [rawOf, trigger_other hu, otherTrigger, hp, this, hl, hb, if_true]

/-- An atomic, whose function holds a scope. -/
theorem of_atomic {op : Nat} {sc : Scope} {t : MTrig} {i : Instr} (hr : i.raw = some (rawOf .atm (op * 8 + sc.code) t.buf.toNat t.mv))
    (hc : i.ctl = none) (hl : atomicForm op sc t = some i) (hop : decide (op < 12) = true) : Statement i := by
  have hop := of_decide_eq_true hop
  have hb : t.buf.toNat < 64 := t.buf.isLt
  have hs : sc.code < 5 := by cases sc <;> decide
  have hsc : Scope.ofCode sc.code = some sc := by cases sc <;> rfl
  have h1 : (op * 8 + sc.code) / 8 = op := by omega
  have h2 : (op * 8 + sc.code) % 8 = sc.code := by omega
  refine of_raw hr hc (dst_lt .atm) (by simp only [rawOf]; omega) (by simp only [rawOf]; omega) ?_
  have : (⟨t.mv, BitVec.ofNat 6 t.buf.toNat⟩ : MTrig) = t := by simp
  simp only [rawOf, trigger_other (u := .atm) rfl, otherTrigger, plainForm, recordForm, this, h1, h2, hsc, hl, hb, if_true]

/-- A mode trigger of the matrix engine, with `.tri` in bit 6 of its modifier. -/
theorem of_task {fn : Nat} {tri : Bool} {t : MTrig} {i : Instr} (hr : i.raw = some (rawOf .mx fn (tri.toNat * 64 + t.buf.toNat) t.mv))
    (hc : i.ctl = none) (hl : taskForm fn tri t = some i) (hfn : decide (0 < fn ∧ fn < 10) = true) : Statement i := by
  have hfn := of_decide_eq_true hfn
  have hb : t.buf.toNat < 64 := t.buf.isLt
  have ht : tri.toNat < 2 := by cases tri <;> decide
  refine of_raw hr hc (dst_lt .mx) (by simp only [rawOf]; omega) (by simp only [rawOf]; omega) ?_
  have h1 : (⟨t.mv, BitVec.ofNat 6 (tri.toNat * 64 + t.buf.toNat)⟩ : MTrig) = t := by
    have : BitVec.ofNat 6 (tri.toNat * 64 + t.buf.toNat) = t.buf := by
      apply BitVec.eq_of_toNat_eq; simp only [BitVec.toNat_ofNat]; omega
    rw [this]
  have h2 : bitAt (tri.toNat * 64 + t.buf.toNat) 6 = tri := by
    have : (tri.toNat * 64 + t.buf.toNat) / 2 ^ 6 = tri.toNat := by omega
    simp only [bitAt, this]; cases tri <;> rfl
  have h3 : plainForm .mx fn t.mv = none := by
    obtain ⟨a, b⟩ := hfn
    interval_cases fn <;> rfl
  have h4 : tri.toNat * 64 + t.buf.toNat < 128 := by omega
  simp only [rawOf, trigger_other (u := .mx) rfl, otherTrigger, h3, recordForm, h1, h2, hl, h4, if_true]

/-- An ordering form, whose modifier is a scope. -/
theorem of_scope {fn : Nat} {sc : Scope} {m : Mv} {i : Instr} (hr : i.raw = some (rawOf .sy fn sc.code m)) (hc : i.ctl = none)
    (hl : scopeForm fn sc m = some i) (hfn : decide (0 < fn ∧ fn < 4) = true) : Statement i := by
  have hfn := of_decide_eq_true hfn
  have hs : sc.code < 5 := by cases sc <;> decide
  have hsc : Scope.ofCode sc.code = some sc := by cases sc <;> rfl
  have h3 : plainForm .sy fn m = none := by
    obtain ⟨a, b⟩ := hfn
    interval_cases fn <;> rfl
  refine of_raw hr hc (dst_lt .sy) (by simp only [rawOf]; omega) (by simp only [rawOf]; omega) ?_
  simp only [rawOf, trigger_other (u := .sy) rfl, otherTrigger, h3, recordForm, hsc, hl]

/-- The bounds of the fields of a control operation. -/
def fits (f : CtlFields) : Prop :=
  f.opc < 2 ^ 8 ∧ f.sd < 2 ^ 6 ∧ f.sa < 2 ^ 6 ∧ f.pr < 2 ^ 4 ∧ f.ng < 2 ∧ f.res < 2 ^ 7 ∧ f.ia < 2 ^ 8 ∧ f.ib < 2 ^ 8 ∧ f.x < 2 ^ 32

/-- Division by two powers at once. -/
theorem div_pow_add (w a b : Nat) : w / 2 ^ (a + b) = w / 2 ^ a / 2 ^ b := by rw [Nat.pow_add, Nat.div_div_eq_div_mul]

theorem ofWord_word {f : CtlFields} (h : fits f) : CtlFields.ofWord f.word = f ∧ f.word < 2 ^ 80 := by
  obtain ⟨opc, sd, sa, pr, ng, res, ia, ib, x⟩ := f
  obtain ⟨h1, h2, h3, h4, h5, h6, h7, h8, h9⟩ := h
  simp only at h1 h2 h3 h4 h5 h6 h7 h8 h9
  obtain ⟨c1, e1⟩ : ∃ c, c = sd + 2 ^ 6 * opc := ⟨_, rfl⟩
  obtain ⟨c2, e2⟩ : ∃ c, c = sa + 2 ^ 6 * c1 := ⟨_, rfl⟩
  obtain ⟨c3, e3⟩ : ∃ c, c = pr + 2 ^ 4 * c2 := ⟨_, rfl⟩
  obtain ⟨c4, e4⟩ : ∃ c, c = ng + 2 * c3 := ⟨_, rfl⟩
  obtain ⟨c5, e5⟩ : ∃ c, c = res + 2 ^ 7 * c4 := ⟨_, rfl⟩
  obtain ⟨c6, e6⟩ : ∃ c, c = ia + 2 ^ 8 * c5 := ⟨_, rfl⟩
  obtain ⟨c7, e7⟩ : ∃ c, c = ib + 2 ^ 8 * c6 := ⟨_, rfl⟩
  have hw : CtlFields.word ⟨opc, sd, sa, pr, ng, res, ia, ib, x⟩ = x + 2 ^ 32 * c7 := by
    simp only [CtlFields.word]; subst e7 e6 e5 e4 e3 e2 e1; ring
  rw [hw]
  have d0 : (x + 2 ^ 32 * c7) / 2 ^ 32 = c7 := by clear * - h9; omega
  have m0 : (x + 2 ^ 32 * c7) % 2 ^ 32 = x := by clear * - h9; omega
  have d1 : c7 / 2 ^ 8 = c6 := by clear * - h8 e7; omega
  have m1 : c7 % 2 ^ 8 = ib := by clear * - h8 e7; omega
  have d2 : c6 / 2 ^ 8 = c5 := by clear * - h7 e6; omega
  have m2 : c6 % 2 ^ 8 = ia := by clear * - h7 e6; omega
  have d3 : c5 / 2 ^ 7 = c4 := by clear * - h6 e5; omega
  have m3 : c5 % 2 ^ 7 = res := by clear * - h6 e5; omega
  have d4 : c4 / 2 ^ 1 = c3 := by clear * - h5 e4; omega
  have m4 : c4 % 2 ^ 1 = ng := by clear * - h5 e4; omega
  have d5 : c3 / 2 ^ 4 = c2 := by clear * - h4 e3; omega
  have m5 : c3 % 2 ^ 4 = pr := by clear * - h4 e3; omega
  have d6 : c2 / 2 ^ 6 = c1 := by clear * - h3 e2; omega
  have m6 : c2 % 2 ^ 6 = sa := by clear * - h3 e2; omega
  have d7 : c1 / 2 ^ 6 = opc := by clear * - h2 e1; omega
  have m7 : c1 % 2 ^ 6 = sd := by clear * - h2 e1; omega
  have m8 : opc % 2 ^ 8 = opc := by clear * - h1; omega
  have g1 := div_pow_add (x + 2 ^ 32 * c7) 32 8
  have g2 := div_pow_add (x + 2 ^ 32 * c7) 40 8
  have g3 := div_pow_add (x + 2 ^ 32 * c7) 48 7
  have g4 := div_pow_add (x + 2 ^ 32 * c7) 55 1
  have g5 := div_pow_add (x + 2 ^ 32 * c7) 56 4
  have g6 := div_pow_add (x + 2 ^ 32 * c7) 60 6
  have g7 := div_pow_add (x + 2 ^ 32 * c7) 66 6
  rw [d0, d1] at g1
  rw [g1, d2] at g2
  rw [g2, d3] at g3
  rw [g3, d4] at g4
  rw [g4, d5] at g5
  rw [g5, d6] at g6
  rw [g6, d7] at g7
  constructor
  · simp only [CtlFields.ofWord, bitsAt, CtlFields.mk.injEq]
    refine ⟨?_, ?_, ?_, ?_, ?_, ?_, ?_, ?_, ?_⟩
    · rw [g7, m8]
    · rw [g6, m7]
    · rw [g5, m6]
    · rw [g4, m5]
    · rw [g3, m4]
    · rw [g2, m3]
    · rw [g1, m2]
    · rw [d0, m1]
    · simp only [Nat.pow_zero, Nat.div_one, m0]
  · have b1 : c1 < 2 ^ 14 := by clear * - h1 h2 e1; omega
    have b2 : c2 < 2 ^ 20 := by clear * - h3 b1 e2; omega
    have b3 : c3 < 2 ^ 24 := by clear * - h4 b2 e3; omega
    have b4 : c4 < 2 ^ 25 := by clear * - h5 b3 e4; omega
    have b5 : c5 < 2 ^ 32 := by clear * - h6 b4 e5; omega
    have b6 : c6 < 2 ^ 40 := by clear * - h7 b5 e6; omega
    have b7 : c7 < 2 ^ 48 := by clear * - h8 b6 e7; omega
    clear * - h9 b7; omega

/-- The decoder of the control operation, from its fields. -/
theorem decodeCtl_of {w : Nat} {g : CtlFields} (h : CtlFields.ofWord w = g) : decodeCtl w = (match ctlOf g with
    | none => .error .badOpcode
    | some (i, u) => if !g.unusedZero u then .error .unusedField
      else if (g.opc == 0x30 || g.opc == 0x31) && g.x > 0xFFFF then .error .immediateRange else legal i) := by
  subst h; rfl

/-- A control operation. -/
theorem of_control {i : Instr} {f : CtlFields} {u : CtlUse} (hc : i.ctl = some f) (hr : i.raw = none) (hf : fits f) (ho : ctlOf f = some (i, u))
    (hu : f.unusedZero u = true) (hx : f.opc ≠ 0x30 ∧ f.opc ≠ 0x31 ∨ f.x ≤ 0xFFFF) : Statement i := by
  refine fun hw => ⟨fun r h => by simp [hr] at h, fun f' h => ?_⟩
  rw [hc] at h; cases h
  refine ⟨(ofWord_word hf).2, (decodeCtl_of (ofWord_word hf).1).trans ?_⟩
  have hx' : ((f.opc == 0x30 || f.opc == 0x31) && decide (f.x > 0xFFFF)) = false := by
    rcases hx with ⟨h, h'⟩ | h
    · rw [beq_false_of_ne h, beq_false_of_ne h']; rfl
    · rw [decide_eq_false (Nat.not_lt.mpr h), Bool.and_false]
  simp only [ho, hu, Bool.not_true, Bool.false_eq_true, if_false, hx', legal, show i.illegal = none from hw]

/-! ### One lemma for each constructor -/

theorem noOperation : Statement .noOperation := of_neither rfl rfl
theorem moveToPort (u : Un) (k : PortIx) (wide : Bool) (m : Mv) : Statement (.moveToPort u k wide m) := by
  cases u <;> cases k <;> cases wide <;> exact of_raw rfl rfl (of_decide_eq_true rfl) (of_decide_eq_true rfl) (of_decide_eq_true rfl)
    (by simp [moveOf, Un.code, PortIx.code, Un.ofCode, PortIx.ofCode])
theorem moveToRegister (d : RegDst) (m : Mv) : Statement (.moveToRegister d m) := by
  cases d with
  | vreg n wide => cases wide <;> exact of_raw rfl rfl (of_decide_eq_true rfl) n.isLt (of_decide_eq_true rfl) (by simp [moveOf])
  | sreg n =>
    have h := n.isLt
    exact of_raw rfl rfl (of_decide_eq_true rfl) (by simp only; omega) (of_decide_eq_true rfl) (by simp [moveOf, h])
theorem moveToPredicate (n : BitVec 4) (m : Mv) : Statement (.moveToPredicate n m) := by
  have h := n.isLt
  exact of_raw rfl rfl (of_decide_eq_true rfl) (by simp only; omega) (of_decide_eq_true rfl) (by simp [moveOf, h])
theorem specialRegisterWrite (n : BitVec 4) (m : Mv) : Statement (.specialRegisterWrite n m) := by
  have h := n.isLt
  exact of_raw rfl rfl (of_decide_eq_true rfl) (by simp only; omega) (of_decide_eq_true rfl) (by simp [moveOf, h])
theorem ringPush (n : BitVec 4) (m : Mv) : Statement (.ringPush n m) := by
  have h := n.isLt
  refine of_raw rfl rfl (by simp only; omega) (of_decide_eq_true rfl) (of_decide_eq_true rfl) ?_
  have h1 : BitVec.ofNat 4 (0x70 + n.toNat) = n := by
    apply BitVec.eq_of_toNat_eq; simp only [BitVec.toNat_ofNat]; omega
  unfold moveOf
  rw [if_neg (by simp only; omega), if_neg (by simp only; omega), if_neg (by simp only; omega), if_neg (by simp only; omega),
    if_neg (by simp only; omega)]
  simp [h1]
theorem iaAdd (u : Which) (ty : Ty) (t : Trig) : Statement (.iaAdd u ty t) := by
  cases u <;> exact of_typed rfl rfl rfl rfl rfl
theorem iaSub (u : Which) (ty : Ty) (t : Trig) : Statement (.iaSub u ty t) := by
  cases u <;> exact of_typed rfl rfl rfl rfl rfl
theorem iaMin (u : Which) (ty : Ty) (t : Trig) : Statement (.iaMin u ty t) := by
  cases u <;> exact of_typed rfl rfl rfl rfl rfl
theorem iaMax (u : Which) (ty : Ty) (t : Trig) : Statement (.iaMax u ty t) := by
  cases u <;> exact of_typed rfl rfl rfl rfl rfl
theorem iaAnd (u : Which) (ty : Ty) (t : Trig) : Statement (.iaAnd u ty t) := by
  cases u <;> exact of_typed rfl rfl rfl rfl rfl
theorem iaOr (u : Which) (ty : Ty) (t : Trig) : Statement (.iaOr u ty t) := by
  cases u <;> exact of_typed rfl rfl rfl rfl rfl
theorem iaXor (u : Which) (ty : Ty) (t : Trig) : Statement (.iaXor u ty t) := by
  cases u <;> exact of_typed rfl rfl rfl rfl rfl
theorem iaAndn (u : Which) (ty : Ty) (t : Trig) : Statement (.iaAndn u ty t) := by
  cases u <;> exact of_typed rfl rfl rfl rfl rfl
theorem iaEq (u : Which) (ty : Ty) (t : Trig) : Statement (.iaEq u ty t) := by
  cases u <;> exact of_typed rfl rfl rfl rfl rfl
theorem iaNe (u : Which) (ty : Ty) (t : Trig) : Statement (.iaNe u ty t) := by
  cases u <;> exact of_typed rfl rfl rfl rfl rfl
theorem iaLt (u : Which) (ty : Ty) (t : Trig) : Statement (.iaLt u ty t) := by
  cases u <;> exact of_typed rfl rfl rfl rfl rfl
theorem iaLe (u : Which) (ty : Ty) (t : Trig) : Statement (.iaLe u ty t) := by
  cases u <;> exact of_typed rfl rfl rfl rfl rfl
theorem iaSel (u : Which) (ty : Ty) (t : Trig) : Statement (.iaSel u ty t) := by
  cases u <;> exact of_typed rfl rfl rfl rfl rfl
theorem iaAbs (u : Which) (ty : Ty) (t : Trig) : Statement (.iaAbs u ty t) := by
  cases u <;> exact of_typed rfl rfl rfl rfl rfl
theorem iaNeg (u : Which) (ty : Ty) (t : Trig) : Statement (.iaNeg u ty t) := by
  cases u <;> exact of_typed rfl rfl rfl rfl rfl
theorem iaMov (u : Which) (ty : Ty) (t : Trig) : Statement (.iaMov u ty t) := by
  cases u <;> exact of_typed rfl rfl rfl rfl rfl
theorem imMul (ty : Ty) (t : Trig) : Statement (.imMul ty t) := of_typed rfl rfl rfl rfl rfl
theorem imMulhi (ty : Ty) (t : Trig) : Statement (.imMulhi ty t) := of_typed rfl rfl rfl rfl rfl
theorem imMad (ty : Ty) (t : Trig) : Statement (.imMad ty t) := of_typed rfl rfl rfl rfl rfl
theorem mulw (ty : Ty) (t : Trig) : Statement (.mulw ty t) := of_typed rfl rfl rfl rfl rfl
theorem madw (ty : Ty) (t : Trig) : Statement (.madw ty t) := of_typed rfl rfl rfl rfl rfl
theorem dp4 (ty : Ty) (t : Trig) : Statement (.dp4 ty t) := of_typed rfl rfl rfl rfl rfl
theorem shShl (ty : Ty) (t : Trig) : Statement (.shShl ty t) := of_typed rfl rfl rfl rfl rfl
theorem shShr (ty : Ty) (t : Trig) : Statement (.shShr ty t) := of_typed rfl rfl rfl rfl rfl
theorem shSar (ty : Ty) (t : Trig) : Statement (.shSar ty t) := of_typed rfl rfl rfl rfl rfl
theorem rol (ty : Ty) (t : Trig) : Statement (.rol ty t) := of_typed rfl rfl rfl rfl rfl
theorem ror (ty : Ty) (t : Trig) : Statement (.ror ty t) := of_typed rfl rfl rfl rfl rfl
theorem popc (ty : Ty) (t : Trig) : Statement (.popc ty t) := of_typed rfl rfl rfl rfl rfl
theorem clz (ty : Ty) (t : Trig) : Statement (.clz ty t) := of_typed rfl rfl rfl rfl rfl
theorem ctz (ty : Ty) (t : Trig) : Statement (.ctz ty t) := of_typed rfl rfl rfl rfl rfl
theorem brev (ty : Ty) (t : Trig) : Statement (.brev ty t) := of_typed rfl rfl rfl rfl rfl
theorem bfx (ty : Ty) (t : Trig) : Statement (.bfx ty t) := of_typed rfl rfl rfl rfl rfl
theorem bfxs (ty : Ty) (t : Trig) : Statement (.bfxs ty t) := of_typed rfl rfl rfl rfl rfl
theorem bfi (ty : Ty) (t : Trig) : Statement (.bfi ty t) := of_typed rfl rfl rfl rfl rfl
theorem perm (ty : Ty) (t : Trig) : Statement (.perm ty t) := of_typed rfl rfl rfl rfl rfl
theorem faAdd (u : Which) (ty : Ty) (t : Trig) : Statement (.faAdd u ty t) := by
  cases u <;> exact of_typed rfl rfl rfl rfl rfl
theorem faSub (u : Which) (ty : Ty) (t : Trig) : Statement (.faSub u ty t) := by
  cases u <;> exact of_typed rfl rfl rfl rfl rfl
theorem faMul (u : Which) (ty : Ty) (t : Trig) : Statement (.faMul u ty t) := by
  cases u <;> exact of_typed rfl rfl rfl rfl rfl
theorem fma (u : Which) (ty : Ty) (t : Trig) : Statement (.fma u ty t) := by
  cases u <;> exact of_typed rfl rfl rfl rfl rfl
theorem fnma (u : Which) (ty : Ty) (t : Trig) : Statement (.fnma u ty t) := by
  cases u <;> exact of_typed rfl rfl rfl rfl rfl
theorem faMin (u : Which) (ty : Ty) (t : Trig) : Statement (.faMin u ty t) := by
  cases u <;> exact of_typed rfl rfl rfl rfl rfl
theorem faMax (u : Which) (ty : Ty) (t : Trig) : Statement (.faMax u ty t) := by
  cases u <;> exact of_typed rfl rfl rfl rfl rfl
theorem faEq (u : Which) (ty : Ty) (t : Trig) : Statement (.faEq u ty t) := by
  cases u <;> exact of_typed rfl rfl rfl rfl rfl
theorem faLt (u : Which) (ty : Ty) (t : Trig) : Statement (.faLt u ty t) := by
  cases u <;> exact of_typed rfl rfl rfl rfl rfl
theorem faLe (u : Which) (ty : Ty) (t : Trig) : Statement (.faLe u ty t) := by
  cases u <;> exact of_typed rfl rfl rfl rfl rfl
theorem cvt (d : Ty) (c : Ty) (t : Trig) : Statement (.cvt d c t) := by
  intro hw
  have hd : d.code < 12 ∧ c.code < 12 := by
    cases d <;> cases c <;> first | exact ⟨of_decide_eq_true rfl, of_decide_eq_true rfl⟩ | (simp [WellFormed, Instr.illegal, Ty.cvtOk] at hw)
  have h1 : (d.code * 16 + c.code) / 16 = d.code := by omega
  have h2 : (d.code * 16 + c.code) % 16 = c.code := by omega
  refine of_lane (u := .cv) (fn := d.code * 16 + c.code) (t := t) rfl rfl ?_ rfl (decide_eq_true (by omega)) hw
  simp only [laneTrigger, h1, h2, ofCode_code]
  rw [if_pos (by omega)]
theorem rcp (t : Trig) : Statement (.rcp t) := of_lane rfl rfl rfl rfl rfl
theorem rsq (t : Trig) : Statement (.rsq t) := of_lane rfl rfl rfl rfl rfl
theorem sqrt (t : Trig) : Statement (.sqrt t) := of_lane rfl rfl rfl rfl rfl
theorem exp (t : Trig) : Statement (.exp t) := of_lane rfl rfl rfl rfl rfl
theorem log (t : Trig) : Statement (.log t) := of_lane rfl rfl rfl rfl rfl
theorem sin (t : Trig) : Statement (.sin t) := of_lane rfl rfl rfl rfl rfl
theorem cos (t : Trig) : Statement (.cos t) := of_lane rfl rfl rfl rfl rfl
theorem tanh (t : Trig) : Statement (.tanh t) := of_lane rfl rfl rfl rfl rfl
theorem frc (t : Trig) : Statement (.frc t) := of_lane rfl rfl rfl rfl rfl
theorem rnd (t : Trig) : Statement (.rnd t) := of_lane rfl rfl rfl rfl rfl
theorem cls (t : Trig) : Statement (.cls t) := of_lane rfl rfl rfl rfl rfl
theorem qpack (t : Trig) : Statement (.qpack t) := of_lane rfl rfl rfl rfl rfl
theorem qunpack (t : Trig) : Statement (.qunpack t) := of_lane rfl rfl rfl rfl rfl
theorem xlSum (ty : Ty) (t : Trig) : Statement (.xlSum ty t) := of_typed rfl rfl rfl rfl rfl
theorem xlMin (ty : Ty) (t : Trig) : Statement (.xlMin ty t) := of_typed rfl rfl rfl rfl rfl
theorem xlMax (ty : Ty) (t : Trig) : Statement (.xlMax ty t) := of_typed rfl rfl rfl rfl rfl
theorem xlAnd (ty : Ty) (t : Trig) : Statement (.xlAnd ty t) := of_typed rfl rfl rfl rfl rfl
theorem xlOr (ty : Ty) (t : Trig) : Statement (.xlOr ty t) := of_typed rfl rfl rfl rfl rfl
theorem scan (ty : Ty) (t : Trig) : Statement (.scan ty t) := of_typed rfl rfl rfl rfl rfl
theorem shfl (ty : Ty) (t : Trig) : Statement (.shfl ty t) := of_typed rfl rfl rfl rfl rfl
theorem up (ty : Ty) (t : Trig) : Statement (.up ty t) := of_typed rfl rfl rfl rfl rfl
theorem down (ty : Ty) (t : Trig) : Statement (.down ty t) := of_typed rfl rfl rfl rfl rfl
theorem bfly (ty : Ty) (t : Trig) : Statement (.bfly ty t) := of_typed rfl rfl rfl rfl rfl
theorem bcast (ty : Ty) (t : Trig) : Statement (.bcast ty t) := of_typed rfl rfl rfl rfl rfl
theorem ballot (ty : Ty) (t : Trig) : Statement (.ballot ty t) := of_typed rfl rfl rfl rfl rfl
theorem plAnd (t : Trig) : Statement (.plAnd t) := of_logic rfl rfl rfl rfl
theorem plOr (t : Trig) : Statement (.plOr t) := of_logic rfl rfl rfl rfl
theorem plXor (t : Trig) : Statement (.plXor t) := of_logic rfl rfl rfl rfl
theorem plAndn (t : Trig) : Statement (.plAndn t) := of_logic rfl rfl rfl rfl
theorem plNot (t : Trig) : Statement (.plNot t) := of_logic rfl rfl rfl rfl
theorem plAny (t : Trig) : Statement (.plAny t) := of_logic rfl rfl rfl rfl
theorem plAll (t : Trig) : Statement (.plAll t) := of_logic rfl rfl rfl rfl
theorem saAdd (u : Which) (ty : Ty) (t : Trig) : Statement (.saAdd u ty t) := by
  cases u <;> exact of_typed rfl rfl rfl rfl rfl
theorem saSub (u : Which) (ty : Ty) (t : Trig) : Statement (.saSub u ty t) := by
  cases u <;> exact of_typed rfl rfl rfl rfl rfl
theorem saMin (u : Which) (ty : Ty) (t : Trig) : Statement (.saMin u ty t) := by
  cases u <;> exact of_typed rfl rfl rfl rfl rfl
theorem saMax (u : Which) (ty : Ty) (t : Trig) : Statement (.saMax u ty t) := by
  cases u <;> exact of_typed rfl rfl rfl rfl rfl
theorem saAnd (u : Which) (ty : Ty) (t : Trig) : Statement (.saAnd u ty t) := by
  cases u <;> exact of_typed rfl rfl rfl rfl rfl
theorem saOr (u : Which) (ty : Ty) (t : Trig) : Statement (.saOr u ty t) := by
  cases u <;> exact of_typed rfl rfl rfl rfl rfl
theorem saXor (u : Which) (ty : Ty) (t : Trig) : Statement (.saXor u ty t) := by
  cases u <;> exact of_typed rfl rfl rfl rfl rfl
theorem saAndn (u : Which) (ty : Ty) (t : Trig) : Statement (.saAndn u ty t) := by
  cases u <;> exact of_typed rfl rfl rfl rfl rfl
theorem saEq (u : Which) (ty : Ty) (t : Trig) : Statement (.saEq u ty t) := by
  cases u <;> exact of_typed rfl rfl rfl rfl rfl
theorem saNe (u : Which) (ty : Ty) (t : Trig) : Statement (.saNe u ty t) := by
  cases u <;> exact of_typed rfl rfl rfl rfl rfl
theorem saLt (u : Which) (ty : Ty) (t : Trig) : Statement (.saLt u ty t) := by
  cases u <;> exact of_typed rfl rfl rfl rfl rfl
theorem saLe (u : Which) (ty : Ty) (t : Trig) : Statement (.saLe u ty t) := by
  cases u <;> exact of_typed rfl rfl rfl rfl rfl
theorem saSel (u : Which) (ty : Ty) (t : Trig) : Statement (.saSel u ty t) := by
  cases u <;> exact of_typed rfl rfl rfl rfl rfl
theorem saShl (u : Which) (ty : Ty) (t : Trig) : Statement (.saShl u ty t) := by
  cases u <;> exact of_typed rfl rfl rfl rfl rfl
theorem saShr (u : Which) (ty : Ty) (t : Trig) : Statement (.saShr u ty t) := by
  cases u <;> exact of_typed rfl rfl rfl rfl rfl
theorem saSar (u : Which) (ty : Ty) (t : Trig) : Statement (.saSar u ty t) := by
  cases u <;> exact of_typed rfl rfl rfl rfl rfl
theorem smMul (ty : Ty) (t : Trig) : Statement (.smMul ty t) := of_typed rfl rfl rfl rfl rfl
theorem smMulhi (ty : Ty) (t : Trig) : Statement (.smMulhi ty t) := of_typed rfl rfl rfl rfl rfl
theorem smMad (ty : Ty) (t : Trig) : Statement (.smMad ty t) := of_typed rfl rfl rfl rfl rfl
theorem div (ty : Ty) (t : Trig) : Statement (.div ty t) := of_typed rfl rfl rfl rfl rfl
theorem rem (ty : Ty) (t : Trig) : Statement (.rem ty t) := of_typed rfl rfl rfl rfl rfl
theorem ldc (t : MTrig) : Statement (.ldc t) := of_record rfl rfl rfl rfl rfl rfl
theorem ld (u : Which) (t : MTrig) : Statement (.ld u t) := by
  cases u <;> exact of_record rfl rfl rfl rfl rfl rfl
theorem lds (u : Which) (t : MTrig) : Statement (.lds u t) := by
  cases u <;> exact of_record rfl rfl rfl rfl rfl rfl
theorem ldu (u : Which) (t : MTrig) : Statement (.ldu u t) := by
  cases u <;> exact of_record rfl rfl rfl rfl rfl rfl
theorem preq (u : Which) (t : MTrig) : Statement (.preq u t) := by
  cases u <;> exact of_record rfl rfl rfl rfl rfl rfl
theorem touch (u : Which) (t : MTrig) : Statement (.touch u t) := by
  cases u <;> exact of_record rfl rfl rfl rfl rfl rfl
theorem st (t : MTrig) : Statement (.st t) := of_record rfl rfl rfl rfl rfl rfl
theorem stu (t : MTrig) : Statement (.stu t) := of_record rfl rfl rfl rfl rfl rfl
theorem wb (t : MTrig) : Statement (.wb t) := of_record rfl rfl rfl rfl rfl rfl
theorem inv (t : MTrig) : Statement (.inv t) := of_record rfl rfl rfl rfl rfl rfl
theorem csize (m : Mv) : Statement (.csize m) := of_plain rfl rfl rfl rfl rfl
theorem atAdd (sc : Scope) (t : MTrig) : Statement (.atAdd sc t) := of_atomic rfl rfl rfl rfl
theorem umin (sc : Scope) (t : MTrig) : Statement (.umin sc t) := of_atomic rfl rfl rfl rfl
theorem umax (sc : Scope) (t : MTrig) : Statement (.umax sc t) := of_atomic rfl rfl rfl rfl
theorem smin (sc : Scope) (t : MTrig) : Statement (.smin sc t) := of_atomic rfl rfl rfl rfl
theorem smax (sc : Scope) (t : MTrig) : Statement (.smax sc t) := of_atomic rfl rfl rfl rfl
theorem atAnd (sc : Scope) (t : MTrig) : Statement (.atAnd sc t) := of_atomic rfl rfl rfl rfl
theorem atOr (sc : Scope) (t : MTrig) : Statement (.atOr sc t) := of_atomic rfl rfl rfl rfl
theorem exch (sc : Scope) (t : MTrig) : Statement (.exch sc t) := of_atomic rfl rfl rfl rfl
theorem cas (sc : Scope) (t : MTrig) : Statement (.cas sc t) := of_atomic rfl rfl rfl rfl
theorem incw (sc : Scope) (t : MTrig) : Statement (.incw sc t) := of_atomic rfl rfl rfl rfl
theorem decw (sc : Scope) (t : MTrig) : Statement (.decw sc t) := of_atomic rfl rfl rfl rfl
theorem addb (sc : Scope) (t : MTrig) : Statement (.addb sc t) := of_atomic rfl rfl rfl rfl
theorem go (t : MTrig) : Statement (.go t) := of_record rfl rfl rfl rfl rfl rfl
theorem mcast (t : MTrig) : Statement (.mcast t) := of_record rfl rfl rfl rfl rfl rfl
theorem copyResume (m : Mv) : Statement (.copyResume m) := of_plain rfl rfl rfl rfl rfl
theorem cwany (m : Mv) : Statement (.cwany m) := of_plain rfl rfl rfl rfl rfl
theorem cwall (m : Mv) : Statement (.cwall m) := of_plain rfl rfl rfl rfl rfl
theorem cffr (m : Mv) : Statement (.cffr m) := of_plain rfl rfl rfl rfl rfl
theorem mmBf16 (tri : Bool) (t : MTrig) : Statement (.mmBf16 tri t) := of_task rfl rfl rfl rfl
theorem mmF16 (tri : Bool) (t : MTrig) : Statement (.mmF16 tri t) := of_task rfl rfl rfl rfl
theorem mmE4m3 (tri : Bool) (t : MTrig) : Statement (.mmE4m3 tri t) := of_task rfl rfl rfl rfl
theorem mmE5m2 (tri : Bool) (t : MTrig) : Statement (.mmE5m2 tri t) := of_task rfl rfl rfl rfl
theorem mmS8 (tri : Bool) (t : MTrig) : Statement (.mmS8 tri t) := of_task rfl rfl rfl rfl
theorem mmQ4 (tri : Bool) (t : MTrig) : Statement (.mmQ4 tri t) := of_task rfl rfl rfl rfl
theorem scacc (tri : Bool) (t : MTrig) : Statement (.scacc tri t) := of_task rfl rfl rfl rfl
theorem drain (tri : Bool) (t : MTrig) : Statement (.drain tri t) := of_task rfl rfl rfl rfl
theorem hrot (tri : Bool) (t : MTrig) : Statement (.hrot tri t) := of_task rfl rfl rfl rfl
theorem taskResume (m : Mv) : Statement (.taskResume m) := of_plain rfl rfl rfl rfl rfl
theorem win (m : Mv) : Statement (.win m) := of_plain rfl rfl rfl rfl rfl
theorem acRd (m : Mv) : Statement (.acRd m) := of_plain rfl rfl rfl rfl rfl
theorem acWr (m : Mv) : Statement (.acWr m) := of_plain rfl rfl rfl rfl rfl
theorem acZero (m : Mv) : Statement (.acZero m) := of_plain rfl rfl rfl rfl rfl
theorem acq (sc : Scope) (m : Mv) : Statement (.acq sc m) := of_scope rfl rfl rfl rfl
theorem rel (sc : Scope) (m : Mv) : Statement (.rel sc m) := of_scope rfl rfl rfl rfl
theorem fence (sc : Scope) (m : Mv) : Statement (.fence sc m) := of_scope rfl rfl rfl rfl
theorem barArr (m : Mv) : Statement (.barArr m) := of_plain rfl rfl rfl rfl rfl
theorem barWait (m : Mv) : Statement (.barWait m) := of_plain rfl rfl rfl rfl rfl
theorem barSync (m : Mv) : Statement (.barSync m) := of_plain rfl rfl rfl rfl rfl
theorem barSet (m : Mv) : Statement (.barSet m) := of_plain rfl rfl rfl rfl rfl
theorem gbar (m : Mv) : Statement (.gbar m) := of_plain rfl rfl rfl rfl rfl
theorem bcarm (m : Mv) : Statement (.bcarm m) := of_plain rfl rfl rfl rfl rfl
theorem bcwait (m : Mv) : Statement (.bcwait m) := of_plain rfl rfl rfl rfl rfl
theorem sol (t : MTrig) : Statement (.sol t) := of_record rfl rfl rfl rfl rfl rfl
theorem sreply (m : Mv) : Statement (.sreply m) := of_plain rfl rfl rfl rfl rfl
theorem tins (t : MTrig) : Statement (.tins t) := of_record rfl rfl rfl rfl rfl rfl
theorem tdel (m : Mv) : Statement (.tdel m) := of_plain rfl rfl rfl rfl rfl
theorem tmove (t : MTrig) : Statement (.tmove t) := of_record rfl rfl rfl rfl rfl rfl
theorem send (t : MTrig) : Statement (.send t) := of_record rfl rfl rfl rfl rfl rfl
theorem post (t : MTrig) : Statement (.post t) := of_record rfl rfl rfl rfl rfl rfl
theorem probe (m : Mv) : Statement (.probe m) := of_plain rfl rfl rfl rfl rfl
theorem rmake (m : Mv) : Statement (.rmake m) := of_plain rfl rfl rfl rfl rfl
theorem rfree (m : Mv) : Statement (.rfree m) := of_plain rfl rfl rfl rfl rfl
theorem radv (m : Mv) : Statement (.radv m) := of_plain rfl rfl rfl rfl rfl
theorem rwait (m : Mv) : Statement (.rwait m) := of_plain rfl rfl rfl rfl rfl
theorem vgive (m : Mv) : Statement (.vgive m) := of_plain rfl rfl rfl rfl rfl
theorem vclaim (m : Mv) : Statement (.vclaim m) := of_plain rfl rfl rfl rfl rfl
theorem rcnt (m : Mv) : Statement (.rcnt m) := of_plain rfl rfl rfl rfl rfl
theorem br (x : BitVec 32) : Statement (.br x) :=
  of_control rfl rfl (by simp only [fits]; omega) (by simp [ctlOf]; rfl) rfl (.inl ⟨by simp, by simp⟩)
theorem brz (sa : BitVec 6) (x : BitVec 32) : Statement (.brz sa x) :=
  of_control rfl rfl (by simp only [fits]; omega) (by simp [ctlOf]; rfl) rfl (.inl ⟨by simp, by simp⟩)
theorem brnz (sa : BitVec 6) (x : BitVec 32) : Statement (.brnz sa x) :=
  of_control rfl rfl (by simp only [fits]; omega) (by simp [ctlOf]; rfl) rfl (.inl ⟨by simp, by simp⟩)
theorem brany (p : BitVec 4) (ng : Bool) (x : BitVec 32) : Statement (.brany p ng x) := by
  cases ng <;> exact of_control rfl rfl (by simp only [fits, Bool.toNat, cond]; omega) (by simp [ctlOf]; rfl) rfl (.inl ⟨by simp, by simp⟩)
theorem brall (p : BitVec 4) (ng : Bool) (x : BitVec 32) : Statement (.brall p ng x) := by
  cases ng <;> exact of_control rfl rfl (by simp only [fits, Bool.toNat, cond]; omega) (by simp [ctlOf]; rfl) rfl (.inl ⟨by simp, by simp⟩)
theorem jmp (sa : BitVec 6) : Statement (.jmp sa) :=
  of_control rfl rfl (by simp only [fits]; omega) (by simp [ctlOf]; rfl) rfl (.inl ⟨by simp, by simp⟩)
theorem call (x : BitVec 32) : Statement (.call x) :=
  of_control rfl rfl (by simp only [fits]; omega) (by simp [ctlOf]; rfl) rfl (.inl ⟨by simp, by simp⟩)
theorem ret : Statement .ret :=
  of_control rfl rfl (by simp only [fits]; omega) (by simp [ctlOf]; rfl) rfl (.inl ⟨by simp, by simp⟩)
theorem mloop (sa : BitVec 6) (ii : BitVec 8) (stages : BitVec 8) : Statement (.mloop sa ii stages) :=
  of_control rfl rfl (by simp only [fits]; omega) (by simp [ctlOf]; rfl) rfl (.inl ⟨by simp, by simp⟩)
theorem vif (p : BitVec 4) (ng : Bool) : Statement (.vif p ng) := by
  cases ng <;> exact of_control rfl rfl (by simp only [fits, Bool.toNat, cond]; omega) (by simp [ctlOf]; rfl) rfl (.inl ⟨by simp, by simp⟩)
theorem velse : Statement .velse :=
  of_control rfl rfl (by simp only [fits]; omega) (by simp [ctlOf]; rfl) rfl (.inl ⟨by simp, by simp⟩)
theorem vend : Statement .vend :=
  of_control rfl rfl (by simp only [fits]; omega) (by simp [ctlOf]; rfl) rfl (.inl ⟨by simp, by simp⟩)
theorem vloop : Statement .vloop :=
  of_control rfl rfl (by simp only [fits]; omega) (by simp [ctlOf]; rfl) rfl (.inl ⟨by simp, by simp⟩)
theorem vwhile (p : BitVec 4) (ng : Bool) : Statement (.vwhile p ng) := by
  cases ng <;> exact of_control rfl rfl (by simp only [fits, Bool.toNat, cond]; omega) (by simp [ctlOf]; rfl) rfl (.inl ⟨by simp, by simp⟩)
theorem vbrk (k : BitVec 8) : Statement (.vbrk k) :=
  of_control rfl rfl (by simp only [fits]; omega) (by simp [ctlOf]; rfl) rfl (.inl ⟨by simp, by simp⟩)
theorem vnext (k : BitVec 8) : Statement (.vnext k) :=
  of_control rfl rfl (by simp only [fits]; omega) (by simp [ctlOf]; rfl) rfl (.inl ⟨by simp, by simp⟩)
theorem exit : Statement .exit :=
  of_control rfl rfl (by simp only [fits]; omega) (by simp [ctlOf]; rfl) rfl (.inl ⟨by simp, by simp⟩)
theorem trap (n : BitVec 8) : Statement (.trap n) :=
  of_control rfl rfl (by simp only [fits]; omega) (by simp [ctlOf]; rfl) rfl (.inl ⟨by simp, by simp⟩)
theorem yield : Statement .yield :=
  of_control rfl rfl (by simp only [fits]; omega) (by simp [ctlOf]; rfl) rfl (.inl ⟨by simp, by simp⟩)
theorem bkpt : Statement .bkpt :=
  of_control rfl rfl (by simp only [fits]; omega) (by simp [ctlOf]; rfl) rfl (.inl ⟨by simp, by simp⟩)
theorem fwait (sa : BitVec 6) : Statement (.fwait sa) :=
  of_control rfl rfl (by simp only [fits]; omega) (by simp [ctlOf]; rfl) rfl (.inl ⟨by simp, by simp⟩)
theorem ftest (sd : BitVec 6) (sa : BitVec 6) : Statement (.ftest sd sa) :=
  of_control rfl rfl (by simp only [fits]; omega) (by simp [ctlOf]; rfl) rfl (.inl ⟨by simp, by simp⟩)
theorem fcancel (sa : BitVec 6) : Statement (.fcancel sa) :=
  of_control rfl rfl (by simp only [fits]; omega) (by simp [ctlOf]; rfl) rfl (.inl ⟨by simp, by simp⟩)
theorem fpass (sd : BitVec 6) (sa : BitVec 6) : Statement (.fpass sd sa) :=
  of_control rfl rfl (by simp only [fits]; omega) (by simp [ctlOf]; rfl) rfl (.inl ⟨by simp, by simp⟩)
theorem sysrd (sd : BitVec 6) (n : BitVec 16) : Statement (.sysrd sd n) :=
  of_control rfl rfl (by simp only [fits]; omega) (by simp [ctlOf]; rfl) rfl (.inr (by simp only; omega))
theorem syswr (n : BitVec 16) (sa : BitVec 6) : Statement (.syswr n sa) :=
  of_control rfl rfl (by simp only [fits]; omega) (by simp [ctlOf]; rfl) rfl (.inr (by simp only; omega))
theorem ctxsv (sa : BitVec 6) : Statement (.ctxsv sa) :=
  of_control rfl rfl (by simp only [fits]; omega) (by simp [ctlOf]; rfl) rfl (.inl ⟨by simp, by simp⟩)
theorem ctxld (sa : BitVec 6) : Statement (.ctxld sa) :=
  of_control rfl rfl (by simp only [fits]; omega) (by simp [ctlOf]; rfl) rfl (.inl ⟨by simp, by simp⟩)
theorem launch (sd : BitVec 6) (sa : BitVec 6) : Statement (.launch sd sa) :=
  of_control rfl rfl (by simp only [fits]; omega) (by simp [ctlOf]; rfl) rfl (.inl ⟨by simp, by simp⟩)
theorem eve : Statement .eve :=
  of_control rfl rfl (by simp only [fits]; omega) (by simp [ctlOf]; rfl) rfl (.inl ⟨by simp, by simp⟩)
theorem pwait : Statement .pwait :=
  of_control rfl rfl (by simp only [fits]; omega) (by simp [ctlOf]; rfl) rfl (.inl ⟨by simp, by simp⟩)
theorem gang (sd : BitVec 6) (sa : BitVec 6) : Statement (.gang sd sa) :=
  of_control rfl rfl (by simp only [fits]; omega) (by simp [ctlOf]; rfl) rfl (.inl ⟨by simp, by simp⟩)
theorem unitResult : Statement .unitResult := of_neither rfl rfl
theorem instructionCacheMiss : Statement .instructionCacheMiss := of_neither rfl rfl
theorem loadLineArrival : Statement .loadLineArrival := of_neither rfl rfl
theorem loadDue : Statement .loadDue := of_neither rfl rfl
theorem laneStoreLanding : Statement .laneStoreLanding := of_neither rfl rfl
theorem outsideWriteLanding : Statement .outsideWriteLanding := of_neither rfl rfl
theorem outsideEventAdmission : Statement .outsideEventAdmission := of_neither rfl rfl
theorem futureResolution : Statement .futureResolution := of_neither rfl rfl
theorem skip : Statement .skip := of_neither rfl rfl
theorem moduloInitiation : Statement .moduloInitiation := of_neither rfl rfl
theorem copyChunkTranslate : Statement .copyChunkTranslate := of_neither rfl rfl
theorem copyChunkLanding : Statement .copyChunkLanding := of_neither rfl rfl
theorem unpacedChunkDelivery : Statement .unpacedChunkDelivery := of_neither rfl rfl
theorem copyFinalStatus : Statement .copyFinalStatus := of_neither rfl rfl
theorem taskDispatch : Statement .taskDispatch := of_neither rfl rfl
theorem taskOperandLineDue : Statement .taskOperandLineDue := of_neither rfl rfl
theorem taskRetire : Statement .taskRetire := of_neither rfl rfl
theorem acAccess : Statement .acAccess := of_neither rfl rfl
theorem claimGrant : Statement .claimGrant := of_neither rfl rfl
theorem spawn : Statement .spawn := of_neither rfl rfl
theorem ringCheck : Statement .ringCheck := of_neither rfl rfl
theorem claimCheck : Statement .claimCheck := of_neither rfl rfl
theorem engineArrival : Statement .engineArrival := of_neither rfl rfl
theorem trapEntry : Statement .trapEntry := of_neither rfl rfl
theorem readShared : Statement .readShared := of_neither rfl rfl
theorem readForOwnership : Statement .readForOwnership := of_neither rfl rfl
theorem writeAtHome : Statement .writeAtHome := of_neither rfl rfl
theorem atomicAtHome : Statement .atomicAtHome := of_neither rfl rfl
theorem copyRead : Statement .copyRead := of_neither rfl rfl
theorem uncachedRead : Statement .uncachedRead := of_neither rfl rfl
theorem retryReissue : Statement .retryReissue := of_neither rfl rfl
theorem lineFill : Statement .lineFill := of_neither rfl rfl
theorem writeBackDrain : Statement .writeBackDrain := of_neither rfl rfl
theorem forwardedRead : Statement .forwardedRead := of_neither rfl rfl
theorem demandForAllTokens : Statement .demandForAllTokens := of_neither rfl rfl
theorem ownerRecall : Statement .ownerRecall := of_neither rfl rfl
theorem tokenTransfer : Statement .tokenTransfer := of_neither rfl rfl
theorem l1Eviction : Statement .l1Eviction := of_neither rfl rfl
theorem requestTimeout : Statement .requestTimeout := of_neither rfl rfl
theorem persistentRequest : Statement .persistentRequest := of_neither rfl rfl
theorem deactivation : Statement .deactivation := of_neither rfl rfl
theorem almanacTick : Statement .almanacTick := of_neither rfl rfl
theorem renewalSend : Statement .renewalSend := of_neither rfl rfl
theorem renewal : Statement .renewal := of_neither rfl rfl
theorem acknowledgement : Statement .acknowledgement := of_neither rfl rfl
theorem leaseStop : Statement .leaseStop := of_neither rfl rfl
theorem declaredDead : Statement .declaredDead := of_neither rfl rfl
theorem recallTimeout : Statement .recallTimeout := of_neither rfl rfl
theorem directoryError : Statement .directoryError := of_neither rfl rfl
theorem hostCxlMemRead : Statement .hostCxlMemRead := of_neither rfl rfl
theorem hostCxlMemWrite : Statement .hostCxlMemWrite := of_neither rfl rfl
theorem backInvalidateSnoop : Statement .backInvalidateSnoop := of_neither rfl rfl
theorem hostSnoop : Statement .hostSnoop := of_neither rfl rfl
theorem pageResident : Statement .pageResident := of_neither rfl rfl
theorem leafChange : Statement .leafChange := of_neither rfl rfl
theorem keyArrival : Statement .keyArrival := of_neither rfl rfl
theorem censusOrder : Statement .censusOrder := of_neither rfl rfl
theorem insertCommit : Statement .insertCommit := of_neither rfl rfl
theorem deleteCommit : Statement .deleteCommit := of_neither rfl rfl
theorem dropCommit : Statement .dropCommit := of_neither rfl rfl
theorem tmoveCopy : Statement .tmoveCopy := of_neither rfl rfl
theorem moveCommit : Statement .moveCommit := of_neither rfl rfl
theorem reply : Statement .reply := of_neither rfl rfl
theorem censusCompletion : Statement .censusCompletion := of_neither rfl rfl
theorem releaseAtObject : Statement .releaseAtObject := of_neither rfl rfl
theorem acquireWake : Statement .acquireWake := of_neither rfl rfl
theorem byteCountAdd : Statement .byteCountAdd := of_neither rfl rfl
theorem groupBarrierCompletion : Statement .groupBarrierCompletion := of_neither rfl rfl
theorem messageArrival : Statement .messageArrival := of_neither rfl rfl
theorem postArrival : Statement .postArrival := of_neither rfl rfl
theorem probeRequest : Statement .probeRequest := of_neither rfl rfl
theorem overflowTimeout : Statement .overflowTimeout := of_neither rfl rfl
theorem tail : Statement .tail := of_neither rfl rfl
theorem queueRegisterWrite : Statement .queueRegisterWrite := of_neither rfl rfl
theorem acceptance : Statement .acceptance := of_neither rfl rfl
theorem nodePlacement : Statement .nodePlacement := of_neither rfl rfl
theorem nodeCompletion : Statement .nodeCompletion := of_neither rfl rfl
theorem preEmption : Statement .preEmption := of_neither rfl rfl
theorem preEmptionTimeout : Statement .preEmptionTimeout := of_neither rfl rfl
theorem preEmptionSave : Statement .preEmptionSave := of_neither rfl rfl
theorem resume : Statement .resume := of_neither rfl rfl
theorem gangAbort : Statement .gangAbort := of_neither rfl rfl
theorem prepare : Statement .prepare := of_neither rfl rfl
theorem commit : Statement .commit := of_neither rfl rfl
theorem abort : Statement .abort := of_neither rfl rfl
theorem gangTimeout : Statement .gangTimeout := of_neither rfl rfl
theorem heartbeatSend : Statement .heartbeatSend := of_neither rfl rfl
theorem heartbeat : Statement .heartbeat := of_neither rfl rfl
theorem peerDeath : Statement .peerDeath := of_neither rfl rfl
theorem vendorDefinedMessage : Statement .vendorDefinedMessage := of_neither rfl rfl
theorem peerAtomic : Statement .peerAtomic := of_neither rfl rfl
theorem bind : Statement .bind := of_neither rfl rfl
theorem linkTraining : Statement .linkTraining := of_neither rfl rfl
theorem retrain : Statement .retrain := of_neither rfl rfl
theorem tenantReset : Statement .tenantReset := of_neither rfl rfl
theorem isolationTableWrite : Statement .isolationTableWrite := of_neither rfl rfl
theorem dieReset : Statement .dieReset := of_neither rfl rfl
theorem controlDieReset : Statement .controlDieReset := of_neither rfl rfl
theorem debugHold : Statement .debugHold := of_neither rfl rfl
theorem debugHoldEnd : Statement .debugHoldEnd := of_neither rfl rfl
theorem pinnedPoolSet : Statement .pinnedPoolSet := of_neither rfl rfl
theorem clockChange : Statement .clockChange := of_neither rfl rfl
theorem overcurrent : Statement .overcurrent := of_neither rfl rfl
theorem currentLimit : Statement .currentLimit := of_neither rfl rfl
theorem selfTest : Statement .selfTest := of_neither rfl rfl
theorem baseField0PowerUp : Statement .baseField0PowerUp := of_neither rfl rfl
theorem firmwareDownload : Statement .firmwareDownload := of_neither rfl rfl
theorem controlDiePowerUp : Statement .controlDiePowerUp := of_neither rfl rfl
theorem baseFieldsPowerUp : Statement .baseFieldsPowerUp := of_neither rfl rfl
theorem stackTraining : Statement .stackTraining := of_neither rfl rfl
theorem computeDiePowerUp : Statement .computeDiePowerUp := of_neither rfl rfl
theorem powerDown : Statement .powerDown := of_neither rfl rfl
theorem attestation : Statement .attestation := of_neither rfl rfl
theorem pageError : Statement .pageError := of_neither rfl rfl
theorem prepareDecline : Statement .prepareDecline := of_neither rfl rfl
theorem heldRecordRemoval : Statement .heldRecordRemoval := of_neither rfl rfl
theorem powerLoss : Statement .powerLoss := of_neither rfl rfl

end Sys2Proof.Laws.Encoding
end

