-- ==== Sys2Proof/Tests/Slice0.lean ====
section
/-! SUPPORT. Tests of the model: ill-formed terms that are refused, words of the spec's encoding and what they decode to, single instructions on
small states with results worked out from the rules, and a witness for the hypotheses of every statement. -/

namespace Sys2Proof.Tests

open Sys2Proof.Machine Sys2Proof.Rules
open Host (Outcome)

set_option maxRecDepth 100000
set_option Elab.async false

/-! ### Terms -/

/-- A guard that is true in every active lane; a source value; a move of it; a trigger without modifier; one that names record 0. -/
def g0 : Guard := ⟨false, 0⟩
def mv (v : BitVec 11) : Mv := ⟨g0, .imm v⟩
def tr (v : BitVec 11) : Trig := ⟨mv v, 0⟩
def mt (v : BitVec 11) : MTrig := ⟨mv v, 0⟩

/-! ### Ill-formed terms: one for each check (11 R242 to R250, 05 R123, R135, R136, 06 R155, 09 R213) -/

theorem test_refuses_type : (Instr.iaAdd .first .f32 (tr 0)).illegal = some .badType := by decide
theorem test_refuses_modifier : (Instr.iaAnd .first .b32 ⟨mv 0, 8⟩).illegal = some .badModifier := by decide
theorem test_refuses_rounding_7 : (Instr.faAdd .first .f32 ⟨mv 0, 7⟩).illegal = some .badModifier := by decide
theorem test_refuses_odd_pair : (Instr.iaAdd .first .s64 ⟨⟨g0, .vreg 3⟩, 0⟩).illegal = some .oddWide := by decide
theorem test_refuses_odd_destination : (Instr.moveToRegister (.vreg 5 true) (mv 0)).illegal = some .oddWide := by decide
theorem test_refuses_p0 : (Instr.moveToPredicate 0 (mv 0)).illegal = some .predicateZero := by decide
theorem test_refuses_lane_number : (Instr.specialRegisterWrite 0 (mv 0)).illegal = some .readOnlySpecial := by decide
theorem test_refuses_cvt_to_itself : (Instr.cvt .f32 .f32 (tr 0)).illegal = some .badFunction := by decide
theorem test_refuses_acquire_of_a_warp : (Instr.acq .wp (mv 0)).illegal = some .scopeCode := by decide
theorem test_refuses_interval_17 : (Instr.mloop 1 17 1).illegal = some .immediateRange := by decide
theorem test_refuses_interval_0 : (Instr.mloop 1 0 1).illegal = some .immediateRange := by decide
theorem test_refuses_break_32 : (Instr.vbrk 32).illegal = some .immediateRange := by decide
theorem test_admits_sat_of_signed : WellFormed (.iaAdd .first .s32 ⟨mv 0, 8⟩) := by unfold WellFormed; decide
theorem test_admits_interval_16 : WellFormed (.mloop 1 16 8) := by unfold WellFormed; decide

/-! ### Encodings that the decoder refuses, with their slots (11 R236 to R250, R252) -/

def refused (w : Nat) : Option (Nat × Reject) := match decodeBundle w with
  | .error e => some e
  | .ok _ => none
/-- A control operation in an otherwise empty bundle. -/
def ctl (w : Nat) : Nat := 2 ^ 39 + 2 ^ 79 + 2 ^ 119 + 2 ^ 159 + w * 2 ^ 160 + 2 ^ 254

theorem test_refuses_kind : refused (2 ^ 255) = some (7, .bundleKind) := by decide +kernel
theorem test_refuses_header : refused (alone (2 ^ 39) + 2 ^ 246) = some (7, .headerReserved) := by decide +kernel
theorem test_refuses_literal_in_control : refused (ctl (0x20 * 2 ^ 72) + 2 ^ 244) = some (7, .controlLitBits) := by decide +kernel
theorem test_refuses_half_empty_slot : refused (alone (2 ^ 39 + 1)) = some (0, .slotNotEmpty) := by decide +kernel
theorem test_refuses_source : refused (alone (0x160 * 2 ^ 23 + 0x40 * 2 ^ 16)) = some (0, .badSource) := by decide +kernel
theorem test_refuses_absent_literal : refused (alone (0x201 * 2 ^ 23 + 0x40 * 2 ^ 16)) = some (0, .literalAbsent) := by decide +kernel
theorem test_refuses_unit_13 : refused (alone (0x34 * 2 ^ 16)) = some (0, .badDestination) := by decide +kernel
theorem test_refuses_port_function : refused (alone (0x40 * 2 ^ 16 + 2)) = some (0, .badPortField) := by decide +kernel
theorem test_refuses_function : refused (alone (0x43 * 2 ^ 16)) = some (0, .badFunction) := by decide +kernel
theorem test_refuses_pl_type : refused (alone (0x23 * 2 ^ 16)) = some (0, .badType) := by decide +kernel
theorem test_refuses_wide_ring : refused (alone (0x70 * 2 ^ 16 + 1)) = some (0, .wideRing) := by decide +kernel
theorem test_refuses_scope : refused (alone (0x5F * 2 ^ 16 + 0x105)) = some (0, .scopeCode) := by decide +kernel
theorem test_refuses_opcode : refused (ctl 0) = some (6, .badOpcode) := by decide +kernel
theorem test_refuses_unused_field : refused (ctl (0x20 * 2 ^ 72 + 1)) = some (6, .unusedField) := by decide +kernel
theorem test_refuses_system_number : refused (ctl (0x30 * 2 ^ 72 + 0x10000)) = some (6, .immediateRange) := by decide +kernel

/-! ### Words by the layouts of R238 and R249, one or more for each family, and what they stand for -/

theorem test_decodes_integer_add : decodeTableWord 256 (alone 0x400830300) = some (.iaAdd .first .s32 (tr 1)) := by decide +kernel
theorem test_decodes_float_multiply :
    decodeTableWord 256 (alone 0x0001132802) = some (.faMul .first .f32 ⟨⟨g0, .vreg 2⟩, 2⟩) := by decide +kernel
theorem test_decodes_conversion : decodeTableWord 256 (alone 0x00829B8700) = some (.cvt .f32 .bf16 ⟨⟨g0, .sreg 5⟩, 0⟩) := by decide +kernel
theorem test_decodes_lane_sum : decodeTableWord 256 (alone 0x00839F0200) = some (.xlSum .b32 ⟨⟨g0, .sreg 7⟩, 0⟩) := by decide +kernel
theorem test_decodes_predicate_any : decodeTableWord 256 (alone 0x00A1A35F00) = some (.plAny ⟨⟨g0, .pred 3⟩, 0⟩) := by decide +kernel
theorem test_decodes_scalar_shift : decodeTableWord 256 (alone 0x0081A7D400) = some (.saShl .first .b64 ⟨⟨g0, .sreg 3⟩, 0⟩) := by decide +kernel
theorem test_decodes_division : decodeTableWord 256 (alone 0x00C0AF3500) = some (.div .s64 ⟨⟨g0, .res .ib⟩, 0⟩) := by decide +kernel
theorem test_decodes_dot_product : decodeTableWord 256 (alone 0x00850B5000) = some (.dp4 .b8 ⟨⟨g0, .sreg 10⟩, 0⟩) := by decide +kernel
theorem test_decodes_permutation : decodeTableWord 256 (alone 0x00858FC400) = some (.perm .b64 ⟨⟨g0, .sreg 11⟩, 0⟩) := by decide +kernel
theorem test_decodes_load : decodeTableWord 256 (alone 0x0082430109) = some (.ld .first ⟨⟨g0, .sreg 4⟩, 9⟩) := by decide +kernel
theorem test_decodes_store : decodeTableWord 256 (alone 0x0082CB0103) = some (.st ⟨⟨g0, .sreg 5⟩, 3⟩) := by decide +kernel
theorem test_decodes_atomic : decodeTableWord 256 (alone 0x00834F0309) = some (.atAdd .dev ⟨⟨g0, .sreg 6⟩, 9⟩) := by decide +kernel
theorem test_decodes_copy : decodeTableWord 256 (alone 0x0083D30102) = some (.go ⟨⟨g0, .sreg 7⟩, 2⟩) := by decide +kernel
theorem test_decodes_task : decodeTableWord 256 (alone 0x0084570144) = some (.mmBf16 true ⟨⟨g0, .sreg 8⟩, 4⟩) := by decide +kernel
theorem test_decodes_accumulator_read : decodeTableWord 256 (alone 0x00E05B0200) = some (.acRd ⟨g0, .special 0⟩) := by decide +kernel
theorem test_decodes_tile_move : decodeTableWord 256 (alone 0x0086630501) = some (.tmove ⟨⟨g0, .sreg 12⟩, 1⟩) := by decide +kernel
theorem test_decodes_ring : decodeTableWord 256 (alone 0x4046B0100) = some (.rmake (mv 8)) := by decide +kernel
theorem test_decodes_pair : decodeTableWord 256 (alone 0x00026C0601) = some (.moveToRegister (.vreg 6 true) ⟨g0, .vreg 4⟩) := by decide +kernel
theorem test_decodes_mode : decodeTableWord 256 (alone 0x4_01EF_0B00) = some (.specialRegisterWrite 0xB (mv 3)) := by decide +kernel
theorem test_decodes_push : decodeTableWord 256 (alone 0x00A9790000) = some (.ringPush 9 ⟨g0, .ring 2⟩) := by decide +kernel
theorem test_decodes_branch : decodeTableWord 256 (ctl 0x020030000000FFFFFFFF) = some (.brz 3 0xFFFFFFFF) := by decide +kernel
theorem test_decodes_sequencer : decodeTableWord 256 (ctl 0x10004000030200000000) = some (.mloop 4 3 2) := by decide +kernel
theorem test_decodes_future_test : decodeTableWord 256 (ctl 0x29042000000000000000) = some (.ftest 1 2) := by decide +kernel
theorem test_decodes_system_read : decodeTableWord 256 (ctl 0x301C0000000000000018) = some (.sysrd 7 0x18) := by decide +kernel
theorem test_decodes_region : decodeTableWord 256 (ctl 0x18000280000000000000) = some (.vif 2 true) := by decide +kernel

/-! ### A small machine: one warp in slot 0 of core 0 -/

/-- The warp, its context given; every register but those set reads 0. -/
def warp (x : Ctx) : Warp := { wid := 1, nid := 0, die := 0, clus := 0, warp := 0, regs := 256, ctx := x }
def s0 (x : Ctx) : State := { State.reset with warps := [(0, warp x)], nodes := [placedNode] }

/-- A scalar register in every lane of the operands of a unit, and s1 as the value moved to the trigger port. -/
def oper (u : Un) (a b c t : W64) : Ctx :=
  { sregs := [(1, t)], ports := [(u.code, { a := splat a, b := splat b, c := splat c })], pc := 0x10000 }
/-- A trigger of s1 with a modifier. -/
def ts (md : BitVec 8) : Trig := ⟨⟨g0, .sreg 1⟩, md⟩
def ms1 : Mv := ⟨g0, .sreg 1⟩

/-- The warp after an instruction. -/
def warpAfter (i : Instr) (s : State) : Option Warp := match exec i s with
  | .next t => t.warp? s.cur
  | _ => none
/-- Result, secondary result and flags of a unit's function in lane 0. -/
def gives (i : Instr) (u : Un) (a b c t : W64) : Option (W64 × W64 × BitVec 8) := (warpAfter i (s0 (oper u a b c t))).map fun w =>
  (laneAt (w.ctx.port u).nres 0, laneAt (w.ctx.port u).nsec 0, match w.units.getLast? with
    | some (_, _, fl) => fl
    | none => 0)

/-! ### Integers: worked from R290 to R296, R309 to R311 -/

theorem test_add_overflows : gives (.iaAdd .first .s32 (ts 0)) .ia 0x7FFFFFFF 0 0 1 = some (0x80000000, 1, 0) := by decide +kernel
theorem test_add_saturates : gives (.iaAdd .first .s32 (ts 8)) .ia 0x7FFFFFFF 0 0 1 = some (0x7FFFFFFF, 1, 0x20) := by decide +kernel
theorem test_sub_borrows : gives (.iaSub .second .b32 (ts 0)) .ib 0 0 0 1 = some (0xFFFFFFFF, 1, 0) := by decide +kernel
theorem test_min_signed : gives (.iaMin .first .s32 (ts 0)) .ia 0xFFFFFFFF 0 0 1 = some (0xFFFFFFFF, 0, 0) := by decide +kernel
theorem test_max_signed : gives (.iaMax .first .s32 (ts 0)) .ia 0xFFFFFFFF 0 0 1 = some (1, 0, 0) := by decide +kernel
theorem test_and : gives (.iaAnd .first .b32 (ts 0)) .ia 0xC 0 0 0xA = some (8, 0, 0) := by decide +kernel
theorem test_or : gives (.iaOr .first .b32 (ts 0)) .ia 0xC 0 0 0xA = some (0xE, 0, 0) := by decide +kernel
theorem test_xor : gives (.iaXor .first .b32 (ts 0)) .ia 0xC 0 0 0xA = some (6, 0, 0) := by decide +kernel
theorem test_andn : gives (.iaAndn .first .b32 (ts 0)) .ia 0xC 0 0 0xA = some (4, 0, 0) := by decide +kernel
theorem test_eq_at_width : gives (.iaEq .first .b32 (ts 0)) .ia 0x100000005 0 0 5 = some (1, 0, 0) := by decide +kernel
theorem test_ne_wide : gives (.iaNe .first .b64 (ts 0)) .ia 0x100000005 0 0 5 = some (1, 0, 0) := by decide +kernel
theorem test_lt_signed : gives (.iaLt .first .s32 (ts 0)) .ia 0xFFFFFFFF 0 0 0 = some (1, 0, 0) := by decide +kernel
theorem test_le_unsigned : gives (.iaLe .first .b32 (ts 0)) .ia 0xFFFFFFFF 0 0 0 = some (0, 0, 0) := by decide +kernel
theorem test_sel : gives (.iaSel .first .b32 (ts 0)) .ia 3 4 0 0 = some (4, 0, 0) := by decide +kernel
theorem test_abs_of_least : gives (.iaAbs .first .s32 (ts 0)) .ia 0 0 0 0x80000000 = some (0x80000000, 1, 0) := by decide +kernel
theorem test_neg_of_least_saturates : gives (.iaNeg .first .s32 (ts 8)) .ia 0 0 0 0x80000000 = some (0x7FFFFFFF, 1, 0x20) := by decide +kernel
theorem test_mov : gives (.iaMov .first .b32 (ts 0)) .ia 0 0 0 0x100000005 = some (5, 0, 0) := by decide +kernel
theorem test_mul_signed : gives (.imMul .s32 (ts 0)) .im 0xFFFFFFFD 0 0 5 = some (0xFFFFFFF1, 0, 0) := by decide +kernel
theorem test_mulhi_unsigned : gives (.imMulhi .b32 (ts 0)) .im 0xFFFFFFFF 0 0 0xFFFFFFFF = some (0xFFFFFFFE, 0, 0) := by decide +kernel
theorem test_mad : gives (.imMad .b32 (ts 0)) .im 2 3 0 4 = some (10, 0, 0) := by decide +kernel
theorem test_mulw_signed : gives (.mulw .s32 (ts 0)) .im 0xFFFFFFFF 0 0 1 = some (0xFFFFFFFFFFFFFFFF, 0, 0) := by decide +kernel
theorem test_madw : gives (.madw .b32 (ts 0)) .im 0xFFFFFFFF 2 0 1 = some (0x1FFFFFFFF, 0, 0) := by decide +kernel
theorem test_dp4 : gives (.dp4 .s8 (ts 0)) .im 0xFF 5 0 2 = some (3, 0, 0) := by decide +kernel
theorem test_shl_by_width : gives (.shShl .b32 (ts 0)) .sh 1 0 0 32 = some (0, 0, 0) := by decide +kernel
theorem test_shr : gives (.shShr .b32 (ts 0)) .sh 0x80000000 0 0 31 = some (1, 0, 0) := by decide +kernel
theorem test_sar_beyond_width : gives (.shSar .b32 (ts 0)) .sh 0x80000000 0 0 40 = some (0xFFFFFFFF, 0, 0) := by decide +kernel
theorem test_rol_beyond_width : gives (.rol .b32 (ts 0)) .sh 0x80000001 0 0 33 = some (3, 0, 0) := by decide +kernel
theorem test_ror : gives (.ror .b32 (ts 0)) .sh 3 0 0 1 = some (0x80000001, 0, 0) := by decide +kernel
theorem test_popc : gives (.popc .b64 (ts 0)) .sh 0 0 0 0xF00000000000000F = some (8, 0, 0) := by decide +kernel
theorem test_clz_of_zero : gives (.clz .b32 (ts 0)) .sh 0 0 0 0 = some (32, 0, 0) := by decide +kernel
theorem test_ctz : gives (.ctz .b32 (ts 0)) .sh 0 0 0 8 = some (3, 0, 0) := by decide +kernel
theorem test_brev : gives (.brev .b32 (ts 0)) .sh 0 0 0 1 = some (0x80000000, 0, 0) := by decide +kernel
theorem test_bfx : gives (.bfx .b32 (ts 0)) .sh 0xABCD 4 0 8 = some (0xBC, 0, 0) := by decide +kernel
theorem test_bfxs : gives (.bfxs .b32 (ts 0)) .sh 0xABCD 4 0 8 = some (0xFFFFFFBC, 0, 0) := by decide +kernel
theorem test_bfi : gives (.bfi .b32 (ts 0)) .sh 0xFFFFFFFF 0 8 8 = some (0xFFFF00FF, 0, 0) := by decide +kernel
theorem test_perm : gives (.perm .b32 (ts 0)) .sh 0x33221100 0x77665544 0 0x8740 = some (0x00774400, 0, 0) := by decide +kernel
theorem test_pl_and : gives (.plAnd (ts 0)) .pl 2 0 0 0x100000000 = some (1, 0, 0) := by decide +kernel
theorem test_pl_andn : gives (.plAndn (ts 0)) .pl 2 0 0 1 = some (0, 0, 0) := by decide +kernel
theorem test_pl_xor : gives (.plXor (ts 0)) .pl 2 0 0 1 = some (0, 0, 0) := by decide +kernel
theorem test_pl_not : gives (.plNot (ts 0)) .pl 2 0 0 0 = some (1, 0, 0) := by decide +kernel
theorem test_sa_shl_64 : gives (.saShl .first .b64 (ts 0)) .sa 1 0 0 64 = some (0, 0, 0) := by decide +kernel
theorem test_sa_sar : gives (.saSar .second .b64 (ts 0)) .sb 0x8000000000000000 0 0 63 = some (0xFFFFFFFFFFFFFFFF, 0, 0) := by decide +kernel
theorem test_sm_mulhi : gives (.smMulhi .s64 (ts 0)) .sm 0xFFFFFFFFFFFFFFFF 0 0 1 = some (0xFFFFFFFFFFFFFFFF, 0, 0) := by decide +kernel
theorem test_div_signed : gives (.div .s64 (ts 0)) .sm 7 0 0 0xFFFFFFFFFFFFFFFE = some (0xFFFFFFFFFFFFFFFD, 1, 0) := by decide +kernel
theorem test_div_by_zero : gives (.div .b64 (ts 0)) .sm 7 0 0 0 = some (0xFFFFFFFFFFFFFFFF, 7, 0x40) := by decide +kernel
theorem test_rem : gives (.rem .b64 (ts 0)) .sm 7 0 0 4 = some (3, 1, 0) := by decide +kernel

/-! ### Floating point: worked from R157 to R160, R297 to R304 -/

theorem test_fadd : gives (.faAdd .first .f32 (ts 1)) .fa 0x3F800000 0 0 0x3F800000 = some (0x40000000, 0, 0) := by decide +kernel
theorem test_fadd_inexact : gives (.faAdd .first .f32 (ts 1)) .fa 0x3F800000 0 0 0x33000000 = some (0x3F800000, 0, 0x10) := by decide +kernel
theorem test_fsub_to_zero : gives (.faSub .first .f32 (ts 1)) .fa 0x3F800000 0 0 0x3F800000 = some (0, 0, 0) := by decide +kernel
theorem test_fmul_overflows : gives (.faMul .first .f32 (ts 1)) .fa 0x7F000000 0 0 0x7F000000 = some (0x7F800000, 0, 0x14) := by decide +kernel
theorem test_fma : gives (.fma .second .f32 (ts 1)) .fb 0x40000000 0x40400000 0 0x3F800000 = some (0x40E00000, 0, 0) := by decide +kernel
theorem test_fnma : gives (.fnma .first .f32 (ts 1)) .fa 0x40000000 0x40400000 0 0x3F800000 = some (0xC0A00000, 0, 0) := by decide +kernel
theorem test_fmul_packed : gives (.faMul .first .f16x2 (ts 1)) .fa 0x40003C00 0 0 0x44003C00 = some (0x48003C00, 0, 0) := by decide +kernel
theorem test_fmin : gives (.faMin .first .f32 (ts 0)) .fa 0x3F800000 0 0 0x40000000 = some (0x3F800000, 0, 0) := by decide +kernel
theorem test_flt_of_nan : gives (.faLt .first .f32 (ts 0)) .fa 0x7FC00000 0 0 0 = some (0, 0, 1) := by decide +kernel
theorem test_feq_of_zeros : gives (.faEq .first .f32 (ts 0)) .fa 0x80000000 0 0 0 = some (1, 0, 0) := by decide +kernel
theorem test_cvt_to_integer : gives (.cvt .s32 .f32 (ts 1)) .cv 0 0 0 0x40200000 = some (2, 0, 0x10) := by decide +kernel
theorem test_cvt_clamps : gives (.cvt .b8 .s32 (ts 0)) .cv 0 0 0 300 = some (255, 0, 0x20) := by decide +kernel
theorem test_rcp_of_zero : gives (.rcp (ts 1)) .cv 0 0 0 0 = some (0x7F800000, 0, 2) := by decide +kernel
theorem test_rsq : gives (.rsq (ts 1)) .cv 0 0 0 0x40800000 = some (0x3F000000, 0, 0) := by decide +kernel
theorem test_sqrt : gives (.sqrt (ts 1)) .cv 0 0 0 0x41100000 = some (0x40400000, 0, 0) := by decide +kernel
theorem test_exp : gives (.exp (ts 1)) .cv 0 0 0 0x40400000 = some (0x41000000, 0, 0) := by decide +kernel
theorem test_log : gives (.log (ts 1)) .cv 0 0 0 0x41000000 = some (0x40400000, 0, 0) := by decide +kernel
theorem test_sin_of_zero : gives (.sin (ts 1)) .cv 0 0 0 0x80000000 = some (0x80000000, 0, 0) := by decide +kernel
theorem test_cos_of_zero : gives (.cos (ts 1)) .cv 0 0 0 0 = some (0x3F800000, 0, 0) := by decide +kernel
theorem test_tanh_of_infinity : gives (.tanh (ts 1)) .cv 0 0 0 0xFF800000 = some (0xBF800000, 0, 0) := by decide +kernel
theorem test_frc_of_small_negative : gives (.frc (ts 1)) .cv 0 0 0 0xB0800000 = some (0x3F800000, 0, 0x10) := by decide +kernel
theorem test_rnd : gives (.rnd (ts 1)) .cv 0 0 0 0x40200000 = some (0x40000000, 0, 0) := by decide +kernel
theorem test_cls : gives (.cls (ts 1)) .cv 0 0 0 0xFF800000 = some (1, 0, 0) := by decide +kernel
theorem test_qunpack_nan_block : gives (.qunpack (ts 0)) .cv 63 0 0 0 = some (0x7FC00000, 0, 0x80) := by decide +kernel

/-! ### Cross-lane: worked from R305 to R308; the moved value is the lane's number -/

def tl (md : BitVec 8) : Trig := ⟨⟨g0, .special 0⟩, md⟩
/-- The result in lane `k` of a function of the lane numbers, with index operand `a`. -/
def across (i : Instr) (a : W64) (k : Nat) : Option W64 := (warpAfter i (s0 (oper .xl a 0 0 0))).map fun w => laneAt (w.ctx.port .xl).nres k

theorem test_sum : across (.xlSum .b32 (tl 0)) 0 5 = some 496 := by decide +kernel
theorem test_scan : across (.scan .b32 (tl 0)) 0 4 = some 10 := by decide +kernel
theorem test_lane_max : across (.xlMax .b32 (tl 0)) 0 0 = some 31 := by decide +kernel
theorem test_lane_or : across (.xlOr .b32 (tl 0)) 0 0 = some 31 := by decide +kernel
theorem test_shfl : across (.shfl .b32 (tl 0)) 35 7 = some 3 := by decide +kernel
theorem test_up_keeps : across (.up .b32 (tl 0)) 3 2 = some 2 := by decide +kernel
theorem test_up : across (.up .b32 (tl 0)) 3 9 = some 6 := by decide +kernel
theorem test_down_keeps : across (.down .b32 (tl 0)) 3 30 = some 30 := by decide +kernel
theorem test_bfly : across (.bfly .b32 (tl 0)) 1 6 = some 7 := by decide +kernel
theorem test_bcast : across (.bcast .b32 (tl 0)) 9 20 = some 9 := by decide +kernel
theorem test_ballot : across (.ballot .b32 (tl 0)) 0 3 = some 0xFFFFFFFE := by decide +kernel
theorem test_any : gives (.plAny (tl 0)) .pl 0 0 0 0 = some (1, 0, 0) := by decide +kernel
theorem test_all : gives (.plAll (tl 0)) .pl 0 0 0 0 = some (0, 0, 0) := by decide +kernel

/-! ### Moves, control operations, rings and barriers: worked from the rules named -/

def plain : Ctx := oper .ia 0 0 0 0

/-- R121: a port takes each lane's value. -/
theorem test_move_to_port :
    (warpAfter (.moveToPort .la .b false ⟨g0, .special 0⟩) (s0 plain)).map (fun w => laneAt (w.ctx.port .la).b 9) = some 9 := by decide +kernel
/-- R126: a scalar-class port takes the lowest lane's. -/
theorem test_move_to_scalar_port :
    (warpAfter (.moveToPort .sa .a false ⟨g0, .special 0⟩) (s0 plain)).map (fun w => laneAt (w.ctx.port .sa).a 9) = some 0 := by decide +kernel
/-- R134: s0 takes nothing. -/
theorem test_move_to_s0 : (warpAfter (.moveToRegister (.sreg 0) (mv 5)) (s0 plain)).map (fun w => w.ctx.sreg 0) = some 0 := by decide +kernel
/-- R123: a wide move writes the high half to the next register. -/
theorem test_wide_move : (warpAfter (.moveToRegister (.vreg 2 true) (mv 0x7FF)) (s0 plain)).map (fun w => vregOf w.vregs 3 31) = some 0xFFFFFFFF := by
  decide +kernel
/-- R135: a predicate bit is whether the value is not 0. -/
theorem test_move_to_predicate :
    (warpAfter (.moveToPredicate 3 ⟨g0, .special 0⟩) (s0 plain)).map (fun w => w.ctx.pred 3) = some 0xFFFFFFFE := by decide +kernel
/-- R156: rm 0 is stored as 1, reserved bits as 0. -/
theorem test_move_to_mode : (warpAfter (.specialRegisterWrite 0xB (mv 0x7F8)) (s0 plain)).map (fun w => w.ctx.mode) = some 0x19 := by decide +kernel
/-- R233. -/
theorem test_no_operation : (warpAfter .noOperation (s0 plain)).map (fun w => w.ctx.pc) = some 0x10020 := by decide +kernel
/-- R251, R259: x counts bundles from the control bundle. -/
theorem test_br : (warpAfter (.br 3) (s0 plain)).map (fun w => w.ctx.pc) = some 0x10060 := by decide +kernel
theorem test_call : (warpAfter (.call 2) (s0 plain)).map (fun w => (w.ctx.pc, w.ctx.sreg 62)) = some (0x10040, 0x10020) := by decide +kernel
theorem test_brz_falls_through : (warpAfter (.brz 1 2) (s0 { plain with sregs := [(1, 7)] })).map (fun w => w.ctx.pc) = some 0x10020 := by decide +kernel
theorem test_brany : (warpAfter (.brany 3 false 2) (s0 { plain with preds := [(3, 0x80000000)] })).map (fun w => w.ctx.pc) = some 0x10040 := by
  decide +kernel
theorem test_brall_falls_through : (warpAfter (.brall 3 false 2) (s0 { plain with preds := [(3, 1)] })).map (fun w => w.ctx.pc) = some 0x10020 := by
  decide +kernel
/-- R261: a target outside the program region. -/
theorem test_br_out_of_region : (match exec (.br 0x4000) (s0 plain) with
    | .next t => t.verdict
    | _ => .done) = .faulted 0x04 0x90000 := by decide +kernel
/-- R264: the lanes that fail the condition wait in the token. -/
theorem test_vif : (warpAfter (.vif 3 false) (s0 { plain with preds := [(3, 0xF)] })).map (fun w => (w.ctx.mask, w.ctx.toks.map Token.alt)) =
    some (0xF, [0xFFFFFFF0]) := by decide +kernel
/-- R266: no open region. -/
theorem test_velse_without_region : (match exec .velse (s0 plain) with
    | .next t => t.verdict
    | _ => .done) = .faulted 0x05 0xE000000000000000 := by decide +kernel
/-- R264: a loop that no lane repeats is left, and its lanes come back. -/
theorem test_vwhile_ends : (warpAfter (.vwhile 3 false) (s0 { plain with mask := 1, toks := [⟨2, 0x801, 0xF, 0xE, 0⟩] })).map
    (fun w => (w.ctx.mask, w.ctx.toks.length)) = some (0xF, 0) := by decide +kernel
/-- R267: no iteration at all: the kernel of 2 bundles is passed over. -/
theorem test_mloop_of_none : (warpAfter (.mloop 1 2 1) (s0 plain)).map (fun w => (w.ctx.pc, w.ctx.loop)) = some (0x10060, none) := by decide +kernel
/-- R274: a register that holds no handle tests 1. -/
theorem test_ftest : (warpAfter (.ftest 4 1) (s0 plain)).map (fun w => w.ctx.sreg 4) = some 1 := by decide +kernel
/-- R276, R386: the return is to the next bundle. -/
theorem test_trap : (warpAfter (.trap 9) (s0 plain)).map (fun w => w.entering) = some (some ⟨.user, 0x20, 9, 0x10020⟩) := by decide +kernel
/-- R277: outside a handler. -/
theorem test_yield_without_handler : (match exec .yield (s0 plain) with
    | .next t => t.verdict
    | _ => .done) = .faulted 0x07 0xE000000000000000 := by decide +kernel
/-- R280: the quota of the launch. -/
theorem test_sysrd : (warpAfter (.sysrd 4 0x20) (s0 { plain with toks := [⟨0, 0, 0, 0, 0⟩] })).map (fun w => w.ctx.sreg 4) = some 1 := by decide +kernel
/-- R337: 16 elements of a vector ring take 8 units. -/
theorem test_rmake : (match exec (.rmake ms1) (s0 (oper .rg 3 0 0 16)) with
    | .next t => (t.cluster 0).ringUsed
    | _ => 0) = 8 := by decide +kernel
/-- R347: a barrier above 47. -/
theorem test_bar_wait_48 : (match exec (.barWait (mv 48)) (s0 plain) with
    | .next t => t.verdict
    | _ => .done) = .faulted 0x12 (0xE000000000000030) := by decide +kernel
/-- R137: 8 of the 256 registers go back to the pool. -/
theorem test_vgive : (warpAfter (.vgive (mv 8)) (s0 plain)).map (fun w => (w.regs - w.giving, laneAt (w.ctx.port .rg).nres 0)) = some (248, 248) := by decide +kernel
/-- R115, R331: the lowest tag that is set and asked for is cleared. -/
theorem test_cffr : (match exec (.cffr (mv 0x3E)) { s0 plain with cores := [(0, { ctag := 0x35 })] } with
    | .next t => ((t.core 0).ctag, (t.warp? ⟨0, 0⟩).map fun w => laneAt (w.ctx.port .cp).nres 0)
    | _ => (0, none)) = (0x31, some 2) := by decide +kernel
/-- R334: the cells of the lanes lie in consecutive columns of their rows. -/
theorem test_ac_read_cells : (match exec (.acRd (mv 7)) (s0 (oper .ac 250 0 0 0)) with
    | .next t => (t.cluster 0).acs.map fun a => (a.rows, match a.act with
      | .rd l => l.getD 10 (0, 0, 0)
      | _ => (0, 0, 0))
    | _ => []) = [([7], 10, 7, 4)] := by decide +kernel
/-- R326. -/
theorem test_addb_bounded : atOp .addb false 5 3 7 = (5, false) := by decide
theorem test_cas_swaps : atOp .cas false 5 3 5 = (3, true) := by decide
theorem test_incw_wraps : atOp .incw false 7 0 7 = (0, true) := by decide

/-! ### Witnesses: states and operands that meet the hypotheses of the statements. `Ready` and `Engine` hold of any move of a short immediate. -/

theorem ready_imm {s : State} {w : Warp} (v : BitVec 11) (wide : Bool) (hl : s.warp? s.cur = some w) (hm : (s.srcCtx w).mask = 0xFFFFFFFF) :
    Ready s w (mv v) wide 0xFFFFFFFF (splat (v.signExtend 64)) :=
  ⟨hl, by simp [mv, g0, Ctx.guard, Ctx.pred, hm], rfl⟩
theorem low0 : LowestLane 0xFFFFFFFF 0 := ⟨by decide, by decide, fun _ h => absurd h (Nat.not_lt_zero _)⟩
theorem engine_imm {s : State} {w : Warp} (v : BitVec 11) (hl : s.warp? s.cur = some w) (hm : (s.srcCtx w).mask = 0xFFFFFFFF) :
    Engine s w (mv v) (v.signExtend 64) 0 :=
  ⟨_, _, ready_imm v false hl hm, low0, rfl⟩
/-- A guard that is true in no lane. -/
theorem ready_off {s : State} {w : Warp} (v : BitVec 11) (wide : Bool) (hl : s.warp? s.cur = some w) :
    Ready s w ⟨⟨true, 0⟩, .imm v⟩ wide 0 (splat (v.signExtend 64)) :=
  ⟨hl, by simp [Ctx.guard, Ctx.pred], rfl⟩
/-- A guard that is true in lane 31 alone. -/
def lane31 : Ctx := { plain with mask := 0x80000000 }
theorem ready_31 (v : BitVec 11) (wide : Bool) : Ready (s0 lane31) (warp lane31) (mv v) wide 0x80000000 (splat (v.signExtend 64)) :=
  ⟨rfl, (by decide : ((s0 lane31).srcCtx (warp lane31)).guard g0 = 0x80000000), rfl⟩
theorem low31 : LowestLane 0x80000000 31 := ⟨by decide, by decide, by decide⟩

theorem witness_IntegerAlu : ∃ f, alu (.iaAdd .first .s32 (tr 1)) = some f ∧ WellFormed (.iaAdd .first .s32 (tr 1)) ∧
    Ready (s0 plain) (warp plain) f.t.mv f.wide 0xFFFFFFFF (splat 1) ∧ (0xFFFFFFFF : W32) ≠ 0 :=
  ⟨_, rfl, by unfold WellFormed; decide, ready_imm 1 _ rfl rfl, by decide⟩
theorem witness_IntegerMultiplier : ∃ f, multiply (.madw .s32 (tr 1)) = some f ∧ WellFormed (.madw .s32 (tr 1)) ∧
    Ready (s0 lane31) (warp lane31) f.t.mv f.wide 0x80000000 (splat 1) ∧ (0x80000000 : W32) ≠ 0 :=
  ⟨_, rfl, by unfold WellFormed; decide, ready_31 1 _, by decide⟩
theorem witness_ShifterAndBits : ∃ f, shift (.perm .b64 (tr 0)) = some f ∧ WellFormed (.perm .b64 (tr 0)) ∧
    Ready (s0 plain) (warp plain) f.t.mv f.wide 0xFFFFFFFF (splat 0) ∧ (0xFFFFFFFF : W32) ≠ 0 :=
  ⟨_, rfl, by unfold WellFormed; decide, ready_imm 0 _ rfl rfl, by decide⟩
theorem witness_PredicateLogic : ∃ f, predLogic (.plAndn (tr 0)) = some f ∧ WellFormed (.plAndn (tr 0)) ∧ WellFormed (.plAny (tr 0)) ∧
    Ready (s0 plain) (warp plain) f.t.mv f.wide 0xFFFFFFFF (splat 0) ∧ Ready (s0 plain) (warp plain) (tr 0).mv false 0xFFFFFFFF (splat 0) ∧
    (0xFFFFFFFF : W32) ≠ 0 :=
  ⟨_, rfl, by unfold WellFormed; decide, by unfold WellFormed; decide, ready_imm 0 _ rfl rfl, ready_imm 0 _ rfl rfl, by decide⟩
theorem witness_ScalarUnits : ∃ f h, scalarAlu (.saShl .second .b64 (tr 64)) = some f ∧ WellFormed (.saShl .second .b64 (tr 64)) ∧
    Ready (s0 lane31) (warp lane31) f.t.mv f.wide 0x80000000 (splat 64) ∧ LowestLane 0x80000000 31 ∧
    scalarMultiply (.div .s64 (tr 0)) = some h ∧ WellFormed (.div .s64 (tr 0)) ∧ Ready (s0 plain) (warp plain) h.t.mv h.wide 0xFFFFFFFF (splat 0) ∧
    LowestLane 0xFFFFFFFF 0 :=
  ⟨_, _, rfl, by unfold WellFormed; decide, ready_31 64 _, low31, rfl, by unfold WellFormed; decide, ready_imm 0 _ rfl rfl, low0⟩
theorem witness_FloatUnits : ∃ f h, faArithmetic (.fma .first .f32 ⟨mv 1, 6⟩) = some f ∧ WellFormed (.fma .first .f32 ⟨mv 1, 6⟩) ∧
    Ready (s0 plain) (warp plain) f.t.mv f.wide 0xFFFFFFFF (splat 1) ∧ faCompares (.faMin .second .f64 (tr 1)) = some h ∧
    WellFormed (.faMin .second .f64 (tr 1)) ∧ Ready (s0 plain) (warp plain) h.t.mv h.wide 0xFFFFFFFF (splat 1) ∧ (0xFFFFFFFF : W32) ≠ 0 :=
  ⟨_, _, rfl, by unfold WellFormed; decide, ready_imm 1 _ rfl rfl, rfl, by unfold WellFormed; decide, ready_imm 1 _ rfl rfl, by decide⟩
theorem witness_ConversionsAndSpecials : ∃ f, conversions (.cvt .e4m3 .f32 (tr 1)) = some f ∧ WellFormed (.cvt .e4m3 .f32 (tr 1)) ∧
    Ready (s0 plain) (warp plain) f.t.mv f.wide 0xFFFFFFFF (splat 1) ∧ (0xFFFFFFFF : W32) ≠ 0 :=
  ⟨_, rfl, by unfold WellFormed; decide, ready_imm 1 _ rfl rfl, by decide⟩
theorem witness_FourBitBlocks : Ready (s0 lane31) (warp lane31) (mv 1) false 0x80000000 (splat 1) ∧ LowestLane 0x80000000 31 ∧
    (0x80000000 : W32) ≠ 0 := ⟨ready_31 1 _, low31, by decide⟩
theorem witness_LaneMoves : (∃ j : Nat → Nat, ∀ k, sourceLane (.bfly .b32 (tr 0)) 0xFFFFFFFF ((warp plain).ctx.port .xl) k = some (.b32, tr 0, j k)) ∧
    WellFormed (.bfly .b32 (tr 0)) ∧ WellFormed (.ballot .b32 (tr 0)) ∧ Ready (s0 plain) (warp plain) (tr 0).mv Ty.b32.is64 0xFFFFFFFF (splat 0) ∧
    (0xFFFFFFFF : W32) ≠ 0 :=
  ⟨⟨_, fun _ => rfl⟩, by unfold WellFormed; decide, by unfold WellFormed; decide, ready_imm 0 _ rfl rfl, by decide⟩
theorem witness_Reductions : Ready (s0 lane31) (warp lane31) (tr 0).mv Ty.b64.is64 0x80000000 (splat 0) ∧ (0x80000000 : W32) ≠ 0 ∧
    Ty.b64.isFloat = false ∧ WellFormed (.xlSum .b64 (tr 0)) ∧ WellFormed (.scan .b64 (tr 0)) ∧ WellFormed (.xlMin .b64 (tr 0)) ∧
    WellFormed (.xlMax .b64 (tr 0)) ∧ WellFormed (.xlAnd .b64 (tr 0)) ∧ WellFormed (.xlOr .b64 (tr 0)) ∧ Ty.f16.isFloat = true ∧
    Ready (s0 plain) (warp plain) (tr 0).mv Ty.f16.is64 0xFFFFFFFF (splat 0) ∧ WellFormed (.xlSum .f16 (tr 0)) ∧ WellFormed (.scan .f16 (tr 0)) ∧
    WellFormed (.xlMin .f16 (tr 0)) ∧ WellFormed (.xlMax .f16 (tr 0)) := by
  refine ⟨ready_31 0 _, by decide, rfl, ?_, ?_, ?_, ?_, ?_, ?_, rfl, ready_imm 0 _ rfl rfl, ?_, ?_, ?_, ?_⟩ <;> (unfold WellFormed; decide)
theorem witness_RoundsToPlace : 65535 < 65536 := by decide

/-- A port with a result pending until cycle 5 in lanes 0 and 1. -/
def pending : Port := { pend := 3, nres := splat 7, nsec := splat 8, due := some 5 }
def waits : Ctx := { plain with ports := [(0, pending)] }
def at5 : State := { s0 waits with clusters := [(0, { lcyc := 5 })] }
theorem witness_SourcesAndPorts : (255#8).toNat + false.toNat < (warp plain).regs ∧ (254#8).toNat + true.toNat < (warp plain).regs ∧
    ((s0 plain).srcCtx (warp plain)).watched 63 = false ∧
    (((s0 waits).srcCtx (warp waits)).port .ia).due = some 5 ∧ (s0 waits).now < 5 ∧ (((s0 waits).srcCtx (warp waits)).port .ia).pend &&& 1 ≠ 0 ∧
    (((s0 waits).srcCtx (warp waits)).port .ia).pend &&& 0x80000000 = 0 ∧ (0x80000000 : W32) ≠ 0 ∧
    (((s0 waits).srcCtx (warp waits)).port .ia).psn &&& 0x80000000 = 0 ∧ 5 ≤ at5.now ∧ ((at5.srcCtx (warp waits)).port .ia).psn = 0 ∧
    ((at5.srcCtx (warp waits)).port .ia).npsn = 0 ∧ 31 < 32 := by decide +kernel
theorem witness_EmptyAndGuardedOff : (s0 plain).warp? (s0 plain).cur = some (warp plain) ∧ (warp plain).ctx.loop = none ∧
    ∃ r, (Instr.st ⟨⟨⟨true, 0⟩, .imm 0⟩, 3⟩).raw = some r ∧ isTrigger (.st ⟨⟨⟨true, 0⟩, .imm 0⟩, 3⟩) = true ∧
      Ready (s0 plain) (warp plain) r.mv (Instr.st ⟨⟨⟨true, 0⟩, .imm 0⟩, 3⟩).readsWide 0 (splat 0) :=
  ⟨rfl, rfl, _, rfl, rfl, ready_off 0 _ rfl⟩
theorem witness_PortMoves : Ready (s0 lane31) (warp lane31) (mv 5) true 0x80000000 (splat 5) ∧ oneValue .la = false ∧ oneValue .rg = true ∧
    LowestLane 0x80000000 31 := ⟨ready_31 5 _, rfl, rfl, low31⟩
theorem witness_PortMoves_off : Ready (s0 plain) (warp plain) ⟨⟨true, 0⟩, .imm 5⟩ false 0 (splat 5) := ready_off 5 _ rfl
/-- A warp with 8 registers. -/
def small : State := { s0 plain with warps := [(0, { warp plain with regs := 8 })] }
theorem witness_RegisterMoves : WellFormed (.moveToRegister (.vreg 254 true) (mv 5)) ∧ Ready (s0 plain) (warp plain) (mv 5) true 0xFFFFFFFF (splat 5) ∧
    (254#8).toNat + true.toNat < (warp plain).regs ∧ Ready small { warp plain with regs := 8 } (mv 5) false 0xFFFFFFFF (splat 5) ∧
    8 ≤ (8#8).toNat + false.toNat ∧ Ready (s0 lane31) (warp lane31) (mv 5) false 0x80000000 (splat 5) ∧ LowestLane 0x80000000 31 ∧
    Ready (s0 plain) (warp plain) ⟨⟨true, 0⟩, .imm 5⟩ false 0 (splat 5) ∧ WellFormed (.specialRegisterWrite 0xB (mv 5)) ∧
    WellFormed (.specialRegisterWrite 0xC (mv 5)) :=
  ⟨by unfold WellFormed; decide, ready_imm 5 _ rfl rfl, by decide, ready_imm 5 _ rfl rfl, by decide, ready_31 5 _, low31, ready_off 5 _ rfl,
    by unfold WellFormed; decide, by unfold WellFormed; decide⟩

/-- s62 and s1 hold the last bundle of the program region, s2 an address outside it, s3 a misaligned one. -/
def calls : Ctx := { plain with sregs := [(1, 0x107E0), (2, 0x10800), (3, 0x10004), (62, 0x107E0)], preds := [(3, 0xFFFFFFFF), (4, 1)] }
def here (s : State) (w : Warp) (x : W64) : Bool := decide (x.toNat % 32 = 0) && match s.node? w.nid with
  | some n => decide (lrPva n.raw ≤ x.toNat) && decide (x.toNat < lrPva n.raw + n.plen)
  | none => false
theorem mayGo_iff (s : State) (w : Warp) (x : W64) : mayGo s w x ↔ here s w x = true := by
  unfold mayGo here
  cases s.node? w.nid <;> simp
theorem witness_Branches : (s0 calls).warp? (s0 calls).cur = some (warp calls) ∧ mayGo (s0 calls) (warp calls) (target (warp calls) 63) ∧
    CtlReady (s0 calls) (warp calls) 1 0x107E0 ∧ mayGo (s0 calls) (warp calls) 0x107E0 ∧ CtlReady (s0 calls) (warp calls) 62 0x107E0 ∧
    CtlReady (s0 calls) (warp calls) 0 0 ∧ cond ((s0 calls).srcCtx (warp calls)) 4 false &&& ((s0 calls).srcCtx (warp calls)).mask ≠ 0 ∧
    cond ((s0 calls).srcCtx (warp calls)) 3 false &&& ((s0 calls).srcCtx (warp calls)).mask = ((s0 calls).srcCtx (warp calls)).mask ∧
    (warp calls).ctx.pc.toNat % 32 = 0 ∧ ¬ mayGo (s0 calls) (warp calls) (target (warp calls) 64) ∧ CtlReady (s0 calls) (warp calls) 3 0x10004 ∧
    (0x10004#64).toNat % 32 ≠ 0 := by
  simp only [mayGo_iff]
  exact ⟨rfl, by decide +kernel, ⟨rfl, rfl, rfl⟩, by decide +kernel, ⟨rfl, rfl, rfl⟩, ⟨rfl, rfl, rfl⟩, by decide +kernel, by decide +kernel,
    by decide +kernel, by decide +kernel, ⟨rfl, rfl, rfl⟩, by decide +kernel⟩
/-- A stack with an if token over a loop token, and one of 32 tokens. -/
def open2 : Ctx := { plain with toks := [⟨0, 0, 0xF, 0xC, 0⟩, ⟨2, 0x801, 0xFF, 0xF0, 0⟩] }
def full : Ctx := { plain with toks := List.replicate 32 ⟨0, 0, 0xF, 0xC, 0⟩ }
theorem witness_Regions : (s0 open2).warp? (s0 open2).cur = some (warp open2) ∧ (s0 open2).srcCtx (warp open2) = (warp open2).ctx ∧
    open2.toks.length < 32 ∧ (∃ t r, open2.toks = t :: r ∧ t.kind = 0) ∧
    (∃ up t r, open2.toks = up ++ t :: r ∧ t.kind = 2 ∧ (up.filter fun y => y.kind == 2).length = (0#8).toNat) ∧
    (∃ t r, ({ open2 with toks := open2.toks.drop 1 } : Ctx).toks = t :: r ∧ t.kind = 2) ∧ 32 ≤ full.toks.length ∧
    (plain.toks.filter fun y => y.kind == 2).length ≤ (0#8).toNat ∧
    (open2.toks.filter fun y => y.kind == 2).length ≤ (1#8).toNat :=
  ⟨rfl, rfl, by decide, ⟨_, _, rfl, rfl⟩, ⟨[⟨0, 0, 0xF, 0xC, 0⟩], ⟨2, 0x801, 0xFF, 0xF0, 0⟩, [], rfl, rfl, rfl⟩, ⟨_, _, rfl, rfl⟩, by decide, by decide,
    by decide⟩
/-- No region is open. -/
theorem witness_Regions_faults : (s0 plain).warp? (s0 plain).cur = some (warp plain) ∧ (∀ t r, (warp plain).ctx.toks = t :: r → t.kind ≠ 0) ∧
    (∀ t r, (warp plain).ctx.toks = t :: r → t.kind ≠ 0 ∧ t.kind ≠ 1) ∧ (∀ t r, (warp plain).ctx.toks = t :: r → t.kind ≠ 2) :=
  ⟨rfl, fun _ _ h => absurd h (by simp [warp, plain, oper]), fun _ _ h => absurd h (by simp [warp, plain, oper]),
    fun _ _ h => absurd h (by simp [warp, plain, oper])⟩
/-- s1 holds the handle of an outstanding future and is watched. -/
def future : Ctx := { plain with sregs := [(1, 0xF714000000000001)], futs := [(0, 1)], fser := 1, watch := 2 }
theorem witness_FutureOperations : (s0 future).warp? (s0 future).cur = some (warp future) ∧ ((s0 future).srcCtx (warp future)).watched 1 = true ∧
    ((s0 future).srcCtx (warp future)).watched 2 = false ∧
    isHandle ((s0 future).srcCtx (warp future)).fser (((s0 future).srcCtx (warp future)).sreg 2) = false := by decide +kernel
/-- A warp in a handler of its own. -/
def handling : Warp := { warp plain with handler := some ⟨⟨.user, 0x20, 1, 0x10020⟩, plain⟩ }
def inHandler : State := { s0 plain with warps := [(0, handling)] }
def debugged : State := { s0 plain with dies := [(0, { debugEnable := true })] }
theorem witness_EndsAndTraps : (s0 plain).warp? (s0 plain).cur = some (warp plain) ∧ (warp plain).handler = none ∧
    inHandler.warp? inHandler.cur = some handling ∧ handling.handler = some ⟨⟨.user, 0x20, 1, 0x10020⟩, plain⟩ ∧ handling.asyncs = [] ∧
    ((s0 plain).die (dieOf (s0 plain).cur.core)).debugEnable = false ∧ debugged.warp? debugged.cur = some (warp plain) ∧
    (debugged.die (dieOf debugged.cur.core)).debugEnable = true := by decide +kernel
/-- Buffer record 1: 64 KiB of core 0's pool, one page, 4-byte elements, every right; s1 names position 0 in it. -/
def poolRec : BitVec 256 := BitVec.ofNat 256 (2 ^ 63 + 7 * 2 ^ 58 + 2 * 2 ^ 56 + 65536 * 2 ^ 64 + 4 * 2 ^ 128 + 3 * 2 ^ 171)
def pooled (cells : List Host.Cell) : Core := { ways := 1, pages := [(0, ⟨0, 1024, false, false⟩)], segs := [poolRec, poolRec], pool := cells }
def saves : Ctx := { plain with sregs := [(1, 2 ^ 58)] }
def saving : State := { s0 saves with warps := [(0, { warp saves with handler := handling.handler })], cores := [(0, pooled [])] }
theorem witness_SystemState : (s0 plain).warp? (s0 plain).cur = some (warp plain) ∧ (s0 plain).sysreg (warp plain) (0x20#16).toNat = some 0 ∧
    inHandler.warp? inHandler.cur = some handling ∧ inHandler.sysreg handling (8#16).toNat = some 0x20 ∧ (warp plain).handler = none ∧
    (s0 plain).node? (warp plain).nid = some placedNode := by decide +kernel
theorem witness_SystemState_images : CtlReady saving { warp saves with handler := handling.handler } 1 (2 ^ 58) ∧
    saving.node? 0 = some placedNode ∧ (2 ^ 58 : W64).toNat / 2 ^ 47 % 2 ^ 11 = 0 ∧ (2 ^ 58 : W64).toNat % 2 ^ 47 % 256 = 0 ∧
    saving.pinnedBad (saving.mapping 0) 0 placedNode.ten ((saving.core 0).segs.getD 1 0) 0 8192 none = none ∧ saving.storesLanded 0 1 = true :=
  ⟨⟨by decide +kernel, by decide +kernel, by decide +kernel⟩, by decide +kernel, by decide +kernel, by decide +kernel, by decide +kernel,
    by decide +kernel⟩

/-! Memory triggers: record 0 and core 0's pool, with the bytes `cells`. -/

def memC (x : Ctx) (cells : List Host.Cell) : State := { s0 x with cores := [(0, pooled cells)] }
def memS : State := memC plain []
def allLanes : List Nat := (List.range 32).filter fun i => (0xFFFFFFFF : W32).getLsbD i
theorem mem_ready (u : Un) (v : BitVec 11) (one : Bool) (need : Need) : MemReady memS (warp plain) u (mt v) one need 0xFFFFFFFF
    (splat (v.signExtend 64)) 0 poolRec (memS.lanesAt (warp plain) poolRec need ((warp plain).ctx.port u) (splat (v.signExtend 64))
      (if one then [0] else allLanes)) :=
  ⟨ready_imm v false rfl rfl, low0, rfl, by decide +kernel, rfl⟩
def clean (l : List (Nat × LaneRes)) (r : Bool) : Bool := l.all fun x => match x.2 with
  | .fault _ _ => false
  | .absent _ _ _ _ => !r
  | _ => true
theorem noFault_of {l : List (Nat × LaneRes)} {r : Bool} (h : clean l r = true) : noFault l r := by
  intro x hx
  have := List.all_eq_true.mp h x hx
  refine ⟨fun c va e => by simp [e] at this, fun hr va first ls bs e => by simp [e, hr] at this⟩
def elems (u : Un) (need : Need) (one : Bool) : List (Nat × LaneRes) :=
  memS.lanesAt (warp plain) poolRec need ((warp plain).ctx.port u) (splat ((0 : BitVec 11).signExtend 64)) (if one then [0] else allLanes)

theorem witness_LoadsStart : MemReady memS (warp plain) .la (mt 0) false needRead 0xFFFFFFFF (splat 0) 0 poolRec (elems .la needRead false) ∧
    noFault (elems .la needRead false) false ∧ (laneLines (elems .la needRead false)).length + (memS.core memS.cur.core).slotsUsed memS.now ≤ 1024 :=
  ⟨mem_ready .la 0 _ _, noFault_of (by decide +kernel), by decide +kernel⟩
theorem witness_LoadsStart_ldu : MemReady memS (warp plain) .lb (mt 0) true needRead 0xFFFFFFFF (splat 0) 0 poolRec (elems .lb needRead true) ∧
    noFault (elems .lb needRead true) false ∧ (laneLines (elems .lb needRead true)).length + (memS.core memS.cur.core).slotsUsed memS.now ≤ 1024 :=
  ⟨mem_ready .lb 0 _ _, noFault_of (by decide +kernel), by decide +kernel⟩
theorem witness_LoadsStart_ldc : MemReady memS (warp plain) .sl (mt 0) true needRead 0xFFFFFFFF (splat 0) 0 poolRec (elems .sl needRead true) ∧
    noFault (elems .sl needRead true) false ∧
    memS.ldcPlace (warp plain) poolRec 0 ((warp plain).ctx.port .sl) (splat 0) (elems .sl needRead true) = [] :=
  ⟨mem_ready .sl 0 _ _, noFault_of (by decide +kernel), by decide +kernel⟩
theorem witness_StoresAndCacheOperations :
    MemReady memS (warp plain) .la (mt 0) false needEither 0xFFFFFFFF (splat 0) 0 poolRec (elems .la needEither false) ∧
    noFault (elems .la needEither false) false ∧ (∃ w1 h f, (warp plain).newFuture Un.la.code = some (w1, h, f)) ∧
    MemReady memS (warp plain) .st (mt 0) true needWrite 0xFFFFFFFF (splat 0) 0 poolRec (elems .st needWrite true) ∧
    noFault (elems .st needWrite true) true ∧
    MemReady memS (warp plain) .st (mt 0) false needEither 0xFFFFFFFF (splat 0) 0 poolRec (elems .st needEither false) ∧
    noFault (elems .st needEither false) false ∧ ∃ w1 h f, (warp plain).newFuture 18 = some (w1, h, f) :=
  ⟨mem_ready .la 0 _ _, noFault_of (by decide +kernel), ⟨_, _, _, rfl⟩, mem_ready .st 0 _ _, noFault_of (by decide +kernel), mem_ready .st 0 _ _,
    noFault_of (by decide +kernel), _, _, _, rfl⟩
theorem witness_StoresAndCacheOperations_lands :
    MemReady memS (warp plain) .st (mt 0) false needWrite 0xFFFFFFFF (splat 0) 0 poolRec (elems .st needWrite false) ∧
    noFault (elems .st needWrite false) true ∧ 0 / 4 = memS.cur.core / 4 ∧ laneBytes (elems .st needWrite false) ≠ [] ∧
    (memS.core memS.cur.core).memq = [] ∧ (memS.core memS.cur.core).rels = [] ∧
    ∀ b, b ∈ laneBytes (elems .st needWrite false) → b.place.space = .core 0 ∧ b.place.addr / 256 = 0 ∧
      ∀ b', b' ∈ laneBytes (elems .st needWrite false) → b.vline = b'.vline :=
  ⟨mem_ready .st 0 _ _, noFault_of (by decide +kernel), by decide, by decide +kernel, by decide +kernel, by decide +kernel, by decide +kernel⟩
/-- A core whose `csize` has not resolved; a warp with 248 registers. -/
def sizing : State := { s0 plain with cores := [(0, { csize := some 1 })] }
def shrunk : State := { s0 plain with warps := [(0, { warp plain with regs := 248 })] }
theorem witness_SramAndRegisterPools : Engine (s0 plain) (warp plain) (mv 17) 17 0 ∧ (∃ w1 h f, (warp plain).newFuture 18 = some (w1, h, f)) ∧
    16 - ((s0 plain).core 0).fencedWays.length < (17#64).toNat ∧ Engine sizing (warp plain) (mv 16) 16 0 ∧
    (16#64).toNat ≤ 16 - (sizing.core 0).fencedWays.length ∧ (sizing.core 0).csize.isSome = true ∧ ((s0 plain).core 0).csize = none ∧
    (((s0 plain).core 0).pages.any fun y => !y.2.void && decide ((16#64).toNat * 4 ≤ y.1)) = false ∧ Engine (s0 plain) (warp plain) (mv 8) 8 0 ∧
    (8#64).toNat % 8 = 0 ∧ 8 ≤ (8#64).toNat ∧ (8#64).toNat + 8 ≤ (warp plain).regs ∧ Engine shrunk { warp plain with regs := 248 } (mv 8) 8 0 ∧
    (8#64).toNat + 248 ≤ 256 ∧ Engine (s0 plain) (warp plain) (mv 4) 4 0 ∧ (4#64).toNat % 8 ≠ 0 :=
  ⟨engine_imm 17 rfl rfl, ⟨_, _, _, rfl⟩, by decide, engine_imm 16 rfl rfl, by decide, by decide, by decide, by decide, engine_imm 8 rfl rfl, by decide,
    by decide, by decide, engine_imm 8 rfl rfl, by decide, engine_imm 4 rfl rfl, by decide⟩
def needAt : Need := ⟨fun rd _ a => decide (2 ≤ brEsz poolRec) && rd && a, true⟩
theorem witness_Atomics : atomicOf (.atAdd .cl (mt 0)) = some (.add, .cl, mt 0) ∧
    MemReady memS (warp plain) .atm (mt 0) false needAt 0xFFFFFFFF (splat 0) 0 poolRec (elems .atm needAt false) ∧
    noFault (elems .atm needAt false) true ∧
    memS.scopeFaults (warp plain) poolRec .cl ((warp plain).ctx.port .atm) (splat 0) (elems .atm needAt false) = [] ∧
    memS.psnFaults (elems .atm needAt false) = [] ∧
    (atWords ((warp plain).ctx.port .atm).b ((warp plain).ctx.port .atm).c (elems .atm needAt false)).length +
      (memS.core memS.cur.core).slotsUsed memS.now ≤ 1024 :=
  ⟨rfl, mem_ready .atm 0 _ _, noFault_of (by decide +kernel), by decide +kernel, by decide +kernel, by decide +kernel⟩
theorem witness_Atomics_word : false = false → (0xFFFFFFFF#64).toNat < 2 ^ 32 ∧ (1#64).toNat < 2 ^ 32 := by decide
theorem witness_Handles : 16 ≤ 26 ∧ 26 ≤ 26 ∧ ∃ w1 h f, ({ warp plain with ctx := { plain with fser := 0xFFFFFFFF } } : Warp).newFuture 26 = some (w1, h, f) :=
  ⟨by decide, by decide, _, _, _, rfl⟩

/-- A shape record at position 0 of the pool: 64 bytes from position 0 under record 0 to position 4096 under record 1; start 8, rate 1. -/
def copyX : Ctx := oper .cp 8 1 0 0
def copyS : State := memC copyX [(1, 0x10), (14, 0x10), (28, 64)]
def shape0 : BitVec 1024 := BitVec.ofNat 1024 (leNat (readCells (copyS.core 0).pool 0 128))
theorem witness_Copies : Engine copyS (warp copyX) (mt 0).mv 0 0 ∧ (∃ w1 h f, (warp copyX).newFuture 20 = some (w1, h, f)) ∧
    copyS.storesLanded copyS.cur.core 1 = true ∧ ((copyS.core 0).segs.getD 0 0).getLsbD 63 = true ∧ (0#64).toNat % 128 = 0 ∧
    copyS.pinnedAt 0 (copyS.tenOf 0) poolRec 0 128 = some 0 ∧ copyS.copyFault shape0 poolRec poolRec false = none ∧
    copyS.copyReason shape0 poolRec false true 8 1 0 (copyS.tenOf 0) = none ∧ Tab.lowestFree (copyS.core 0).copies 16 = some 0 :=
  ⟨engine_imm 0 rfl rfl, ⟨_, _, _, rfl⟩, by decide +kernel, by decide +kernel, by decide, by decide +kernel, by decide +kernel, by decide +kernel,
    by decide +kernel⟩
/-- A copy of the warp, suspended with code 1, unpaced. -/
def halted : Copy := { fut := ⟨1, 0, 1⟩, nid := 0, ten := 0, shape := shape0, src := poolRec, dst := poolRec, comp := 0, mcast := false, paced := false
                       t := 0, start := 8, rate := 1, k0 := 0, old := [], k := 0, st := .suspended 1 }
def haltS : State := { s0 plain with cores := [(0, { copies := [(0, halted)], ctag := 6 })] }
theorem witness_Copies_tags : Engine haltS (warp plain) (mv 0x101) 0x101 0 ∧ (∃ w1 h f, (warp plain).newFuture 20 = some (w1, h, f)) ∧
    (∀ j, j < 64 → ((haltS.core 0).ctag &&& 0x101).getLsbD j = false) ∧ (∀ j, j < 1 → ((haltS.core 0).ctag &&& 2).getLsbD j = false) ∧
    ((haltS.core 0).ctag &&& 2).getLsbD 1 = true ∧ Tab.look (haltS.core 0).copies ((0x1F1#64).toNat / 16 % 16) = none ∧
    Tab.look (haltS.core 0).copies ((0x101#64).toNat / 16 % 16) = some halted ∧ halted.fut.wid = (warp plain).wid ∧
    halted.st = .suspended ((0x101#64).toNat % 16) ∧ halted.paced = false ∧ haltS.warp? haltS.cur = some (warp plain) :=
  ⟨engine_imm 0x101 rfl rfl, ⟨_, _, _, rfl⟩, by decide +kernel, by decide +kernel, by decide +kernel, by decide +kernel, rfl, rfl, rfl, rfl, rfl⟩
/-- A task record at position 0: one row, one block of 32. -/
def taskS : State := memC plain [(48, 1), (49, 2)]
def task0 : BitVec 512 := BitVec.ofNat 512 (leNat (readCells (taskS.core 0).pool 0 64))
theorem witness_TasksQueue : taskOf (.mmBf16 true (mt 0)) = some (1, true, mt 0) ∧ Engine taskS (warp plain) (mt 0).mv 0 0 ∧
    (∃ w1 h f, (warp plain).newFuture 21 = some (w1, h, f)) ∧ taskS.storesLanded 0 1 = true ∧ Tab.lowestFree (taskS.cluster 0).tasks 64 = some 0 ∧
    ((taskS.core 0).segs.getD 0 0).getLsbD 63 = true ∧ (0#64).toNat % 64 = 0 ∧ taskS.pinnedAt 0 (taskS.tenOf 0) poolRec 0 64 = some 0 ∧
    taskS.taskFault (warp plain) 1 task0 0 = none ∧ taskReason (warp plain) 1 task0 0 0 0 = none :=
  ⟨rfl, engine_imm 0 rfl rfl, ⟨_, _, _, rfl⟩, by decide +kernel, by decide +kernel, by decide +kernel, by decide, by decide +kernel, by decide +kernel,
    by decide +kernel⟩
def queued : Task := { num := 0, seq := 0, t := 0, core := 0, wid := 1, nid := 0, ten := 0, seed := 0, cell := 0, fut := ⟨1, 0, 1⟩, fn := 1, tri := false, record := task0, bias := 0
                       rnd := 1, p0 := none, p1 := none, abuf := poolRec, bbuf := poolRec, sbuf := poolRec, dbuf := poolRec, prog := 1 }
def taskIn (t : Task) : State := { taskS with clusters := [(0, { tasks := [(0, t)] })] }
theorem witness_TasksQueue_resume : Engine (taskIn { queued with st := .suspended 2 }) (warp plain) (mv 2) 2 0 ∧
    (∃ w1 h f, (warp plain).newFuture 21 = some (w1, h, f)) ∧
    Tab.look ((taskIn { queued with st := .suspended 2 }).cluster 0).tasks ((2#64).toNat / 1024 % 64) = some { queued with st := .suspended 2 } ∧
    queued.wid = (warp plain).wid ∧ (CopySt.suspended 2) = .suspended ((2#64).toNat % 16) :=
  ⟨engine_imm 2 rfl rfl, ⟨_, _, _, rfl⟩, rfl, rfl, rfl⟩

/-- Rows to the end of the window: 8191; a `zero` of one row there; a window over all rows, written by the lowest member. -/
def accX : Ctx := oper .ac 1 252 0 0x1FFF
def accS : State := s0 accX
def acs1 (a : AcAct) : State := { s0 plain with clusters := [(0, { acs := [⟨1, 0, 0, 1, 0, [], a⟩] })], ev := some (.acAccess 0 1) }
theorem witness_Accumulators : Ready (s0 accX) (warp accX) ms1 false 0xFFFFFFFF (splat 0x1FFF) ∧ (0xFFFFFFFF : W32) ≠ 0 ∧
    (∀ c, c ∈ cellsOf (warp accX) 0xFFFFFFFF (splat 0x1FFF) → (warp accX).base ≤ c.2.1 ∧ c.2.1 < (warp accX).limit) ∧
    Engine (s0 accX) (warp accX) ms1 0x1FFF 0 ∧ 0 < (opa (warp accX) .ac).toNat ∧ (warp accX).base ≤ (0x1FFF#64).toNat ∧
    (0x1FFF#64).toNat + (opa (warp accX) .ac).toNat ≤ (warp accX).limit ∧ (opb (warp accX) .ac).toNat < 255 ∧
    (warp accX).ix ∈ (s0 accX).membersHere (warp accX) 252 ∧ (∀ j, j ∈ (s0 accX).membersHere (warp accX) 252 → (warp accX).ix ≤ j) ∧
    (0x1FFF#64).toNat ≤ 8192 ∧ (opa (warp accX) .ac).toNat ≤ (0x1FFF#64).toNat :=
  ⟨⟨rfl, by decide, rfl⟩, by decide, by decide +kernel, ⟨_, _, ⟨rfl, by decide, rfl⟩, low0, rfl⟩, by decide +kernel, by decide, by decide +kernel,
    by decide +kernel, by decide +kernel, by decide +kernel, by decide, by decide +kernel⟩
def reads : Ctx := { plain with ports := [(22, { pend := 1, op := 1 })] }
theorem witness_Accumulators_cycle : ((acs1 (.wr [(8191, 255, 1)])).cluster 0).acs.find? (fun y => y.id == 1) =
      some ⟨1, 0, 0, 1, 0, [], .wr [(8191, 255, 1)]⟩ ∧ storeWf ((acs1 (.wr [(8191, 255, 1)])).cluster 0) ∧
    (∀ x : Nat × Nat × W32, x ∈ [((8191 : Nat), (255 : Nat), (1 : W32))] → x.2.1 < 256) ∧
    ((acs1 (.zero 8191 1)).cluster 0).acs.find? (fun y => y.id == 1) = some ⟨1, 0, 0, 1, 0, [], .zero 8191 1⟩ ∧
    ({ acs1 (.rd [(0, 3, 4)]) with warps := [(0, warp reads)] }).findWid 1 = some (⟨0, 0⟩, warp reads) ∧ ((warp reads).ctx.port .ac).op = 1 ∧
    ((warp reads).ctx.port .ac).pend ≠ 0 ∧ slotsWf (acs1 (.win 0 8192 0 [0])) ∧
    (acs1 (.win 0 8192 0 [0])).warp? ⟨0, 0⟩ = some (warp plain) :=
  ⟨by decide +kernel, List.Pairwise.nil, by decide +kernel, by decide +kernel, by decide +kernel, by decide +kernel, by decide +kernel,
    by simp [slotsWf, acs1, s0], by decide +kernel⟩

/-- Object 5 belongs to the tenant, in a mode. -/
def objS (o : Obj) : State := { s0 plain with objs := [(5, { o with ten := some 0 })] }
def isMine (s : State) (o : Nat) : Prop := o ≠ 0xFFFF ∧ (s.obj o).ten = some (s.tenOf (warp plain).nid)
theorem witness_Ordering : Engine (objS { md := 1 }) (warp plain) (mv 5) 5 0 ∧ (∃ w1 h f, (warp plain).newFuture 23 = some (w1, h, f)) ∧
    isMine (objS { md := 1 }) ((5#64).toNat % 65536) ∧ ¬ isMine (objS { md := 1 }) (((0x7FF : BitVec 11).signExtend 64).toNat % 65536) ∧
    isMine (objS {}) 5 ∧ ((objS {}).obj 5).md = 0 ∧ ((objS { md := 1 }).obj 5).md ≠ 0 ∧ ((objS { md := 1 }).obj 5).holder ≠ some (warp plain).wid ∧
    isMine (objS { md := 2 }) 5 ∧ ((objS { md := 2 }).obj 5).md = 2 ∧ ((objS { md := 1, holder := some 1 }).obj 5).holder = some (warp plain).wid := by
  refine ⟨engine_imm 5 rfl rfl, ⟨_, _, _, rfl⟩, ?_, ?_, ?_, ?_, ?_, ?_, ?_, ?_, ?_⟩ <;> (try unfold isMine) <;> decide +kernel
/-- Barrier 47 of the core. -/
def barS (b : Bar) (x : Ctx) : State := { s0 x with cores := [(0, { bars := [(47, b)] })] }
theorem witness_NamedBarriers : Engine (s0 (oper .sy 255 0 0 0)) (warp (oper .sy 255 0 0 0)) (mv 47) 47 0 ∧ (47#64).toNat ≤ 47 ∧
    1 ≤ (opa (warp (oper .sy 255 0 0 0)) .sy).toNat ∧ (opa (warp (oper .sy 255 0 0 0)) .sy).toNat ≤ 255 ∧
    (((s0 plain).core 0).bar 47).own = none ∧ (((s0 plain).core 0).bar 47).cnt = 0 ∧ (((s0 plain).core 0).bar 47).wmask = 0 ∧
    (((s0 plain).core 0).bar 47).emask = [] ∧ Engine (barS { exp := 1, own := some 0 } plain) (warp plain) (mv 47) 47 0 ∧
    (((barS { exp := 1, own := some 0 } plain).core 0).bar 47).exp ≠ 0 ∧
    (((barS { exp := 1, own := some 0 } plain).core 0).bar 47).own = some (warp plain).nid ∧ opa (warp plain) .sy = 0 ∧
    (barS { exp := 1, own := some 0 } plain).relWaits 0 ((barS { exp := 1, own := some 0 } plain).barRel (warp plain) 47) = false ∧
    Engine (s0 plain) (warp plain) (mv 48) 48 0 ∧ 47 < (48#64).toNat ∧ (s0 plain).relWaits 0 ((s0 plain).barRel (warp plain) 48) = false ∧
    (((s0 plain).core 0).bar 0).exp = 0 :=
  ⟨engine_imm 47 rfl rfl, by decide, by decide +kernel, by decide +kernel, by decide, by decide, by decide, by decide, engine_imm 47 rfl rfl, by decide,
    by decide, by decide, by decide +kernel, engine_imm 48 rfl rfl, by decide, by decide +kernel, by decide⟩
def most : Ctx := oper .sy 0xFFFFFFFFFFFF 0 0 0
theorem witness_GroupAndCountBarriers : Engine (s0 plain) (warp plain) (mv 254) 254 0 ∧ (∃ w1 h f, (warp plain).newFuture 23 = some (w1, h, f)) ∧
    (s0 plain).node? (warp plain).nid = some placedNode ∧ (254#64).toNat < 255 ∧ (warp plain).responder = none ∧
    (warp plain).ix ∈ placedNode.members 254 (warp plain).die (warp plain).clus ∧ Tab.look (warp plain).gbars 254 = none ∧
    Engine (objS { md := 3 }) (warp plain) (mv 6) 6 0 ∧ ((objS { md := 3 }).obj 6).ten ≠ some ((objS { md := 3 }).tenOf 0) ∧
    ((objS { md := 2 }).obj 5).md ≠ 3 ∧ ((objS { md := 3 }).obj 5).md = 3 ∧ ((objS { md := 3 }).obj 5).ten = some ((objS { md := 3 }).tenOf 0) ∧
    (opa (warp plain) .sy).toNat = 0 ∧ 0 < (opa (warp most) .sy).toNat ∧ (opa (warp most) .sy).toNat < 2 ^ 48 ∧
    2 ^ 48 ≤ (opa (warp (oper .sy 0x1000000000000 0 0 0)) .sy).toNat :=
  ⟨engine_imm 254 rfl rfl, ⟨_, _, _, rfl⟩, by decide +kernel, by decide, rfl, by decide +kernel, rfl, engine_imm 6 rfl rfl, by decide +kernel, by decide,
    by decide, by decide +kernel, by decide, by decide +kernel, by decide +kernel, by decide +kernel⟩
def responds : Warp := { warp plain with responder := some ⟨0, 1, 0, 1, 1024⟩ }
theorem witness_Solicits : Engine memS (warp plain) (mt 0x27).mv 0x27 0 ∧ (∃ w1 h f, (warp plain).newFuture 24 = some (w1, h, f)) ∧
    memS.pinnedBad (memS.mapping 0) 0 (memS.tenOf 0) ((memS.core 0).segs.getD 0 0) (opc (warp plain) .so).toNat 8 none = none ∧
    ((0x27#64).toNat < 64 ∧ (0x27#64).toNat / 16 ≤ 2 ∧ (0x27#64).toNat % 16 ≤ 7 ∧ (opa (warp plain) .so).toNat < 2 ^ 48) ∧
    ¬ ((0x28#64).toNat < 64 ∧ (0x28#64).toNat / 16 ≤ 2 ∧ (0x28#64).toNat % 16 ≤ 7) ∧ (warp plain).responder = none ∧ responds.responder ≠ none ∧
    Engine { s0 plain with warps := [(0, responds)] } responds (mv 0) 0 0 :=
  ⟨engine_imm 0x27 rfl rfl, ⟨_, _, _, rfl⟩, by decide +kernel, by decide +kernel, by decide, rfl, by decide, engine_imm 0 rfl rfl⟩
/-- Key and length of a tile in the operands; a directory with one tile, and one without room. -/
def tileX : Ctx := oper .so 0xFFFFFFFFFFFF 0 256 0
def tileS : State := memC tileX []
def tile0 : Tile := { hva := 0, grp := 1024, ten := 0, st := .present, tbuf := 0, tpos := 0, len := 1, key := 7, nid := 0 }
def hasTile (x : Ctx) : State := { s0 x with cores := [(0, { pooled [] with tiles := [(127, tile0)] })] }
def noRoom : State := { s0 tileX with cores := [(0, { pooled [] with tiles := (List.range 128).map fun e => (e, tile0) })] }
theorem witness_Tiles : Engine tileS (warp tileX) (mt 32).mv 32 0 ∧ (∃ w1 h f, (warp tileX).newFuture 24 = some (w1, h, f)) ∧ (warp tileX).responder = none ∧
    tileS.pinnedBad (tileS.mapping 0) 0 (tileS.tenOf 0) ((tileS.core 0).segs.getD 0 0) 0 256 (some (0, tileS.homeKey (warp tileX))) = none ∧
    ((opa (warp tileX) .so).toNat < 2 ^ 48 ∧ (opc (warp tileX) .so).toNat % 256 = 0 ∧ 256 ≤ (opc (warp tileX) .so).toNat ∧
      (opc (warp tileX) .so).toNat ≤ 2 ^ 22 ∧ (32#64).toNat % 32 = 0) ∧ ¬ (33#64).toNat % 32 = 0 ∧
    Tab.lowestFree (tileS.core 0).tiles 128 = some 0 ∧ Tab.lowestFree (noRoom.core 0).tiles 128 = none ∧
    noRoom.pinnedBad (noRoom.mapping 0) 0 (noRoom.tenOf 0) ((noRoom.core 0).segs.getD 0 0) 0 256 (some (0, noRoom.homeKey (warp tileX))) = none ∧
    Engine (hasTile plain) (warp plain) (mv 127) 127 0 ∧ Tab.look ((hasTile plain).core 0).tiles (127#64).toNat = some tile0 ∧
    tile0.st = .present ∧ tile0.nid = (warp plain).nid ∧ Tab.look (tileS.core 0).tiles 127 = none ∧ responds.responder ≠ none :=
  ⟨engine_imm 32 rfl rfl, ⟨_, _, _, rfl⟩, rfl, by decide +kernel, by decide +kernel, by decide, by decide +kernel, by decide +kernel, by decide +kernel,
    engine_imm 127 rfl rfl, by decide +kernel, rfl, rfl, by decide +kernel, by decide⟩
/-- A tile moves to core 3 of the launch's cluster, under a record of that core's pool; core 4 is not the launch's. -/
def moveX (d : W64) : Ctx := oper .so d 0 0 0
def rec3 : BitVec 256 := poolRec ||| BitVec.ofNat 256 (3 * 2 ^ 173)
def moveS (d : W64) : State := { s0 (moveX d) with
  cores := [(0, { tiles := [(127, tile0)], segs := [rec3] }), (3, { ways := 1, pages := [(0, ⟨0, 1024, false, false⟩)] })] }
theorem witness_Tiles_moves : Engine (moveS 3) (warp (moveX 3)) (mt 127).mv 127 0 ∧ (∃ w1 h f, (warp (moveX 3)).newFuture 24 = some (w1, h, f)) ∧
    (opa (warp (moveX 3)) .so).toNat < 256 ∧ Tab.lowestFree ((moveS 3).core 3).tiles 128 = some 0 ∧
    Tab.look ((moveS 3).core 0).tiles (127#64).toNat = some tile0 ∧ (moveS 3).launchCore 0 3 = true ∧
    (moveS 3).pinnedBad ((moveS 3).mapping 0) 3 ((moveS 3).tenOf 0) rec3 0 256 none = none ∧ (moveS 4).launchCore 0 4 = false ∧
    Tab.lowestFree ((moveS 4).core 4).tiles 128 = some 0 :=
  ⟨engine_imm 127 rfl rfl, ⟨_, _, _, rfl⟩, by decide +kernel, by decide +kernel, by decide +kernel, by decide +kernel, by decide +kernel, by decide +kernel,
    by decide +kernel⟩
/-- A message of 4,096 bytes to the sender itself; receives and probes from it. -/
def msgX : Ctx := oper .ms 0 0 4096 0
def msgS : State := memC msgX []
def postsFull : State := { msgS with clusters := [(0, { posts := 64 })] }
theorem witness_Messages : Engine msgS (warp msgX) (mt 0).mv 0 0 ∧ Engine msgS (warp msgX) (mv 0) 0 0 ∧
    (∃ w1 h f, (warp msgX).newFuture 25 = some (w1, h, f)) ∧ msgS.storesLanded 0 1 = true ∧ 1 ≤ (opc (warp msgX) .ms).toNat ∧
    (opc (warp msgX) .ms).toNat ≤ 4096 ∧
    msgS.pinnedBad (msgS.mapping 0) 0 (msgS.tenOf 0) ((msgS.core 0).segs.getD 0 0) 0 4096 none = none ∧ msgS.sendReason (warp msgX) 0 0 4096 = none ∧
    msgS.sendReason (warp msgX) (2 ^ 63) 0 4096 = some 1 ∧ (0#64).toNat / 2 ^ 48 % 256 = 0 ∧ msgS.destNode (warp msgX) 0 = some placedNode ∧
    msgS.matchReason (warp msgX) 0 0 = none ∧ msgS.matchReason (warp msgX) 1 0 = some 3 ∧ (msgS.cluster 0).posts < 64 ∧
    64 ≤ (postsFull.cluster 0).posts ∧ postsFull.matchReason (warp msgX) 0 0 = none ∧ 4096 < (opc (warp (oper .ms 0 0 4097 0)) .ms).toNat :=
  ⟨engine_imm 0 rfl rfl, engine_imm 0 rfl rfl, ⟨_, _, _, rfl⟩, by decide +kernel, by decide +kernel, by decide +kernel, by decide +kernel,
    by decide +kernel, by decide +kernel, by decide, by decide +kernel, by decide +kernel, by decide +kernel, by decide +kernel, by decide +kernel,
    by decide +kernel, by decide +kernel⟩
/-- Ring 15: one element of two; s1 and the operands of rg. -/
def ring1 : Ring := ⟨true, 2, 0, [splat 5]⟩
def ringX (a b : W64) : Ctx := oper .rg a b 0 0
def ringS (a b : W64) : State := { s0 (ringX a b) with cores := [(0, { rings := [(15, ring1)] })] }
def ringFull : State := { s0 (ringX 14 0) with clusters := [(0, { ringUsed := 1024 })] }
theorem witness_Rings : Engine (ringS 14 1) (warp (ringX 14 1)) (mv 512) 512 0 ∧ (opa (warp (ringX 14 1)) .rg).toNat ≤ 15 ∧
    Tab.look ((ringS 14 1).core 0).rings 14 = none ∧ (opb (warp (ringX 14 1)) .rg).toNat ≤ 1 ∧ (512#64).toNat = 2 ^ 9 ∧
    ((ringS 14 1).cluster 0).ringUsed + unitsOf true 512 ≤ 1024 ∧ 1024 < (ringFull.cluster 0).ringUsed + unitsOf false 1 ∧
    Engine ringFull (warp (ringX 14 0)) (mv 1) 1 0 ∧ Engine (ringS 15 0) (warp (ringX 15 0)) (mv 15) 15 0 ∧
    ownsRing (ringS 15 0) (warp (ringX 15 0)) (15#64).toNat ring1 ∧ ownsRing (ringS 15 0) (warp (ringX 15 0)) (opa (warp (ringX 15 0)) .rg).toNat ring1 ∧
    1 ≤ (1#64).toNat ∧ (1#64).toNat ≤ ring1.elems.length ∧ ring1.elems.length ≤ ring1.depth ∧ ring1.elems.length < (2#64).toNat ∧ (2#64).toNat ≤ ring1.depth :=
  ⟨engine_imm 512 rfl rfl, by decide +kernel, by decide, by decide +kernel, by decide, by decide +kernel, by decide +kernel, engine_imm 1 rfl rfl,
    engine_imm 15 rfl rfl, ⟨by decide +kernel, rfl⟩, ⟨by decide +kernel, rfl⟩, by decide, by decide, by decide, by decide, by decide⟩
theorem witness_Rings_push : Ready (ringS 0 0) (warp (ringX 0 0)) (mv 3) false 0xFFFFFFFF (splat 3) ∧ LowestLane 0xFFFFFFFF 0 ∧
    Tab.look (ringS 0 0).srcRings (15#4).toNat = some ring1 ∧ ring1.elems.length < ring1.depth ∧
    Tab.look ({ ringS 0 0 with cores := [(0, { rings := [(15, { ring1 with depth := 1 })] })] } : State).srcRings (15#4).toNat =
      some { ring1 with depth := 1 } ∧ ({ ring1 with depth := 1 } : Ring).depth ≤ ring1.elems.length :=
  ⟨ready_imm 3 _ rfl rfl, low0, by decide +kernel, by decide, by decide +kernel, by decide⟩
/-- s1 names a launch record at position 0 under record 0; s2 a misaligned one. -/
def launchX : Ctx := { plain with sregs := [(2, 8)] }
def launchS : State := memC launchX []
def after1 : State := { launchS with nodes := [{ placedNode with preds := [7] }] }
theorem witness_LaunchingWork : CtlReady launchS (warp launchX) 1 0 ∧ CtlReady launchS (warp launchX) 2 8 ∧ launchS.storesLanded 0 1 = true ∧
    (∃ w1 h f, (warp launchX).newFuture 0xC0 = some (w1, h, f)) ∧ (∃ w1 h f, (warp launchX).newFuture 0xC1 = some (w1, h, f)) ∧
    launchS.pinnedBad (launchS.mapping 0) 0 (launchS.tenOf 0) ((launchS.core 0).segs.getD 0 0) 0 64 none = none ∧
    launchS.pinnedBad (launchS.mapping 0) 0 (launchS.tenOf 0) ((launchS.core 0).segs.getD 0 0) 8 64 none = none ∧ (8#64).toNat % 2 ^ 47 % 64 ≠ 0 ∧
    (0#64).toNat / 2 ^ 47 % 2 ^ 11 = 0 ∧ (0#64).toNat % 2 ^ 47 % 64 = 0 ∧ launchS.node? (warp launchX).nid = some placedNode ∧ placedNode.preds = [] ∧
    after1.node? (warp launchX).nid = some { placedNode with preds := [7] } :=
  ⟨⟨rfl, rfl, rfl⟩, ⟨rfl, rfl, rfl⟩, by decide +kernel, ⟨_, _, _, rfl⟩, ⟨_, _, _, rfl⟩, by decide +kernel, by decide +kernel, by decide, by decide,
    by decide, by decide +kernel, rfl, by decide +kernel⟩

/-! Steps of the cluster and the base. `evS s e`: the state with the event at hand. -/

def evS (s : State) (e : Ev) : State := { s with ev := some e }
def here0 : WarpAt := ⟨0, 0⟩
def home0 : HomeReq := { id := 1, agent := .core 0, space := .pa, line := 0, smask := 1, cls := .non, nllc := false, ecls := .normal, inc := 0, bytes := [], atom := none }
def coreS (c : Core) : State := { s0 plain with cores := [(0, c)] }
def clusS (c : Cluster) : State := { s0 plain with clusters := [(0, c)] }

/-- A due result; a cycle's load of lane 31; a landing; an outside write; an arrival; a future. -/
def load0 : Load := { id := 1, slot := 0, wid := 1, un := .la, due := 1, lanes := [⟨31, [⟨.core 0, 0⟩], true, 0⟩], lines := [], slots := 1, started := 1 }
def loadX : Ctx := { plain with ports := [(16, { pend := 0x80000000, due := some 1, op := 1 })] }
def land0 : Land := { id := 1, wid := 1, land := 0, trig := 0, src := 0, core := 3, bytes := [(0, 1), (0, 2)], atom := none }
def out0 : OutWrite := { core := 3, bytes := [(65535, 1)], psn := [], atom := none }
theorem witness_ClusterSteps : (s0 waits).warp? here0 = some (warp waits) ∧ ((warp waits).ctx.port .ia).due = some 5 ∧
    Tab.look ((coreS { reqs := [(1, ⟨1, home0, 0, .load 1, 0, false, false, 0, false⟩)] }).core 0).reqs 1 = some ⟨1, home0, 0, .load 1, 0, false, false, 0, false⟩ ∧
    (({ s0 loadX with cores := [(0, { loads := [load0] })] } : State).core 0).loads.find?
      (fun y => y.wid == 1 && y.un == .la && y.due == 0 + 1 && y.id == 1) = some load0 ∧ load0.atomic = false ∧ load0.scalar = false ∧
    load0.lanes.find? (fun y => y.lane == 31) = some ⟨31, [⟨.core 0, 0⟩], true, 0⟩ ∧
    ((clusS { lands := [land0] }).cluster 0).lands.find? (fun y => y.id == 1) = some land0 ∧ cellsWf ((clusS { lands := [land0] }).core 3).pool = true ∧
    ((clusS { outs := [out0] }).cluster 0).outs = [out0] ∧ out0.atom = none ∧ out0.copy = none ∧
    (s0 future).findWid 1 = some (here0, warp future) ∧ Tab.look (warp future).ctx.futs 0 = some 1 := by decide +kernel
/-- A skip over a bundle that opens no region; the last slot of a modulo kernel, going on and ending. -/
def skips : Ctx := { plain with skip := some 0 }
def placedS (x : Ctx) (w : Nat) : State :=
  let s := State.reset.withFetchWord 256 w
  { s with warps := [(0, { warp x with waiting := false })] }
def loopX (n : W64) : Ctx := { plain with loop := some ⟨n, 0, 1, 1, 1, 0x10000⟩ }
theorem witness_ClusterSteps_turns : (placedS skips (ctl (0x18 * 2 ^ 72))).warp? here0 = some (warp skips) ∧
    (placedS skips (ctl (0x18 * 2 ^ 72))).fetch 0 0 0x10000 = .ok (ctl (0x18 * 2 ^ 72)) ∧ skipOver skips 0 (ctl (0x18 * 2 ^ 72)) = some 1 ∧
    (s0 (loopX 1)).warp? here0 = some (warp (loopX 1)) ∧ (warp (loopX 1)).ctx.loop = some ⟨1, 0, 1, 1, 1, 0x10000⟩ ∧ 1 + 1 - 2 < 0 + 1 ∧
    ¬ 2 + 1 - 2 < 0 + 1 := by decide +kernel
/-- A claim of 8 registers by a warp with 248; a responder to be started in slot 1; a full ring of two elements; a barrier with an engine arrival. -/
def claimS (free : Nat) : State := { shrunk with
  warps := [(0, { warp { plain with hold := some (.claim 8), claimAt := some (0x10000, none, 0) } with regs := 248, blocked := true })]
  cores := [(0, { claims := [(0, 8)], free := free })] }
def cen0 : Census := { num := 1, fut := ⟨1, 0, 1⟩, asker := here0, adie := 0, ten := 0, key := 7, arg := 0, scope := 1, cmb := 0, core := 0, at_ := []
                       unheard := [0], owed := [(0, 0)], replies := [] }
def spawnS : State := { s0 plain with cores := [(0, { spawns := [⟨0, 0, tile0, true⟩] })], censuses := [(0, cen0)] }
def fullS : State := { s0 plain with
  warps := [(0, { warp plain with blocked := true })], cores := [(0, { rings := [(15, ⟨true, 1, 0, [splat 5]⟩)] })], clusters := [(0, { ringUsed := 1 })] }
def engineS : State := coreS { bars := [(47, { exp := 1, emask := [(15, futDone)] })] }
theorem witness_ClusterSteps_ends : ((claimS 8).core 0).claims = [(0, 8)] ∧ ((claimS 8).warp? here0).map Warp.regs = some 248 ∧ 8 ≤ ((claimS 8).core 0).free ∧
    Tab.get ((claimS 8).core 0).held 0 0 + 8 ≤ (claimS 8).quota 0 ∧ 248 + 8 ≤ 256 ∧ spawnS.nextSpawn 0 = some ⟨0, 0, tile0, true⟩ ∧
    Tab.look spawnS.censuses 0 = some cen0 ∧ spawnS.groupEnded tile0.nid tile0.grp = false ∧ spawnS.warp? ⟨0, 1⟩ = none ∧
    (∀ k, k < 1 → spawnS.warp? ⟨0, k⟩ ≠ none) ∧ fullS.ringCheckActs 0 = true ∧ leastRing (fullS.fullRings 0) = some (unitsOf true 1, 0, 15) ∧
    2 * 1 ≤ 32768 ∧ (fullS.cluster 0).ringUsed + (unitsOf true 2 - unitsOf true 1) ≤ 1024 ∧ (claimS 0).claimCores 0 = [0] ∧
    ((claimS 0).liveOn 0).length = 1 ∧ Tab.look ((engineS.core 0).bar 47).emask 15 = some futDone := by decide +kernel
/-- A warp that enters its handler; one that has none. -/
def entersS (h : W64) : State := { s0 plain with warps := [(0, { warp plain with fhnd := h, entering := some ⟨.user, 0x20, 9, 0x10020⟩ })] }
theorem witness_ClusterSteps_traps : ((entersS 0x10040).warp? here0).map Warp.entering = some (some ⟨.user, 0x20, 9, 0x10020⟩) ∧
    ({ warp plain with fhnd := 0x10040 } : Warp).drained ((entersS 0x10040).lcycOf 0) = true ∧
    (entersS 0x10040).handlerEntry { warp plain with fhnd := 0x10040 } .user ≠ 0 ∧ (entersS 0).handlerEntry (warp plain) .user = 0 ∧
    ((entersS 0).warps.map Prod.fst).Nodup := by decide +kernel

/-- A copy in progress within core 0's pool; its one chunk, translated; an unpaced copy to a slice. -/
def copying (p : Bool) : Copy := { halted with st := .running, paced := p, fetching := p }
def byte0 (sp : Space) : ChunkByte := ⟨none, 7, false, [⟨0, ⟨sp, 0⟩, .non, false, some (0, 1024)⟩]⟩
def copyS0 (c : Copy) : State := { s0 plain with cores := [(0, { pooled [] with copies := [(15, c)] })] }
theorem witness_CopySteps : Tab.look ((copyS0 (copying true)).core 0).copies 15 = some (copying true) ∧
    (copyS0 (copying true)).anyOpen 0 (copying true).behind = false ∧ (copyS0 (copying true)).chunkCode 0 (copying true) 0 = 0 ∧ (copying true).chunks ≤ 0 + 1 ∧
    ({ copying true with shape := BitVec.ofNat 1024 (257 * 2 ^ 224) } : Copy).chunks = 2 ∧
    (copyS0 (copying true)).chunkCode 0 { copying true with src := 0, dst := 0 } 0 = 0 ∧
    ({ s0 plain with cores := [(0, { copies := [(15, copying true)] })] } : State).chunkCode 0 (copying true) 0 ≠ 0 ∧
    ({ copying true with t := 0, start := 0, rate := 1 } : Copy).due 0 ≤ (copyS0 (copying true)).lcycOf 0 ∧
    chunkTargets [byte0 (.core 0)] = [(0, .core 0)] ∧ (copyS0 (copying true)).landCode 0 (chunkFor [byte0 (.core 0)] 0 (.core 0)).1 (chunkOwners [byte0 (.core 0)] 0 (.core 0)) = 0 ∧
    chunkTargets [byte0 (.slice 63)] = [(0, .slice 63)] ∧ cellsWf ((s0 plain).slice 63).pool = true ∧ (copying false).paced = false ∧
    (copying false).tmove = none := by decide +kernel

/-- Tasks whose operands lie out of bounds, so that a pass asks for no sector. -/
def scaled : Task := { queued with fn := 7, abuf := 0, bbuf := 0, sbuf := 0 }
def passed : Task := { queued with abuf := 0, bbuf := 0, sbuf := 0, record := BitVec.ofNat 512 (1 * 2 ^ 384 + 8 * 2 ^ 393) }
theorem no_places (s : State) (t : Task) (p : Nat) (h : ((taskReads t p).all fun x => brExtent x.2.2.1 == 0) = true) : s.passPlaces t p = [] := by
  have e : ((taskReads t p).flatMap fun (_, _, r, pos, n) => (List.range n).filterMap fun k =>
      if pos + k ≥ brExtent r || ((pos + k) % 64 != 0 && k != 0) then none
      else match s.translate t.old t.ten r (swizzle r (pos + k)) with
        | .ok q g => if q.space == .pa then some (q, g) else none
        | _ => none) = [] := by
    rw [List.flatMap_eq_nil_iff]
    intro x hx
    have hz : brExtent x.2.2.1 = 0 := by simpa using List.all_eq_true.mp h x hx
    obtain ⟨a, b, r, pos, n⟩ := x
    simp_all
  unfold State.passPlaces
  exact (congrArg List.eraseDups e).trans rfl
theorem none0 : (taskIn scaled).passPlaces scaled 0 = [] := no_places _ _ _ (by decide +kernel)
theorem none1 : (taskIn passed).passPlaces passed 0 = [] := no_places _ _ _ (by decide +kernel)
theorem witness_TaskSteps : Tab.look ((taskIn queued).cluster 0).tasks 0 = some queued ∧
    Tab.look ((taskIn scaled).cluster 0).tasks 0 = some scaled ∧ coherentOf ((taskIn scaled).passPlaces scaled 0) = [] ∧
    (∃ s1, (taskIn scaled).reachAll (linesOf ((taskIn scaled).passPlaces scaled 0)) = some s1) ∧ 1 ≤ queued.fn ∧ queued.fn ≤ 5 ∧
    Tab.look ((taskIn passed).cluster 0).tasks 0 = some passed ∧ coherentOf ((taskIn passed).passPlaces passed 0) = [] ∧
    (∃ s1, (taskIn passed).reachAll (linesOf ((taskIn passed).passPlaces passed 0)) = some s1) ∧
    256 * (0 + 1) ≤ 32 * tkKb passed.record ∧
    queued.row0 < queued.prog ∧ (taskIn queued).node? queued.nid = some placedNode ∧ (rctl 1 queued.rnd.toNat).rm ≠ .sr :=
  ⟨rfl, rfl, by rw [none0]; rfl, ⟨_, by rw [none0]; rfl⟩, by decide, by decide, rfl, by rw [none1]; rfl, ⟨_, by rw [none1]; rfl⟩, by decide +kernel,
    by decide, rfl, by decide +kernel⟩
theorem witness_TaskSteps_store : storeWf ((taskIn queued).cluster 0) := List.Pairwise.nil
theorem witness_TaskSteps_retire : ((taskIn queued).taskOut 0 queued).bytes = [] := rfl

/-- Line 0 whole in way 15 of its slice. -/
def line0 (n : Nat) : LLine := { line := n, ecls := .normal, pending := false, waiters := [], valid := 0xF, dirty := 0, psn := 0, bytes := List.replicate 256 0 }
def llcS (d : DirEntry) : State := { s0 plain with slices := [(sliceOf 0, { lines := [(15, line0 0)] })], dir := [(0, d)] }
theorem stands0 (d : DirEntry) : Stands (llcS d) 0 15 (line0 0) :=
  ⟨fun _ he => absurd he List.not_mem_nil, rfl, ⟨rfl, rfl, rfl, by decide +kernel⟩, rfl⟩
theorem served (kind : Nat) (r : HomeReq) (d : DirEntry) (h : r.agent = .core 0 ∧ r.space = .pa ∧ r.line = 0 ∧ r.inc = 0)
    (hw : (llcS d).mustWait kind r = false) : ServedAtOnce (llcS d) kind r 0 15 (line0 0) := by
  obtain ⟨h1, h2, h3, h4⟩ := h
  refine ⟨h1, h2, ?_, ?_, ?_, hw⟩ <;> rw [h3]
  · rw [h4]; exact fun _ => rfl
  · decide +kernel
  · exact stands0 d
def dev0 : HomeReq := { home0 with cls := .device }
def atom0 : HomeReq := { home0 with atom := some (252, false, .add, [⟨0, 1, 0⟩]) }
theorem witness_HomeRequests : ServedAtOnce (llcS {}) 0 home0 0 15 (line0 0) ∧ home0.cls = .non ∧ ServedAtOnce (llcS {}) 0 dev0 0 15 (line0 0) ∧
    dev0.cls ≠ .non ∧ dev0.smask = 1 ∧ ((llcS {}).dirOf 0).hown = true ∧ 2 ≤ ((llcS {}).dirOf 0).htok ∧
    ServedAtOnce (llcS { hown := false, htok := 511 }) 0 dev0 0 15 (line0 0) ∧ ((llcS { hown := false, htok := 511 }).dirOf 0).hown = false ∧
    ServedAtOnce (llcS { htok := 1 }) 1 dev0 0 15 (line0 0) ∧ ((llcS { htok := 1 }).dirOf 0).host = 0 ∧ 0 < ((llcS { htok := 1 }).dirOf 0).htok ∧
    ServedAtOnce (llcS {}) 2 { home0 with bytes := [(255, 1)] } 0 15 (line0 0) ∧ (llcS {}).deadWindow { home0 with bytes := [(255, 1)] } = false ∧
    ServedAtOnce (llcS {}) 3 atom0 0 15 (line0 0) ∧ 252 + (if false then 8 else 4) ≤ 256 ∧ ServedAtOnce (llcS {}) 4 home0 0 15 (line0 0) ∧
    ServedAtOnce (llcS {}) 5 home0 0 15 (line0 0) :=
  ⟨served 0 _ _ ⟨rfl, rfl, rfl, rfl⟩ (by decide +kernel), rfl, served 0 _ _ ⟨rfl, rfl, rfl, rfl⟩ (by decide +kernel), by decide, rfl, by decide, by decide,
    served 0 _ _ ⟨rfl, rfl, rfl, rfl⟩ (by decide +kernel), by decide, served 1 _ _ ⟨rfl, rfl, rfl, rfl⟩ (by decide +kernel), by decide, by decide,
    served 2 _ _ ⟨rfl, rfl, rfl, rfl⟩ (by decide +kernel), by decide +kernel, served 3 _ _ ⟨rfl, rfl, rfl, rfl⟩ (by decide +kernel), by decide,
    served 4 _ _ ⟨rfl, rfl, rfl, rfl⟩ (by decide +kernel), served 5 _ _ ⟨rfl, rfl, rfl, rfl⟩ (by decide +kernel)⟩
/-- A request, a pending way with one waiter, a write-back, sectors with tokens, a persistent request. -/
def req0 (tries : Nat) : Req := { wid := 1, msg := home0, kind := 0, why := .write, tries := tries, since := 0 }
def pendS : State := { s0 plain with slices := [(sliceOf 0, { lines := [(15, { line0 0 with pending := true, valid := 0, waiters := [⟨5, home0⟩] })] })] }
def wb0 : WbEntry := ⟨0, 0xF, 0, List.replicate 256 9⟩
def wbS : State := { s0 plain with slices := [(63, { wb := [wb0] })] }
def l1S (y : Sect) (die : Nat) : State := { s0 plain with
  cores := [(16 * die, { l1 := [(0, ⟨0, .device, .normal, [y, {}, {}, {}], List.replicate 256 0, false⟩)] })] }
theorem witness_TokensAndFills : Tab.look ((coreS { reqs := [(1, req0 3)] }).core 0).reqs 1 = some (req0 3) ∧ (req0 3).persistent = false ∧
    (req0 3).kind ≤ 1 ∧ (req0 3).msg.space = .pa ∧ (req0 3).since + 320 ≤ ({ s0 plain with root := 320 } : State).root ∧
    (s0 plain).root < (req0 3).since + 320 ∧ (pendS.slice (sliceOf 0)).find 0 =
      some (15, { line0 0 with pending := true, valid := 0, waiters := [⟨5, home0⟩] }) ∧ (pendS.slice (sliceOf 0)).bypass = [] ∧
    (pendS.slice (sliceOf 0)).input = [] ∧ (∀ k, k < 4 → (pendS.dirOf (0 * 4 + k)).locked = false) ∧ (wbS.slice 63).wb = [wb0] ∧
    (wbS.slice 63).input = [] ∧ wb0.bytes.length = 256 ∧ cellsWf wbS.mem = true ∧ (l1S { own := true, tok := 2 } 15).answers 240 = true ∧
    ((l1S { own := true, tok := 2 } 15).core 240).sect 0 = some { own := true, tok := 2 } ∧
    ((l1S { own := true, tok := 1 } 15).core 240).sect 0 = some { own := true, tok := 1 } ∧
    ((l1S { tok := 1 } 15).core 240).sect 0 = some { tok := 1 } ∧
    (∀ j, j < 16 → j ≠ 0 → ((l1S { tok := 1 } 15).core (16 * 15 + j)).sect 0 = none) ∧ (s0 plain).activeFor 0 = none ∧
    ((s0 plain).slice (sliceOf 0)).input = [] ∧ (∀ x, x ∈ (s0 plain).cores → x.2.rels = []) ∧
    (({ htok := 511, hown := false } : DirEntry).htok + 1 + 0 ≤ 512) ∧ (Cls.device ≠ .non) ∧
    ((s0 plain).slice (sliceOf 0)).persist = [] ∧ ((s0 plain).slice (sliceOf 0)).persistWait = [] ∧ (s0 plain).canGather (0 * 4) = true ∧
    reqSectors dev0 = [0] := by decide +kernel

/-! Time, the host, the census. -/

def dieS (d : Die) : State := { s0 plain with dies := [(15, d)] }
theorem witness_TimeAndLeases : (s0 plain).bringUp = 0 ∧ ({ dieS { almanac := 5 } with bringUp := 6 } : State).bringUp ≠ 0 ∧
    (∀ x, x ∈ ({ dieS { almanac := 5 } with bringUp := 6 } : State).slices → x.2.input = [] ∧ x.2.persist = [] ∧ x.2.persistWait = []) ∧
    Tab.look (dieS { almanac := 5 }).dies 15 = some { almanac := 5 } ∧ ((dieS { powered := true }).die 15).powered = true ∧
    ((dieS { powered := true }).die 15).dead = false ∧ ((dieS { powered := true, fresh := true }).die 15).fresh = true ∧
    (0 : BitVec 16) = ((dieS { powered := true, fresh := true }).die 15).inc ∧
    ¬ ((dieS { powered := true, dead := true }).die 15).dead = false ∧ ((dieS { powered := true }).die 15).known < 1 ∧
    ((dieS { powered := true }).die 15).leaseStop = false ∧ ((dieS { powered := true }).die 15).debugHold = false ∧
    ((dieS { powered := true, known := 10 }).die 15).known ≤ ((dieS { powered := true }).die 15).almanac + 8 + (1600 + 800 - 1) / 800 ∧
    ((dieS { powered := true }).die 15).expiry + 8 + (1600 + 800 - 1) / 800 ≤ ({ dieS { powered := true } with root := 10 } : State).root ∧
    ((s0 plain).dirOf 0).locked = false ∧ ((llcS { locked := true }).dirOf 0).locked = true ∧ (llcS { locked := true }).recallOpen 0 = false ∧
    (llcS { locked := true, host := 1 }).recallOpen 0 = true ∧ ((llcS { locked := true }).dirOf 0).error = false ∧
    ((llcS { locked := true }).slice (sliceOf (0 / 4))).input = [] ∧ (∀ c, c ∈ (llcS { locked := true }).cores → c.2.rels = []) := by decide +kernel
/-- A logical device of tenant 3 with frame 0; host memory from its window on. -/
def hostS : State := { s0 plain with lds := [(0, 5)], dieTen := [(0, 3)], frameTen := [(0, 3)], windows := [3 * 512 + 0, 3 * 512 + 256, 3 * 512 + 257 + 5] }
theorem witness_HostAndMappings : (s0 plain).bound 2 = false ∧ hostS.bound 0 = true ∧ hostS.hostMay 0 65536 = false ∧ (hostS.dirOf 0).locked = false ∧ (Cls.non ≠ .system) ∧ (hostS.dirOf 0).hown = true ∧
    (hostS.dirOf 0).host = 0 ∧ 2 ≤ (hostS.dirOf 0).htok ∧ cellsWf hostS.mem = true ∧ (hostS.slice (sliceOf 0)).find 0 = none ∧
    (∀ e, e ∈ (hostS.slice (sliceOf 0)).wb → e.line ≠ 0) ∧ (∀ y : Nat × Byte, y ∈ [((63 : Nat), (1 : Byte))] → y.1 / 64 = 0 / 64 % 4 ∧ y.1 < 256) ∧
    ((llcS { host := 2, htok := 0 }).dirOf 0).host = 2 ∧ ((llcS { host := 2, htok := 0 }).slice (sliceOf (0 / 4))).input = [] ∧
    (∀ c, c ∈ (llcS { host := 2 }).cores → c.2.rels = []) ∧ hostS.preqs = [] ∧ (brVbase poolRec + 0) / 65536 = 65535 / 65536 ∧
    (brVbase poolRec + 0) / 65536 ≠ 65536 / 65536 := by decide +kernel

/-- A core with 127 responders waiting and one tile of the key; one reply owed, the last one, none; a moved tile. -/
def keyS : State := { s0 plain with
  cores := [(0, { tiles := [(127, tile0)], spawns := List.replicate 127 ⟨0, 126, tile0, false⟩ }), (3, { tiles := [(0, tile0)] })]
  censuses := [(0, cen0), (1, { cen0 with unheard := [] }), (2, { cen0 with unheard := [], owed := [], cmb := 5, replies := [(255, 127, some 1)] })] }
def tmove0 : TMove := { fut := ⟨1, 0, 1⟩, core := 0, entry := 127, dcore := 3, dentry := 0, dbuf := rec3, dnum := 0, dpos := 2 ^ 47 - 1, waits := [] }
def moveT : State := { keyS with
  cores := [(0, { tiles := [(127, tile0)], copies := (List.range 15).map fun k => (k, halted) }), (3, { tiles := [(0, tile0)] })]
  tmoves := [(0, tmove0)] }
def manyCensuses : State := { s0 plain with censuses := List.replicate 4095 (0, cen0) }
theorem witness_CensusSteps : openTo keyS 0 ∧ Tab.look keyS.censuses 0 = some cen0 ∧
    (keyS.core 0).spawns.length + ((keyS.core 0).tiles.filter fun y => (y.2.st == .present || y.2.st == .departing) && y.2.key == cen0.key &&
      y.2.ten == cen0.ten).length = 128 ∧ (∀ y, y ∈ (keyS.core 0).tiles → y.2.orphan = false ∧ keyS.groupEnded y.2.nid y.2.grp = false) ∧
    manyCensuses.censuses.length < 4096 ∧ Tab.look (keyS.core 0).tiles 127 = some tile0 ∧ Tab.look moveT.tmoves 0 = some tmove0 ∧
    Tab.lowestFree (moveT.core tmove0.core).copies 16 = some 15 ∧ Tab.look (moveT.core tmove0.core).tiles tmove0.entry = some tile0 ∧
    tile0.len * 256 < 2 ^ 32 ∧ tile0.tpos < 2 ^ 47 ∧ tmove0.dpos < 2 ^ 47 ∧ tmove0.core ≠ tmove0.dcore ∧
    Tab.look (moveT.core tmove0.dcore).tiles tmove0.dentry = some tile0 ∧ moveT.groupEnded tile0.nid tile0.grp = false :=
  ⟨⟨by decide +kernel, by decide +kernel, fun _ h => absurd h List.not_mem_nil⟩, by decide +kernel, by decide +kernel, by decide +kernel,
    by decide +kernel, by decide +kernel, by decide +kernel, by decide +kernel, by decide +kernel, by decide, by decide, by decide +kernel, by decide,
    by decide +kernel, by decide +kernel⟩
theorem witness_CensusSteps_replies : keyS.tmoves = [] ∧ (0, 1) ∉ cen0.owed ∧ (0, 0) ∈ cen0.owed ∧ cen0.unheard ≠ [] ∧
    Tab.look keyS.censuses 1 = some { cen0 with unheard := [] } ∧ (cen0.owed.filter fun y => y != (0, 0)) = [] ∧
    Tab.look keyS.censuses 2 = some { cen0 with unheard := [], owed := [], cmb := 5, replies := [(255, 127, some 1)] } ∧ cen0.cancelled = false ∧
    keyS.censusWait = [] ∧ (∀ y, y ∈ ([(255, 127, some 1)] : List (Nat × Nat × Option W64)) → y.1 < 256 ∧ y.2.1 < 128) := by decide +kernel

/-- Object 0xFFFE. -/
def objT (o : Obj) : State := { s0 plain with objs := [(0xFFFE, o)] }
def fut1 : FutAt := ⟨1, 0, 1⟩
theorem witness_ObjectAndMailSteps : ((objT { md := 1, count := 1, holder := some 1 }).obj 0xFFFE).holder = some fut1.wid ∧
    ((objT { md := 2, expected := 1 }).obj 0xFFFE).expected ≤ ((objT { md := 2, expected := 1 }).obj 0xFFFE).count + 1 ∧
    ((objT { md := 2, expected := 2 }).obj 0xFFFE).count + 1 < ((objT { md := 2, expected := 2 }).obj 0xFFFE).expected ∧
    ((objT { md := 1 }).obj 0xFFFE).count = 0 ∧ ((objT { md := 1 }).obj 0xFFFE).waiters = [] ∧ (objT { md := 1 }).placeOf fut1.wid = some ⟨0, 0⟩ ∧
    ((objT { md := 1, count := 1 }).obj 0xFFFE).count ≠ 0 ∧ ((objT { md := 2, phase := 0xFFFF }).obj 0xFFFE).phase ≠ 0 ∧
    Tab.get ((objT { md := 2, phase := 0xFFFF }).obj 0xFFFE).rels 0xFFFF fut1.wid = ((objT { md := 2, phase := 0xFFFF }).obj 0xFFFE).phase ∧
    ((objT { md := 3 }).obj 0xFFFE).md = 3 ∧ ((objT { md := 3 }).obj 0xFFFE).phase = 0 ∧
    ((objT { md := 1, waiters := [(fut1, none)] }).obj 0xFFFE).waiters = (fut1, none) :: [] ∧
    (objT { md := 1, waiters := [(fut1, none)] }).gone fut1.wid = false ∧
    ((objT { md := 2, phase := 1, waiters := [(fut1, some 0)] }).obj 0xFFFE).waiters = [(fut1, some 0)] ∧ (0 : BitVec 16) ≠ 1 ∧
    ((objT { md := 3, ten := some 63 }).obj 0xFFFE).ten = some 63 ∧ ((objT { md := 3, ten := some 63 }).obj 0xFFFE).ten ≠ some 62 := by decide +kernel
/-- The one member of the node has arrived at the barrier of its cluster. -/
def barrier : State := { s0 plain with gbars := [(mailKey 0 (groupKey 254 0 0), ⟨0, [(0, fut1)]⟩)] }
theorem witness_ObjectAndMailSteps_barrier : barrier.node? 0 = some placedNode ∧
    (Tab.get barrier.gbars {} (mailKey 0 (groupKey 254 0 0))).arrived ≠ [] ∧
    (∀ i, i ∈ placedNode.keyed (groupKey 254 0 0) → i ∈ placedNode.gone ∨ ∃ f, (i, f) ∈ (Tab.get barrier.gbars {} (mailKey 0 (groupKey 254 0 0))).arrived) ∧
    placedNode.groupScope (groupKey 254 0 0) = .cl :=
  ⟨by decide +kernel, by decide +kernel, fun i hi => Or.inr ⟨fut1, by
    have : i = 0 := by simpa [show placedNode.keyed (groupKey 254 0 0) = [0] by decide +kernel] using hi
    subst this; decide +kernel⟩, by decide +kernel⟩
/-- A message of the warp to itself; the receives that want it and that do not; queues of 255 and 256 messages. -/
def msg0 : MsgRec := { sender := some fut1, sdev := 0, ddev := 0, nid := 0, ddie := 0, dclus := 0, dwarp := 0, snid := 0, sdie := 0, sclus := 0, swarp := 0, tag := 9, payload := [1, 2, 3], since := none }
def recv0 (tag : BitVec 32) : RecvRec := { fut := fut1, nid := 0, die := 0, clus := 0, warp := 0, anySrc := true, sdev := 0, sdie := 0, sclus := 0, swarp := 0, anyTag := false, tag := tag, core := 0, at_ := [65534, 65535] }
def mailS (m : Mail) : State := { s0 plain with mails := [(1024, m)], root := 2 ^ 20 }
theorem witness_ObjectAndMailSteps_mail : (mailS {}).hasWarp msg0 = true ∧ (mailS {}).hasWarp { msg0 with dwarp := 1 } = false ∧
    (mailS {}).mailOf msg0.nid msg0.ddie msg0.dclus msg0.dwarp = 1024 ∧ (mailS {}).mailAway 1024 = false ∧ ((mailS {}).mail 1024).waiting = [] ∧
    ((mailS { posts := [recv0 8, recv0 9] }).mail 1024).posts = [recv0 8] ++ recv0 9 :: [] ∧ wants (recv0 9) msg0 = true ∧ wants (recv0 8) msg0 = false ∧
    [recv0 8, recv0 9].Nodup ∧ ((mailS { queue := List.replicate 255 msg0 }).mail 1024).queue.length < 256 ∧
    256 ≤ ((mailS { queue := List.replicate 256 msg0 }).mail 1024).queue.length ∧ msg0.since = none ∧
    ((mailS { queue := [msg0, { msg0 with tag := 8 }] }).mail 1024).queue = [msg0] ++ { msg0 with tag := 8 } :: [] ∧
    wants (recv0 8) { msg0 with tag := 8 } = true ∧ ((mailS { waiting := [{ msg0 with since := some 0 }] }).mail 1024).waiting = [{ msg0 with since := some 0 }] ∧
    0 + 2 ^ 20 ≤ (mailS {}).root ∧ (s0 plain).root < 0 + 2 ^ 20 ∧ ((mailS {}).warps.map Prod.fst).Nodup := by decide +kernel

/-- Queue 63 of tenant 0, whose ring entry 255 holds a record: a node of one warp, its program and argument block in the page of its space. -/
def raw0 (regs : Nat) : BitVec 512 := BitVec.ofNat 512
  (1 + 1 * 2 ^ 5 + 1 * 2 ^ 8 + regs * 2 ^ 15 + 63 * 2 ^ 48 + 0x108 * 2 ^ 96 + 0x110 * 2 ^ 192 + 0x100 * 2 ^ 240 + 5 * 2 ^ 480)
def accepts (regs : Nat) : State :=
  let s := State.reset.withFetchWord 256 0
  { s with
    mem := writeCells s.mem [(0x10841, 8)], dieTen := [(15, 0)], nextQueue := 63
    queues := [(63, { ten := some 0, root := 0x20000, levels := 1, ring := [(255, { raw := raw0 regs })], tail := 0, head := 255, take := 255 })] }
def acceptsNext (regs : Nat) : State := { accepts regs with
  nextQueue := 0
  queues := Tab.put (accepts regs).queues 63 { (accepts regs).queue 63 with
    take := 0, hostLast := true, ring := [(255, { raw := raw0 regs, taken := true })] } }
theorem witness_QueueSteps : (accepts 8).poolSize < 4096 ∧ (accepts 8).nextQueueNo = some 63 ∧ ((accepts 8).queue 63).take ≠ ((accepts 8).queue 63).tail ∧
    ((accepts 8).queue 63).device = [] ∧
    (acceptsNext 8).refuses 63 0 (raw0 8) true false false ((accepts 8).readTables 0 0x20000 1 (raw0 8)) = none ∧
    (acceptsNext 12).refuses 63 0 (raw0 12) true false false ((accepts 12).readTables 0 0x20000 1 (raw0 12)) = some (2, 0) ∧
    (s0 plain).nextQueueNo = none := by decide +kernel
theorem witness_QueueSteps_tables (regs : Nat) :
    (acceptsNext regs).readTables 0 0x20000 1 (raw0 regs) = (accepts regs).readTables 0 0x20000 1 (raw0 regs) := rfl
/-- Queue 63, of the tenant of logical device 15's die; its tail can go on and back. -/
def window : State := { s0 plain with lds := [(14, 0), (15, 0)], dieTen := [(15, 7)], queues := [(63, { ten := some 7, head := 250, tail := 2, take := 250 })] }
theorem witness_QueueSteps_tail : window.bound 15 = true ∧ window.bound 14 = true ∧ window.bound 13 = false ∧ ((255 : BitVec 8) - (window.queue 63).head).toNat < ((window.queue 63).tail - (window.queue 63).head).toNat ∧
    ((window.queue 63).tail - (window.queue 63).head).toNat ≤ ((2 : BitVec 8) - (window.queue 63).head).toNat ∧ (window.queue 63).ten ≠ none ∧
    window.ldTenant 15 = (window.queue 63).ten ∧ (window.queue 62).ten = none ∧ window.ldTenant 14 ≠ (window.queue 63).ten ∧ 0x3FF8 < 0x4000 ∧
    ((window.queue 63).tail - (window.queue 63).head).toNat ≤ (((249#64).setWidth 8 : BitVec 8) - (window.queue 63).head).toNat := by decide +kernel
/-- Nodes launched by a warp: all of its one warp gone; not yet; held. -/
def nodeS (n : Node) : State := { s0 plain with nodes := [n] }
def child : Node := { placedNode with nid := 3, fut := some fut1, gone := [0] }
theorem witness_QueueSteps_ends : (nodeS child).node? 3 = some child ∧ child.fut = some fut1 ∧ child.entry = none ∧ child.exits = 0 ∧ child.places ≠ [] ∧
    (∀ i, i ∈ child.all → i ∈ child.gone) ∧ ({ child with exits := 1 } : Node).exits ≠ 0 ∧ (nodeS { child with st := .held }).node? 3 = some { child with st := .held } ∧
    child.prepAt = none ∧ child.st ≠ .held := by decide +kernel

/-- A node that waits in the pool, on a package with one die powered. -/
def pooledNode : Node := { placedNode with st := .pool, places := [], segs := [poolRec], args := [5] }
def placing (n : Node) : State := { State.reset with
  controlDie := true, nodes := [n], dieTen := [(15, 0)], dies := [(15, { powered := true })] }
theorem witness_SchedulingSteps : State.reset.controlDie = false ∧ (placing pooledNode).controlDie = true ∧ (placing pooledNode).candidates = [pooledNode] ∧
    (placing pooledNode).node? pooledNode.nid = some pooledNode ∧ (placing pooledNode).findPlace pooledNode [] [] = some [60] ∧
    (placing pooledNode).wasSaved pooledNode.nid = false ∧ pooledNode.W = 1 ∧ ((placing pooledNode).die (60 / 4)).dead = false ∧
    ((placing pooledNode).core (60 * 4)).fenced = false ∧ (placing pooledNode).warp? ⟨60 * 4, 0⟩ = none := by decide +kernel
/-- A warp whose pre-emption has a limit in the past; one that has yielded; a group that has been saved. -/
def late0 : Warp := { warp plain with preLimit := some 0 }
def yielded0 : Warp := { warp plain with preLimit := some 9, yielded := true, handler := some ⟨⟨.preempt, 0x30, 0, 0x10020⟩, plain⟩ }
def warpS (w : Warp) : State := { s0 plain with warps := [(0, w)] }
def saved0 : Saved := { nid := 0, grp := 0, warps := [(⟨0, 0⟩, { yielded0 with handler := some ⟨⟨.preempt, 0x30, 0, 0x10020⟩, plain⟩ })], bars := [], rings := [], arrived := [], tasks := [] }
def resumes : State := { s0 plain with warps := [], saved := [{ saved0 with grp := groupKey 252 0 0 }] }
theorem witness_SchedulingSteps_preemption : (s0 plain).node? 0 = some placedNode ∧ ((s0 plain).warps.map Prod.fst).Nodup ∧
    (warp plain).nid = 0 ∧ (s0 plain).homeKey (warp plain) = groupKey 252 0 0 ∧ (warp plain).preLimit = none ∧ (warp plain).handler = none ∧
    (warp plain).entering = none ∧ (warpS late0).warp? ⟨0, 0⟩ = some late0 ∧ late0.yielded = false ∧ 0 ≤ (warpS late0).lcycOf 0 ∧
    (warpS yielded0).ofGroup 0 (groupKey 252 0 0) = [(⟨0, 0⟩, yielded0)] ∧ (warpS yielded0).warp? ⟨0, 0⟩ = some yielded0 ∧ yielded0.yielded = true ∧
    ((warpS yielded0).core 0).copies = [] ∧ ((warpS yielded0).core 0).tagWaits = [] ∧ (warpS yielded0).clusters = [] ∧ (warpS yielded0).cores = [] := by
  decide +kernel
theorem witness_SchedulingSteps_resume : resumes.node? 0 = some placedNode ∧ placedNode.st = .running ∧
    resumes.saved = [{ saved0 with grp := groupKey 252 0 0 }] ∧ yielded0.nid = 0 ∧
    yielded0.handler = some ⟨⟨.preempt, 0x30, 0, 0x10020⟩, plain⟩ ∧ resumes.cores = [] ∧ (resumes.mail (mailKey 0 (groupKey 252 0 0))).waiting = [] ∧
    resumes.newCore placedNode { saved0 with grp := groupKey 252 0 0 } 0 = 0 ∧ resumes.warp? ⟨0, 0⟩ = none ∧
    (∀ g, g ∈ (s0 plain).saved → g.nid ≠ 0) := by decide +kernel
/-- Node records with a gang number. -/
def gangRaw : BitVec 512 := placedNode.raw ||| BitVec.ofNat 512 (0xFFFF * 2 ^ 80)
theorem witness_SchedulingSteps_gang : (nodeS { placedNode with raw := gangRaw }).nodes = [{ placedNode with raw := gangRaw }] ∧
    lrGang gangRaw = 0xFFFF ∧ placedNode.st = .running ∧ (nodeS { placedNode with raw := gangRaw }).saved = [] ∧
    (∀ x, x ∈ (nodeS { placedNode with raw := gangRaw }).live → x.2.preLimit = none) ∧
    (nodeS { placedNode with raw := gangRaw }).warp? ⟨0, 0⟩ = some (warp plain) := by decide +kernel

/-- A gang's held record, one with a prepare that has come, one prepared; the coordinator's. -/
def heldN : Node := { pooledNode with raw := gangRaw, st := .held }
def gangS (n : Node) (g : Gang) : State := { placing n with gangs := [(0xFFFF, g)], root := 2 ^ 24 }
theorem witness_GangAndPeerSteps : (∀ n, n ∈ (s0 plain).nodes → lrGang n.raw ≠ 9 ∨ n.st ≠ .held) ∧ (gangS heldN {}).nodes = [heldN] ∧
    lrGang heldN.raw = 0xFFFF ∧ heldN.leads = false ∧ ((gangS heldN {}).gang 0xFFFF).coord ≠ some heldN.nid ∧ (gangS heldN {}).controlDie = true ∧
    heldN.preds = [] ∧ State.findPlace { gangS heldN {} with nodes := [{ heldN with prepAt := some (2 ^ 24) }] } heldN [] [] = some [60] ∧
    (gangS { heldN with st := .prepared } {}).gangNode 0xFFFF = some { heldN with st := .prepared } ∧
    ((gangS { heldN with st := .prepared } { coord := some 0, since := some 0 }).gang 0xFFFF).coord = some heldN.nid ∧
    ((gangS heldN { coord := some 0, since := some 0 }).gang 0xFFFF).since = some 0 ∧
    ((gangS heldN { coord := some 0, since := some 0 }).gang 0xFFFF).committed = false ∧ (gangS heldN {}).node? heldN.nid = some heldN ∧
    0 + 2 ^ 24 ≤ (gangS heldN {}).root ∧ (placing heldN).root < 0 + 2 ^ 24 ∧ (gangS { heldN with prepAt := some 0 } {}).nodes = [{ heldN with prepAt := some 0 }] := by
  decide +kernel
/-- Peers: heard of at 0, dead, one that a send awaits; a message from a peer to the one warp of the tagged node. -/
def peerS : State := { s0 plain with root := 2 ^ 22, beats := [(7, 0)], deadPeers := [9], peerSends := [(7, fut1)], windows := [7] }
def word0 : HomeReq := { home0 with agent := .host, line := 0, atom := some (248, true, .add, [⟨0, 1, 0⟩]) }
theorem witness_GangAndPeerSteps_peers : (s0 plain).nextBeat ≤ (s0 plain).root ∧ ({ s0 plain with nextBeat := 1 } : State).root < 1 ∧ 7 ∉ peerS.deadPeers ∧
    9 ∈ peerS.deadPeers ∧ Tab.look peerS.beats 7 = some 0 ∧ peerS.gangs = [] ∧ peerS.peerSends = [(7, fut1)] ∧ 0 + 2 ^ 22 ≤ peerS.root ∧
    ({ peerS with root := 5 } : State).root < 0 + 2 ^ 22 ∧ placedNode.tag = 1 ∧ peerS.isPeer placedNode.ten 7 = true ∧
    peerS.hasWarp { msg0 with sender := none, sdev := 7 } = true ∧ peerS.mailAway 1024 = false ∧ (peerS.mail 1024).posts = [] ∧ (peerS.mail 1024).queue.length < 256 ∧
    word0.line * 256 < Config.dramEnd ∧ (s0 plain).mustWait 3 word0 = false ∧ 248 + (if true then 8 else 4) ≤ 256 ∧ (s0 plain).MemWf := by
  unfold State.MemWf; decide +kernel
theorem witness_GangAndPeerSteps_memory : atMemory (s0 plain) word0.line := by
  unfold atMemory; decide +kernel

/-- Bindings, windows and frames; a logical device bound to host 4 with the tenant's authorisation. -/
def firmS : State := { s0 plain with
  dieTen := [(15, 7)], windows := [64 * 512 + 257 + 255, 7 * 512 + 257 + 255], lds := [(2, 5)], frameTen := [(1, 3)]
  fab := [(17, .up true [3, 4] false)], dies := [(15, { powered := true, debugHold := true, failures := 1 })] }
def fenceF (bad : List Nat) : State := { s0 plain with fab := [(17, .up false bad false)] }
theorem witness_FirmwareSteps : 64 * 512 + 257 + 255 ∈ firmS.windows ∧ firmS.ldTenant 15 = some 7 ∧ 7 * 512 + 257 + 255 ∈ firmS.windows ∧
    ¬ (64 * 512 + 257 + 254 ∈ firmS.windows) ∧ (∀ f, f ∈ firmS.flight ∨ f ∈ firmS.parked → through 2 f = false) ∧ 17 < 18 ∧
    firmS.fab = [(17, .up true [3, 4] false)] ∧ (fenceF []).fab = [(17, .up false [] false)] ∧ (fenceF [7]).fab = [(17, .up false [7] false)] ∧
    (∃ k, k ∈ ([3, 4] : List Nat) ∧ k < 4) ∧ (∃ k, k ∈ ([3, 4] : List Nat) ∧ 4 ≤ k) ∧ 0xFFFE < 0xFFFF ∧ Tab.look firmS.frameTen 1 = some 3 ∧ 3 % 64 ≠ 5 ∧
    (∀ y, y ∈ firmS.dir → y.1 / 1024 ≠ 1) ∧ Tab.look firmS.frameTen 2 = none ∧ ((s0 plain).warps.map Prod.fst).Nodup ∧ 7 ∉ ([3, 4] : List Nat) ∧
    firmS.poolMapped 63 = false ∧ 12 ≤ 12 ∧ (400 ≤ 800 ∧ 800 ≤ 800 ∧ 800 % 50 = 0) ∧ ¬ (400 ≤ 410 ∧ 410 ≤ 800 ∧ 410 % 50 = 0) ∧ 36 < 37 ∧
    ((firmS.die 15).powered = true ∧ (firmS.die 15).dead = false) ∧ (firmS.die 15).debugHold = true ∧ (firmS.die 14).debugHold = false ∧
    (firmS.die 14).powered = false ∧ (firmS.slice 63).lines = [] :=
  ⟨by decide, by decide, by decide, by decide, fun _ h => h.elim (fun h => absurd h List.not_mem_nil) (fun h => absurd h List.not_mem_nil), by decide, rfl,
    rfl, rfl, ⟨3, by decide, by decide⟩, ⟨4, by decide, by decide⟩, by decide, rfl, by decide, fun _ h => absurd h List.not_mem_nil, rfl, by decide,
    by decide, by decide +kernel, by decide, by decide, by decide, by decide, by decide, rfl, rfl, rfl, rfl⟩
theorem witness_FirmwareSteps_limits : (s0 plain).LimitsWf := by
  refine ⟨rfl, fun i => ?_⟩
  by_cases h : i < 37
  · exact (by decide +kernel : ∀ i, i < 37 → (s0 plain).limits.getD i 0 ≤ Config.islandFigure i) i h
  · rw [List.getD_eq_getElem?_getD, List.getElem?_eq_none (Nat.le_of_not_lt h)]; exact Nat.zero_le _

/-- An image without data. -/
def part0 : SignedPart := ⟨[], 10, []⟩
def image0 : Image := ⟨[], part0, part0, part0, [], []⟩
theorem witness_PowerSteps : Tab.look firmS.dieTen 15 = some 7 ∧ (firmS.die 14).powered = false ∧ (firmS.die 15).dead = false ∧ (firmS.die 15).failures ≠ 0 ∧
    ((s0 plain).die 0).failures = 0 ∧ State.reset.bringUp + 1 ≠ 2 ∧ State.reset.upFailed = none ∧ State.reset.bringUp = 0 ∧
    ({ State.reset with bringUp := 2, image := some image0 } : State).image ≠ none ∧ State.reset.image = none ∧
    ({ State.reset with bringUp := 5 } : State).bringUp = 5 ∧ 3 ≤ ({ State.reset with bringUp := 6, image := some image0 } : State).bringUp := by decide +kernel

/-! Clauses of several cases: a state for each. -/

/-- A loop token over a bundle of the program; over address 0. -/
def loops (head : BitVec 51) : Ctx := { plain with toks := [⟨2, head, 0xFF, 0xF0, 0⟩] }
theorem witness_Regions_while : (loops 0x801).toks = ⟨2, 0x801, 0xFF, 0xF0, 0⟩ :: [] ∧
    ((loops 0x801).mask ||| 0) &&& cond (loops 0x801) 0 false ≠ 0 ∧ ((loops 0x801).mask ||| 0) &&& cond (loops 0x801) 1 false = 0 ∧
    mayGo (s0 (loops 0x801)) (warp (loops 0x801)) 0x10020 ∧ ((0x801#51 ++ 0#5 : BitVec 56).setWidth 64 : W64) = 0x10020 ∧
    ¬ mayGo (s0 (loops 0)) (warp (loops 0)) 0 ∧ mayGo (s0 calls) (warp calls) (0x10000 + 32 * ((1#8).setWidth 64 + 1)) := by
  simp only [mayGo_iff]; decide +kernel
/-- Warps held at barrier 47 by its phase, and by the one before. -/
def heldAt (q : BitVec 16) : State :=
  { s0 plain with warps := [(0, warp { plain with hold := some (.bar 47 q) })], cores := [(0, { bars := [(47, { phase := 1, exp := 1, own := some 0 })] })] }
theorem witness_NamedBarriers_held : (heldAt 1).liveIn 0 = [(⟨0, 0⟩, warp { plain with hold := some (.bar 47 1) })] ∧
    (heldAt 0).liveIn 0 = [(⟨0, 0⟩, warp { plain with hold := some (.bar 47 0) })] ∧ (((heldAt 1).core 0).bar 47).phase = 1 ∧
    (((heldAt 0).core 0).bar 47).phase ≠ 0 := by decide +kernel
theorem witness_SramAndRegisterPools_gives : 0 < ({ warp plain with giving := 248 } : Warp).giving ∧ 248 ≤ (warp plain).regs ∧ (warp plain).regs ≤ 256 := by
  decide
/-- A receive from any sender. -/
def anyX : Ctx := oper .ms 0x8000000000000000 0x1FFFFFFFF 4096 0
theorem witness_MessagesLeave : msgS.node? (warp msgX).nid = some placedNode ∧ (∃ e, e < 64 ∧ Tab.look (warp msgX).ctx.futs e = none) ∧
    Engine msgS (warp msgX) (mt 0).mv 0 0 ∧ Engine (memC anyX []) (warp anyX) (mv 0) 0 0 ∧ msgS.storesLanded 0 1 = true ∧
    (opc (warp msgX) .ms).toNat = 4096 ∧
    msgS.pinnedBad (msgS.mapping 0) 0 (msgS.tenOf 0) ((msgS.core 0).segs.getD 0 0) 0 4096 none = none ∧
    ((opa (warp msgX) .ms).toNat < 2 ^ 12 ∧ (opa (warp msgX) .ms).toNat / 256 < lrD placedNode.raw ∧
      (opa (warp msgX) .ms).toNat / 64 % 4 < lrC placedNode.raw ∧ (opa (warp msgX) .ms).toNat % 64 < lrW placedNode.raw) ∧
    (opb (warp msgX) .ms).toNat < 2 ^ 32 ∧ (opa (warp anyX) .ms).toNat / 2 ^ 56 = 128 ∧ (opb (warp anyX) .ms).toNat < 2 ^ 33 ∧
    (msgS.cluster 0).posts < 64 :=
  ⟨by decide +kernel, ⟨63, by decide, rfl⟩, engine_imm 0 rfl rfl, engine_imm 0 rfl rfl, by decide +kernel, by decide +kernel, by decide +kernel,
    by decide +kernel, by decide +kernel, by decide +kernel, by decide +kernel, by decide +kernel⟩
/-- A spawn that has not been admitted, alone in its queue: it starts at once; it waits for a debug hold. -/
def fresh0 : State := { s0 plain with cores := [(0, { spawns := [⟨0, 0, tile0, false⟩] })], censuses := [(0, cen0)] }
theorem witness_ClusterSteps_admission : (fresh0.core 0).spawns.filter (fun y => !y.ready) = [⟨0, 0, tile0, false⟩] ∧
    fresh0.spawnMay 0 ⟨0, 0, tile0, false⟩ = true ∧
    (∀ x, x ∈ (({ fresh0 with dies := [(0, { debugHold := true })] } : State).core 0).spawns → x.ready = false →
      ({ fresh0 with dies := [(0, { debugHold := true })] } : State).spawnMay 0 x = false) := by decide +kernel
/-- The chunk of a copy between places of core SRAM reads no line of memory. -/
theorem witness_CopySteps_translates : (copying true).lost = [] ∧ coherentOf ((copyS0 (copying true)).chunkPlaces 0 (copying true) 0) = [] ∧
    (∃ s1, (copyS0 (copying true)).reachAll (linesOf ((copyS0 (copying true)).chunkPlaces 0 (copying true) 0)) = some s1) ∧
    (copyS0 (copying true)).gone (copying true).fut.wid = false ∧ (copying true).staged.length < 31 :=
  have e : linesOf ((copyS0 (copying true)).chunkPlaces 0 (copying true) 0) = [] := by decide +kernel
  ⟨rfl, by decide +kernel, ⟨_, by rw [e]; rfl⟩, by decide +kernel, by decide⟩
/-- A coherent line does not answer an uncached read. -/
theorem witness_HomeRequests_refusal : ServedAtOnce (llcS {}) 5 dev0 0 15 (line0 0) ∧ dev0.cls ≠ .non :=
  ⟨served 5 _ _ ⟨rfl, rfl, rfl, rfl⟩ (by decide +kernel), by decide⟩
theorem witness_TokensAndFills_errors : badSect { own := true } ∧ badSect { tok := 513 } ∧ ¬ badSect { own := true, tok := 512 } ∧ ¬ badSect { tok := 0 } ∧
    (l1S { own := true } 15).answers 240 = true ∧ ((l1S { own := true } 15).core 240).sect 0 = some { own := true } ∧
    freshAt (s0 plain) 0 0 0 ∧ ((s0 plain).dirOf 0).barred = false ∧ Tab.look ((l1S { tok := 1 } 15).core 240).l1 0 =
      some ⟨0, .device, .normal, [{ tok := 1 }, {}, {}, {}], List.replicate 256 0, false⟩ := by
  refine ⟨by simp [badSect], by simp [badSect], by simp [badSect], by simp [badSect], by decide +kernel, by decide +kernel, fun _ => by decide +kernel,
    by decide +kernel, by decide +kernel⟩
/-- Recalls of a sector in error: all its tokens have come; one is missing; one too many has come. -/
def recalled (d : DirEntry) : State := llcS { d with locked := true, error := true }
theorem witness_TimeAndLeases_errors : ((recalled {}).dirOf 0).locked = true ∧ (recalled {}).recallOpen 0 = false ∧ ((recalled {}).dirOf 0).error = true ∧
    ((recalled {}).slice (sliceOf (0 / 4))).input = [] ∧ (∀ c, c ∈ (recalled {}).cores → c.2.rels = []) ∧
    (((recalled {}).dirOf 0).htok = 512 ∧ ((recalled {}).dirOf 0).hown = true ∧ ((recalled {}).dirOf 0).extra = false) ∧
    ((recalled { htok := 511 }).dirOf 0).htok ≠ 512 ∧ ((recalled { extra := true }).dirOf 0).extra = true := by decide +kernel
/-- The host's accesses: to a line of memory in a set without a way to allocate; to a line that stands. -/
def pinnedS : State := { hostS with slices := [(sliceOf 0, { ways := 12, fencedWays := [0, 1, 2, 3] })] }
def standsS : State := { hostS with slices := (llcS {}).slices }
theorem stands_host : Stands standsS 0 15 (line0 0) := ⟨fun _ he => absurd he List.not_mem_nil, rfl, ⟨rfl, rfl, rfl, by decide +kernel⟩, rfl⟩
theorem witness_HostAndMappings_lines : pinnedS.hostMay 0 0 = true ∧ atMemory pinnedS 0 ∧ pinnedS.MemWf ∧
    (∀ e, e ∈ (pinnedS.slice (sliceOf 0)).input → e.req.line ≠ 0) ∧ (pinnedS.slice (sliceOf 0)).allocatable = [] ∧
    (∃ s1, pinnedS.reachAll [(0, .non, false, 0)] = some s1 ∧ (s1.dirOf 0).barred = false) ∧ standsS.hostMay 0 0 = true ∧ Stands standsS 0 15 (line0 0) ∧
    (standsS.dirOf 0).barred = false ∧ ((llcS { host := 2 }).dirOf 0).error = false :=
  ⟨by decide +kernel, by unfold atMemory; decide +kernel, by unfold State.MemWf; decide +kernel, by decide +kernel, by decide +kernel,
    ⟨pinnedS, rfl, by decide +kernel⟩, by decide +kernel, stands_host, by decide +kernel, by decide +kernel⟩
def preq0 (sent : Bool) : Preq := { fut := fut1, core := 0, ten := 0, record := poolRec, at_ := [0], sent := sent }
theorem witness_HostAndMappings_preqs : ({ s0 plain with preqs := [preq0 true] } : State).preqs = [preq0 true] ∧ (preq0 true).sent = true ∧
    (preq0 false).sent = false ∧ (∃ q, q ∈ (preq0 false).at_ ∧ (brVbase poolRec + q) / 65536 = 65535 / 65536) ∧
    ∀ q, q ∈ (preq0 false).at_ → (brVbase poolRec + q) / 65536 ≠ 65536 / 65536 := by
  refine ⟨rfl, rfl, rfl, ⟨0, List.mem_singleton.mpr rfl, by decide +kernel⟩, fun q hq => ?_⟩
  rw [List.mem_singleton.mp hq]; decide +kernel
/-- The warp has gone; it lives; its receive has been asked to end. -/
theorem witness_ObjectAndMailSteps_warps : (s0 plain).gone 1 = false ∧ (s0 plain).gone 9 = true ∧ (s0 plain).placeOf 1 = some ⟨0, 0⟩ ∧
    (∀ y, y ∈ (Tab.get barrier.gbars {} (mailKey 0 (groupKey 254 0 0))).arrived → barrier.gone y.2.wid = false) ∧
    ((s0 plain).findWid fut1.wid).isSome = true ∧ (recv0 9).cancel = false ∧ (0xFFFE < 0xFFFF) ∧
    ((objT { md := 3, phase := 0xFFFF }).obj 0xFFFE).phase ≠ 0 ∧ 1 ≤ ((objT { md := 3, count := 1 }).obj 0xFFFE).count := by decide +kernel
/-- A record that a warp launched under a malformed reference; the walks of a readable space meet no refusal. -/
def dev1 : DevRec := { raw := raw0 8, fut := fut1, ten := 0, gang := false, bad := true }
def devS : State := { accepts 8 with queues := [(63, { (accepts 8).queue 63 with tail := 255, device := [dev1] })] }
theorem witness_QueueSteps_device : (accepts 8).walksOf 0 0x20000 1 (raw0 8) = [] ∧ devS.poolSize < 4096 ∧ devS.nextQueueNo = some 63 ∧
    (devS.queue 63).device = [dev1] ∧ (devS.queue 63).waiting = [] ∧ (devS.queue 63).take = (devS.queue 63).tail ∧ dev1.bad = true ∧ 1 ≤ lrD dev1.raw ∧
    lrD dev1.raw ≤ 16 ∧ 1 ≤ lrC dev1.raw ∧ lrC dev1.raw ≤ 4 ∧ 1 ≤ lrW dev1.raw ∧ lrW dev1.raw ≤ 64 ∧
    devS.walksOf dev1.ten (devS.queue 63).root (devS.queue 63).levels dev1.raw = [] := by decide +kernel
theorem witness_QueueSteps_responders : noResponders (nodeS child) 3 ∧ child.ended = false ∧
    ∃ a w, (a, w) ∈ ({ nodeS child with warps := [(0, { responds with nid := 3 })] } : State).live ∧ w.nid = 3 ∧ w.responder ≠ none :=
  ⟨⟨fun a w h => by
      have : (a, w) = (⟨0, 0⟩, warp plain) := by simpa [show (nodeS child).live = [(⟨0, 0⟩, warp plain)] by decide +kernel] using h
      exact Or.inl (by rw [(Prod.mk.inj this).2]; decide), fun _ _ _ h => absurd h List.not_mem_nil⟩, rfl,
    ⟨⟨0, 0⟩, { responds with nid := 3 }, by decide +kernel, rfl, by decide⟩⟩
theorem witness_GangAndPeerSteps_ends : noResponders (gangS heldN { coord := some 0, since := some 0 }) heldN.nid ∧ placedNode.ended = false ∧
    (pinnedS.slice (sliceOf word0.line)).allocatable = [] ∧ atMemory pinnedS word0.line ∧ pinnedS.MemWf ∧ Stands standsS word0.line 15 (line0 0) ∧
    (∀ e, e ∈ (pinnedS.slice (sliceOf word0.line)).input → e.req.line ≠ word0.line) :=
  ⟨⟨fun _ _ h => absurd h List.not_mem_nil, fun _ _ _ h => absurd h List.not_mem_nil⟩, rfl, by decide +kernel, by unfold atMemory; decide +kernel,
    by unfold State.MemWf; decide +kernel, stands_host, by decide +kernel⟩
/-- Tenants that there are not; a way under test whose set has no waiter; a pool that keeps its size, one that is mapped. -/
def mappedS : State := { s0 plain with nodes := [{ placedNode with segs := [BitVec.ofNat 256 (2 ^ 63 + 2 * 2 ^ 171 + 63 * 2 ^ 173)] }] }
theorem witness_FirmwareSteps_bounds : 63 < 64 ∧ (64 ≤ 64 ∧ ∃ k r l, Assignment.die 3 (some 64) = .die k (some 64) ∨ Assignment.die 3 (some 64) = .queue k (some 64) r l ∨
      Assignment.die 3 (some 64) = .object k (some 64) ∨ Assignment.die 3 (some 64) = .frame k (some 64)) ∧
    (64 < 65 ∧ ∃ n on, Assignment.window 65 1 true = .window 65 n on) ∧ ((llcS {}).slice (sliceOf 0)).input = [] ∧
    (∀ k l, (k, l) ∈ ((llcS {}).slice (sliceOf 0)).lines → k % 16 = 15 → l.waiters = []) ∧ mappedS.poolMapped 63 = true ∧
    ((s0 plain).slice 63).ways = 0 ∧ (firmS.slice 63).ways ≠ 12 := by
  refine ⟨by decide, ⟨by decide, 3, 0, 0, .inl rfl⟩, ⟨by decide, 1, true, rfl⟩, rfl, fun k l h _ => ?_, by decide +kernel, rfl, by decide⟩
  have : (k, l) = (15, line0 0) := List.mem_singleton.mp h
  rw [(Prod.mk.inj this).2]; rfl
theorem witness_PowerSteps_fence : 3 ≤ ({ State.reset with bringUp := 6, image := some image0, controlFenced := true } : State).bringUp ∧
    ({ State.reset with bringUp := 6, image := some image0, controlFenced := true } : State).controlFenced = true ∧ State.reset.controlFenced = false := by decide +kernel

/-- A word that decodes; a bundle of kind 2, a reserved header bit, literals with a control operation; a slot that is not empty. -/
theorem witness_DecodedWellFormed : (∃ b, decodeBundle (alone 0x00C3100000) = .ok b ∧ b.moves ≠ []) ∧ 2 ≤ 2 ^ 255 / 2 ^ 254 % 4 ∧ 2 ^ 253 / 2 ^ 254 % 4 < 2 ∧
    2 ^ 253 / 2 ^ 246 % 2 ^ 8 ≠ 0 ∧ (2 ^ 254 + 2 ^ 244) / 2 ^ 254 % 4 = 1 ∧ (2 ^ 254 + 2 ^ 244) / 2 ^ 246 % 2 ^ 8 = 0 ∧
    (2 ^ 254 + 2 ^ 244) / 2 ^ 244 % 4 ≠ 0 ∧ 2 ^ 35 - 1 < 2 ^ 35 := ⟨⟨_, rfl, by decide⟩, by decide +kernel⟩
theorem witness_DecodeEncode : WellFormed (.send ⟨⟨⟨true, 7⟩, .sreg 63⟩, 255⟩) ∧ (Instr.send ⟨⟨⟨true, 7⟩, .sreg 63⟩, 255⟩).encodable = true :=
  ⟨by unfold WellFormed; decide, rfl⟩

/-- The turn of the placed warp, its context given, on a bundle: one move, two moves, `velse` alone, none, one of kind 2. -/
def turnW (x : Ctx) : Warp := { warp x with waiting := false }
def turn (x : Ctx) (w : Nat) : State :=
  let s := State.reset.withFetchWord 256 w
  { s with warps := [(0, turnW x)] }
theorem turn_of (x : Ctx) (w : Nat) (h : (turn x w).liveOn 0 = [(⟨0, 0⟩, turnW x)]) (hu : (turn x w).dieUp 0 = true)
    (hr : (turn x w).runs 0 = true ∧ (turn x w).standsStill 0 = false ∧ (turn x w).misses 0 = [])
    (hx : x.hold = none ∧ x.skip = none) : TurnOf (turn x w) 0 0 ⟨0, 0⟩ (turnW x) :=
  ⟨⟨rfl, rfl, rfl⟩, rfl, by decide, hu, fun _ => hr, ⟨rfl, by decide⟩, h, ⟨rfl, rfl, rfl, hx.1, rfl, hx.2⟩, ⟨rfl, fun _ => rfl⟩, Nat.zero_le _⟩
/-- The verdict of an instruction in a slot of the warp's bundle. -/
def verdictOf (i : Instr) (x : Ctx) (w k : Nat) : Option Verdict := match exec i (issuing (turn x w) ⟨0, 0⟩ (turnW x) k) with
  | .next t => some t.verdict
  | _ => none
def spoilt : Ctx := { plain with ports := [(0, { psn := 0xFFFFFFFF })] }
def mvA (x : Src) : Instr := .moveToPort .la .a false ⟨g0, x⟩
def one : Nat := alone 0x00E0400000
def oneRes : Nat := alone 0xc0400000
def two : Nat := 0x00C3100000 + 0x0101132800 * 2 ^ 40 + 0x003D000000 * 2 ^ 80 + 2 ^ 159 + 2 ^ 199 + 2 ^ 239 + 2 ^ 242
def velse1 : Nat := (encode .velse).getD 0
theorem witness_StepRunsDecoded : TurnOf (turn plain one) 0 0 ⟨0, 0⟩ (turnW plain) ∧ (turn plain one).fetch 0 0 0x10000 = .ok one ∧
    decodeBundle one = .ok ⟨none, [(0, mvA (.special 0))]⟩ ∧ moveRange (turnW plain) (mvA (.special 0)) = none ∧
    verdictOf (mvA (.special 0)) plain one 0 = some .done ∧
    TurnOf (turn plain velse1) 0 0 ⟨0, 0⟩ (turnW plain) ∧ (turn plain velse1).fetch 0 0 0x10000 = .ok velse1 ∧
    decodeBundle velse1 = .ok ⟨some .velse, []⟩ ∧ (turnW plain).ctx.loop = none ∧ verdictOf .velse plain velse1 6 = some (.faulted 5 0xC000000000000000) :=
  ⟨turn_of _ _ (by decide +kernel) (by decide +kernel) (by decide +kernel) ⟨rfl, rfl⟩, by decide +kernel, rfl, by decide, by decide +kernel,
    turn_of _ _ (by decide +kernel) (by decide +kernel) (by decide +kernel) ⟨rfl, rfl⟩, by decide +kernel, rfl, rfl, by decide +kernel⟩
theorem witness_StepRunsDecoded_waits : TurnOf (turn spoilt oneRes) 0 0 ⟨0, 0⟩ (turnW spoilt) ∧ TurnOf (turn waits oneRes) 0 0 ⟨0, 0⟩ (turnW waits) ∧
    (turn spoilt oneRes).fetch 0 0 0x10000 = .ok oneRes ∧ decodeBundle oneRes = .ok ⟨none, [(0, mvA (.res .ia))]⟩ ∧
    verdictOf (mvA (.res .ia)) waits oneRes 0 = some .waits ∧ verdictOf (mvA (.res .ia)) spoilt oneRes 0 = some (.poisoned .ia 0) :=
  ⟨turn_of _ _ (by decide +kernel) (by decide +kernel) (by decide +kernel) ⟨rfl, rfl⟩, turn_of _ _ (by decide +kernel) (by decide +kernel)
    (by decide +kernel) ⟨rfl, rfl⟩, by decide +kernel, rfl, by decide +kernel, by decide +kernel⟩
theorem witness_StepRunsDecoded_parts : TurnOf (turn plain two) 0 0 ⟨0, 0⟩ (turnW plain) ∧ (turn plain two).fetch 0 0 0x10000 = .ok two ∧
    (∃ b, decodeBundle two = .ok b ∧ b.moves.length = 2 ∧ b.ctl = none ∧ conflict b.moves [] = none ∧ firstRange (turnW plain) b.moves = none ∧
      ∃ t, runParts (issuing (turn plain two) ⟨0, 0⟩ (turnW plain) (turn plain two).mslot) (partsOf b) = some t) ∧
    TurnOf (turn plain (2 ^ 255)) 0 0 ⟨0, 0⟩ (turnW plain) ∧ (turn plain (2 ^ 255)).fetch 0 0 0x10000 = .ok (2 ^ 255) ∧
    decodeBundle (2 ^ 255) = .error (7, .bundleKind) ∧ (turnW plain).waiting = false ∧
    TurnOf { turn plain two with mem := [] } 0 0 ⟨0, 0⟩ (turnW plain) ∧ ({ turn plain two with mem := [] } : State).fetch 0 0 0x10000 = .bad :=
  ⟨turn_of _ _ (by decide +kernel) (by decide +kernel) (by decide +kernel) ⟨rfl, rfl⟩, by decide +kernel,
    ⟨_, rfl, rfl, rfl, by decide +kernel, by decide +kernel, _, rfl⟩,
    turn_of _ _ (by decide +kernel) (by decide +kernel) (by decide +kernel) ⟨rfl, rfl⟩, by decide +kernel, rfl, rfl,
    ⟨⟨rfl, rfl, rfl⟩, rfl, by decide, by decide +kernel, fun _ => by decide +kernel, ⟨rfl, by decide⟩, by decide +kernel, ⟨rfl, rfl, rfl, rfl, rfl, rfl⟩, ⟨rfl, fun _ => rfl⟩,
      Nat.zero_le _⟩, by decide +kernel⟩
/-- A load through a record whose page table stands in no window. -/
def walkRec : BitVec 256 := BitVec.ofNat 256 (2 ^ 63 + 2 ^ 62 + 7 * 2 ^ 58 + 2 * 2 ^ 56 + 65536 * 2 ^ 64 + 4 * 2 ^ 128 + 1 * 2 ^ 181 + 2 ^ 47 * 2 ^ 192)
def load1 : Instr := .ld .first (mt 0)
def loadW : Nat := (encode load1).getD 0
def walkS : State := (turn plain loadW).updCore 0 fun c => { c with segs := [walkRec] }
theorem witness_StepRunsDecoded_walk : TurnOf walkS 0 0 ⟨0, 0⟩ (turnW plain) ∧ walkS.fetch 0 0 0x10000 = .ok loadW ∧
    decodeBundle loadW = .ok ⟨none, [(0, load1)]⟩ ∧ moveRange (turnW plain) load1 = none ∧
    (match exec load1 (issuing walkS ⟨0, 0⟩ (turnW plain) 0) with
      | .next t => some t.verdict
      | _ => none) = some (.walkRefused (2 ^ 47) 0x08 0) :=
  ⟨⟨⟨rfl, rfl, rfl⟩, rfl, by decide, by decide +kernel, fun _ => by decide +kernel, ⟨rfl, by decide⟩, by decide +kernel, ⟨rfl, rfl, rfl, rfl, rfl, rfl⟩,
      ⟨rfl, fun _ => rfl⟩, Nat.zero_le _⟩, by decide +kernel, rfl, by decide, by decide +kernel⟩
theorem witness_StepAnswers : (s0 plain).warp? (s0 plain).cur = some (warp plain) ∧ inProgram .attestation = false ∧ inProgram .noOperation = true ∧
    State.reset.warp? State.reset.cur = none := by decide +kernel
theorem witness_ProgramFrame : (mvA (.special 0)).encodable = true ∧ ∃ t, exec (mvA (.special 0)) (issuing (turn plain one) ⟨0, 0⟩ (turnW plain) 0) = .next t :=
  ⟨rfl, _, rfl⟩
theorem witness_StepKeepsInv : (s0 plain).Inv ∧ ∃ t, step (s0 plain) = .next t := by
  refine ⟨⟨?_, witness_FirmwareSteps_limits, ?_⟩, _, rfl⟩
  · unfold State.MemWf; decide +kernel
  · unfold State.LogWf; decide +kernel
/-! ### Clauses added to the statements: a state for each -/

/-- Rings with an element, and without one. -/
def ringsS : State := { s0 plain with cores := [(0, { rings := [(15, ring1), (14, { ring1 with elems := [] })] })] }
theorem witness_SourcesAndPorts_rings : (0x80000000 : W32) ≠ 0 ∧ Tab.look ringsS.srcRings 15 = some ring1 ∧ ring1.elems = splat 5 :: [] ∧
    Tab.look ringsS.srcRings 14 = some { ring1 with elems := [] } ∧ Tab.look ringsS.srcRings 13 = none ∧
    ringsS.node? (warp plain).nid = some placedNode := by decide +kernel
/-- Writes of the warps that start engines have landed. -/
theorem witness_Copies_writes : copyS.writesLanded copyS.cur.core 1 = true ∧ haltS.writesLanded haltS.cur.core (warp plain).wid = true ∧
    haltS.cur.core = 0 := by decide +kernel
theorem witness_TasksQueue_writes : taskS.writesLanded taskS.cur.core (warp plain).wid = true ∧
    (taskIn { queued with st := .suspended 2 }).writesLanded 0 (warp plain).wid = true := by decide +kernel
theorem witness_Messages_writes : msgS.writesLanded msgS.cur.core (warp msgX).wid = true ∧ (memC anyX []).writesLanded 0 (warp anyX).wid = true := by
  decide +kernel
/-- An entry that programs still see, in a directory whose other entries are taken. -/
def lastSeen : Core := { pooled [] with tiles := (List.range 127).map fun e => (e, tile0), oldTiles := [(127, tile0)] }
def seenS (c : Core) : State := { s0 tileX with cores := [(0, c)] }
theorem vacant_iff (c : Core) (e : Nat) : vacant c e ↔ (Tab.look c.tiles e = none ∧ Tab.look c.oldTiles e = none) := Iff.rfl
theorem witness_Tiles_entries : vacant (tileS.core 0) 0 ∧ (∀ j, j < 128 → ¬ vacant (noRoom.core 0) j) ∧ (∀ j, j < 128 → ¬ vacant lastSeen j) ∧
    vacant ({ pooled [] with tiles := [(0, tile0)] } : Core) 1 ∧ (∀ j, j < 1 → ¬ vacant ({ pooled [] with tiles := [(0, tile0)] } : Core) j) ∧
    (hasTile plain).core 0 = { pooled [] with tiles := [(127, tile0)] } ∧ ((hasTile plain).core 0).tileSeen 127 = some tile0 ∧
    (tileS.core 0).tileSeen 127 = none ∧ ({ pooled [] with oldTiles := [(127, { tile0 with st := .departing })] } : Core).tileSeen 127 =
      some { tile0 with st := .departing } ∧ lastSeen.tileSeen 127 = some tile0 ∧ (TileSt.departing ≠ .present) := by
  simp only [vacant_iff]; decide +kernel
theorem witness_Tiles_leaves : (moveS 3).writesLanded (moveS 3).cur.core (warp (moveX 3)).wid = true ∧ (moveS 4).writesLanded 0 1 = true ∧
    vacant ((moveS 3).core 3) 0 ∧ vacant ((moveS 4).core 4) 0 ∧ ((moveS 3).core 0).tileSeen 127 = some tile0 ∧
    ((moveS 4).core 0).tileSeen 127 = some tile0 ∧ (moveS 3).owedFrom (moveS 3).cur.core 127 = [] ∧
    ((moveS 3).findWid (warp (moveX 3)).wid).map Prod.fst = some (moveS 3).cur := by
  simp only [vacant_iff]; decide +kernel
theorem witness_NamedBarriers_entering : (warp { plain with hold := some (.bar 47 1) }).entering = none ∧
    (warp { plain with hold := some (.bar 47 1) }).ctx.hold = some (.bar 47 1) := ⟨rfl, rfl⟩

/-- The line of the warp's bundle, and a request for it that waits at the input of its slice. -/
def missS (b : List Waiter) : State := { turn plain one with slices := [(sliceOf 256, { input := b })] }
theorem witness_ClusterSteps_miss : (linesOf ((missS []).fetchLines 0 0x100)).map Prod.fst = [256] ∧
    ((missS []).reachAll (linesOf ((missS []).fetchLines 0 0x100))).isSome = true ∧
    (missS [⟨0, { home0 with line := 256 }⟩]).reachAll (linesOf ((missS [⟨0, { home0 with line := 256 }⟩]).fetchLines 0 0x100)) = none ∧
    (missS []).fetchLines 0 0x101 = [] := by decide +kernel
/-- The load of a scalar, due in every lane. -/
def load2 : Load := { load0 with un := .sl, scalar := true, lanes := [⟨0, [⟨.core 0, 0⟩], true, 0⟩] }
theorem witness_ClusterSteps_scalar : (({ s0 plain with cores := [(0, { loads := [load2] })] } : State).core 0).loads.find?
      (fun y => y.wid == 1 && y.un == .sl && y.due == 0 + 1 && y.id == 1) = some load2 ∧ load2.atomic = false ∧ load2.scalar = true ∧
    load2.lanes.head? = some ⟨0, [⟨.core 0, 0⟩], true, 0⟩ := by decide +kernel
theorem witness_CopySteps_status : ((copyS0 (copying true)).findWid (copying true).fut.wid).isSome = true ∧ (copying true).tmove = none ∧
    ((copyS0 { copying true with fut := ⟨9, 0, 1⟩ }).findWid 9).isSome = false := by decide +kernel
theorem witness_TaskSteps_warp : (taskIn queued).gone queued.wid = false ∧ ((taskIn queued).findWid queued.fut.wid).isSome = true := by decide +kernel

theorem witness_TokensAndFills_home : idleSlice pendS (sliceOf 0) ∧ idleSlice wbS 63 ∧ idleSlice (s0 plain) (sliceOf (0 / 4)) ∧ farLine 0 = false ∧
    (4 * 63 + 3 < 256) ∧ (l1S { own := true, tok := 2 } 15).answers (4 * 63) = true ∧
    ((l1S { own := true, tok := 2 } 15).core (4 * 60)).sect 0 = some { own := true, tok := 2 } ∧
    (∀ j, j < 4 → j ≠ 0 → ((l1S { own := true, tok := 2 } 15).core (4 * 60 + j)).sect 0 = none) := by
  unfold idleSlice; decide +kernel
/-- A persistent request of core 5 that alone is active; the same after die 0's incarnation has gone on. -/
def persists (inc : BitVec 16) : State := { s0 plain with
  slices := [(sliceOf 0, { incs := [(0, inc)], persist := [⟨{ dev0 with agent := .core 5 }, true, true⟩] })] }
theorem witness_TokensAndFills_deactivations : freshAt (persists 0) (0 / 4) 5 0 ∧ ¬ freshAt (persists 1) (0 / 4) 5 0 ∧
    ((persists 0).slice (sliceOf 0)).persist = [⟨{ dev0 with agent := .core 5 }, true, true⟩] ∧ ((persists 0).slice (sliceOf 0)).persistWait = [] ∧
    reqSectors { dev0 with agent := .core 5 } = [0] := by
  unfold freshAt; decide +kernel
theorem witness_TimeAndLeases_homes : ({ dieS { almanac := 5 } with bringUp := 6 } : State).linkWait = [] ∧ idleSlice (llcS { locked := true }) (sliceOf (0 / 4)) ∧
    idleSlice (recalled {}) (sliceOf (0 / 4)) ∧ (dieS { powered := true, fresh := true }).bringUp ≠ 5 := by
  unfold idleSlice; decide +kernel
theorem witness_HostAndMappings_snoops : idleSlice (llcS { host := 2, htok := 0 }) (sliceOf (0 / 4)) ∧ ((llcS { host := 1 }).dirOf 0).host = 1 ∧
    idleSlice (llcS { host := 1 }) (sliceOf (0 / 4)) := by
  unfold idleSlice; decide +kernel

/-- The directory's entries as commits and drops find them. -/
def leaves (y : Tile) : Core := { tiles := [(127, y)] }
theorem witness_CensusSteps_entries : openTo (coreS (leaves { tile0 with fut := fut1 })) 0 ∧ (leaves { tile0 with fut := fut1 }).tiles = [(127, { tile0 with fut := fut1 })] ∧
    Tab.look (leaves { tile0 with leave := some fut1 }).tiles 127 = some { tile0 with leave := some fut1 } ∧
    Tab.look (leaves { tile0 with fut := fut1, orphan := true }).tiles 127 = some { tile0 with fut := fut1, orphan := true } ∧
    tile0.fut ≠ fut1 ∧ (coreS (leaves { tile0 with fut := fut1 })).groupEnded tile0.nid tile0.grp = false :=
  ⟨⟨by decide +kernel, by decide +kernel, fun _ h => absurd h List.not_mem_nil⟩, rfl, by decide +kernel, by decide +kernel, by decide, by decide +kernel⟩
/-- A move under way: its source entry departs for it, its destination entry is its own. -/
def moving : State := { keyS with
  cores := [(0, { tiles := [(127, { tile0 with st := .departing, leave := some fut1 })], copies := (List.range 15).map fun k => (k, halted) }),
            (3, { tiles := [(0, { tile0 with fut := fut1 })] })]
  tmoves := [(0, tmove0)] }
theorem witness_CensusSteps_moves : tmove0.fut = fut1 ∧ moving.homeOf tmove0.core tmove0.fut = 0 ∧
    Tab.lowestFree (moving.core (moving.homeOf tmove0.core tmove0.fut)).copies 16 = some 15 ∧
    Tab.look (moving.core tmove0.core).tiles tmove0.entry = some { tile0 with st := .departing, leave := some fut1 } ∧
    Tab.look (moving.core tmove0.dcore).tiles tmove0.dentry = some { tile0 with fut := fut1 } ∧ Tab.look moving.tmoves 0 = some tmove0 ∧
    tmove0.core ≠ tmove0.dcore ∧ tile0.orphan = false ∧ moving.groupEnded tile0.nid tile0.grp = false := by decide +kernel
theorem witness_ObjectAndMailSteps_arrived : ∀ y, y ∈ (Tab.get barrier.gbars {} (mailKey 0 (groupKey 254 0 0))).arrived →
    (barrier.findWid y.2.wid).isSome = true := by decide +kernel

/-- The tables of a record stand at their home slices; a request waits for one of their lines. -/
def tables : List (Nat × Cls × Bool × Nat) := (accepts 8).tableLines 0 0x20000 1 (raw0 8)
def waitsFor (line : Nat) : State := { accepts 8 with slices := [(sliceOf line, { input := [⟨0, { home0 with line := line }⟩] })] }
theorem witness_QueueSteps_lines : ((accepts 8).reachAll tables).isSome = true ∧ (tables.map Prod.fst).contains 256 = true ∧
    (waitsFor 256).reachAll ((waitsFor 256).tableLines 0 0x20000 1 (raw0 8)) = none ∧
    (devS.reachAll (devS.tableLines dev1.ten (devS.queue 63).root (devS.queue 63).levels dev1.raw)).isSome = true ∧
    ((accepts 8).reachAll tables).elim false (fun r => (r.walksOf 0 0x20000 1 (raw0 8)).isEmpty) = true := by decide +kernel

/-- A node of 12 ways of pages that is placed: a core it takes holds a line in one of those ways, and its die is stopped. -/
def pagedNode : Node := { pooledNode with raw := placedNode.raw ||| BitVec.ofNat 512 (48 * 2 ^ 37) }
def stoppedS (stop : Bool) : State := { placing pagedNode with
  dies := [(15, { powered := true, leaseStop := stop })]
  cores := [(240, { l1 := [(0, ⟨15, .device, .normal, [{ tok := 1 }, {}, {}, {}], List.replicate 256 0, false⟩)] })] }
theorem witness_SchedulingSteps_stopped : (stoppedS true).setUpWaits pagedNode [60] = true ∧ (stoppedS true).candidates = [pagedNode] ∧
    (stoppedS true).findPlace pagedNode [] [] = some [60] ∧ (stoppedS false).setUpWaits pagedNode [60] = false ∧
    (placing pooledNode).setUpWaits pooledNode [60] = false := by decide +kernel
theorem witness_SchedulingSteps_saves : (∀ c, c ∈ (warpS yielded0).cores → c.2.rels = []) ∧ (∀ k, ((warpS yielded0).core k).enginesDue = []) ∧
    yielded0.responder = none ∧ (∀ y, y ∈ (warpS yielded0).live → y.1.core = 0 → y.2.nid = 0 → y.1 = ⟨0, 0⟩) ∧ slotsWf (warpS yielded0) :=
  ⟨by decide +kernel, fun _ => rfl, rfl, by decide +kernel, by unfold slotsWf; decide +kernel⟩
/-- A held warp that an asynchronous request calls, in its core's turn. -/
def heldW : Warp := { warp { plain with hold := some (.bar 47 0) } with asyncs := [⟨.preempt, 0x30, 0, 0x10020⟩] }
def calledS : State := { s0 plain with warps := [(16, heldW)], cursor := ⟨0, 1⟩, dies := [(0, { powered := true })] }
theorem witness_SchedulingSteps_called : calledS.agenda = [] ∧ calledS.tape = [] ∧ calledS.flight = [] ∧ calledS.cursor = ⟨0, 1⟩ ∧ 0 < 1 ∧ 1 < 4 ∧
    calledS.dieUp 0 = true ∧ calledS.liveOn 1 = [(⟨1, 0⟩, heldW)] ∧ heldW.leaving = none ∧ heldW.entering = none ∧ heldW.handler = none ∧
    heldW.overflow = none ∧ heldW.ringGone = false ∧ heldW.ctx.hold ≠ none ∧ heldW.asyncs = ⟨.preempt, 0x30, 0, 0x10020⟩ :: [] ∧
    (TrapKind.preempt ≠ .user) := by decide +kernel
/-- A group fits where its registers are free; a saved group's core that lacks them. -/
def tight : State := { resumes with cores := [(0, { free := 248 })] }
theorem witness_SchedulingSteps_fits : resumes.groupFits placedNode { saved0 with grp := groupKey 252 0 0 } = true ∧
    tight.groupFits placedNode { saved0 with grp := groupKey 252 0 0 } = false ∧ tight.newCore placedNode { saved0 with grp := groupKey 252 0 0 } 0 = 0 ∧
    (∀ c, c ∈ tight.cores → c.2.tiles = []) := by decide +kernel

theorem witness_GangAndPeerSteps_waits : (gangS heldN {}).wasSaved heldN.nid = false ∧
    ({ stoppedS true with nodes := [{ pagedNode with places := [60], st := .prepared }] } : State).setUpWaits pagedNode [60] = true ∧
    (gangS { heldN with st := .prepared } {}).setUpWaits { heldN with st := .prepared } [] = false := by decide +kernel
/-- A read of core 5 in the window of peer 7 is outstanding at the peer's death. -/
def farAt (n : Nat) : Nat := (2 ^ 48 + n * 2 ^ 40) / 256
def farReq (kind line : Nat) (p : Option Nat) : FarReq := { kind := kind, req := { home0 with agent := .core 5, line := line }, port := p }
def peerFar : State := { peerS with farWait := [farReq 5 (farAt 7) (some 2)] }
theorem witness_GangAndPeerSteps_far : peerS.farWait = [] ∧ peerFar.farWait = [farReq 5 (farAt 7) (some 2)] ∧
    windowOf ((farReq 5 (farAt 7) (some 2)).req.line * 256) = some 7 ∧ freshAt peerFar (farAt 7) 5 0 ∧ 0 + 2 ^ 22 ≤ peerFar.root ∧
    Tab.look peerFar.beats 7 = some 0 := by
  unfold freshAt; decide +kernel
/-- A message for a node whose one group has been saved; a line past the end of DRAM; atomics past the LLC and in a set without room. -/
theorem witness_GangAndPeerSteps_saved : resumes.wasSaved placedNode.nid = true ∧ resumes.nodes = [placedNode] ∧ placedNode.ended = false ∧
    Config.dramEnd ≤ Config.dramEnd / 256 * 256 ∧ ((s0 plain).slice (sliceOf word0.line)).bypass.length < 32 ∧
    ({ word0 with nllc := true } : HomeReq).nllc = true ∧ word0.nllc = false ∧ (pinnedS.slice (sliceOf word0.line)).allocatable = [] ∧
    (s0 plain).mustWait 3 { word0 with nllc := true } = false := by decide +kernel

/-- Requests through logical device 2 on their way, at the network and parked; another device's. -/
def through2 (k : Nat) : State := { firmS with flight := [fromBase 512 (.hostCxlMemRead 0 k 0 .non 0)], parked := [fromBase 512 (.queueRegisterWrite k 0 0 0)] }
theorem witness_FirmwareSteps_unbinds : (∃ f, (f ∈ (through2 2).flight ∨ f ∈ (through2 2).parked) ∧ through 2 f = true) ∧
    (∀ f, f ∈ (through2 3).flight ∨ f ∈ (through2 3).parked → through 2 f = false) :=
  ⟨⟨_, .inl (List.mem_singleton.mpr rfl), by decide +kernel⟩, fun f h => by
    rcases h with h | h <;> (rw [List.mem_singleton.mp h]; decide +kernel)⟩
/-- Ports: fenced; with lanes fenced before, on one half and on both. -/
def portS (p : FabPort) (bad : List Nat) : State := { s0 plain with fab := [(17, p)], badLanes := [(17, bad)] }
theorem witness_FirmwareSteps_ports : Tab.look (portS .fenced []).fab 17 = some .fenced ∧ Tab.look (portS .down []).fab 17 ≠ some .fenced ∧
    (portS .down []).farWait = [] ∧ Tab.get (portS .down []).badLanes [] 17 = [] ∧ Tab.get (portS .down [7]).badLanes [] 17 = [7] ∧
    (¬ ∃ k, k ∈ [7] ∧ k < 4) ∧ (∃ k, k ∈ [3, 4] ∧ k < 4) ∧ (∃ k, k ∈ [3, 4] ∧ 4 ≤ k) ∧ 1 < 17 := by
  refine ⟨by decide +kernel, by decide +kernel, rfl, rfl, rfl, ?_, ⟨3, by decide, by decide⟩, ⟨4, by decide, by decide⟩, by decide⟩
  rintro ⟨k, hk, h⟩; rw [List.mem_singleton.mp hk] at h; exact absurd h (by decide)
theorem witness_FirmwareSteps_image : ({ firmS with image := some image0 } : State).image ≠ none ∧ firmS.image = none ∧
    ({ firmS with image := some image0 } : State).LimitsWf :=
  ⟨by decide, rfl, rfl, witness_FirmwareSteps_limits.2⟩
theorem witness_FirmwareSteps_tests : idleSlice (llcS {}) (sliceOf 0) ∧ (firmS.die (240 / 16)).debugHold = true ∧
    ((s0 plain).die (240 / 16)).leaseStop = false ∧ ((s0 plain).die (240 / 16)).debugHold = false ∧ firmS.farWait = [] ∧ slotsWf (s0 plain) ∧
    (firmS.controlDie = false ∧ ({ firmS with controlDie := true } : State).controlDie = true) ∧ 15 < 16 ∧ ¬ 16 < 16 := by
  unfold idleSlice slotsWf; decide +kernel
/-- An image whose vigil firmware is signed with a tree of height 11. -/
def badImage : Image := ⟨[], { part0 with height := 11 }, part0, part0, [], []⟩
/-- Whether an image's signatures verify rests on free functions: each image falls under one of the two clauses. -/
theorem witness_PowerSteps_either : verified image0 ∨ ¬ verified image0 := Classical.em _
theorem witness_PowerSteps_image : ¬ verified badImage ∧ ({ State.reset with bringUp := 1 } : State).bringUp = 1 ∧
    ({ State.reset with bringUp := 1 } : State).upFailed = none ∧ ({ State.reset with bringUp := 1 } : State).LimitsWf :=
  ⟨fun h => absurd (h.2 _ (.inl rfl)).1 (by decide), rfl, rfl,
    ⟨rfl, fun i => witness_FirmwareSteps_limits.2 i⟩⟩
/-- The compute dies come up: die 15 the last, die 14 still without an acknowledgement. -/
def rising (l : List (Nat × Die)) : State := { State.reset with bringUp := 5, dies := l }
def upDies (n : Nat) : List (Nat × Die) := (List.range n).map fun k => (k, { powered := true })
theorem witness_PowerSteps_rises : (∀ d, d ∈ (rising []).dies → d.2.powered = false) ∧ (∃ d, d < 16 ∧ d ∉ [15]) ∧ (∀ d, d < 16 → d ∈ List.range 16) ∧
    ((rising (upDies 15 ++ [(15, { powered := true, fresh := true })])).die 15).fresh = true ∧
    (let t := ((rising (upDies 15 ++ [(15, { powered := true, fresh := true })])).putDie 15 { powered := true, fresh := false })
      ∀ k, k < 16 → (t.die k).fenced = true ∨ (t.die k).powered = true ∧ (t.die k).fresh = false) ∧
    ¬ (let t := ((rising (upDies 14 ++ [(15, { powered := true, fresh := true })])).putDie 15 { powered := true, fresh := false })
      ∀ k, k < 16 → (t.die k).fenced = true ∨ (t.die k).powered = true ∧ (t.die k).fresh = false) := by
  refine ⟨by decide, ⟨0, by decide, by decide⟩, fun d h => List.mem_range.mpr h, by decide +kernel, by decide +kernel, by decide +kernel⟩
theorem witness_PowerSteps_off : ({ State.reset with tape := [.stepFails 7] } : State).tape = .stepFails 7 :: [] ∧ State.reset.bringUp < 4 ∧
    State.reset.agenda = [] ∧ State.reset.upFailed = none ∧ (∀ f, f ∈ ([0] : List Nat) → f = 0) ∧ (∃ f, f ∈ [0, 1] ∧ f ≠ 0) ∧
    ({ State.reset with image := some image0, signing := some 4 } : State).signing = some 4 ∧ State.reset.signing = none ∧ State.reset.image = none := by
  refine ⟨rfl, by decide, rfl, rfl, fun f h => List.mem_singleton.mp h, ⟨1, by decide, by decide⟩, rfl, rfl, rfl⟩

/-- The package's edge: a tape of one choice, through logical device 15 of tenant 7, whose queue 63 is; device 14 is unbinding. -/
def edge (c : Choice) : State := { window with tape := [c], unbinding := [14] }
theorem witness_EdgeSteps_bars : (edge (.barRead 15 0)).agenda = [] ∧ (edge (.barRead 13 0)).bound 13 = false ∧ 14 ∈ (edge (.barRead 14 0)).unbinding ∧
    (edge (.barRead 15 0)).bound 15 = true ∧ 15 ∉ (edge (.barRead 15 0)).unbinding ∧ 0x500000 ≤ 0x500000 ∧
    0x100000 + 63 * 0x10000 + 0x4008 < 0x500000 ∧ ((edge (.barRead 15 0)).queue 62).ten = none ∧ ((edge (.barRead 15 0)).queue 63).ten ≠ none ∧
    (edge (.barRead 15 0)).ldTenant 15 = ((edge (.barRead 15 0)).queue 63).ten ∧ 0xFFFF8 < 0x100000 := by decide +kernel
/-- A decoder of logical device 15, and a port through which the host's request comes. -/
def decodes (f : List Flight) : State := { edge (.event (.hostCxlMemRead 3 15 0x1000 .non 0)) with
  hdm := [(15 * 16 + 15, (0x1000, 0x100, 0x10000))], fields := [0, 1, 2, 3], fab := [(3, .up true [] false)], flight := f }
theorem witness_EdgeSteps_decodes : (decodes []).hdm = [(15 * 16 + 15, (0x1000, 0x100, 0x10000))] ∧ 0x1000 ≤ 0x1000 ∧ 0x10FF < 0x1000 + 0x100 ∧
    15 ∉ (decodes []).unbinding ∧ (decodes []).testing = [] ∧
    (((decodes []).flight ++ (decodes []).parked).countP fun f => eventPort f.ev == some 3) < 4096 ∧
    4096 ≤ ((List.replicate 4096 (fromBase 512 (.hostCxlMemRead 3 0 0 .non 0))).countP fun f => eventPort f.ev == some 3) ∧
    (edge (.event (.hostCxlMemRead 3 15 0 .non 0))).fab = [] ∧ 15 ∉ (edge (.event (.hostCxlMemRead 3 15 0 .non 0))).unbinding := by decide +kernel
/-- Requests of core 5 in the window of peer 255 and in the host's; a line of host memory that stands at its home slice. -/
def farS (p : Nat) : State := { s0 plain with fab := [(p, .up false [] false)] }
def hostLine0 : Nat := 2 ^ 51 / 256
def hostLineS (h : Tab Bool) : State := { farS 17 with
  hostHeld := h, slices := [(sliceOf hostLine0, { lines := [(15, { line0 0 with line := hostLine0 })] })] }
theorem witness_EdgeSteps_far : windowOf ((farReq 5 (farAt 255) none).req.line * 256) = some 255 ∧ 255 ∉ (farS 17).deadPeers ∧ (farS 17).farWait = [] ∧
    (farS 17).testing = [] ∧ freshAt (farS 17) (farAt 255) 5 0 ∧ windowOf (hostLine0 * 256) = some 256 ∧ freshAt (hostLineS []) hostLine0 5 0 ∧
    ((hostLineS []).dirOf (hostLine0 * 4)).broken = false ∧ ((hostLineS []).dirOf (hostLine0 * 4)).host ≠ 2 ∧
    Tab.look (hostLineS []).hostHeld (hostLine0 * 4) = none ∧ Tab.look (hostLineS [(hostLine0 * 4, false)]).hostHeld (hostLine0 * 4) = some false := by
  unfold freshAt; decide +kernel
theorem witness_EdgeSteps_host : Stands (hostLineS []) hostLine0 15 { line0 0 with line := hostLine0 } :=
  ⟨fun _ he => absurd he (by rw [show ((hostLineS []).slice (sliceOf hostLine0)).input = [] by decide +kernel]; exact List.not_mem_nil),
    by decide +kernel, ⟨rfl, rfl, rfl, by decide +kernel⟩, by decide +kernel⟩
/-- An answer comes: a read in a peer's window, sectors of host memory. -/
def answered (x : FarReq) : State := { hostLineS [] with tape := [.farAnswer 0], farWait := [x] }
theorem witness_EdgeSteps_answers : (answered (farReq 5 (farAt 255) (some 17))).tape = .farAnswer 0 :: [] ∧
    freshAt (answered (farReq 5 (farAt 255) (some 17))) (farAt 255) 5 0 ∧
    (answered (farReq 5 (farAt 255) (some 17))).deadWindow (farReq 5 (farAt 255) (some 17)).req = false ∧
    (answered (farReq 9 hostLine0 (some 17))).farWait = [farReq 9 hostLine0 (some 17)] ∧ (farReq 9 hostLine0 (some 17)).req.smask = 1 ∧
    idleSlice (answered (farReq 9 hostLine0 (some 17))) (sliceOf hostLine0) ∧
    ((answered (farReq 8 hostLine0 (some 17))).slice (sliceOf hostLine0)).persist = [] ∧
    ((answered (farReq 8 hostLine0 (some 17))).slice (sliceOf hostLine0)).persistWait = [] ∧
    (∀ y, y ∈ (answered (farReq 8 hostLine0 (some 17))).cores → y.2.rels = []) := by
  unfold freshAt idleSlice; decide +kernel

end Sys2Proof.Tests
end

section
/-! Proofs of the statements on the home of a line (01_stacks_and_base R31 to R33, 02_coherence R42, R46). A request that is served at once hits
its way and is served there; a line that stands whole in a way takes the bytes and the poison that the home puts into it; a persistent request of
a page without tokens is answered with the home copy. -/

namespace Sys2Proof.Machine

/-! ### What the step of each request does with its event -/

theorem exec_readShared {s : State} {r : HomeReq} (h : s.ev = some (.readShared r)) : exec .readShared s = .next (s.atHome 0 r) := by
  change execReadShared s = _
  simp only [execReadShared, h]

theorem exec_readForOwnership {s : State} {r : HomeReq} (h : s.ev = some (.readForOwnership r)) :
    exec .readForOwnership s = .next (s.atHome 1 r) := by
  change execReadForOwnership s = _
  simp only [execReadForOwnership, h]

theorem exec_writeAtHome {s : State} {r : HomeReq} (h : s.ev = some (.writeAtHome r)) : exec .writeAtHome s = .next (s.atHome 2 r) := by
  change execWriteAtHome s = _
  simp only [execWriteAtHome, h]

theorem exec_atomicAtHome {s : State} {r : HomeReq} (h : s.ev = some (.atomicAtHome r)) : exec .atomicAtHome s = .next (s.atHome 3 r) := by
  change execAtomicAtHome s = _
  simp only [execAtomicAtHome, h]

theorem exec_copyRead {s : State} {r : HomeReq} (h : s.ev = some (.copyRead r)) : exec .copyRead s = .next (s.atHome 4 r) := by
  change execCopyRead s = _
  simp only [execCopyRead, h]

theorem exec_uncachedRead {s : State} {r : HomeReq} (h : s.ev = some (.uncachedRead r)) : exec .uncachedRead s = .next (s.atHome 5 r) := by
  change execUncachedRead s = _
  simp only [execUncachedRead, h]

theorem exec_persistentRequest {s : State} {r : HomeReq} {own : Bool} (h : s.ev = some (.persistentRequest r own)) :
    exec .persistentRequest s = .next (s.persistComes r own) := by
  change execPersistentRequest s = _
  simp only [execPersistentRequest, h]

/-! ### The way of a line after a change of the slice's lines -/

theorem Slice.find_line {x : Slice} {n w : Nat} {l : LLine} (h : x.find n = some (w, l)) : l.line = n := by
  have := List.find?_some h
  simpa using this

/-- A way that is found for a line is found for it again when it is set to another state of the line: no entry before it holds the line. -/
theorem find_put_lines {t : Tab LLine} {n w : Nat} {l l' : LLine} (h : t.find? (fun e => e.2.line == n) = some (w, l)) (hl : l'.line = n) :
    (Tab.put t w l').find? (fun e => e.2.line == n) = some (w, l') := by
  induction t with
  | nil => simp at h
  | cons e r ih =>
    obtain ⟨a, y⟩ := e
    by_cases ha : a = w
    · simp [Tab.put, ha, hl]
    · by_cases hlt : w < a
      · simp [Tab.put, ha, hlt, hl]
      · have hy : (y.line == n) = false := by
          by_contra hy
          have hy := eq_true_of_ne_false hy
          simp only [List.find?_cons, hy, Option.some.injEq, Prod.mk.injEq] at h
          exact ha h.1
        simp only [List.find?_cons, hy] at h
        simp only [Tab.put, ha, hlt, if_false, List.find?_cons, hy]
        exact ih h

theorem Slice.find_put {x : Slice} {n w : Nat} {l l' : LLine} (h : x.find n = some (w, l)) (hl : l'.line = n) (rc : Tab (List Nat)) :
    Slice.find { x with lines := Tab.put x.lines w l', recent := rc } n = some (w, l') := find_put_lines h hl

/-- A line changed in every way that holds it is found changed. -/
theorem Slice.find_map {x : Slice} {n w : Nat} {l : LLine} (f : LLine → LLine) (hf : ∀ y, (f y).line = y.line) (h : x.find n = some (w, l)) :
    Slice.find { x with lines := x.lines.map fun e => (e.1, if e.2.line == n then f e.2 else e.2) } n = some (w, f l) := by
  have hkey : ((fun e : Nat × LLine => e.2.line == n) ∘ fun e : Nat × LLine => (e.1, if e.2.line == n then f e.2 else e.2)) = fun e => e.2.line == n := by
    funext e
    simp only [Function.comp]
    split <;> simp [hf]
  have hl : (l.line == n) = true := by simp [Slice.find_line h]
  unfold Slice.find at h ⊢
  simp only [List.find?_map, hkey, h, Option.map_some, hl, if_true]

/-! ### A line that stands whole at its home -/

/-- The line stands in way `w` of its slice with all its sectors (01 R21). -/
structure State.Whole (s : State) (line w : Nat) (l : LLine) : Prop where
  found : (s.slice (sliceOf line)).find line = some (w, l)
  filled : l.pending = false
  valid : l.valid = 0xF

section
variable {s : State} {line w : Nat} {l : LLine}

theorem bit4_all {k : Nat} (hk : k < 4) : bit4 0xF k = true := by
  have : ∀ k, k < 4 → bit4 0xF k = true := by decide
  exact this k hk

theorem State.Whole.held (h : s.Whole line w l) {k : Nat} (hk : k < 4) : (s.slice (sliceOf line)).held (line * 4 + k) = some (w, l) := by
  have h1 : (line * 4 + k) / 4 = line := by omega
  have h2 : (line * 4 + k) % 4 = k := by omega
  simp only [Slice.held, h1, h2, h.found, h.filled, h.valid, bit4_all hk, Bool.not_false, Bool.and_self, if_true]

theorem State.Whole.homeByte (h : s.Whole line w l) {k : Nat} (hk : k < 256) : s.homeByte (line * 256 + k) = l.bytes.getD k 0 := by
  have h1 : (line * 256 + k) / 256 = line := by omega
  have h2 : (line * 256 + k) / 64 = line * 4 + k / 64 := by omega
  have h3 : (line * 256 + k) % 256 = k := by omega
  simp only [State.homeByte, h1, h2, h3, h.held (show k / 64 < 4 by omega)]

theorem State.Whole.homePsn (h : s.Whole line w l) {k : Nat} (hk : k < 4) : s.homePsn (line * 4 + k) = bit4 l.psn k := by
  have h1 : (line * 4 + k) / 4 = line := by omega
  have h2 : (line * 4 + k) % 4 = k := by omega
  simp only [State.homePsn, h1, h2, h.held hk]

end

/-- Two states read alike at the home of a line: its bytes and the poison of its sectors. -/
structure State.SameHome (s t : State) (line : Nat) : Prop where
  byte : ∀ k, k < 256 → t.homeByte (line * 256 + k) = s.homeByte (line * 256 + k)
  psn : ∀ k, k < 4 → t.homePsn (line * 4 + k) = s.homePsn (line * 4 + k)

section
variable {s t : State} {line : Nat}

theorem State.Whole.sameHome {w v : Nat} {l l' : LLine} (hs : s.Whole line w l) (ht : t.Whole line v l') (hb : l'.bytes = l.bytes)
    (hp : l'.psn = l.psn) : s.SameHome t line where
  byte k hk := by rw [ht.homeByte hk, hs.homeByte hk, hb]
  psn k hk := by rw [ht.homePsn hk, hs.homePsn hk, hp]

theorem State.SameHome.homeLine (h : s.SameHome t line) : t.homeLine line = s.homeLine line :=
  List.map_congr_left fun k hk => h.byte k (List.mem_range.mp hk)

theorem State.SameHome.homePsn4 (h : s.SameHome t line) : t.homePsn4 line = s.homePsn4 line := by
  unfold State.homePsn4
  have hf : ∀ (m k : Nat), k ∈ List.range 4 →
      (if t.homePsn (line * 4 + k) then m + 2 ^ k else m) = if s.homePsn (line * 4 + k) then m + 2 ^ k else m :=
    fun m k hk => by rw [h.psn k (List.mem_range.mp hk)]
  rw [List.foldl_ext _ _ _ hf]

/-- The bytes of the first sector. -/
theorem State.SameHome.homeSector (h : s.SameHome t line) : t.homeBytes (line * 4 * 64) 64 = s.homeBytes (line * 4 * 64) 64 := by
  refine List.map_congr_left fun k hk => ?_
  have hk := List.mem_range.mp hk
  rw [show line * 4 * 64 + k = line * 256 + k by omega, h.byte k (by omega)]

theorem State.SameHome.homePsn_first (h : s.SameHome t line) : t.homePsn (line * 4) = s.homePsn (line * 4) := h.psn 0 (by omega)

end

/-- Nothing but the slices has changed. -/
def State.OnlySlices (s t : State) : Prop := t = { s with slices := t.slices }

section
variable {s t u : State}

theorem State.OnlySlices.trans (h : s.OnlySlices t) (h' : t.OnlySlices u) : s.OnlySlices u := by
  unfold State.OnlySlices at *
  rw [h] at h'
  exact h'

theorem State.OnlySlices.mem (h : s.OnlySlices t) : t.mem = s.mem := by rw [h]
theorem State.OnlySlices.dir (h : s.OnlySlices t) : t.dir = s.dir := by rw [h]
theorem State.OnlySlices.flight (h : s.OnlySlices t) : t.flight = s.flight := by rw [h]

end

/-- The line as a hit leaves it (01 R28, R29). -/
def LLine.hit (l : LLine) (r : HomeReq) : LLine := { l with ecls := r.ecls, cls := r.cls }

/-- A hit leaves the line whole. -/
theorem State.whole_hitWay {s : State} {w : Nat} {l : LLine} (r : HomeReq) (h : s.Whole r.line w l) :
    (s.hitWay w l r).Whole r.line w (l.hit r) where
  found := by
    simp only [State.hitWay, State.updSlice, State.slice_putSlice, if_true, Slice.use]
    have hl := Slice.find_line h.found
    exact Slice.find_put (l' := l.hit r) h.found hl _
  filled := h.filled
  valid := h.valid

theorem State.onlySlices_hitWay (s : State) (w : Nat) (l : LLine) (r : HomeReq) : s.OnlySlices (s.hitWay w l r) := rfl

/-- A hit leaves the line's bytes and poison as they are. -/
theorem State.sameHome_hitWay {s : State} {w : Nat} {l : LLine} (r : HomeReq) (h : s.Whole r.line w l) : s.SameHome (s.hitWay w l r) r.line :=
  h.sameHome (State.whole_hitWay r h) rfl rfl

/-! ### Bytes and poison put into a line that stands whole -/

/-- A byte put into a line of a way. -/
def LLine.putByte (l : LLine) (k : Nat) (b : Byte) : LLine := { l with bytes := l.bytes.set k b, dirty := set4 l.dirty (k / 64) true }

/-- The poison bit of a sector set or cleared in a line of a way. -/
def LLine.putPsn (on : Bool) (l : LLine) (k : Nat) : LLine :=
  { l with psn := set4 l.psn k on, dirty := if on then set4 l.dirty k true else l.dirty }

/-- Bytes put into a line of a way, by offset. -/
def LLine.putBytes (l : LLine) (bytes : List (Nat × Byte)) : LLine := bytes.foldl (fun l b => l.putByte b.1 b.2) l

section
variable {s : State} {line w : Nat} {l : LLine}

/-- A change of a line that keeps its name and its sectors, in every way that holds it, leaves it whole. -/
theorem State.Whole.map (h : s.Whole line w l) (f : LLine → LLine) (hf : ∀ y, (f y).line = y.line ∧ (f y).pending = y.pending ∧ (f y).valid = y.valid) :
    (s.putSlice (sliceOf line) { s.slice (sliceOf line) with
      lines := (s.slice (sliceOf line)).lines.map fun e => (e.1, if e.2.line == line then f e.2 else e.2) }).Whole line w (f l) where
  found := by
    rw [State.slice_putSlice, if_pos rfl]
    exact Slice.find_map f (fun y => (hf y).1) h.found
  filled := (hf l).2.1.trans h.filled
  valid := (hf l).2.2.trans h.valid

theorem State.Whole.homePut (h : s.Whole line w l) {k : Nat} (hk : k < 256) (b : Byte) :
    s.OnlySlices (s.homePut (line * 256 + k) b) ∧ (s.homePut (line * 256 + k) b).Whole line w (l.putByte k b) := by
  have h1 : (line * 256 + k) / 256 = line := by omega
  have h2 : (line * 256 + k) / 64 = line * 4 + k / 64 := by omega
  have h3 : (line * 256 + k) % 256 = k := by omega
  have h4 : (line * 4 + k / 64) % 4 = k / 64 := by omega
  simp only [State.homePut, h1, h2, h3, h4, h.held (show k / 64 < 4 by omega)]
  exact ⟨rfl, h.map (fun y => y.putByte k b) fun _ => ⟨rfl, rfl, rfl⟩⟩

theorem State.Whole.setHomePsn (h : s.Whole line w l) {k : Nat} (hk : k < 4) (on : Bool) :
    s.OnlySlices (s.setHomePsn (line * 4 + k) on) ∧ (s.setHomePsn (line * 4 + k) on).Whole line w (l.putPsn on k) := by
  have h1 : (line * 4 + k) / 4 = line := by omega
  have h2 : (line * 4 + k) % 4 = k := by omega
  simp only [State.setHomePsn, h1, h2, h.held hk]
  exact ⟨rfl, h.map (LLine.putPsn on · k) fun _ => ⟨rfl, rfl, rfl⟩⟩

theorem State.Whole.homeWrite (bytes : List (Nat × Byte)) (h : s.Whole line w l) (hb : ∀ b, b ∈ bytes → b.1 < 256) :
    s.OnlySlices (s.homeWrite line bytes) ∧ (s.homeWrite line bytes).Whole line w (l.putBytes bytes) := by
  induction bytes generalizing s l with
  | nil => exact ⟨rfl, h⟩
  | cons b bytes ih =>
    obtain ⟨hs, hw⟩ := h.homePut (hb b List.mem_cons_self) b.2
    obtain ⟨hs', hw'⟩ := ih hw fun y hy => hb y (List.mem_cons_of_mem _ hy)
    exact ⟨hs.trans hs', hw'⟩

theorem State.Whole.foldl_setHomePsn (on : Bool) (ks : List Nat) (h : s.Whole line w l) (hk : ∀ k, k ∈ ks → k < 4) :
    s.OnlySlices (ks.foldl (fun s k => s.setHomePsn (line * 4 + k) on) s) ∧
      (ks.foldl (fun s k => s.setHomePsn (line * 4 + k) on) s).Whole line w (ks.foldl (LLine.putPsn on) l) := by
  induction ks generalizing s l with
  | nil => exact ⟨rfl, h⟩
  | cons k ks ih =>
    obtain ⟨hs, hw⟩ := h.setHomePsn (hk k List.mem_cons_self) on
    obtain ⟨hs', hw'⟩ := ih hw fun y hy => hk y (List.mem_cons_of_mem _ hy)
    exact ⟨hs.trans hs', hw'⟩

/-- A store at the home of a line that stands whole puts its bytes into the line's way. -/
theorem State.Whole.homeStore (bytes : List (Nat × Byte)) (h : s.Whole line w l) (hb : ∀ b, b ∈ bytes → b.1 < 256) :
    s.OnlySlices (s.homeStore line bytes) ∧
      (s.homeStore line bytes).Whole line w ((wholeSectors bytes).foldl (LLine.putPsn false) (l.putBytes bytes)) := by
  obtain ⟨hs, hw⟩ := h.homeWrite bytes hb
  have hlt : ∀ k, k ∈ wholeSectors bytes → k < 4 := fun k hk => List.mem_range.mp (List.mem_filter.mp hk).1
  obtain ⟨hs', hw'⟩ := hw.foldl_setHomePsn false _ hlt
  exact ⟨hs.trans hs', hw'⟩

end

/-! ### What the line then holds -/

theorem set4_keeps {m : BitVec 4} {k : Nat} (j : Nat) (h : m.getLsbD j = true) : (set4 m k true).getLsbD j = true := by
  simp [set4, h]

theorem set4_sets (m : BitVec 4) {k : Nat} (h : k < 4) : (set4 m k true).getLsbD k = true := by
  simp [set4, h]

theorem LLine.foldl_putPsn_bytes (on : Bool) (ks : List Nat) (l : LLine) : (ks.foldl (LLine.putPsn on) l).bytes = l.bytes := by
  induction ks generalizing l with
  | nil => rfl
  | cons k ks ih => exact ih _

theorem LLine.foldl_putPsn_dirty (on : Bool) (ks : List Nat) (l : LLine) (j : Nat) (h : l.dirty.getLsbD j = true) :
    (ks.foldl (LLine.putPsn on) l).dirty.getLsbD j = true := by
  induction ks generalizing l with
  | nil => exact h
  | cons k ks ih =>
    refine ih _ ?_
    cases on
    · exact h
    · exact set4_keeps j h

theorem LLine.putBytes_length (l : LLine) (bytes : List (Nat × Byte)) : (l.putBytes bytes).bytes.length = l.bytes.length := by
  induction bytes generalizing l with
  | nil => rfl
  | cons b bytes ih => exact (ih _).trans List.length_set

/-- A byte that no write names is as it was. -/
theorem LLine.putBytes_other (l : LLine) (bytes : List (Nat × Byte)) (k : Nat) (h : ∀ b, b ∈ bytes → b.1 ≠ k) :
    (l.putBytes bytes).bytes.getD k 0 = l.bytes.getD k 0 := by
  induction bytes generalizing l with
  | nil => rfl
  | cons b bytes ih =>
    refine (ih _ fun y hy => h y (List.mem_cons_of_mem _ hy)).trans ?_
    simp only [LLine.putByte, List.getD_eq_getElem?_getD, List.getElem?_set_ne (h b List.mem_cons_self)]

/-- A byte on whose value the writes agree takes that value, if one of them names it or it has the value already. -/
theorem LLine.putBytes_agreed (l : LLine) (bytes : List (Nat × Byte)) (k : Nat) (v : Byte) (hk : k < l.bytes.length)
    (hone : ∀ b, b ∈ bytes → b.1 = k → b.2 = v) (h : (k, v) ∈ bytes ∨ l.bytes.getD k 0 = v) : (l.putBytes bytes).bytes.getD k 0 = v := by
  induction bytes generalizing l with
  | nil => exact h.resolve_left List.not_mem_nil
  | cons b bytes ih =>
    refine ih (l.putByte b.1 b.2) (by simpa [LLine.putByte] using hk) (fun y hy => hone y (List.mem_cons_of_mem _ hy)) ?_
    by_cases hbk : b.1 = k
    · right
      simp [LLine.putByte, List.getD_eq_getElem?_getD, hbk, hk, hone b List.mem_cons_self hbk]
    · rcases h with h | h
      · left
        exact (List.mem_cons.mp h).resolve_left fun e => hbk (e ▸ rfl)
      · right
        simpa only [LLine.putByte, List.getD_eq_getElem?_getD, List.getElem?_set_ne hbk] using h

theorem LLine.putBytes_dirty_keeps (l : LLine) (bytes : List (Nat × Byte)) (j : Nat) (h : l.dirty.getLsbD j = true) :
    (l.putBytes bytes).dirty.getLsbD j = true := by
  induction bytes generalizing l with
  | nil => exact h
  | cons b bytes ih => exact ih _ (set4_keeps j h)

/-- The sectors that bytes go into are dirty. -/
theorem LLine.putBytes_dirty (l : LLine) (bytes : List (Nat × Byte)) (b : Nat × Byte) (hb : b ∈ bytes) (hlt : b.1 < 256) :
    (l.putBytes bytes).dirty.getLsbD (b.1 / 64) = true := by
  induction bytes generalizing l with
  | nil => exact absurd hb List.not_mem_nil
  | cons y bytes ih =>
    rcases List.mem_cons.mp hb with rfl | hb
    · exact LLine.putBytes_dirty_keeps _ bytes _ (set4_sets _ (by omega))
    · exact ih _ hb

/-- The bytes placed from an address on, each at its own. -/
theorem mem_placed {a k : Nat} {v : Byte} {l : List Byte} : (k, v) ∈ placed a l ↔ a ≤ k ∧ l[k - a]? = some v := by
  have hzip (j : Nat) (b : Byte) : (j, b) ∈ (List.range l.length).zip l ↔ l[j]? = some b := by
    simp only [List.mem_iff_getElem?, List.getElem?_zip_eq_some]
    constructor
    · rintro ⟨i, hi, hb⟩
      obtain ⟨-, rfl⟩ := List.getElem?_eq_some_iff.mp hi
      simpa using hb
    · exact fun hb => ⟨j, List.getElem?_range (List.getElem?_eq_some_iff.mp hb).1, hb⟩
  simp only [placed, List.mem_map, Prod.mk.injEq, Prod.exists, hzip]
  constructor
  · rintro ⟨j, b, hb, rfl, rfl⟩
    simpa using hb
  · rintro ⟨hak, hv⟩
    exact ⟨k - a, v, hv, by omega, rfl⟩

theorem leBytes_getElem? (n v j : Nat) : (leBytes n v)[j]? = if j < n then some (BitVec.ofNat 8 (v / 256 ^ j)) else none := by
  split
  · rename_i h; simp [leBytes, h]
  · rename_i h; simp [leBytes, h]

/-- A word put into a line holds its bytes from its offset on, and leaves the others. -/
theorem LLine.putBytes_word (l : LLine) (off n v k : Nat) (hl : l.bytes.length = 256) (hk : k < 256) :
    (l.putBytes (placed off (leBytes n v))).bytes.getD k 0 =
      if off ≤ k ∧ k < off + n then BitVec.ofNat 8 (v / 256 ^ (k - off)) else l.bytes.getD k 0 := by
  have hmem : ∀ b : Nat × Byte, b ∈ placed off (leBytes n v) → off ≤ b.1 ∧ b.1 < off + n ∧ b.2 = BitVec.ofNat 8 (v / 256 ^ (b.1 - off)) := by
    rintro ⟨j, b⟩ hb
    obtain ⟨hj, hb⟩ := mem_placed.mp hb
    rw [leBytes_getElem?] at hb
    split at hb
    · rename_i h
      exact ⟨hj, by simp only; omega, (Option.some.inj hb).symm⟩
    · cases hb
  split
  · rename_i h
    refine LLine.putBytes_agreed l _ k _ (by omega) (fun b hb e => by rw [(hmem b hb).2.2, e]) (.inl (mem_placed.mpr ⟨h.1, ?_⟩))
    rw [leBytes_getElem?, if_pos (by omega)]
  · rename_i h
    refine LLine.putBytes_other l _ k fun b hb e => h ?_
    obtain ⟨h1, h2, -⟩ := hmem b hb
    omega

/-! ### A request that comes to its home -/

/-- Entries of the directory that can be are left as they are (02 R41). -/
theorem State.checkEntries_sound {s : State} {r : HomeReq} (h : ∀ x, x ∈ reqSectors r → (s.dirOf x).barred = false) : s.checkEntries r = s := by
  unfold State.checkEntries
  generalize reqSectors r = xs at h
  induction xs with
  | nil => rfl
  | cons x xs ih =>
    have hx : (s.dirOf x).broken = false := (Bool.or_eq_false_iff.mp (h x List.mem_cons_self)).2
    simp only [List.foldl_cons, hx, Bool.false_and, Bool.false_eq_true, if_false]
    exact ih fun y hy => h y (List.mem_cons_of_mem _ hy)

/-- A request that need not wait finds no locked entry. -/
theorem State.barred_of_not_mustWait {s : State} {kind : Nat} {r : HomeReq} (h : s.mustWait kind r = false) (x : Nat) (hx : x ∈ reqSectors r) :
    (s.dirOf x).barred = false := by
  have hany := List.any_eq_false.mp (Bool.or_eq_false_iff.mp h).2 x hx
  by_contra hb
  exact hany (by simp [eq_true_of_ne_false hb])

/-- A line of this package's memory is in no window of a peer. -/
theorem State.deadWindow_near (s : State) {r : HomeReq} (h : farLine r.line = false) : s.deadWindow r = false := by
  unfold State.deadWindow farLine at *
  split
  · rename_i n _ hn
    rw [hn] at h
    have : n = 0 := by simpa using h
    simp [this]
  · rfl

/-- The message that answers a core's request. -/
theorem State.answer_core (s : State) {r : HomeReq} {c : Nat} (h : r.agent = .core c) (data : List Byte) (psn : BitVec 4) :
    s.answer (slicePort (sliceOf r.line)) r data psn = { s with flight := s.flight ++ [Rules.answerTo r c data psn] } := by
  simp only [State.answer, h]
  rfl

end Sys2Proof.Machine

namespace Sys2Proof.Rules

open Sys2Proof.Machine

section
variable {s : State} {kind c w : Nat} {r : HomeReq} {l : LLine}

theorem ServedAtOnce.whole (h : ServedAtOnce s kind r c w l) : s.Whole r.line w l := ⟨h.stands.hit, h.stands.whole.1, h.stands.whole.2.2.1⟩

theorem ServedAtOnce.reqCore (h : ServedAtOnce s kind r c w l) : reqCore r = c := by rw [Machine.reqCore, h.agent]

theorem freshAt.staleFrom {line : Nat} {inc : BitVec 16} (h : freshAt s line c inc) : s.staleFrom (sliceOf line) c inc = false := by
  simp only [State.staleFrom, State.staleAt, dieOf, Bool.and_eq_false_iff, decide_eq_false_iff_not, bne_eq_false_iff_eq]
  exact or_iff_not_imp_left.mpr fun hc => h (not_not.mp hc)

/-- A request that is served at once hits its way and is served (01 R31, R33). -/
theorem ServedAtOnce.atHome (h : ServedAtOnce s kind r c w l) : s.atHome kind r = (s.hitWay w l r).serve kind r := by
  obtain ⟨halone, hhit, ⟨hpend, hleave, -, -⟩, hsound⟩ := h.stands
  have hstale : s.staleFrom (sliceOf r.line) (Machine.reqCore r) r.inc = false := by rw [h.reqCore]; exact h.fresh.staleFrom
  have hnear : s.goesFar kind r = none := by simp [State.goesFar, h.near]
  have hcheck : s.checkEntries r = s := State.checkEntries_sound (State.barred_of_not_mustWait h.ready)
  have hinput : ((s.slice (sliceOf r.line)).input.any fun e => e.req.line == r.line) = false := by
    simpa [List.any_eq_false] using halone
  have htry : s.tryAtSlice kind r = some ((s.hitWay w l r).serve kind r) := by
    simp [State.tryAtSlice, hhit, hpend, hleave, h.ready, hsound]
  simp only [State.atHome, h.space, hstale, hnear, hcheck, hinput, htry, Bool.false_eq_true, if_false]

theorem ServedAtOnce.sameHome (h : ServedAtOnce s kind r c w l) : s.SameHome (s.hitWay w l r) r.line := State.sameHome_hitWay r h.whole

theorem ServedAtOnce.deadWindow (h : ServedAtOnce s kind r c w l) : (s.hitWay w l r).deadWindow r = false := State.deadWindow_near _ h.near

end

/-! ### Reads that are served -/

/-- The one sector of a request whose mask is 1. -/
theorem reqSectors_one {r : HomeReq} (h : r.smask = 1) : reqSectors r = [r.line * 4] := by
  have : sectorsIn 1 = [0] := by decide
  simp only [reqSectors, h, this, List.map_cons, List.map_nil, Nat.add_zero]

/-- A read of kind 0, 4 or 5 of a page without tokens is answered with the home's line. -/
theorem serve_read_non {s : State} {kind : Nat} {r : HomeReq} (hk : kind = 0 ∨ kind = 4 ∨ kind = 5) (hcls : r.cls = .non)
    (hd : s.deadWindow r = false) : s.serve kind r = s.answer (slicePort (sliceOf r.line)) r (s.homeLine r.line) (s.homePsn4 r.line) := by
  rcases hk with rfl | rfl | rfl
  · simp [State.serve, hcls]
  · simp [State.serve, State.freshSector, hcls]
  · simp [State.serve, hcls, hd]

theorem ServedAtOnce.read_non {s : State} {kind c w : Nat} {r : HomeReq} {l : LLine} (h : ServedAtOnce s kind r c w l)
    (hk : kind = 0 ∨ kind = 4 ∨ kind = 5) (hcls : r.cls = .non) :
    s.atHome kind r = { s.hitWay w l r with flight := s.flight ++ [answerTo r c (s.homeLine r.line) (s.homePsn4 r.line)] } := by
  rw [h.atHome, serve_read_non hk hcls h.deadWindow, State.answer_core _ h.agent, h.sameHome.homeLine, h.sameHome.homePsn4]
  rfl

/-- An uncached read of a coherent page is refused (01 R31). -/
theorem ServedAtOnce.uncached_refused {s : State} {c w : Nat} {r : HomeReq} {l : LLine} (h : ServedAtOnce s 5 r c w l) (hcls : r.cls ≠ .non) :
    s.atHome 5 r = { (s.hitWay w l r).log 0 1 (sliceOf r.line) 0 (r.line * 256) with flight := s.flight ++ [answerTo r c [] 0] } := by
  have hserve : (s.hitWay w l r).serve 5 r = (s.hitWay w l r).refusedAt r := by simp [State.serve, hcls]
  rw [h.atHome, hserve, State.refusedAt, State.answer_core _ h.agent]
  rfl

/-! ### Tokens that the home sends -/

theorem dataTokens_congr {s t : State} {line : Nat} (h : s.SameHome t line) (c n : Nat) (own : Bool) :
    dataTokens t c (line * 4) n own = dataTokens s c (line * 4) n own := by
  simp only [dataTokens, h.homeSector, h.homePsn_first]

theorem tokensTo_data (s : State) (c x n : Nat) (own : Bool) : s.tokensTo c x n own true = { s with flight := s.flight ++ [dataTokens s c x n own] } :=
  rfl

section
variable {s : State} {c x : Nat}

/-- The owner token at home, and one to spare: data and a token go to the reader (02 R42). -/
theorem readSector_token (hown : (s.dirOf x).hown = true) (htok : 2 ≤ (s.dirOf x).htok) :
    s.readSector c x = { s with
      flight := s.flight ++ [dataTokens s c x 1 false]
      dir := Tab.put s.dir x { s.dirOf x with htok := (s.dirOf x).htok - 1, dmask := (s.dirOf x).dmask ||| (1#16 <<< (c / 16)) } } := by
  simp only [State.readSector, hown, if_true, ge_iff_le, htok]
  rfl

/-- The owner token away: the read goes on to the last known owner (02 R42). -/
theorem readSector_forward (hown : (s.dirOf x).hown = false) :
    s.readSector c x = { s with
      flight := s.flight ++ [⟨.forward, portOf (x / 4), (s.dirOf x).ocore, .forwardedRead (s.dirOf x).ocore x c⟩]
      dir := Tab.put s.dir x { s.dirOf x with dmask := (s.dirOf x).dmask ||| (1#16 <<< (c / 16)) } } := by
  simp only [State.readSector, hown, Bool.false_eq_true, if_false]
  rfl

end

/-- The demands that go to the clusters of one die (02 R42). -/
def dieDemands (port x : Nat) (req : Option Nat) (k : Nat) : List Flight :=
  (List.range 4).map fun j => ⟨.forward, port, 16 * k + 4 * j, .demandForAllTokens (4 * k + j) x req⟩

theorem demands_eq (s : State) (port k x : Nat) (req : Option Nat) :
    s.demands port k x req = { s with flight := s.flight ++ dieDemands port x req k } := by
  simp [State.demands, dieDemands, State.send, List.range_succ]

theorem foldl_demands (s : State) (port x : Nat) (req : Option Nat) (ks : List Nat) :
    ks.foldl (fun s k => s.demands port k x req) s = { s with flight := s.flight ++ ks.flatMap (dieDemands port x req) } := by
  induction ks generalizing s with
  | nil => simp
  | cons k ks ih => rw [List.foldl_cons, ih, demands_eq, List.flatMap_cons, ← List.append_assoc]

/-- The home has the owner token and the host none: all the home's tokens go to the writer with the data, and every die of the bitmap is asked
for the others (02 R42). -/
theorem ownSector_flight {s : State} {c x : Nat} (hown : (s.dirOf x).hown = true) (hhost : (s.dirOf x).host = 0) (htok : 0 < (s.dirOf x).htok) :
    (s.ownSector c x).mem = s.mem ∧ (s.ownSector c x).flight = s.flight ++ [dataTokens s c x (s.dirOf x).htok true] ++
      ((List.range 16).filter fun k => (s.dirOf x).dmask.getLsbD k).flatMap (dieDemands (portOf (x / 4)) x (some c)) := by
  have hmask : (fun k => (s.dirOf x).dmask.toNat / 2 ^ k % 2 == 1) = fun k => (s.dirOf x).dmask.getLsbD k := by
    funext k
    rw [BitVec.getLsbD, Nat.testBit_eq_decide_div_mod_eq]
    rfl
  have hask (fl : List Flight) : ({ s with flight := fl } : State).askHost x = { s with flight := fl } := by
    have : (({ s with flight := fl } : State).dirOf x).host = 0 := hhost
    simp [State.askHost, this]
  simp only [State.ownSector, hown, gt_iff_lt, htok, if_true, tokensTo_data, hmask, foldl_demands, hask]
  exact ⟨rfl, rfl⟩

/-! ### Writes and atomics that are served -/

section
variable {s : State} {r : HomeReq}

theorem committed_non (hcls : r.cls = .non) (kind : Nat) (bytes : List (Nat × Byte)) (reply : List Byte) :
    s.committed kind r bytes reply = s.answer (slicePort (sliceOf r.line)) r reply 0 := by
  simp [State.committed, State.mustAccept, hcls]

theorem serve_write_non (hcls : r.cls = .non) (hd : s.deadWindow r = false) :
    s.serve 2 r = ((sectorsIn r.psn).foldl (fun s k => s.setHomePsn (r.line * 4 + k) true) (s.homeStore r.line r.bytes)).answer
      (slicePort (sliceOf r.line)) r [] 0 := by
  simp only [State.serve, hd, State.writeHome, hcls, committed_non hcls, Bool.false_eq_true, if_false]

theorem serve_atomic_non {a : Nat × Bool × AtOp × List AtLane} (hcls : r.cls = .non) (hd : s.deadWindow r = false) (ha : r.atom = some a) :
    s.serve 3 r = (s.homeStore r.line (atomicAt (s.homeLine r.line) a).1).answer (slicePort (sliceOf r.line)) r (atomicAt (s.homeLine r.line) a).2 0 := by
  simp only [State.serve, ha, hcls, beq_self_eq_true, if_true, hd, committed_non hcls, Bool.false_eq_true, if_false]

end

section
variable {s : State} {kind c w : Nat} {r : HomeReq} {l : LLine}

theorem ServedAtOnce.whole_hit (h : ServedAtOnce s kind r c w l) : (s.hitWay w l r).Whole r.line w (l.hit r) := State.whole_hitWay r h.whole

theorem ServedAtOnce.length_hit (h : ServedAtOnce s kind r c w l) : (l.hit r).bytes.length = 256 := h.stands.whole.2.2.2

/-- A request that changes its line in the slice alone, and then answers its core. -/
theorem ServedAtOnce.answered (h : ServedAtOnce s kind r c w l) {u : State} {l' : LLine} {data : List Byte}
    (hserve : (s.hitWay w l r).serve kind r = u.answer (slicePort (sliceOf r.line)) r data 0) (hu : (s.hitWay w l r).OnlySlices u)
    (hl : u.Whole r.line w l') :
    (s.atHome kind r).mem = s.mem ∧ (s.atHome kind r).dir = s.dir ∧ (s.atHome kind r).flight = s.flight ++ [answerTo r c data 0] ∧
      ((s.atHome kind r).slice (sliceOf r.line)).find r.line = some (w, l') := by
  have hs : s.OnlySlices u := (State.onlySlices_hitWay s w l r).trans hu
  rw [h.atHome, hserve, State.answer_core _ h.agent]
  exact ⟨hs.mem, hs.dir, by rw [← hs.flight], hl.found⟩

/-- Kind 2 (01 R31): the bytes stand in the line's way, every other byte of the line is as it was, and the sectors are dirty. -/
theorem ServedAtOnce.write_non (h : ServedAtOnce s 2 r c w l) (hcls : r.cls = .non) (hb : ∀ b, b ∈ r.bytes → b.1 < 256) :
    ∃ l', (s.atHome 2 r).mem = s.mem ∧ (s.atHome 2 r).dir = s.dir ∧ (s.atHome 2 r).flight = s.flight ++ [answerTo r c [] 0] ∧
      ((s.atHome 2 r).slice (sliceOf r.line)).find r.line = some (w, l') ∧ l'.bytes = ((l.hit r).putBytes r.bytes).bytes ∧
      ∀ b, b ∈ r.bytes → l'.dirty.getLsbD (b.1 / 64) = true := by
  obtain ⟨hs, hw⟩ := h.whole_hit.homeStore r.bytes hb
  have hlt : ∀ k, k ∈ sectorsIn r.psn → k < 4 := fun k hk => List.mem_range.mp (List.mem_filter.mp hk).1
  obtain ⟨hs', hw'⟩ := hw.foldl_setHomePsn true (sectorsIn r.psn) hlt
  obtain ⟨hmem, hdir, hfl, hfind⟩ := h.answered (serve_write_non hcls h.deadWindow) (hs.trans hs') hw'
  refine ⟨_, hmem, hdir, hfl, hfind, ?_, fun b hbm => ?_⟩
  · rw [LLine.foldl_putPsn_bytes, LLine.foldl_putPsn_bytes]
  · exact LLine.foldl_putPsn_dirty _ _ _ _ (LLine.foldl_putPsn_dirty _ _ _ _ (LLine.putBytes_dirty _ r.bytes b hbm (hb b hbm)))

/-- Kind 3 (01 R31, 14 R327): the word's new value stands at its offset, and the old values go back. -/
theorem ServedAtOnce.atomic_non (h : ServedAtOnce s 3 r c w l) (hcls : r.cls = .non) {off n : Nat} {wide : Bool} {op : AtOp} {ls : List AtLane}
    (ha : r.atom = some (off, wide, op, ls)) (hn : n = if wide then 8 else 4) (hoff : off + n ≤ 256) :
    let g := atGroup op wide (leNat ((s.homeLine r.line).drop off |>.take n)) ls
    ∃ l', (s.atHome 3 r).mem = s.mem ∧ (s.atHome 3 r).dir = s.dir ∧
      (s.atHome 3 r).flight = s.flight ++ [answerTo r c (g.2.flatMap fun y => leBytes 8 y.2.1.toNat ++ [if y.2.2 then 1 else 0]) 0] ∧
      ((s.atHome 3 r).slice (sliceOf r.line)).find r.line = some (w, l') ∧
      l'.bytes = ((l.hit r).putBytes (placed off (leBytes n g.1))).bytes := by
  intro g
  have hg : atomicAt ((s.hitWay w l r).homeLine r.line) (off, wide, op, ls) =
      (placed off (leBytes n g.1), g.2.flatMap fun y => leBytes 8 y.2.1.toNat ++ [if y.2.2 then 1 else 0]) := by
    simp only [atomicAt, h.sameHome.homeLine, ← hn]
    rfl
  have hb : ∀ b, b ∈ placed off (leBytes n g.1) → b.1 < 256 := by
    rintro ⟨k, v⟩ hkv
    obtain ⟨hk, hv⟩ := mem_placed.mp hkv
    obtain ⟨hlt, -⟩ := List.getElem?_eq_some_iff.mp hv
    have : k - off < n := by simpa [leBytes] using hlt
    simp only
    omega
  have hserve := serve_atomic_non hcls h.deadWindow ha
  rw [hg] at hserve
  obtain ⟨hs, hw⟩ := h.whole_hit.homeStore _ hb
  obtain ⟨hmem, hdir, hfl, hfind⟩ := h.answered hserve hs hw
  exact ⟨_, hmem, hdir, hfl, hfind, LLine.foldl_putPsn_bytes _ _ _⟩

/-! ### Requests of coherent pages that are served -/

theorem serve_coherent {u : State} (hcls : r.cls ≠ .non) (hone : r.smask = 1) :
    u.serve 0 r = u.readSector (reqCore r) (r.line * 4) ∧ u.serve 1 r = u.ownSector (reqCore r) (r.line * 4) := by
  simp [State.serve, hcls, reqSectors_one hone]

theorem ServedAtOnce.readShared_token (h : ServedAtOnce s 0 r c w l) (hcls : r.cls ≠ .non) (hone : r.smask = 1)
    (hown : (s.dirOf (r.line * 4)).hown = true) (htok : 2 ≤ (s.dirOf (r.line * 4)).htok) :
    s.atHome 0 r = { s.hitWay w l r with
      flight := s.flight ++ [dataTokens s c (r.line * 4) 1 false]
      dir := Tab.put s.dir (r.line * 4) { s.dirOf (r.line * 4) with
        htok := (s.dirOf (r.line * 4)).htok - 1, dmask := (s.dirOf (r.line * 4)).dmask ||| (1#16 <<< (c / 16)) } } := by
  have hread := readSector_token (s := s.hitWay w l r) (c := c) hown htok
  rw [h.atHome, (serve_coherent hcls hone).1, h.reqCore, hread, dataTokens_congr h.sameHome]
  rfl

theorem ServedAtOnce.readShared_forward (h : ServedAtOnce s 0 r c w l) (hcls : r.cls ≠ .non) (hone : r.smask = 1)
    (hown : (s.dirOf (r.line * 4)).hown = false) :
    s.atHome 0 r = { s.hitWay w l r with
      flight := s.flight ++ [⟨.forward, portOf r.line, (s.dirOf (r.line * 4)).ocore, .forwardedRead (s.dirOf (r.line * 4)).ocore (r.line * 4) c⟩]
      dir := Tab.put s.dir (r.line * 4) { s.dirOf (r.line * 4) with dmask := (s.dirOf (r.line * 4)).dmask ||| (1#16 <<< (c / 16)) } } := by
  have hread := readSector_forward (s := s.hitWay w l r) (c := c) hown
  rw [h.atHome, (serve_coherent hcls hone).1, h.reqCore, hread, Nat.mul_div_cancel _ (by omega)]
  rfl

theorem ServedAtOnce.readForOwnership_all (h : ServedAtOnce s 1 r c w l) (hcls : r.cls ≠ .non) (hone : r.smask = 1)
    (hown : (s.dirOf (r.line * 4)).hown = true) (hhost : (s.dirOf (r.line * 4)).host = 0) (htok : 0 < (s.dirOf (r.line * 4)).htok) :
    (s.atHome 1 r).mem = s.mem ∧ (s.atHome 1 r).flight = s.flight ++ [dataTokens s c (r.line * 4) (s.dirOf (r.line * 4)).htok true] ++
      ((List.range 16).filter fun k => (s.dirOf (r.line * 4)).dmask.getLsbD k).flatMap (dieDemands (portOf r.line) (r.line * 4) (some c)) := by
  have hasked := ownSector_flight (s := s.hitWay w l r) (c := c) hown hhost htok
  rw [dataTokens_congr h.sameHome, Nat.mul_div_cancel _ (by omega)] at hasked
  rw [h.atHome, (serve_coherent hcls hone).2, h.reqCore]
  exact hasked

end

/-- Settles O41: a request that is served at once hits its way and is served there, and each kind of service changes the slice, the directory and the
messages on their way as its own lemma above says. -/
theorem homeRequests : Obligations.HomeRequests := by
  intro s r c w l
  refine ⟨?readNon, ?readToken, ?readForwarded, ?ownership, ?write, ?atomic, ?copy, ?uncached, ?refused⟩
  case readNon =>
    intro he h hcls
    exact ⟨_, exec_readShared he, by rw [h.read_non (.inl rfl) hcls]; exact ⟨rfl, rfl, rfl⟩⟩
  case readToken =>
    intro he h hcls hone hown htok
    exact ⟨_, exec_readShared he, by rw [h.readShared_token hcls hone hown htok]; exact ⟨rfl, rfl, rfl⟩⟩
  case readForwarded =>
    intro he h hcls hone hown
    exact ⟨_, exec_readShared he, by rw [h.readShared_forward hcls hone hown]; exact ⟨rfl, rfl, rfl⟩⟩
  case ownership =>
    intro he h hcls hone hown hhost htok
    exact ⟨_, exec_readForOwnership he, h.readForOwnership_all hcls hone hown hhost htok⟩
  case write =>
    intro he h hcls _ hb
    obtain ⟨l', hmem, hdir, hfl, hfind, hbytes, hdirty⟩ := h.write_non hcls hb
    refine ⟨_, l', exec_writeAtHome he, hmem, hdir, hfl, hfind, ?_, ?_, ?_, hdirty⟩ <;> rw [hbytes]
    · rw [LLine.putBytes_length, h.length_hit]
    · exact fun k _ => LLine.putBytes_other _ _ k
    · exact fun k v hkv hone => LLine.putBytes_agreed _ _ k v (h.length_hit ▸ hb _ hkv) hone (.inl hkv)
  case atomic =>
    intro off wide op ls he h hcls ha hoff
    obtain ⟨l', hmem, hdir, hfl, hfind, hbytes⟩ := h.atomic_non hcls ha rfl hoff
    exact ⟨_, l', exec_atomicAtHome he, hmem, hdir, hfl, hfind, fun k hk => by rw [hbytes]; exact LLine.putBytes_word _ _ _ _ k h.length_hit hk⟩
  case copy =>
    intro he h hcls
    exact ⟨_, exec_copyRead he, by rw [h.read_non (.inr (.inl rfl)) hcls]; exact ⟨rfl, rfl, rfl⟩⟩
  case uncached =>
    intro he h hcls
    exact ⟨_, exec_uncachedRead he, by rw [h.read_non (.inr (.inr rfl)) hcls]; exact ⟨rfl, rfl, rfl⟩⟩
  case refused =>
    intro he h hcls
    exact ⟨_, exec_uncachedRead he, by rw [h.uncached_refused hcls]; exact ⟨rfl, rfl, rfl⟩⟩

/-! ### A persistent request of a page without tokens -/

/-- The persistent table of a slice, alone with one entry that is not active, makes that entry active. -/
theorem waitingEntries_one {x : Slice} {e : Persist} (hx : x.persist = [e]) (he : e.active = false) : x.waitingEntries = [e] := by
  simp [Slice.waitingEntries, hx, he]

/-- A persistent request for one sector, in a slice whose table is empty, is activated (02 R46). -/
theorem persistComes_alone {s : State} {r : HomeReq} {c : Nat} (own : Bool) (hagent : r.agent = .core c) (hfresh : freshAt s r.line c r.inc)
    (hone : r.smask = 1) (hpersist : (s.slice (sliceOf r.line)).persist = []) (hwait : (s.slice (sliceOf r.line)).persistWait = [])
    (hsound : (s.dirOf (r.line * 4)).barred = false) :
    ∃ u, s.OnlySlices u ∧ s.persistComes r own = u.activate ⟨r, own, false⟩ := by
  have hcore : reqCore r = c := by rw [reqCore, hagent]
  have hstale : s.staleFrom (sliceOf r.line) (reqCore r) r.inc = false := by rw [hcore]; exact hfresh.staleFrom
  have hcheck : s.checkEntries r = s := State.checkEntries_sound fun x hx => by
    rw [reqSectors_one hone, List.mem_singleton] at hx
    rw [hx, hsound]
  have hmask : sectorsIn 1 = [0] := by decide
  have hentry : ({ r with smask := set4 0 0 true } : HomeReq) = r := by
    have : set4 0 0 true = 1 := by decide
    rw [this, ← hone]
  simp only [State.persistComes, hstale, hcheck, hone, hmask, List.map_cons, List.map_nil, hentry, State.runPersist, State.updSlice,
    State.slice_putSlice, if_true, hpersist, hwait, Bool.false_eq_true, if_false]
  rw [waitingEntries_one (e := ⟨r, own, false⟩) rfl rfl]
  refine ⟨_, ?_, rfl⟩
  rfl

/-- An entry for a page without tokens moves none: an answer with the home copy goes to its core (02 R46). -/
theorem activate_non {s : State} {e : Persist} {c : Nat} (hagent : e.req.agent = .core c) (hcls : e.req.cls = .non) :
    (s.activate e).flight = s.flight ++ [answerTo e.req c (s.homeLine e.req.line) (s.homePsn4 e.req.line)] := by
  simp only [State.activate, hcls, beq_self_eq_true, if_true, State.answer_core _ hagent]
  rfl

/-- A request of core 0 for the first sector of line 0, of a page without tokens. -/
def pageWithoutTokens : HomeReq :=
  { id := 1, agent := .core 0, space := .pa, line := 0, smask := 1, cls := .non, nllc := false, ecls := .normal, inc := 0, bytes := [], atom := none }

/-- Refutes O42: the clause of the persistent request for ownership does not ask for a coherent page, and one of a page without tokens is answered
with the home copy, not with the 512 tokens that the clause names. -/
theorem not_tokensAndFills : ¬ Obligations.TokensAndFills := by
  rintro ⟨-, -, -, -, -, -, -, -, hpersistent, -, -⟩
  let s : State := { State.reset with ev := some (.persistentRequest pageWithoutTokens true) }
  obtain ⟨t, data, psn, hexec, -, -, hlast⟩ := hpersistent s pageWithoutTokens 0 rfl rfl (fun _ => rfl) rfl (by decide) rfl rfl (by decide)
  obtain ⟨u, -, hcomes⟩ := persistComes_alone (s := s) (r := pageWithoutTokens) true rfl (fun _ => rfl) rfl rfl rfl rfl
  rw [exec_persistentRequest (s := s) rfl, hcomes] at hexec
  cases hexec
  rw [activate_non rfl rfl, List.getLast?_concat] at hlast
  simp [answerTo] at hlast

end Sys2Proof.Rules
end

section
/-! The statement on the host's accesses (02_coherence R63 to R65, 03 R79, R85, 18 R409): a hit puts a line back under its way's number, so in a
table that names one way twice, under two lines, the other line loses its place. -/

namespace Sys2Proof.Rules

open Sys2Proof.Machine

/-- A line with all its sectors, and one byte value throughout. -/
def wholeLine (line : Nat) (b : Byte) : LLine :=
  { line := line, ecls := .normal, pending := false, waiters := [], valid := 0xF, dirty := 0, psn := 0, bytes := List.replicate 256 b }

/-- A slice whose table names way 15 twice: for line 65, whose bytes are 1, and for line 0. -/
def twiceNamed : Slice := { lines := [(15, wholeLine 65 1), (15, wholeLine 0 0)] }

/-- A bound device whose tenant has frame 0, and a write of no bytes through it at address 0. -/
def emptyWrite : State :=
  { State.reset with lds := [(0, 0)], dieTen := [(0, 0)], frameTen := [(0, 0)], slices := [(0, twiceNamed)]
                     ev := some (.hostCxlMemWrite 0 0 0 .non []) }

theorem emptyWrite_stands : Stands emptyWrite 0 15 (wholeLine 0 0) where
  alone := fun _ he => absurd he List.not_mem_nil
  hit := rfl
  whole := ⟨rfl, rfl, rfl, List.length_replicate⟩
  sound := rfl

/-- The write hits line 0, whose entry takes the place of the first that has its number: line 65's. -/
theorem exec_emptyWrite : exec .hostCxlMemWrite emptyWrite =
    .next (emptyWrite.hitWay 15 (wholeLine 0 0) (lineReq (0, .non, false, 0))) := rfl

theorem emptyWrite_homeByte : emptyWrite.homeByte (65 * 256) = 1 ∧
    (emptyWrite.hitWay 15 (wholeLine 0 0) (lineReq (0, .non, false, 0))).homeByte (65 * 256) = 0 := by
  decide +kernel

/-- Refutes O44: the clause of a host write to a line that stands does not ask that each way be named once in its slice's table. Where way 15 is
named twice, a write of no bytes to line 0 puts line 65, which it does not name, out of the slice. -/
theorem not_hostAndMappings : ¬ Obligations.HostAndMappings := by
  rintro ⟨-, hwrite, -⟩
  obtain ⟨-, -, hlines⟩ := hwrite emptyWrite 0 0 0 .non [] rfl
  obtain ⟨-, hstands⟩ := hlines rfl rfl rfl fun _ hy => absurd hy List.not_mem_nil
  obtain ⟨t, hexec, -, -, -, hothers, -⟩ := hstands 15 (wholeLine 0 0) emptyWrite_stands
  rw [exec_emptyWrite] at hexec
  cases hexec
  have hkept := hothers (65 * 256) fun _ hy => absurd hy List.not_mem_nil
  rw [emptyWrite_homeByte.1, emptyWrite_homeByte.2] at hkept
  exact absurd hkept (by decide)

end Sys2Proof.Rules
end

section
/-! What the death of a die, the end of warps and of nodes leave alone at the base: the dies, their tenants, the slices, the queues and what is
parked (02_coherence R57, 16_scheduling R374, 17_traps_and_preemption R389). Each lemma carries the agreement over one operation. -/

namespace Sys2Proof.Machine

/-- Two states agree in the dies and their tenants, the slices, the queues and what is parked. -/
structure State.SameBase (s t : State) : Prop where
  dies : t.dies = s.dies
  dieTen : t.dieTen = s.dieTen
  slices : t.slices = s.slices
  queues : t.queues = s.queues
  parked : t.parked = s.parked

namespace State.SameBase

theorem refl (s : State) : s.SameBase s := ⟨rfl, rfl, rfl, rfl, rfl⟩

variable {s t u : State}

/-- A change of other parts of the state. -/
theorem upd (h : s.SameBase t) (hu : t.SameBase u := by exact ⟨rfl, rfl, rfl, rfl, rfl⟩) : s.SameBase u :=
  ⟨hu.dies.trans h.dies, hu.dieTen.trans h.dieTen, hu.slices.trans h.slices, hu.queues.trans h.queues, hu.parked.trans h.parked⟩

theorem ite {p : Prop} [Decidable p] (ht : s.SameBase t) (hu : s.SameBase u) : s.SameBase (if p then t else u) := by
  split
  · exact ht
  · exact hu

theorem foldl {α : Type} {f : State → α → State} {l : List α} (h : s.SameBase t) (hf : ∀ u x, s.SameBase u → s.SameBase (f u x)) :
    s.SameBase (l.foldl f t) := by
  induction l generalizing t with
  | nil => exact h
  | cons x l ih => exact ih (hf t x h)

theorem die (h : s.SameBase t) (n : Nat) : t.die n = s.die n := by simp only [State.die, h.dies]
theorem slice (h : s.SameBase t) (n : Nat) : t.slice n = s.slice n := by simp only [State.slice, h.slices]
theorem queue (h : s.SameBase t) (n : Nat) : t.queue n = s.queue n := by simp only [State.queue, h.queues]

/-! ### Messages, and what arrives for warps -/

theorem send (h : s.SameBase t) {c : NetClass} {a b : Nat} {e : Ev} : s.SameBase (t.send c a b e) := h.upd

theorem emit (h : s.SameBase t) {e : Emit} : s.SameBase (t.emit e) := h.upd

theorem log (h : s.SameBase t) {k a b c d : Nat} : s.SameBase (t.log k a b c d) := h.upd

theorem updCore (h : s.SameBase t) {n : Nat} {f : Core → Core} : s.SameBase (t.updCore n f) := h.upd

theorem updCluster (h : s.SameBase t) {n : Nat} {f : Cluster → Cluster} : s.SameBase (t.updCluster n f) := h.upd

theorem updNode (h : s.SameBase t) {n : Nat} {f : Node → Node} : s.SameBase (t.updNode n f) := h.upd

theorem putMail (h : s.SameBase t) {n : Nat} {x : Mail} : s.SameBase (t.putMail n x) := h.upd

theorem arrive (h : s.SameBase t) {core wid : Nat} {e : Ev} : s.SameBase (t.arrive core wid e) := by
  rw [arrive_frame]
  exact h.upd

theorem arriveFut (h : s.SameBase t) {core : Nat} {f : FutAt} {v : W64} {eff : ResEff} : s.SameBase (t.arriveFut core f v eff) := h.arrive

theorem dispose (h : s.SameBase t) {m : MsgRec} {code : Nat} : s.SameBase (t.dispose m code) := by
  unfold State.dispose
  split
  · exact h.arriveFut
  · exact h.emit

/-! ### The end of a warp (12 R275, 16 R376, 17 R389) -/

theorem passLocks (h : s.SameBase t) {wid : Nat} : s.SameBase (t.passLocks wid) := by
  unfold State.passLocks
  exact h.foldl fun _ _ hu => ite (send hu.upd) hu

theorem leaveCore (h : s.SameBase t) {core nid : Nat} : s.SameBase (t.leaveCore core nid) :=
  ite h h.upd

theorem dropWarp (h : s.SameBase t) {a : WarpAt} {w : Warp} : s.SameBase (t.dropWarp a w) := by
  unfold State.dropWarp
  exact leaveCore h.upd

theorem failReply (h : s.SameBase t) {a : WarpAt} {w : Warp} : s.SameBase (t.failReply a w) := by
  unfold State.failReply
  split
  · exact h.send
  · exact h

theorem mailAdmits (h : s.SameBase t) {k : Nat} : s.SameBase (t.mailAdmits k) :=
  ite h (h.putMail.foldl fun _ _ hu => hu.dispose)

theorem dropMail (h : s.SameBase t) {core : Nat} {w : Warp} : s.SameBase (t.dropMail core w) := by
  refine foldl (foldl (foldl ?_ fun _ _ hu => hu.arriveFut) fun _ _ hu => hu.dispose) fun _ _ hu => hu.mailAdmits
  exact h.upd

theorem keepTile (h : s.SameBase t) {core e : Nat} : s.SameBase (t.keepTile core e) := ite h h.updCore

theorem endGroup (h : s.SameBase t) {nid key : Nat} : s.SameBase (t.endGroup nid key) := by
  refine foldl ?_ fun _ _ hu => hu.send
  have hkept := h.foldl (f := fun s (x : Nat × Nat × FutAt) => if s.groupWithin nid key x.1 then s else s.keepTile x.1 x.2.1)
    (l := t.cores.flatMap fun (k, c) => (c.tiles.filter fun (_, t) => t.nid == nid && t.grp == key && !t.orphan).map fun (e, t) => (k, e, t.fut))
    fun _ _ hu => ite hu hu.keepTile
  exact ⟨hkept.1, hkept.2, hkept.3, hkept.4, hkept.5⟩

theorem nodeDone (h : s.SameBase t) {nid : Nat} : s.SameBase (t.nodeDone nid) := by
  unfold State.nodeDone
  split
  · exact h
  · exact ite h.send h

theorem groupBarrierCheck (h : s.SameBase t) {nid : Nat} : s.SameBase (t.groupBarrierCheck nid) := by
  unfold State.groupBarrierCheck
  split
  · exact h
  · exact h.foldl fun _ _ hu => ite hu.send hu

theorem leaveGroups (h : s.SameBase t) {w : Warp} : s.SameBase (t.leaveGroups w) := by
  unfold State.leaveGroups
  split
  · exact h
  · refine nodeDone (groupBarrierCheck ?_)
    split
    · exact h.updNode
    · exact h.updNode.foldl fun _ _ hu => ite hu.endGroup hu

theorem awayCheck (h : s.SameBase t) {nid : Nat} : s.SameBase (t.awayCheck nid) := ite h.updNode h

theorem reap (h : s.SameBase t) {nid : Nat} : s.SameBase (t.reap nid) := ite h h.upd

theorem endWarp (h : s.SameBase t) {a : WarpAt} : s.SameBase (t.endWarp a) := by
  unfold State.endWarp
  split
  · exact h
  · exact h.passLocks.dropWarp.dropMail.leaveGroups.awayCheck.reap

theorem endSaved (h : s.SameBase t) {a : WarpAt} {w : Warp} : s.SameBase (t.endSaved a w) := by
  unfold State.endSaved
  refine reap (leaveGroups (dropMail (passLocks (failReply ?_))))
  exact h.upd

theorem killWarp (h : s.SameBase t) {a : WarpAt} : s.SameBase (t.killWarp a) := by
  unfold State.killWarp
  split
  · exact h
  · exact h.failReply.endWarp

theorem dropSuspended (h : s.SameBase t) {core wid : Nat} : s.SameBase (t.dropSuspended core wid) := by
  unfold State.dropSuspended
  exact h.updCore.updCluster

theorem killGroup (h : s.SameBase t) {nid key cause : Nat} : s.SameBase (t.killGroup nid key cause) :=
  foldl (h.updNode.log.foldl fun _ _ hu => hu.dropSuspended.killWarp) fun _ _ hu => hu.endSaved

/-! ### The death of a die (02 R57) -/

theorem killOn (h : s.SameBase t) {d : Nat} : s.SameBase (t.killOn d) := h.foldl fun _ _ hu => hu.updNode.killWarp

theorem exitsWithout (h : s.SameBase t) {d : Nat} : s.SameBase (t.exitsWithout d) := by
  refine h.foldl fun u r hu => ?_
  split
  · exact hu.updNode.nodeDone
  · exact hu

theorem copyCheck (h : s.SameBase t) {core slot : Nat} : s.SameBase (t.copyCheck core slot) := by
  unfold State.copyCheck
  split
  · split
    · exact ite (arrive h.updCore) h
    · exact h
  · exact h

theorem partLands (h : s.SameBase t) {p : CopyPart} {code : Nat} {stopped : Bool} : s.SameBase (t.partLands p code stopped) := by
  unfold State.partLands
  split
  · exact h
  · exact copyCheck h.updCore

theorem landOut (h : s.SameBase t) {o : OutWrite} : s.SameBase (t.landOut o) := by
  have hland {v : State} (hv : s.SameBase v) : s.SameBase (match o.copy with
      | none => v.updCore o.core fun c => c.poolLand o.bytes o.psn
      | some p => (if v.landCode o.core o.bytes p.owners != 0 || v.copyStopped p then v
          else v.updCore o.core fun c => c.poolLand o.bytes o.psn).partLands p (v.landCode o.core o.bytes p.owners) (v.copyStopped p)) := by
    split
    · exact hv.updCore
    · exact partLands (ite hv hv.updCore)
  have hsent : s.SameBase (o.next.foldl (fun s (k, e) => s.send .response o.core k e) t) := h.foldl fun _ _ hu => hu.send
  refine hland ?_
  split
  · exact hsent
  · split
    · exact hsent
    · dsimp only
      split
      · exact hsent.updCore.send
      · exact hsent.updCore

theorem endMove (h : s.SameBase t) {id code : Nat} : s.SameBase (t.endMove id code) := by
  unfold State.endMove
  split
  · exact h
  · refine arriveFut (updCore (keepTile (updCore (keepTile ?_))))
    exact h.upd

theorem movesWithout (h : s.SameBase t) {d : Nat} : s.SameBase (t.movesWithout d) := h.foldl fun _ _ hu => hu.endMove

theorem endRequests (h : s.SameBase t) {d : Nat} : s.SameBase (t.endRequests d) := h.foldl fun _ _ hu => hu.send

theorem moveReplies (h : s.SameBase t) {cen core e : Nat} : s.SameBase (t.moveReplies cen core e) := by
  unfold State.moveReplies
  exact h.foldl fun _ _ hu => ite (ite (arrive hu.upd) hu.upd) hu

theorem censusCheck (h : s.SameBase t) {cen : Nat} : s.SameBase (t.censusCheck cen) := by
  unfold State.censusCheck
  split
  · exact ite h.send h
  · exact h

theorem censusesWithout (h : s.SameBase t) {d : Nat} : s.SameBase (t.censusesWithout d) :=
  foldl h.upd fun _ _ hu => censusCheck (hu.foldl fun _ _ hv => hv.moveReplies)

theorem askHost (h : s.SameBase t) {x : Nat} : s.SameBase (t.askHost x) := ite h h.upd

theorem demands (h : s.SameBase t) {port die x : Nat} {r : Option Nat} : s.SameBase (t.demands port die x r) := h.foldl fun _ _ hu => hu.send

theorem recalls (h : s.SameBase t) {x : Nat} : s.SameBase (t.recall x) := send (askHost (h.foldl fun _ _ hu => hu.demands))

theorem lockWithout (h : s.SameBase t) {d : Nat} {held : List Nat} : s.SameBase (t.lockWithout d held) := by
  unfold State.lockWithout
  exact h.foldl fun _ _ hu => recalls hu.upd

end State.SameBase

end Sys2Proof.Machine
end

section
/-! The death of a die: what it changes of the dies, the slices' incarnation numbers and what is parked (02_coherence R56, R57). -/

namespace Sys2Proof

theorem Tab.look_mapAll {α β : Type} (t : Tab α) (f : Nat → α → β) (k : Nat) : Tab.look (Tab.mapAll t f) k = (Tab.look t k).map (f k) := by
  induction t with
  | nil => rfl
  | cons x r ih =>
    obtain ⟨a, v⟩ := x
    simp only [Tab.mapAll] at ih ⊢
    simp only [List.map_cons, Tab.look]
    split
    · rename_i h
      rw [h]
      rfl
    · exact ih

namespace Machine

/-- The slices change by themselves; a slice named in the list is changed. -/
theorem State.onlySlices_foldl_updSlice (f : Slice → Slice) (l : List Nat) (s : State) :
    s.OnlySlices (l.foldl (fun s n => s.updSlice n f) s) := by
  induction l generalizing s with
  | nil => rfl
  | cons n l ih => exact State.OnlySlices.trans (t := s.updSlice n f) rfl (ih _)

/-- The slices of the list hold the number that is told to them (02 R56). -/
theorem State.incs_foldl_updSlice (d k : Nat) (i : BitVec 16) (l : List Nat) (s : State)
    (h : k ∈ l ∨ Tab.get (s.slice k).incs 0 d = i) :
    Tab.get ((l.foldl (fun s n => s.updSlice n fun x => { x with incs := Tab.put x.incs d i }) s).slice k).incs 0 d = i := by
  induction l generalizing s with
  | nil => exact h.resolve_left List.not_mem_nil
  | cons n l ih =>
    refine ih _ ?_
    by_cases hk : k = n
    · right
      simp only [State.updSlice, State.slice_putSlice, hk, if_true, Tab.get_put]
    · simpa only [State.updSlice, State.slice_putSlice, hk, if_false, List.mem_cons, false_or] using h

/-- Telling a die's number to the slices changes them and the control die's copies alone (02 R56). -/
theorem State.tellInc_frame (s : State) (d : Nat) :
    s.tellInc d = { s with slices := (s.tellInc d).slices, controlIncs := (s.tellInc d).controlIncs } := by
  have h := State.onlySlices_foldl_updSlice (fun x => { x with incs := Tab.put x.incs d (s.die d).inc }) (List.range 64) s
  unfold State.OnlySlices at h
  unfold State.tellInc
  simp only
  rw [h]

theorem State.tellInc_incs (s : State) (d : Nat) {k : Nat} (hk : k < 64) : Tab.get ((s.tellInc d).slice k).incs 0 d = (s.die d).inc := by
  have h := State.incs_foldl_updSlice d k (s.die d).inc (List.range 64) s (.inl (List.mem_range.mpr hk))
  simpa only [State.tellInc, State.slice] using h

/-- The die as its death leaves it (02 R57). -/
def Die.died (x : Die) : Die := { x with dead := true, fenced := true, inc := x.inc + 1, leaseStop := false, debugHold := false }

namespace State.SameBase

variable {s t : State}

theorem logStale (h : s.SameBase t) {c : NetClass} {d : Nat} {i : BitVec 16} {a : Nat} : s.SameBase (t.logStale c d i a) := h.upd

end State.SameBase

/-- What the slices have forgotten of a die's requests, the log holds (02 R59). -/
theorem State.forgetDie_eq (s : State) (d : Nat) : ∃ u, s.SameBase u ∧
    s.forgetDie d = { u with slices := Tab.mapAll u.slices fun _ x => x.forget d } :=
  ⟨_, (State.SameBase.refl s).foldl fun _ _ hu => hu.logStale, rfl⟩

/-- The three parts of a die's death: it is marked and its next number told; messages that wait before it are lost; the slices forget its
requests. Nothing else of the base changes (02 R57). -/
theorem State.dieDies_alive {s : State} {d : Nat} (h : (s.die d).dead = false) : ∃ u v,
    ((s.updDie d Die.died).tellInc d).SameBase u ∧
    State.SameBase { u with parked := u.parked.filter fun f => !f.lost d } v ∧
    State.SameBase { v with slices := Tab.mapAll v.slices fun _ x => x.forget d } (s.dieDies d) := by
  generalize hr : s.dieDies d = r
  unfold State.dieDies at hr
  rw [if_neg (by simp [h])] at hr
  extract_lets held marked mine killed left voided voidPages outsOf landed moved ofCore ofCluster gone at hr
  have hmoved : marked.SameBase moved :=
    .movesWithout (.foldl (State.SameBase.refl marked).killOn.exitsWithout.upd fun _ _ hu => hu.landOut)
  obtain ⟨v, hv, hforget⟩ := State.forgetDie_eq gone d
  refine ⟨moved, v, hmoved, ((State.SameBase.refl _).upd (u := gone)).upd hv, ?_⟩
  rw [← hr, hforget]
  exact (State.SameBase.refl _).endRequests.censusesWithout.lockWithout

section
variable {s : State} {d : Nat}

theorem State.dieDies_dead (h : (s.die d).dead = true) : s.dieDies d = s := by
  unfold State.dieDies
  rw [if_pos h]

theorem State.dieDies_dies (h : (s.die d).dead = false) : (s.dieDies d).dies = Tab.put s.dies d (s.die d).died := by
  obtain ⟨u, v, hu, hv, ht⟩ := State.dieDies_alive h
  rw [ht.dies, hv.dies, hu.dies, State.tellInc_frame]
  rfl

theorem State.dieDies_incs (h : (s.die d).dead = false) {k : Nat} (hk : k < 64) :
    Tab.get ((s.dieDies d).slice k).incs 0 d = (s.die d).inc + 1 := by
  obtain ⟨u, v, hu, hv, ht⟩ := State.dieDies_alive h
  have hforget : ((s.dieDies d).slice k).incs = (v.slice k).incs := by
    simp only [State.slice, ht.slices, Tab.get, Tab.look_mapAll]
    cases Tab.look v.slices k <;> rfl
  rw [hforget, hv.slice]
  show Tab.get (u.slice k).incs 0 d = _
  rw [hu.slice, State.tellInc_incs _ _ hk, State.updDie, State.die_putDie, if_pos rfl]
  rfl

theorem State.dieDies_parked (h : (s.die d).dead = false) : (s.dieDies d).parked = s.parked.filter fun f => !f.lost d := by
  obtain ⟨u, v, hu, hv, ht⟩ := State.dieDies_alive h
  rw [ht.parked]
  refine hv.parked.trans ?_
  rw [hu.parked, State.tellInc_frame]
  rfl

theorem State.dieDies_dieTen (s : State) (d : Nat) : (s.dieDies d).dieTen = s.dieTen := by
  cases h : (s.die d).dead
  · obtain ⟨u, v, hu, hv, ht⟩ := State.dieDies_alive h
    rw [ht.dieTen, hv.dieTen, hu.dieTen, State.tellInc_frame]
    rfl
  · rw [State.dieDies_dead h]

theorem State.dieDies_queues (s : State) (d : Nat) : (s.dieDies d).queues = s.queues := by
  cases h : (s.die d).dead
  · obtain ⟨u, v, hu, hv, ht⟩ := State.dieDies_alive h
    rw [ht.queues, hv.queues, hu.queues, State.tellInc_frame]
    rfl
  · rw [State.dieDies_dead h]

/-- The die that dies is as its death leaves it, the others are as they were. -/
theorem State.die_dieDies (h : (s.die d).dead = false) (k : Nat) : (s.dieDies d).die k = if k = d then (s.die d).died else s.die k := by
  rw [State.die, State.dieDies_dies h, Tab.get_put]
  rfl

/-- A die that has died stays dead. -/
theorem State.dead_dieDies (s : State) (d k : Nat) (h : k = d ∨ (s.die k).dead = true) : ((s.dieDies d).die k).dead = true := by
  cases hd : (s.die d).dead
  · rw [State.die_dieDies hd]
    split
    · rfl
    · exact h.resolve_left ‹_›
  · rw [State.dieDies_dead hd]
    rcases h with rfl | h
    · exact hd
    · exact h

end

end Machine

end Sys2Proof
end

section
/-! Time at the base (02_coherence R49 to R54, R57, R61): the tick of the almanac, leases, recalls and directory errors, and the statement on them. -/

namespace Sys2Proof.Machine

/-! ### What the steps of time do with their events -/

theorem exec_almanacTick {s : State} (h : s.ev = some .almanacTick) : exec .almanacTick s = .next (if s.bringUp = 0 then s else s.ticks) := by
  change execAlmanacTick s = _
  simp only [execAlmanacTick, h]

theorem exec_renewalSend {s : State} {n : Nat} (h : s.ev = some (.renewalSend n)) : exec .renewalSend s = .next (s.renewalSent n) := by
  change execRenewalSend s = _
  simp only [execRenewalSend, h]

theorem exec_renewal {s : State} {n t : Nat} {inc : BitVec 16} (h : s.ev = some (.renewal n t inc)) :
    exec .renewal s = .next (s.renews n t inc) := by
  change execRenewal s = _
  simp only [execRenewal, h]

theorem exec_acknowledgement {s : State} {n e : Nat} (h : s.ev = some (.acknowledgement n e)) :
    exec .acknowledgement s = .next (s.acknowledged n e) := by
  change execAcknowledgement s = _
  simp only [execAcknowledgement, h]

theorem exec_leaseStop {s : State} {n : Nat} (h : s.ev = some (.leaseStop n)) :
    exec .leaseStop s = .next (if (s.die n).mustStop then s.updDie n fun d => { d with leaseStop := true } else s) := by
  change execLeaseStop s = _
  simp only [execLeaseStop, h]

theorem exec_declaredDead {s : State} {n : Nat} (h : s.ev = some (.declaredDead n)) :
    exec .declaredDead s = .next (if (s.die n).lapsed s.root then s.dieDies n else s) := by
  change execDeclaredDead s = _
  simp only [execDeclaredDead, h]

theorem exec_recallTimeout {s : State} {x : Nat} (h : s.ev = some (.recallTimeout x)) : exec .recallTimeout s = .next (
    if !(s.dirOf x).locked then s else if s.recallOpen x then s.park basePort basePort (.recallTimeout x) else s.recallEnds x) := by
  change execRecallTimeout s = _
  simp only [execRecallTimeout, h]

theorem exec_directoryError {s : State} {x : Nat} {hard : Bool} (h : s.ev = some (.directoryError x hard)) :
    exec .directoryError s = .next (s.dirError x hard) := by
  change execDirectoryError s = _
  simp only [execDirectoryError, h]

/-! ### The tick of the almanac (R49) -/

/-- A copy never falls back, stands within 4 ticks of the root, and runs no further ahead than that. -/
theorem copyAt_bounds (k root old : Nat) : old ≤ copyAt k root old ∧ root ≤ copyAt k root old + 4 ∧
    (old ≤ root + 4 → copyAt k root old ≤ root + 4) := by
  have hskew := Nat.mod_lt (Config.almanacSkew k root) (show 0 < 9 by omega)
  unfold copyAt
  omega

/-- A die as a tick leaves it: its copy follows while it has power. -/
def Die.ticked (root k : Nat) (d : Die) : Die := if d.powered then { d with almanac := copyAt k root d.almanac } else d

/-- The root and its copies have gone on, and what waited comes again. -/
def State.advanced (s : State) : State := { s with
  root := s.root + 1
  almanacs := copiesAt (s.root + 1) s.almanacs
  dies := Tab.mapAll s.dies (Die.ticked (s.root + 1))
  flight := s.parked ++ s.flight, parked := [] }

/-- Nothing has changed but the requests beyond the package and what has crossed its edge. -/
def State.OnlyFar (s t : State) : Prop := t = { s with farWait := t.farWait, out := t.out }

theorem State.OnlyFar.trans {s t u : State} (h : s.OnlyFar t) (h' : t.OnlyFar u) : s.OnlyFar u := by
  unfold State.OnlyFar at *
  rw [h] at h'
  exact h'

theorem State.onlyFar_foldl {α : Type} {f : State → α → State} (hf : ∀ (s : State) x, s.OnlyFar (f s x)) (l : List α) (s : State) :
    s.OnlyFar (l.foldl f s) := by
  induction l generalizing s with
  | nil => rfl
  | cons x l ih => exact (hf s x).trans (ih _)

theorem State.onlyFar_issueOne (s : State) (i : Nat) : s.OnlyFar (s.issueOne i) := by
  unfold State.issueOne
  split
  · rfl
  · split
    · rfl
    · split
      · rfl
      · exact .trans (t := { s with farWait := _ }) rfl (State.onlyFar_foldl (f := State.emit) (fun _ _ => rfl) _ _)

theorem State.onlyFar_issueFar (s : State) : s.OnlyFar s.issueFar := State.onlyFar_foldl State.onlyFar_issueOne _ _

/-- Nothing has changed but what comes from outside and what goes there. -/
def State.OnlyLink (s t : State) : Prop := t = { s with flight := t.flight, linkWait := t.linkWait, out := t.out }

theorem State.OnlyLink.trans {s t u : State} (h : s.OnlyLink t) (h' : t.OnlyLink u) : s.OnlyLink u := by
  unfold State.OnlyLink at *
  rw [h] at h'
  exact h'

theorem State.onlyLink_comes (s : State) (e : Ev) : s.OnlyLink (s.comes e) := by
  unfold State.comes
  extract_lets
  split
  · rfl
  · split
    · rfl
    · rfl

theorem State.onlyLink_foldl_comes (l : List Ev) (s : State) : s.OnlyLink (l.foldl State.comes s) := by
  induction l generalizing s with
  | nil => rfl
  | cons e l ih => exact (s.onlyLink_comes e).trans (ih _)

theorem State.onlyLink_linkTick (s : State) : s.OnlyLink s.linkTick := by
  unfold State.linkTick
  extract_lets l
  split
  · rfl
  · exact .trans (t := { s with linkWait := [] }) rfl (State.onlyLink_foldl_comes l _)

theorem State.linkTick_nil {s : State} (h : s.linkWait = []) : s.linkTick = s := by
  simp [State.linkTick, h]

theorem State.holdTimeouts_frame (s : State) : s.holdTimeouts = { s with cores := s.holdTimeouts.cores } := by
  unfold State.holdTimeouts
  split
  · rfl
  · rfl

theorem State.retryInputs_quiet {s : State} (h : ∀ x, x ∈ s.slices → x.2.input = []) : s.retryInputs = s := by
  have hnone : (s.slices.filter fun x => !x.2.input.isEmpty) = [] := List.filter_eq_nil_iff.mpr fun x hx => by simp [h x hx]
  exact congrArg (fun l : Tab Slice => (l.map Prod.fst).foldl State.retryInput s) hnone

/-- No request waits in a slice. -/
def State.quiet (s : State) : Prop := ∀ x, x ∈ s.slices → x.2.input = [] ∧ x.2.persist = [] ∧ x.2.persistWait = []

/-- The persistent tables of the slices that have one go on. -/
def State.runAllPersist (s : State) : State :=
  (s.slices.filter fun x => !x.2.persist.isEmpty || !x.2.persistWait.isEmpty).foldl (fun s x => s.runPersist x.1) s

theorem State.runAllPersist_quiet {s : State} (h : s.quiet) : s.runAllPersist = s := by
  have hnone : (s.slices.filter fun x => !x.2.persist.isEmpty || !x.2.persistWait.isEmpty) = [] :=
    List.filter_eq_nil_iff.mpr fun x hx => by simp [h x hx]
  unfold State.runAllPersist
  rw [hnone]
  rfl

/-- The parts of a tick, in their order. -/
theorem State.ticks_eq (s : State) : s.ticks =
    (s.advanced.mailTick.holdTimeouts.retryInputs.issueFar.linkTick.runAllPersist).later
      (s.advanced.mailTick.holdTimeouts.retryInputs.issueFar.linkTick.runAllPersist).dueNow := rfl

/-- While no request waits in a slice, a tick moves the clocks, and beside them only mailboxes, the cores' timeouts, the requests to and from
outside, and what is then due. -/
theorem State.ticks_quiet {s : State} (h : s.quiet) : ∃ u : State,
    u = { s.advanced with mails := u.mails, cores := u.cores, farWait := u.farWait, out := u.out } ∧
    s.ticks = u.linkTick.later u.linkTick.dueNow := by
  have hheld := State.holdTimeouts_frame s.advanced.mailTick
  have hslices : s.advanced.mailTick.holdTimeouts.slices = s.slices := by rw [hheld]; rfl
  have hretry : s.advanced.mailTick.holdTimeouts.retryInputs = s.advanced.mailTick.holdTimeouts :=
    State.retryInputs_quiet fun x hx => (h x (hslices ▸ hx)).1
  have hfar := State.onlyFar_issueFar s.advanced.mailTick.holdTimeouts
  have hlink := State.onlyLink_linkTick s.advanced.mailTick.holdTimeouts.issueFar
  have hpersist : s.advanced.mailTick.holdTimeouts.issueFar.linkTick.runAllPersist = s.advanced.mailTick.holdTimeouts.issueFar.linkTick :=
    State.runAllPersist_quiet <| by
      rw [hlink, hfar, hheld]
      exact h
  refine ⟨s.advanced.mailTick.holdTimeouts.issueFar, ?_, ?_⟩
  · rw [hfar, hheld]
    rfl
  · rw [State.ticks_eq, hretry, hpersist]

/-- A die's copy after a tick (R49). -/
theorem Die.ticked_bounds (root k : Nat) (d : Die) : d.almanac ≤ (d.ticked root k).almanac ∧
    (d.powered = true → root ≤ (d.ticked root k).almanac + 4) ∧ (d.almanac ≤ root + 4 → (d.ticked root k).almanac ≤ root + 4) := by
  obtain ⟨hold, hroot, hahead⟩ := copyAt_bounds k root d.almanac
  unfold Die.ticked
  split
  · exact ⟨hold, fun _ => hroot, hahead⟩
  · exact ⟨le_rfl, fun hp => absurd hp ‹_›, id⟩

/-- With nothing from outside that waits, memory and warps are as they were, and what was parked comes before what is on its way. -/
theorem State.ticks_unlinked {s : State} (h : s.quiet) (hlink : s.linkWait = []) : s.ticks.root = s.root + 1 ∧ s.ticks.mem = s.mem ∧
    s.ticks.warps = s.warps ∧ s.ticks.flight = s.parked ++ s.flight ∧ s.ticks.parked = [] ∧ s.ticks.dies = Tab.mapAll s.dies (Die.ticked (s.root + 1)) := by
  obtain ⟨u, hu, ht⟩ := State.ticks_quiet h
  have hwait : u.linkWait = [] := by rw [hu]; exact hlink
  rw [ht, State.linkTick_nil hwait, hu]
  exact ⟨rfl, rfl, rfl, rfl, rfl, rfl⟩

theorem State.ticks_almanacs {s : State} (h : s.quiet) : s.ticks.almanacs = copiesAt (s.root + 1) s.almanacs := by
  obtain ⟨u, hu, ht⟩ := State.ticks_quiet h
  rw [ht, State.onlyLink_linkTick u, hu]
  rfl

theorem copiesAt_getD (root : Nat) (old : List Nat) {k : Nat} (hk : k < 66) :
    (copiesAt root old).getD k 0 = copyAt (16 + k) root (old.getD k 0) := by
  simp [copiesAt, hk]

/-! ### Leases (R50 to R54) -/

theorem Die.accepts_iff (d : Die) (root : Nat) (inc : BitVec 16) : d.accepts root inc = true ↔
    d.powered = true ∧ d.dead = false ∧ inc = d.inc ∧ (d.fresh = true ∨ d.debugHold = true ∨ root < d.expiry) := by
  simp [Die.accepts, and_assoc, or_assoc]

/-- A renewal that the lease unit accepts, before it looks whether bring-up is complete (R50). -/
def State.renewed (s : State) (n t : Nat) : State :=
  (s.putDie n { s.die n with expiry := t + 2 ^ 16, fresh := false, slowest := (s.die n).mhz }).send .response 512 (16 * n)
    (.acknowledgement n (t + 2 ^ 16))

theorem State.renews_accepted {s : State} {n t : Nat} {inc : BitVec 16} (h : (s.die n).accepts s.root inc = true) :
    s.renews n t inc = (s.renewed n t).leasesHeld := by
  unfold State.renews
  rw [if_pos h]
  rfl

theorem State.renews_refused {s : State} {n t : Nat} {inc : BitVec 16} (h : ¬ (s.die n).accepts s.root inc = true) :
    s.renews n t inc = s.log 7 4 n inc.toNat 0 := by
  unfold State.renews
  rw [if_neg h]

/-- Before its last step and after it bring-up does not wait for leases. -/
theorem State.leasesHeld_other {s : State} (h : s.bringUp ≠ 5) : s.leasesHeld = s := by
  simp [State.leasesHeld, h]

theorem Die.lapsed_iff (d : Die) (root : Nat) : d.lapsed root = true ↔
    d.powered = true ∧ d.dead = false ∧ d.fresh = false ∧ d.debugHold = false ∧ d.expiry + d.guard ≤ root := by
  simp [Die.lapsed, and_assoc]

theorem Die.mustStop_iff (d : Die) : d.mustStop = true ↔
    d.powered = true ∧ d.dead = false ∧ d.leaseStop = false ∧ d.debugHold = false ∧ d.known ≤ d.almanac + d.guard := by
  simp [Die.mustStop, and_assoc]

/-! ### Recalls (R57, R61) -/

/-- A slice at whose input nothing waits, and whose lines all stay, has nothing to try again. -/
theorem State.retryInput_idle {s : State} {n : Nat} (h : Rules.idleSlice s n) : s.retryInput n = s := by
  obtain ⟨hinput, hstay⟩ := h
  have hnone : ((s.slice n).lines.filter fun y => y.2.leaving.isSome) = [] :=
    List.filter_eq_nil_iff.mpr fun y hy => by simp [hstay y hy]
  have hleaves : s.leaves n = s :=
    congrArg (fun l : Tab LLine => l.foldl (fun (s : State) (y : Nat × LLine) => (s.vacate n y.1).getD s) s) hnone
  simp [State.retryInput, hleaves, hinput]

theorem State.runAllRels_none {s : State} (h : ∀ c, c ∈ s.cores → c.2.rels = []) : s.runAllRels = s := by
  have hnone : (s.cores.filter fun c => !c.2.rels.isEmpty) = [] := List.filter_eq_nil_iff.mpr fun c hc => by simp [h c hc]
  exact congrArg (fun l : Tab Core => l.foldl (fun s c => s.runRels c.1) s) hnone

/-- The home holds all tokens of a sector again, and nothing has waited for them. -/
theorem State.recall_idle {s : State} {x : Nat} (hidle : Rules.idleSlice s (sliceOf (x / 4))) (hrels : ∀ c, c ∈ s.cores → c.2.rels = []) :
    ((s.putDir x {}).retryInput (sliceOf (x / 4))).runAllRels = s.putDir x {} := by
  rw [State.retryInput_idle (s := s.putDir x {}) hidle, State.runAllRels_none (s := s.putDir x {}) hrels]

/-! ### Poison put into a sector's home (R61, 01 R21) -/

theorem bit4_set4 (m : BitVec 4) {k : Nat} (hk : k < 4) : bit4 (set4 m k true) k = true := by
  have h := set4_sets m hk
  rw [BitVec.getLsbD, Nat.testBit_eq_decide_div_mod_eq] at h
  simpa [bit4] using h

theorem State.setHomePsn_frame (s : State) (x : Nat) (on : Bool) : s.setHomePsn x on = { s with
    slices := (s.setHomePsn x on).slices, badDram := (s.setHomePsn x on).badDram } := by
  unfold State.setHomePsn
  extract_lets
  split
  · rfl
  · split
    · rfl
    · rfl

/-- The slice's way that holds a sector, with its poison bit set or cleared (01 R21). -/
def Slice.putPsn (sl : Slice) (x : Nat) (on : Bool) : Slice :=
  { sl with lines := sl.lines.map fun e => (e.1, if e.2.line == x / 4 then e.2.putPsn on (x % 4) else e.2) }

/-- The write-back of a sector, with its poison bit set or cleared (01 R30). -/
def Slice.putWbPsn (sl : Slice) (x : Nat) (on : Bool) : Slice :=
  { sl with wb := sl.wb.map fun e => if e.line == x / 4 then { e with psn := set4 e.psn (x % 4) on } else e }

/-- Poison goes where the sector stands: into its way, its write-back, or memory. -/
theorem State.setHomePsn_cases (s : State) (x : Nat) (on : Bool) :
    (∃ y, (s.slice (sliceOf (x / 4))).held x = some y ∧
      s.setHomePsn x on = s.putSlice (sliceOf (x / 4)) ((s.slice (sliceOf (x / 4))).putPsn x on)) ∨
    (∃ e, (s.slice (sliceOf (x / 4))).held x = none ∧ (s.slice (sliceOf (x / 4))).buffered x = some e ∧
      s.setHomePsn x on = s.putSlice (sliceOf (x / 4)) ((s.slice (sliceOf (x / 4))).putWbPsn x on)) ∨
    ((s.slice (sliceOf (x / 4))).held x = none ∧ (s.slice (sliceOf (x / 4))).buffered x = none ∧
      s.setHomePsn x on = { s with badDram := (s.setHomePsn x on).badDram } ∧ (on = true → (s.setHomePsn x on).badDram.contains x = true)) := by
  unfold State.setHomePsn
  extract_lets n sl k
  cases hheld : sl.held x with
  | some y => exact .inl ⟨y, rfl, rfl⟩
  | none =>
    cases hbuf : sl.buffered x with
    | some e => exact .inr (.inl ⟨e, rfl, rfl, rfl⟩)
    | none => exact .inr (.inr ⟨rfl, rfl, rfl, fun hon => by simp [hon]⟩)

theorem State.idleSlice_setHomePsn {s : State} {x : Nat} (on : Bool) (h : Rules.idleSlice s (sliceOf (x / 4))) :
    Rules.idleSlice (s.setHomePsn x on) (sliceOf (x / 4)) := by
  obtain ⟨hinput, hstay⟩ := h
  unfold Rules.idleSlice
  rcases s.setHomePsn_cases x on with ⟨y, -, he⟩ | ⟨e, -, -, he⟩ | ⟨-, -, he, -⟩
  · rw [he, State.slice_putSlice, if_pos rfl]
    refine ⟨hinput, fun y hy => ?_⟩
    obtain ⟨z, hz, rfl⟩ := List.mem_map.mp hy
    dsimp only
    split
    · exact hstay z hz
    · exact hstay z hz
  · rw [he, State.slice_putSlice, if_pos rfl]
    exact ⟨hinput, hstay⟩
  · rw [he]
    exact ⟨hinput, hstay⟩

theorem Slice.held_putPsn {sl : Slice} {x w : Nat} {l : LLine} (h : sl.held x = some (w, l)) (on : Bool) :
    (sl.putPsn x on).held x = some (w, l.putPsn on (x % 4)) := by
  unfold Slice.held at h ⊢
  cases hfind : sl.find (x / 4) with
  | none => simp [hfind] at h
  | some y =>
    obtain ⟨v, m⟩ := y
    have hput : (sl.putPsn x on).find (x / 4) = some (v, m.putPsn on (x % 4)) := Slice.find_map (LLine.putPsn on · (x % 4)) (fun _ => rfl) hfind
    simp only [hfind, Option.ite_none_right_eq_some, Option.some.injEq, Prod.mk.injEq] at h
    obtain ⟨hstands, rfl, rfl⟩ := h
    simp only [hput]
    exact if_pos hstands

theorem Slice.buffered_putWbPsn {sl : Slice} {x : Nat} {e : WbEntry} (h : sl.buffered x = some e) (on : Bool) :
    (sl.putWbPsn x on).buffered x = some { e with psn := set4 e.psn (x % 4) on } := by
  unfold Slice.buffered at h ⊢
  have hfound := List.find?_some h
  have hline : (e.line == x / 4) = true := (Bool.and_eq_true_iff.mp hfound).1
  have hkey : ((fun e : WbEntry => e.line == x / 4 && bit4 e.dirty (x % 4)) ∘ fun e : WbEntry =>
      if e.line == x / 4 then { e with psn := set4 e.psn (x % 4) on } else e) = fun e => e.line == x / 4 && bit4 e.dirty (x % 4) := by
    funext e
    simp only [Function.comp]
    split <;> rfl
  unfold Slice.putWbPsn
  simp only [List.find?_map, hkey, h, Option.map_some, hline, if_true]

theorem State.homePsn_setHomePsn (s : State) (x : Nat) : (s.setHomePsn x true).homePsn x = true := by
  have hbit (m : BitVec 4) : bit4 (set4 m (x % 4) true) (x % 4) = true := bit4_set4 m (by omega)
  unfold State.homePsn
  rcases s.setHomePsn_cases x true with ⟨⟨w, l⟩, hheld, he⟩ | ⟨e, hheld, hbuf, he⟩ | ⟨hheld, hbuf, he, hbad⟩
  · simp only [he, State.slice_putSlice, if_true, Slice.held_putPsn hheld]
    exact hbit l.psn
  · have hnone : ((s.slice (sliceOf (x / 4))).putWbPsn x true).held x = none := hheld
    simp only [he, State.slice_putSlice, if_true, hnone, Slice.buffered_putWbPsn hbuf]
    exact hbit e.psn
  · have hslice : (s.setHomePsn x true).slice (sliceOf (x / 4)) = s.slice (sliceOf (x / 4)) := by rw [he]; rfl
    simp only [hslice, hheld, hbuf, hbad rfl, Bool.true_or]

/-! ### Directory errors (R61) -/

/-- After a directory error a recall that has brought the tokens back exactly ends without poison. -/
def DirEntry.regained (d : DirEntry) : Prop := d.htok = 512 ∧ d.hown = true ∧ d.extra = false

theorem State.recallEnds_sound {s : State} {x : Nat} (h : (s.dirOf x).error = false ∨ (s.dirOf x).regained)
    (hidle : Rules.idleSlice s (sliceOf (x / 4))) (hrels : ∀ c, c ∈ s.cores → c.2.rels = []) : s.recallEnds x = s.putDir x {} := by
  have hjudged : ((s.dirOf x).error && !((s.dirOf x).htok == Config.nTokens && (s.dirOf x).hown && !(s.dirOf x).extra)) = false := by
    rcases h with h | ⟨htok, hown, hextra⟩
    · simp [h]
    · simp [htok, hown, hextra, Config.nTokens]
  unfold State.recallEnds
  simp only [hjudged, Bool.false_eq_true, if_false]
  exact State.recall_idle hidle hrels

/-- The sector with poison in its home copy, and the record of it (17 R400). -/
def State.poisoned (s : State) (x : Nat) : State := (s.setHomePsn x true).log 5 1 (sliceOf (x / 4)) 0 (x * 64)

theorem State.recallEnds_poisoned {s : State} {x : Nat} (herr : (s.dirOf x).error = true) (h : ¬ (s.dirOf x).regained)
    (hidle : Rules.idleSlice s (sliceOf (x / 4))) (hrels : ∀ c, c ∈ s.cores → c.2.rels = []) :
    s.recallEnds x = (s.poisoned x).putDir x {} := by
  have hjudged : ((s.dirOf x).error && !((s.dirOf x).htok == Config.nTokens && (s.dirOf x).hown && !(s.dirOf x).extra)) = true := by
    by_contra hnot
    refine h ?_
    simpa [herr, DirEntry.regained, Config.nTokens, and_assoc] using hnot
  unfold State.recallEnds
  simp only [hjudged, if_true]
  refine State.recall_idle (s := s.poisoned x) (State.idleSlice_setHomePsn true hidle) ?_
  rw [State.poisoned, State.log_cores, State.setHomePsn_frame]
  exact hrels

/-- The host is asked at most: the entry's other fields stand. -/
theorem State.askHost_frame (s : State) (x : Nat) : s.askHost x = { s with dir := (s.askHost x).dir, out := (s.askHost x).out } := by
  unfold State.askHost
  extract_lets d
  split
  · rfl
  · rfl

theorem State.dirOf_askHost (s : State) (x : Nat) : ∃ b, (s.askHost x).dirOf x = { s.dirOf x with snooped := b } := by
  unfold State.askHost
  extract_lets d
  split
  · exact ⟨d.snooped, rfl⟩
  · exact ⟨true, (State.dirOf_putDir ..).trans (if_pos rfl)⟩

/-- A recall demands the sector's tokens of the live dies of its bitmap, and its end is looked for behind them (R57). -/
theorem State.recall_flight (s : State) (x : Nat) : (s.recall x).flight = s.flight ++
    (s.liveDies (s.dirOf x).dmask).flatMap (Rules.dieDemands (Rules.portOf (x / 4)) x none) ++ [⟨.request, 512, 512, .recallTimeout x⟩] := by
  unfold State.recall
  extract_lets port t
  rw [State.askHost_frame]
  show t.flight ++ _ = _
  rw [show t = _ from Rules.foldl_demands s port x none _]
  rfl

theorem State.recall_mem (s : State) (x : Nat) : (s.recall x).mem = s.mem := by
  unfold State.recall
  extract_lets port t
  rw [State.askHost_frame]
  show t.mem = _
  rw [show t = _ from Rules.foldl_demands s port x none _]

theorem State.dirOf_recall (s : State) (x : Nat) : ∃ b, (s.recall x).dirOf x = { s.dirOf x with snooped := b } := by
  unfold State.recall
  extract_lets port t
  obtain ⟨b, hb⟩ := t.dirOf_askHost x
  refine ⟨b, hb.trans ?_⟩
  rw [show t = _ from Rules.foldl_demands s port x none _]
  rfl

theorem State.testBegins_frame (s : State) (r : Resource) : s.testBegins r = { s with testing := (s.testBegins r).testing } := by
  unfold State.testBegins
  split
  · rfl
  · rfl

/-- Where an entry cannot be corrected, its sector is locked and all dies are recalled, whatever the entry says (R61). -/
theorem State.dirError_hard (s : State) (x : Nat) : ∃ u : State, s.dirError x true = u.recall x ∧
    u = { s with dir := u.dir, out := u.out, testing := u.testing } ∧ (u.dirOf x).locked = true ∧ (u.dirOf x).error = true ∧
    (u.dirOf x).dmask = 0xFFFF := by
  unfold State.dirError
  rw [if_pos rfl]
  extract_lets old t d u
  have hd : d = { s.dirOf x with dmask := 0xFFFF, ocore := 0, locked := true, error := true, extra := false } :=
    (State.dirOf_putDir ..).trans (if_pos rfl)
  have hu : u = { s with dir := u.dir, out := u.out } ∧ ∃ b, u.dirOf x = { d with snooped := b } := by
    unfold u
    split
    · exact ⟨rfl, true, (State.dirOf_putDir ..).trans (if_pos rfl)⟩
    · exact ⟨rfl, d.snooped, rfl⟩
  obtain ⟨hframe, b, hb⟩ := hu
  refine ⟨_, rfl, ?_, ?_⟩
  · rw [State.testBank, State.testBegins_frame, hframe]
  · have hsame : (u.testBank x).dirOf x = u.dirOf x := by rw [State.testBank, State.testBegins_frame]; rfl
    rw [hsame, hb, hd]
    exact ⟨rfl, rfl, rfl⟩

theorem State.mem_liveDies_all (s : State) {k : Nat} (hk : k < 16) (hp : (s.die k).powered = true) (hd : (s.die k).dead = false) :
    k ∈ s.liveDies 0xFFFF := by
  have hall : ∀ k, k < 16 → 65535 / 2 ^ k % 2 = 1 := by decide
  simp [State.liveDies, hk, hp, hd, hall k hk]

end Sys2Proof.Machine
end

section
/-! The statement on time, leases, recalls and directory errors, assembled clause by clause from the lemmas on each of them. -/

namespace Sys2Proof.Rules

open Sys2Proof.Machine

/-- The messages that wait when a die has died go to no core of it (02 R57). -/
theorem parked_of_dead {s : State} {n : Nat} (h : (s.die n).dead = false) {f : Flight} (hf : f ∈ (s.dieDies n).parked) (hcore : f.dst < 256) :
    f.dst / 16 ≠ n := by
  rw [State.dieDies_parked h, List.mem_filter] at hf
  intro heq
  have hlost : f.lost n = true := by simp [Flight.lost, dieOf, hcore, heq]
  simp [hlost] at hf

/-- A directory error that cannot be corrected asks every cluster of each live die (02 R61). -/
theorem demand_of_dirError {s u : State} {x k j : Nat} (hu : u.dies = s.dies) (hmask : (u.dirOf x).dmask = 0xFFFF) (hk : k < 16) (hj : j < 4)
    (hp : (s.die k).powered = true) (hd : (s.die k).dead = false) :
    (⟨.forward, portOf (x / 4), 16 * k + 4 * j, .demandForAllTokens (4 * k + j) x none⟩ : Flight) ∈ (u.recall x).flight := by
  have hdie : u.die k = s.die k := congrArg (fun t : Tab Die => Tab.get t {} k) hu
  have hlive : k ∈ u.liveDies (u.dirOf x).dmask := by
    rw [hmask]
    exact u.mem_liveDies_all hk (hdie ▸ hp) (hdie ▸ hd)
  rw [State.recall_flight]
  refine List.mem_append_left _ (List.mem_append_right _ (List.mem_flatMap.mpr ⟨k, hlive, ?_⟩))
  exact List.mem_map.mpr ⟨j, List.mem_range.mpr hj, rfl⟩

/-- Settles O43: a tick, each step of a lease, a death, and each end of a recall are as their own lemmas say. -/
theorem timeAndLeases : Obligations.TimeAndLeases := by
  refine ⟨?off, ?tick, ?almanacs, ?renewalSend, ?renewal, ?acknowledgement, ?leaseStop, ?death, ?unlocked, ?recalled, ?corrected, ?uncorrectable⟩
  case off =>
    intro s he hoff
    rw [exec_almanacTick he, if_pos hoff]
  case tick =>
    intro s he hup hlink hquiet
    obtain ⟨hroot, hmem, hwarps, hflight, hparked, hdies⟩ := State.ticks_unlinked hquiet hlink
    refine ⟨s.ticks, by rw [exec_almanacTick he, if_neg hup], hroot, hmem, hwarps, hflight, hparked, fun k d hd => ?_⟩
    exact ⟨d.ticked (s.root + 1) k, by rw [hdies, Tab.look_mapAll, hd]; rfl, Die.ticked_bounds (s.root + 1) k d⟩
  case almanacs =>
    intro s k he hup hk hquiet
    refine ⟨s.ticks, by rw [exec_almanacTick he, if_neg hup], ?_⟩
    rw [State.ticks_almanacs hquiet, copiesAt_getD _ _ hk]
    exact copyAt_bounds (16 + k) (s.root + 1) (s.almanacs.getD k 0)
  case renewalSend =>
    intro s n he hp hd
    rw [exec_renewalSend he]
    simp only [State.renewalSent, hp, hd, Bool.not_true, Bool.or_self, Bool.false_eq_true, if_false]
    rfl
  case renewal =>
    intro s n t inc he
    refine ⟨fun hok hup => ?_, fun hno => ?_⟩
    · rw [exec_renewal he, State.renews_accepted ((Die.accepts_iff _ _ _).mpr hok), State.leasesHeld_other (s := s.renewed n t) hup]
      rfl
    · rw [exec_renewal he, State.renews_refused (mt (Die.accepts_iff _ _ _).mp hno)]
  case acknowledgement =>
    intro s n e he hd hlater
    rw [exec_acknowledgement he]
    simp only [State.acknowledged, hd, Bool.false_or, decide_eq_true_eq, Nat.not_le.mpr hlater, if_false]
  case leaseStop =>
    intro s n he hp hd hl hh hlate
    rw [exec_leaseStop he, if_pos ((Die.mustStop_iff _).mpr ⟨hp, hd, hl, hh, by unfold Die.guard; omega⟩)]
    rfl
  case death =>
    intro s n he hp hd hf hh hlate
    have hlapsed := (Die.lapsed_iff (s.die n) s.root).mpr ⟨hp, hd, hf, hh, by unfold Die.guard; omega⟩
    have hdie : (s.dieDies n).die n = (s.die n).died := (State.die_dieDies hd n).trans (if_pos rfl)
    refine ⟨s.dieDies n, by rw [exec_declaredDead he, if_pos hlapsed], ?_, ?_, ?_, fun k hk => State.dieDies_incs hd hk,
      fun f hf hcore => parked_of_dead hd hf hcore⟩
    · rw [hdie]; rfl
    · rw [hdie]; rfl
    · rw [hdie]; rfl
  case unlocked =>
    intro s x he hfree
    rw [exec_recallTimeout he]
    simp only [hfree, Bool.not_false, if_true]
  case recalled =>
    intro s x he hlocked
    have hexec : exec .recallTimeout s = .next (if s.recallOpen x then s.park basePort basePort (.recallTimeout x) else s.recallEnds x) := by
      rw [exec_recallTimeout he]
      simp only [hlocked, Bool.not_true, Bool.false_eq_true, if_false]
    refine ⟨fun hopen => ?_, fun hends herr hidle hrels => ?_, fun hends herr hidle hrels => ?_⟩
    · rw [hexec, if_pos hopen]
      rfl
    · rw [hexec, hends, if_neg Bool.false_ne_true, State.recallEnds_sound (.inl herr) hidle hrels]
    · refine ⟨fun hwhole => ?_, fun hlost => ⟨(s.poisoned x).putDir x {}, ?_, ?_, ?_, ?_⟩⟩
      · rw [hexec, hends, if_neg Bool.false_ne_true, State.recallEnds_sound (.inr hwhole) hidle hrels]
      · rw [hexec, hends, if_neg Bool.false_ne_true, State.recallEnds_poisoned herr hlost hidle hrels]
      · exact State.homePsn_setHomePsn s x
      · rw [State.dirOf_putDir, if_pos rfl]
      · rw [State.putDir_errLog, State.poisoned, State.setHomePsn_frame]
        rfl
  case corrected =>
    intro s x he
    exact exec_directoryError he
  case uncorrectable =>
    intro s x he
    obtain ⟨u, hrecall, hframe, hlocked, herror, hmask⟩ := s.dirError_hard x
    obtain ⟨b, hdir⟩ := u.dirOf_recall x
    refine ⟨u.recall x, by rw [exec_directoryError he, hrecall], ?_, ?_, ?_, ?_, ?_, fun k j hk hj hp hd => ?_⟩
    · rw [hdir]; exact hlocked
    · rw [hdir]; exact herror
    · rw [hdir]; exact hmask
    · rw [State.recall_mem, hframe]
    · rw [State.recall_flight, List.getLast?_concat]
    · exact demand_of_dirError (by rw [hframe]) hmask hk hj hp hd

end Sys2Proof.Rules
end

section
/-! Tenant and die resets (18_host_and_fabric R414, 02_coherence R55): the tenant's dies are dead, its queues are empty; a die that is reset rises
with its first renewal on its way. -/

namespace Sys2Proof.Machine

/-- A fold that goes over `k` reaches what its step at `k` gives, if every step keeps that. -/
theorem foldl_reaches {σ α : Type} {P : σ → Prop} {f : σ → α → σ} {k : α} (hf : ∀ s q, k = q ∨ P s → P (f s q)) (l : List α) (s : σ)
    (h : k ∈ l ∨ P s) : P (l.foldl f s) := by
  induction l generalizing s with
  | nil => exact h.resolve_left List.not_mem_nil
  | cons q l ih =>
    refine ih _ ?_
    rcases h with h | h
    · rcases List.mem_cons.mp h with rfl | h
      · exact .inr (hf s k (.inl rfl))
      · exact .inl h
    · exact .inr (hf s q (.inr h))

/-! ### Nodes and queues of a tenant (18 R414, 16 R371) -/

/-- The dies and the tenants of the queues are the same. -/
structure State.SameTenants (s t : State) : Prop where
  dies : t.dies = s.dies
  ten : ∀ q, (t.queue q).ten = (s.queue q).ten

namespace State.SameTenants

variable {s t u : State}

theorem refl (s : State) : s.SameTenants s := ⟨rfl, fun _ => rfl⟩

theorem trans (h : s.SameTenants t) (h' : t.SameTenants u) : s.SameTenants u :=
  ⟨h'.dies.trans h.dies, fun q => (h'.ten q).trans (h.ten q)⟩

theorem foldl {α : Type} {f : State → α → State} (hf : ∀ (s : State) x, s.SameTenants (f s x)) (l : List α) (s : State) :
    s.SameTenants (l.foldl f s) := by
  induction l generalizing s with
  | nil => exact refl s
  | cons x l ih => exact (hf s x).trans (ih _)

end State.SameTenants

theorem State.SameBase.sameTenants {s t : State} (h : s.SameBase t) : s.SameTenants t := ⟨h.dies, fun q => by rw [h.queue]⟩

theorem Queue.advance_ten (n : Nat) (x : Queue) : (x.advance n).ten = x.ten := by
  induction n generalizing x with
  | zero => rfl
  | succ n ih =>
    unfold Queue.advance
    split
    · rfl
    · extract_lets
      split
      · exact ih _
      · rfl

theorem Queue.endEntry_ten (x : Queue) (k : Nat) (v : W64) : (x.endEntry k v).ten = x.ten := Queue.advance_ten 256 _

theorem State.sameTenants_launchEnds (s : State) (q : Nat) (entry : Option Nat) (fut : Option FutAt) (v : W64) :
    s.SameTenants (s.launchEnds q entry fut v) := by
  have hfut {t : State} (h : s.SameTenants t) : s.SameTenants (match fut with
      | some f => t.arriveFut 0 f v
      | none => t) := by
    split
    · exact h.trans (State.SameBase.refl t).arriveFut.sameTenants
    · exact h
  refine hfut ?_
  split
  · refine ⟨rfl, fun k => ?_⟩
    rw [State.queue_putQueue]
    split
    · rename_i hk
      rw [hk, Queue.endEntry_ten]
    · rfl
  · exact .refl s

theorem State.sameBase_gangEnds (s : State) (n : Node) : s.SameBase (s.gangEnds n) := by
  unfold State.gangEnds
  extract_lets
  split
  · exact .refl s
  · exact (State.SameBase.refl s).upd

theorem State.sameBase_markReady (s : State) : s.SameBase s.markReady := by
  unfold State.markReady
  exact (State.SameBase.refl s).foldl fun _ _ hu => .ite hu.upd hu

theorem State.sameTenants_endNode (s : State) (nid detail rec_ code : Nat) : s.SameTenants (s.endNode nid detail rec_ code) := by
  unfold State.endNode
  split
  · exact .refl s
  · rename_i n _
    extract_lets without t kept stays closed left ended
    have hleft : s.SameBase left := (s.sameBase_gangEnds n).upd
    exact hleft.sameTenants.trans ((left.sameTenants_launchEnds ..).trans ended.sameBase_markReady.sameTenants)

/-- A queue from which nothing is left to accept (18 R414). -/
structure Queue.Emptied (x : Queue) : Prop where
  head : x.head = x.tail
  take : x.take = x.tail
  device : x.device = []
  waiting : x.waiting = []

/-- Emptying a queue changes the queues, and what arrives for the launches that waited in it. -/
theorem State.emptyQueue_cases (s : State) (q : Nat) : ∃ x : Queue, x.Emptied ∧ (s.putQueue q x).SameBase (s.emptyQueue q) := by
  unfold State.emptyQueue
  extract_lets x waits gone records emptied
  exact ⟨_, ⟨rfl, rfl, rfl, rfl⟩, (State.SameBase.refl emptied).foldl fun _ _ hu => hu.arriveFut⟩

theorem State.emptyQueue_dies (s : State) (q : Nat) : (s.emptyQueue q).dies = s.dies := by
  obtain ⟨x, -, h⟩ := s.emptyQueue_cases q
  exact h.dies

theorem State.emptied_emptyQueue (s : State) (q k : Nat) (h : k = q ∨ (s.queue k).Emptied) : ((s.emptyQueue q).queue k).Emptied := by
  obtain ⟨x, hx, he⟩ := s.emptyQueue_cases q
  rw [he.queue, State.queue_putQueue]
  split
  · exact hx
  · exact h.resolve_left ‹_›

/-! ### The reset of a tenant (18 R414) -/

theorem State.sameBase_killTenant (s : State) (ten : Nat) : s.SameBase (s.killTenant ten) := by
  unfold State.killTenant
  exact (State.SameBase.refl s).foldl fun _ _ hu => hu.killGroup

/-- The tenant's dies die. -/
def State.killDies (s : State) (ten : Nat) : State := ((s.dieTen.filter fun x => x.2 == ten).map Prod.fst).foldl State.dieDies s

theorem State.killDies_queues (s : State) (ten : Nat) : (s.killDies ten).queues = s.queues :=
  List.foldlRecOn (motive := fun t => t.queues = s.queues) _ State.dieDies rfl fun t h d _ => (t.dieDies_queues d).trans h

theorem State.killDies_dead {s : State} {ten d : Nat} (h : Tab.look s.dieTen d = some ten) : ((s.killDies ten).die d).dead = true := by
  refine foldl_reaches (P := fun t : State => (t.die d).dead = true) (fun t q hq => t.dead_dieDies q d hq) _ _ (.inl ?_)
  exact List.mem_map.mpr ⟨(d, ten), List.mem_filter.mpr ⟨Tab.look_mem _ _ _ h, beq_self_eq_true ten⟩, rfl⟩

/-- The tenant's nodes that hold no place end. -/
def State.endIdle (s : State) (ten : Nat) : State :=
  (s.nodes.filter fun n => n.ten == ten && (n.st == .held || n.st == .prepared || (n.st == .pool && n.places.isEmpty))).foldl
    (fun s n => s.endNode n.nid 0 0 5) s

theorem State.sameTenants_endIdle (s : State) (ten : Nat) : s.SameTenants (s.endIdle ten) :=
  State.SameTenants.foldl (fun s (n : Node) => s.sameTenants_endNode n.nid 0 0 5) _ s

/-- The tenant's queues are emptied. -/
def State.emptyQueues (s : State) (ten : Nat) : State := ((s.queues.filter fun x => x.2.ten == some ten).map Prod.fst).foldl State.emptyQueue s

theorem State.emptyQueues_dies (s : State) (ten : Nat) : (s.emptyQueues ten).dies = s.dies :=
  List.foldlRecOn (motive := fun t => t.dies = s.dies) _ State.emptyQueue rfl fun t h q _ => (t.emptyQueue_dies q).trans h

theorem State.emptyQueues_emptied {s : State} {ten q : Nat} (h : (s.queue q).ten = some ten) : ((s.emptyQueues ten).queue q).Emptied := by
  refine foldl_reaches (P := fun t : State => (t.queue q).Emptied) (fun t k hk => t.emptied_emptyQueue k q hk) _ _ (.inl ?_)
  cases hlook : Tab.look s.queues q with
  | none => simp [State.queue, Tab.get, hlook] at h
  | some x =>
    simp only [State.queue, Tab.get, hlook, Option.getD_some] at h
    exact List.mem_map.mpr ⟨(q, x), List.mem_filter.mpr ⟨Tab.look_mem _ _ _ hlook, by simp [h]⟩, rfl⟩

/-- An object as its tenant's reset leaves it. -/
def Obj.reset (ten : Nat) (x : Obj) : Obj :=
  if x.ten == some ten then { x with count := 0, waiters := [], holder := none, bcs := [], counted := [] } else x

/-- The steps of a tenant's reset, in their order. -/
theorem State.resetTenant_eq (s : State) (ten : Nat) : s.resetTenant ten =
    { (((s.killTenant ten).killDies ten).endIdle ten).emptyQueues ten with
      objs := Tab.mapAll ((((s.killTenant ten).killDies ten).endIdle ten).emptyQueues ten).objs fun _ x => x.reset ten } := rfl

theorem State.resetTenant_dead {s : State} {ten d : Nat} (h : Tab.look s.dieTen d = some ten) : ((s.resetTenant ten).die d).dead = true := by
  have hdies : (s.resetTenant ten).dies = ((s.killTenant ten).killDies ten).dies := by
    rw [State.resetTenant_eq]
    dsimp only
    rw [State.emptyQueues_dies, (State.sameTenants_endIdle _ ten).dies]
  rw [State.die, hdies]
  exact State.killDies_dead ((s.sameBase_killTenant ten).dieTen ▸ h)

theorem State.resetTenant_emptied {s : State} {ten q : Nat} (h : (s.queue q).ten = some ten) : ((s.resetTenant ten).queue q).Emptied := by
  have hqueues : (s.resetTenant ten).queues = ((((s.killTenant ten).killDies ten).endIdle ten).emptyQueues ten).queues := by
    rw [State.resetTenant_eq]
  rw [State.queue, hqueues]
  refine State.emptyQueues_emptied ?_
  rw [(State.sameTenants_endIdle _ ten).ten, State.queue, State.killDies_queues, (s.sameBase_killTenant ten).queues]
  exact h

theorem State.resetTenant_obj {s : State} {ten o : Nat} (h : ((s.resetTenant ten).obj o).ten = some ten) :
    ((s.resetTenant ten).obj o).count = 0 ∧ ((s.resetTenant ten).obj o).waiters = [] ∧ ((s.resetTenant ten).obj o).holder = none := by
  generalize hs : (((s.killTenant ten).killDies ten).endIdle ten).emptyQueues ten = u at h
  have hobj : (s.resetTenant ten).obj o = ((Tab.look u.objs o).map (Obj.reset ten)).getD {} := by
    rw [State.resetTenant_eq, hs, State.obj, Tab.get, Tab.look_mapAll]
  rw [hobj] at h ⊢
  cases hlook : Tab.look u.objs o with
  | none => simp [hlook] at h
  | some x =>
    simp only [hlook, Option.map_some, Option.getD_some] at h ⊢
    unfold Obj.reset at h ⊢
    split
    · exact ⟨rfl, rfl, rfl⟩
    · rename_i hother
      rw [if_neg hother] at h
      exact absurd (beq_iff_eq.mpr h) hother

/-! ### A die that rises (02 R50, R55) -/

/-- A die out of reset: stopped, without a lease, its almanac near the root (02 R50; log entry 45). -/
def Die.risen (d : Die) (root : Nat) : Die := { d with
  powered := true, dead := false, fenced := false, known := 0, leaseStop := true, fresh := true, debugHold := false, relock := 0
  almanac := max d.almanac (root - 4), slowest := d.mhz, nextRenewal := max d.almanac (root - 4) + 2 ^ 14 }

/-- The first renewal of a die that rises. -/
def State.firstRenewal (s : State) (n : Nat) : Flight :=
  Rules.toBase (16 * n) (.renewal n ((s.die n).risen s.root).almanac ((s.die n).risen s.root).inc)

theorem State.dieRises_frame (s : State) (n : Nat) : s.dieRises n = { s with
    dies := (s.dieRises n).dies, flight := s.flight ++ [s.firstRenewal n] } := by
  have hself (d : Die) : (s.putDie n d).die n = d := (State.die_putDie ..).trans (if_pos rfl)
  unfold State.dieRises State.renewalSent State.updDie
  simp only [hself, Bool.not_true, Bool.or_self, Bool.false_eq_true, if_false]
  rfl

theorem State.die_dieRises (s : State) (n k : Nat) : (s.dieRises n).die k = if k = n then (s.die n).risen s.root else s.die k := by
  have hself (d : Die) : (s.putDie n d).die n = d := (State.die_putDie ..).trans (if_pos rfl)
  unfold State.dieRises State.renewalSent State.updDie
  simp only [hself, Bool.not_true, Bool.or_self, Bool.false_eq_true, if_false]
  refine (State.die_putDie ..).trans ?_
  split
  · rfl
  · exact (State.die_putDie ..).trans (if_neg ‹_›)

end Sys2Proof.Machine
end

section
/-! Bring-up (19_power_and_firmware R421 to R423): what an image brings, and the compute dies that rise and wait for their leases. -/

namespace Sys2Proof.Machine

/-! ### Verification (R423) -/

theorem partVerifies_iff (key : List Byte) (p : SignedPart) : partVerifies key p = true ↔
    (p.height = 10 ∨ p.height = 16 ∨ p.height = 20) ∧ Config.xmssVerifies p.height key p.body p.sig = true := by
  simp [partVerifies]

/-- An image has no cause of refusal exactly when all its signatures verify. -/
theorem imageCause_eq_none {x : Image} : imageCause x = none ↔ Rules.verified x := by
  unfold imageCause Rules.verified
  simp only [forall_eq_or_imp, forall_eq, ← partVerifies_iff]
  split
  · rename_i h
    simp_all
  · split
    · simp_all
    · split
      · simp_all
      · split <;> simp_all

/-! ### What an image brings (R417, R422) -/

/-- The steps of bring-up, the image in force and the warps are the same. -/
structure State.SameRun (s t : State) : Prop where
  bringUp : t.bringUp = s.bringUp
  image : t.image = s.image
  leaf : t.leaf = s.leaf
  warps : t.warps = s.warps

namespace State.SameRun

theorem refl (s : State) : s.SameRun s := ⟨rfl, rfl, rfl, rfl⟩

variable {s t u : State}

theorem upd (h : s.SameRun t) (hu : t.SameRun u := by exact ⟨rfl, rfl, rfl, rfl⟩) : s.SameRun u :=
  ⟨hu.bringUp.trans h.bringUp, hu.image.trans h.image, hu.leaf.trans h.leaf, hu.warps.trans h.warps⟩

theorem foldl {α : Type} {f : State → α → State} {l : List α} (h : s.SameRun t) (hf : ∀ u x, s.SameRun u → s.SameRun (f u x)) :
    s.SameRun (l.foldl f t) :=
  List.foldlRecOn (motive := s.SameRun) l f h fun u hu x _ => hf u x hu

theorem homePut (h : s.SameRun t) {pa : Nat} {b : Byte} : s.SameRun (t.homePut pa b) := by
  unfold State.homePut
  extract_lets
  split
  · exact h.upd
  · split
    · exact h.upd
    · exact h.upd

theorem setHomePsn (h : s.SameRun t) {x : Nat} {on : Bool} : s.SameRun (t.setHomePsn x on) := by
  rw [State.setHomePsn_frame]
  exact h.upd

theorem takeAll (h : s.SameRun t) {core x : Nat} : s.SameRun (t.takeAll core x) := by
  unfold State.takeAll
  extract_lets c
  split
  · exact h
  · split
    · refine setHomePsn (foldl ?_ fun _ _ hu => hu.homePut)
      exact h.upd
    · exact h.upd

theorem gather (h : s.SameRun t) {x : Nat} : s.SameRun (t.gather x) := by
  unfold State.gather
  exact upd (h.foldl fun _ _ hu => hu.takeAll)

theorem scrub (h : s.SameRun t) {f : Nat} : s.SameRun (t.scrub f) := by
  unfold State.scrub
  extract_lets gathered
  have hgathered : s.SameRun gathered := h.foldl fun _ _ hu => hu.gather
  exact hgathered.upd

theorem givesFrame (h : s.SameRun t) {f : Nat} {ten : Option Nat} : s.SameRun (t.givesFrame f ten) := by
  unfold State.givesFrame
  split
  · split
    · exact h.upd
    · exact h
  · extract_lets other
    split
    · exact h.upd
    · split
      · exact h.upd
      · exact h.scrub.upd

theorem assigns (h : s.SameRun t) {a : Assignment} : s.SameRun (t.assigns a) := by
  unfold State.assigns
  split
  · exact h
  · split
    · exact h.upd
    · exact h.upd
    · split
      · exact h.upd
      · exact h
    · split
      · exact h.upd
      · exact h
    · exact h.givesFrame
    · exact h.upd

end State.SameRun

/-- The limits that an image brings are written in their order (R417). -/
def State.limitsSet (s : State) (ls : List Nat) : State := ((List.range ls.length).zip ls).foldl (fun s x => s.limitSet x.1 x.2) s

theorem State.limitsSet_append (s : State) (ls : List Nat) (q : Nat) :
    s.limitsSet (ls ++ [q]) = (s.limitsSet ls).limitSet ls.length q := by
  unfold State.limitsSet
  rw [List.length_append, List.length_singleton, List.range_succ, List.zip_append List.length_range, List.foldl_append]
  rfl

/-- Each limit that is written stands at its value or its island's figure, whichever is less; the others stand. -/
theorem State.limitsSet_spec (s : State) (ls : List Nat) : s.limitsSet ls = { s with limits := (s.limitsSet ls).limits } ∧
    (s.limitsSet ls).limits.length = s.limits.length ∧ ∀ i, i < s.limits.length →
      (s.limitsSet ls).limits.getD i 0 = if i < ls.length then min (ls.getD i 0) (Config.islandFigure i) else s.limits.getD i 0 := by
  induction ls using List.reverseRecOn with
  | nil => exact ⟨rfl, rfl, fun i _ => (if_neg (Nat.not_lt_zero i)).symm⟩
  | append_singleton ls q ih =>
    obtain ⟨hframe, hlen, hlimits⟩ := ih
    rw [State.limitsSet_append]
    refine ⟨?_, ?_, fun i hi => ?_⟩
    · rw [State.limitSet, hframe]
    · exact List.length_set.trans hlen
    · have hold := hlimits i hi
      simp only [List.getD_eq_getElem?_getD] at hold ⊢
      rw [State.limitSet, List.getElem?_set, hlen, List.length_append, List.length_singleton]
      by_cases hlast : ls.length = i
      · simp [hlast, hi]
      · rw [if_neg hlast, hold, List.getElem?_append]
        by_cases hlt : i < ls.length
        · simp [hlt, Nat.lt_succ_of_lt hlt]
        · simp [hlt, show ¬ i < ls.length + 1 by omega]

/-- What a verified image changes: its limits, then its tables. -/
theorem State.takesImage_eq (s : State) (x : Image) : s.takesImage x =
    x.tables.foldl State.assigns (({ s.upTo 2 with image := some x, leaf := s.flashLeaf } : State).limitsSet x.limits) := rfl

/-! ### The last step (R421) -/

/-- Every die is fenced or holds a lease. -/
def State.allLeased (s : State) : Prop := ∀ k, k < 16 → (s.die k).fenced = true ∨ (s.die k).powered = true ∧ (s.die k).fresh = false

theorem State.dies_ne_nil {s : State} (h : s.allLeased) : s.dies.isEmpty = false := by
  cases hd : s.dies with
  | cons => rfl
  | nil =>
    have hnone : s.die 0 = {} := by rw [State.die, hd]; rfl
    have h0 := h 0 (by omega)
    simp [hnone] at h0

/-- While a die holds no lease the last step is not complete; then it is (19 R421). -/
theorem State.leasesHeld_waits {s : State} (h : ¬ s.allLeased) : s.leasesHeld = s := by
  unfold State.leasesHeld
  refine if_neg fun hc => h fun k hk => ?_
  simp only [Bool.and_eq_true, List.all_eq_true, List.mem_range] at hc
  simpa using hc.2 k hk

theorem State.leasesHeld_done {s : State} (hup : s.bringUp = 5) (h : s.allLeased) : s.leasesHeld = s.upTo 6 := by
  unfold State.leasesHeld
  refine if_pos ?_
  simp only [hup, beq_self_eq_true, State.dies_ne_nil h, Bool.not_false, Bool.and_self, Bool.true_and, List.all_eq_true, List.mem_range]
  exact fun k hk => by simpa using h k hk

theorem State.leasesHeld_frame (s : State) : s.leasesHeld = { s with bringUp := s.leasesHeld.bringUp, out := s.leasesHeld.out } := by
  unfold State.leasesHeld
  split
  · rfl
  · rfl

/-- One die of the last step rises, or is fenced and logged. -/
def State.risesOr (failed : List Nat) (s : State) (d : Nat) : State :=
  if failed.contains d then (s.updDie d fun x => { x with fenced := true }).log 2 2 d 0 0 else s.dieRises d

/-- The dies of the last step, all sixteen. -/
def State.allRise (failed : List Nat) (s : State) : State := (List.range 16).foldl (State.risesOr failed) s

/-- Nothing has changed but the dies, the log and what is on its way. -/
def State.OnlyDies (s t : State) : Prop := t = { s with dies := t.dies, flight := t.flight, errLog := t.errLog }

theorem State.OnlyDies.trans {s t u : State} (h : s.OnlyDies t) (h' : t.OnlyDies u) : s.OnlyDies u := by
  unfold State.OnlyDies at *
  rw [h] at h'
  exact h'

section
variable {failed : List Nat} {s : State}

theorem State.risesOr_failed {d : Nat} (h : d ∈ failed) :
    s.risesOr failed d = (s.putDie d { s.die d with fenced := true }).log 2 2 d 0 0 := by
  unfold State.risesOr
  rw [if_pos (List.contains_iff_mem.mpr h)]
  rfl

theorem State.risesOr_sound {d : Nat} (h : d ∉ failed) : s.risesOr failed d = s.dieRises d := by
  unfold State.risesOr
  rw [if_neg (mt List.contains_iff_mem.mp h)]

theorem State.onlyDies_risesOr (d : Nat) : s.OnlyDies (s.risesOr failed d) := by
  by_cases h : d ∈ failed
  · rw [State.risesOr_failed h]
    rfl
  · rw [State.risesOr_sound h, State.dieRises_frame]
    rfl

theorem State.onlyDies_allRise : s.OnlyDies (s.allRise failed) :=
  List.foldlRecOn (motive := s.OnlyDies) _ _ rfl fun _ ht d _ => ht.trans (State.onlyDies_risesOr d)

theorem State.die_risesOr_other {d k : Nat} (h : k ≠ d) : (s.risesOr failed d).die k = s.die k := by
  by_cases hd : d ∈ failed
  · rw [State.risesOr_failed hd]
    exact (State.die_putDie ..).trans (if_neg h)
  · rw [State.risesOr_sound hd, State.die_dieRises, if_neg h]

/-- A die that has risen, its first renewal on its way. -/
structure State.Rises (s : State) (k : Nat) : Prop where
  powered : (s.die k).powered = true
  dead : (s.die k).dead = false
  fenced : (s.die k).fenced = false
  leaseStop : (s.die k).leaseStop = true
  fresh : (s.die k).fresh = true
  renewal : Rules.toBase (16 * k) (.renewal k (s.die k).almanac (s.die k).inc) ∈ s.flight

theorem State.rises_dieRises (k : Nat) : (s.dieRises k).Rises k := by
  have hdie : (s.dieRises k).die k = (s.die k).risen s.root := (State.die_dieRises ..).trans (if_pos rfl)
  refine ⟨by rw [hdie]; rfl, by rw [hdie]; rfl, by rw [hdie]; rfl, by rw [hdie]; rfl, by rw [hdie]; rfl, ?_⟩
  rw [hdie, State.dieRises_frame]
  exact List.mem_append_right _ (List.mem_singleton.mpr rfl)

theorem State.flight_risesOr {d : Nat} {f : Flight} (h : f ∈ s.flight) : f ∈ (s.risesOr failed d).flight := by
  by_cases hd : d ∈ failed
  · rw [State.risesOr_failed hd]
    exact h
  · rw [State.risesOr_sound hd, State.dieRises_frame]
    exact List.mem_append_left _ h

theorem State.rises_allRise {k : Nat} (hk : k < 16) (h : k ∉ failed) : (s.allRise failed).Rises k := by
  refine foldl_reaches (P := fun t : State => t.Rises k) (fun t q hq => ?_) _ _ (.inl (List.mem_range.mpr hk))
  by_cases hkq : k = q
  · subst hkq
    rw [State.risesOr_sound h]
    exact State.rises_dieRises k
  · obtain ⟨hp, hd, hf, hl, hr, hm⟩ := hq.resolve_left hkq
    have hdie : (t.risesOr failed q).die k = t.die k := State.die_risesOr_other hkq
    exact ⟨hdie ▸ hp, hdie ▸ hd, hdie ▸ hf, hdie ▸ hl, hdie ▸ hr, hdie ▸ State.flight_risesOr hm⟩

theorem State.fenced_allRise {k : Nat} (hk : k < 16) (h : k ∈ failed) : ((s.allRise failed).die k).fenced = true := by
  refine foldl_reaches (P := fun t : State => (t.die k).fenced = true) (fun t q hq => ?_) _ _ (.inl (List.mem_range.mpr hk))
  by_cases hkq : k = q
  · subst hkq
    rw [State.risesOr_failed h]
    exact congrArg Die.fenced ((State.die_putDie ..).trans (if_pos rfl))
  · rw [State.die_risesOr_other hkq]
    exact hq.resolve_left hkq

theorem State.unpowered_allRise {k : Nat} (h : k ∈ failed) (hp : (s.die k).powered = false) : ((s.allRise failed).die k).powered = false := by
  refine List.foldlRecOn (motive := fun t : State => (t.die k).powered = false) _ _ hp fun t ht q _ => ?_
  by_cases hkq : k = q
  · subst hkq
    rw [State.risesOr_failed h]
    exact (congrArg Die.powered ((State.die_putDie ..).trans (if_pos rfl))).trans ht
  · rw [State.die_risesOr_other hkq]
    exact ht

end

theorem State.powered_of_all {s : State} (h : ∀ d, d ∈ s.dies → d.2.powered = false) (k : Nat) : (s.die k).powered = false := by
  unfold State.die Tab.get
  cases hlook : Tab.look s.dies k with
  | none => rfl
  | some d => exact h _ (Tab.look_mem _ _ _ hlook)

end Sys2Proof.Machine
end

section
/-! Resets, bring-up, power and attestation: what their events do, and the statement on them (19_power_and_firmware R420 to R426). -/

namespace Sys2Proof.Machine

/-! ### What the steps of power do with their events -/

section
variable {s : State}

theorem exec_tenantReset {ten : Nat} (h : s.ev = some (.tenantReset ten)) : exec .tenantReset s = .next (s.resetTenant ten) := by
  change execTenantReset s = _
  simp only [execTenantReset, h]

theorem exec_dieReset {d : Nat} {fence : Bool} (h : s.ev = some (.dieReset d fence)) : exec .dieReset s = .next (s.resetDie d fence) := by
  change execDieReset s = _
  simp only [execDieReset, h]

theorem exec_controlDieReset {fence : Bool} (h : s.ev = some (.controlDieReset fence)) : exec .controlDieReset s = .next (
    if fence then { s with controlDie := false, controlFenced := true }
    else ({ s with controlDie := false }).send .request basePort basePort .controlDiePowerUp) := by
  change execControlDieReset s = _
  simp only [execControlDieReset, h]

theorem exec_baseField0PowerUp (h : s.ev = some .baseField0PowerUp) :
    exec .baseField0PowerUp s = .next (if s.mayRise 1 then { s.upTo 1 with root := 0, fields := [0] } else s) := by
  change execBaseField0PowerUp s = _
  simp only [execBaseField0PowerUp, h]

/-- A download out of its order does nothing; in its order it is taken or refused by its signatures (R423). -/
theorem exec_firmwareDownload_idle {x : Image} (h : s.ev = some (.firmwareDownload x)) (hup : s.mayRise 2 = false) :
    exec .firmwareDownload s = .next s := by
  change execFirmwareDownload s = _
  simp only [execFirmwareDownload, h, hup, Bool.not_false, if_true]

theorem exec_firmwareDownload_verified {x : Image} (h : s.ev = some (.firmwareDownload x)) (hup : s.mayRise 2 = true)
    (hx : Rules.verified x) : exec .firmwareDownload s = .next (s.takesImage x) := by
  change execFirmwareDownload s = _
  simp only [execFirmwareDownload, h, hup, imageCause_eq_none.mpr hx, Bool.not_true, Bool.false_eq_true, if_false]

theorem exec_firmwareDownload_refused {x : Image} {c : Nat} (h : s.ev = some (.firmwareDownload x)) (hup : s.mayRise 2 = true)
    (hc : imageCause x = some c) : exec .firmwareDownload s = .next (({ s with upFailed := some 2 }).emit (.bringUp 2 (some c))) := by
  change execFirmwareDownload s = _
  simp only [execFirmwareDownload, h, hup, hc, Bool.not_true, Bool.false_eq_true, if_false]

theorem exec_controlDiePowerUp (h : s.ev = some .controlDiePowerUp) : exec .controlDiePowerUp s = .next (
    if s.mayRise 3 && s.image.isSome then { s.upTo 3 with controlDie := true }
    else if s.bringUp ≥ 3 && s.image.isSome && !s.controlFenced then { s with controlDie := true } else s) := by
  change execControlDiePowerUp s = _
  simp only [execControlDiePowerUp, h]

theorem exec_baseFieldsPowerUp (h : s.ev = some .baseFieldsPowerUp) : exec .baseFieldsPowerUp s = .next (
    if s.mayRise 4 then { s.upTo 4 with fields := [0, 1, 2, 3], slices := [], dir := [] } else s) := by
  change execBaseFieldsPowerUp s = _
  simp only [execBaseFieldsPowerUp, h]

theorem exec_stackTraining {l : List Nat} (h : s.ev = some (.stackTraining l)) :
    exec .stackTraining s = .next (if s.mayRise 5 then { s.upTo 5 with stacksFenced := l } else s) := by
  change execStackTraining s = _
  simp only [execStackTraining, h]

theorem exec_computeDiePowerUp {l : List Nat} (h : s.ev = some (.computeDiePowerUp l)) : exec .computeDiePowerUp s = .next (
    if s.mayRise 6 && !(s.dies.any fun d => d.2.powered) then (s.allRise l).leasesHeld else s) := by
  change execComputeDiePowerUp s = _
  simp only [execComputeDiePowerUp, h]
  rfl

theorem exec_powerLoss (h : s.ev = some .powerLoss) : exec .powerLoss s = .next s.unpowered := by
  change execPowerLoss s = _
  simp only [execPowerLoss, h]

theorem exec_powerDown (h : s.ev = some .powerDown) : exec .powerDown s = .next (
    if s.fields.any fun f => f != 0 then s.lowered.send .request basePort basePort .powerDown else s.unpowered) := by
  change execPowerDown s = _
  simp only [execPowerDown, h]

theorem exec_attestation_asked (h : s.ev = some (.attestation false)) : exec .attestation s = .next s.signs := by
  change execAttestation s = _
  simp only [execAttestation, h]

theorem exec_attestation_signed (h : s.ev = some (.attestation true)) : exec .attestation s = .next s.reports := by
  change execAttestation s = _
  simp only [execAttestation, h]

/-! ### The order of bring-up (R421) -/

theorem State.mayRise_iff {n : Nat} : s.mayRise n = true ↔ s.bringUp + 1 = n ∧ s.upFailed = none := by
  simp [State.mayRise]

theorem State.mayRise_eq_false {n : Nat} (h : s.bringUp + 1 ≠ n ∨ s.upFailed ≠ none) : s.mayRise n = false := by
  rw [← Bool.not_eq_true, State.mayRise_iff, not_and_or]
  exact h

/-! ### What an image brings (R417, R422) -/

theorem State.sameRun_takesImage (s : State) (x : Image) :
    State.SameRun { s.upTo 2 with image := some x, leaf := s.flashLeaf } (s.takesImage x) := by
  rw [State.takesImage_eq, (State.limitsSet_spec _ _).1]
  refine State.SameRun.foldl ?_ fun _ _ hu => hu.assigns
  exact (State.SameRun.refl _).upd

/-- An image without tables changes the limits alone. -/
theorem State.takesImage_untabled {x : Image} (h : x.tables = []) : s.takesImage x =
    ({ s.upTo 2 with image := some x, leaf := s.flashLeaf } : State).limitsSet x.limits := by
  rw [State.takesImage_eq, h]
  rfl

theorem State.takesImage_limits {x : Image} (h : x.tables = []) {i : Nat} (hi : i < s.limits.length) :
    (s.takesImage x).limits.getD i 0 =
      if i < x.limits.length then min (x.limits.getD i 0) (Config.islandFigure i) else s.limits.getD i 0 := by
  rw [State.takesImage_untabled h]
  exact (State.limitsSet_spec { s.upTo 2 with image := some x, leaf := s.flashLeaf } x.limits).2.2 i hi

/-- A die of the image's one table entry has its tenant (R408). -/
theorem State.takesImage_die {x : Image} {d ten : Nat} (h : x.tables = [.die d (some ten)]) (hten : ten < 64) :
    Tab.look (s.takesImage x).dieTen d = some ten := by
  have hassigns (u : State) : u.assigns (.die d (some ten)) = { u with dieTen := Tab.put u.dieTen d ten } := by
    simp [State.assigns, Assignment.inOrder, hten, Tab.assign]
  rw [State.takesImage_eq, h, List.foldl_cons, List.foldl_nil, hassigns]
  exact Tab.look_put_self ..

/-! ### A die that is reset (02 R55) -/

theorem State.resetDie_unpowered {d : Nat} {fence : Bool} (h : (s.die d).powered = false) : s.resetDie d fence = s := by
  unfold State.resetDie
  simp [h]

theorem State.failures_dieDies {d : Nat} (hd : (s.die d).dead = false) : ((s.dieDies d).die d).failures = (s.die d).failures := by
  rw [State.die_dieDies hd, if_pos rfl]
  rfl

/-- A die that is fenced, or that a self-test has fenced, stays as its death leaves it. -/
theorem State.resetDie_fenced {d : Nat} {fence : Bool} (hp : (s.die d).powered = true) (hd : (s.die d).dead = false)
    (h : fence = true ∨ (s.die d).failures ≠ 0) : s.resetDie d fence = s.dieDies d := by
  unfold State.resetDie
  rw [if_neg (by simp [hp])]
  refine if_pos ?_
  simpa [State.failures_dieDies hd] using h

theorem State.resetDie_rises {d : Nat} (hp : (s.die d).powered = true) (hd : (s.die d).dead = false) (h : (s.die d).failures = 0) :
    s.resetDie d false = (s.dieDies d).dieRises d := by
  unfold State.resetDie
  rw [if_neg (by simp [hp])]
  refine if_neg ?_
  simp [State.failures_dieDies hd, h]

/-- A die that a reset brings up again is a new die of the next incarnation. -/
theorem State.die_resetDie {d : Nat} (hp : (s.die d).powered = true) (hd : (s.die d).dead = false) (h : (s.die d).failures = 0) :
    ∃ root, (s.resetDie d false).die d = (s.die d).died.risen root := by
  refine ⟨(s.dieDies d).root, ?_⟩
  rw [State.resetDie_rises hp hd h, State.die_dieRises, if_pos rfl, State.die_dieDies hd, if_pos rfl]

/-- The last message on its way is its first renewal (R50). -/
theorem State.flight_resetDie {d : Nat} (hp : (s.die d).powered = true) (hd : (s.die d).dead = false) (h : (s.die d).failures = 0) :
    (s.resetDie d false).flight.getLast? =
      some (Rules.toBase (16 * d) (.renewal d ((s.resetDie d false).die d).almanac ((s.resetDie d false).die d).inc)) := by
  rw [State.resetDie_rises hp hd h, State.die_dieRises, if_pos rfl, State.dieRises_frame]
  exact List.getLast?_concat

/-! ### Power and attestation (R420, R426) -/

theorem State.lowers_iff : (s.fields.any fun f => f != 0) = true ↔ ∃ f, f ∈ s.fields ∧ f ≠ 0 := by
  simp

theorem State.signs_free {x : Image} (hi : s.image = some x) (hs : s.signing = none) : s.signs = State.send { s with
    flashLeaf := s.flashLeaf + 1, leaf := s.flashLeaf + 1, signing := some s.flashLeaf } .request 512 512 (.attestation true) := by
  unfold State.signs
  simp only [hi, hs, Option.isNone_some, Option.isSome_none, Bool.or_self, Bool.false_eq_true, if_false]
  rfl

theorem State.signs_busy (h : s.image = none ∨ s.signing ≠ none) : s.signs = s := by
  unfold State.signs
  refine if_pos ?_
  simpa [Option.isSome_iff_ne_none] using h

theorem State.reports_signed {x : Image} {leaf : Nat} (hi : s.image = some x) (hs : s.signing = some leaf) :
    s.reports = { s with signing := none }.emit (reportOf x s.flashCert leaf) := by
  simp only [State.reports, hi, hs]

theorem State.reports_idle (h : s.image = none ∨ s.signing = none) : s.reports = s := by
  unfold State.reports
  split
  · rename_i hi hs
    simp [hi, hs] at h
  · rfl

/-! ### A step of bring-up that fails (R421) -/

theorem step_stepFails {cause : Nat} {r : List Choice} (ha : s.agenda = []) (ht : s.tape = .stepFails cause :: r) :
    step s = .next (({ s with tape := r } : State).stepFails cause) := by
  simp only [step, State.upNext, ha, ht, State.chosen]

theorem State.stepFails_early (cause : Nat) (hup : s.bringUp < 4) (hf : s.upFailed = none) : s.stepFails cause = { s with
    upFailed := some (s.bringUp + 1)
    out := if s.bringUp = 0 then s.out else .bringUp (s.bringUp + 1) (some cause) :: s.out } := by
  unfold State.stepFails
  rw [if_neg (by simp [hf]; omega)]
  by_cases h0 : s.bringUp = 0
  · simp only [h0, if_true]
  · simp only [h0, Nat.add_eq_right, if_false]
    rfl

/-! ### The last step of bring-up (R421) -/

theorem exec_computeDiePowerUp_rises {l : List Nat} (h : s.ev = some (.computeDiePowerUp l)) (hup : s.mayRise 6 = true)
    (hoff : ∀ d, d ∈ s.dies → d.2.powered = false) : exec .computeDiePowerUp s = .next (s.allRise l).leasesHeld := by
  rw [exec_computeDiePowerUp h, hup, if_pos]
  simpa using hoff

theorem State.allRise_waits {l : List Nat} {d : Nat} (hd : d < 16) (hl : d ∉ l) : (s.allRise l).leasesHeld = s.allRise l := by
  refine State.leasesHeld_waits fun hall => ?_
  obtain ⟨-, -, hfenced, -, hfresh, -⟩ := State.rises_allRise (s := s) hd hl
  simpa [hfenced, hfresh] using hall d hd

theorem State.allRise_done {l : List Nat} (hup : s.bringUp = 5) (hl : ∀ d, d < 16 → d ∈ l) :
    (s.allRise l).leasesHeld = (s.allRise l).upTo 6 := by
  have hframe : s.OnlyDies (s.allRise l) := State.onlyDies_allRise
  exact State.leasesHeld_done (by rw [hframe]; exact hup) fun k hk => .inl (State.fenced_allRise hk (hl k hk))

end

end Sys2Proof.Machine
namespace Sys2Proof.Rules

open Sys2Proof.Machine

/-- Settles O51: each reset, step of bring-up, loss of power and report is as its own lemma says. -/
theorem powerSteps : Obligations.PowerSteps := by
  refine ⟨?tenant, ?die, ?control, ?disorder, ?order, ?lease, ?fails, ?reload, ?power, ?asked, ?signed⟩
  case tenant =>
    intro s ten he
    refine ⟨s.resetTenant ten, exec_tenantReset he, fun d hd => State.resetTenant_dead hd, fun o ho => State.resetTenant_obj ho, fun q hq => ?_⟩
    obtain ⟨hhead, htake, hdevice, hwaiting⟩ := State.resetTenant_emptied hq
    exact ⟨hhead, htake, hdevice, hwaiting⟩
  case die =>
    intro s d fence he
    refine ⟨fun hp => by rw [exec_dieReset he, State.resetDie_unpowered hp], fun hp hd => ?_⟩
    refine ⟨s.resetDie d fence, exec_dieReset he, ?_⟩
    by_cases h : fence = true ∨ (s.die d).failures ≠ 0
    · rw [State.resetDie_fenced hp hd h, State.die_dieDies hd, if_pos rfl]
      exact ⟨rfl, fun _ => ⟨rfl, rfl⟩, fun hf h0 => absurd h (by simp [hf, h0])⟩
    · obtain ⟨rfl, h0⟩ : fence = false ∧ (s.die d).failures = 0 := by simpa using h
      obtain ⟨root, hdie⟩ := State.die_resetDie hp hd h0
      have hflight := State.flight_resetDie hp hd h0
      rw [hdie] at hflight ⊢
      exact ⟨rfl, fun hno => absurd hno h, fun _ _ => ⟨rfl, rfl, rfl, rfl, rfl, hflight⟩⟩
  case control =>
    exact fun s => ⟨fun he => exec_controlDieReset he, fun he => exec_controlDieReset he⟩
  case disorder =>
    intro s n hno
    refine ⟨?_, ?_, ?_, ?_, ?_, ?_⟩
    · rintro rfl he
      simp only [exec_baseField0PowerUp he, State.mayRise_eq_false hno, Bool.false_eq_true, if_false]
    · rintro rfl x he
      exact exec_firmwareDownload_idle he (State.mayRise_eq_false hno)
    · rintro rfl hlow he
      simp [exec_controlDiePowerUp he, State.mayRise_eq_false hno, Nat.not_le.mpr hlow]
    · rintro rfl he
      simp only [exec_baseFieldsPowerUp he, State.mayRise_eq_false hno, Bool.false_eq_true, if_false]
    · rintro rfl l he
      simp only [exec_stackTraining he, State.mayRise_eq_false hno, Bool.false_eq_true, if_false]
    · rintro rfl l he
      simp only [exec_computeDiePowerUp he, State.mayRise_eq_false hno, Bool.false_and, Bool.false_eq_true, if_false]
  case order =>
    intro s hok up
    have rises {n : Nat} (h : s.bringUp + 1 = n) : s.mayRise n = true := State.mayRise_iff.mpr ⟨h, hok⟩
    refine ⟨?field0, ?verified, ?refused, ?controlDie, ?fields, ?training, ?dies⟩
    case field0 =>
      intro hup he
      rw [exec_baseField0PowerUp he, if_pos (rises (by omega))]
      rfl
    case verified =>
      intro x hup he hx hlimits
      obtain ⟨hstep, himage, hleaf, hwarps⟩ := State.sameRun_takesImage s x
      refine ⟨s.takesImage x, exec_firmwareDownload_verified he (rises (by omega)) hx, hstep, himage, hleaf, hwarps, fun htables => ?_,
        fun d ten htables hten => State.takesImage_die htables hten⟩
      refine ⟨?_, ?_, fun i hi => State.takesImage_limits htables (hlimits.1 ▸ hi)⟩
      · rw [State.takesImage_untabled htables, (State.limitsSet_spec _ _).1]
        rfl
      · rw [State.takesImage_untabled htables, (State.limitsSet_spec _ _).1]
        rfl
    case refused =>
      intro x hup he hx
      obtain ⟨c, hc⟩ := Option.ne_none_iff_exists'.mp (mt imageCause_eq_none.mp hx)
      exact ⟨c, exec_firmwareDownload_refused he (rises (by omega)) hc⟩
    case controlDie =>
      intro hup himage he
      rw [exec_controlDiePowerUp he, if_pos (by simp [rises (show s.bringUp + 1 = 3 by omega), Option.isSome_iff_ne_none, himage])]
      rfl
    case fields =>
      intro hup he
      rw [exec_baseFieldsPowerUp he, if_pos (rises (by omega))]
      rfl
    case training =>
      intro hup l he
      rw [exec_stackTraining he, if_pos (rises (by omega))]
      rfl
    case dies =>
      intro hup l he hoff
      have hframe : s.OnlyDies (s.allRise l) := State.onlyDies_allRise
      have hheld := (s.allRise l).leasesHeld_frame
      have hdie (k : Nat) : ((s.allRise l).leasesHeld).die k = (s.allRise l).die k := by rw [hheld]; rfl
      refine ⟨(s.allRise l).leasesHeld, exec_computeDiePowerUp_rises he (rises (by omega)) hoff, ?_, fun hall => ?_, ?_, ?_,
        fun d hd hl => ?_, fun d hd hl => ?_⟩
      · rintro ⟨d, hd, hl⟩
        rw [State.allRise_waits hd hl, hframe]
        exact ⟨hup, rfl⟩
      · rw [State.allRise_done hup hall, hframe]
        exact ⟨rfl, rfl⟩
      · rw [hheld, hframe]
      · rw [hheld, hframe]
      · obtain ⟨hpowered, hdead, -, hstop, hfresh, hrenewal⟩ := State.rises_allRise (s := s) hd hl
        have hflight : ((s.allRise l).leasesHeld).flight = (s.allRise l).flight := by rw [hheld]
        rw [hdie, hflight]
        exact ⟨hpowered, hdead, hstop, hfresh, hrenewal⟩
      · rw [hdie]
        exact ⟨State.fenced_allRise hd hl, State.unpowered_allRise hl (State.powered_of_all hoff d)⟩
  case lease =>
    intro s n t0 he hp hd hfresh hup t all
    have hexec : exec .renewal s = .next (s.renewed n t0).leasesHeld := by
      rw [exec_renewal he, State.renews_accepted ((Die.accepts_iff _ _ _).mpr ⟨hp, hd, rfl, .inl hfresh⟩)]
    exact ⟨fun hall => hexec.trans (congrArg _ (State.leasesHeld_done (s := s.renewed n t0) hup hall)),
      fun hno => hexec.trans (congrArg _ (State.leasesHeld_waits (s := s.renewed n t0) hno))⟩
  case fails =>
    intro s cause r ha ht hup hf
    rw [step_stepFails ha ht, State.stepFails_early (s := { s with tape := r }) cause hup hf]
  case reload =>
    intro s he hup
    have hno : s.mayRise 3 = false := State.mayRise_eq_false (.inl (by omega))
    refine ⟨fun himage hfree => ?_, fun hfenced => ?_⟩
    · simp [exec_controlDiePowerUp he, hno, hup, hfree, Option.isSome_iff_ne_none, himage]
    · simp [exec_controlDiePowerUp he, hno, hfenced]
  case power =>
    intro s off
    refine ⟨fun he => exec_powerLoss he, fun he hlow => ?_, fun he hhigh => ?_⟩
    · rw [exec_powerDown he, if_neg (by rw [State.lowers_iff]; rintro ⟨f, hf, hne⟩; exact hne (hlow f hf))]
      rfl
    · rw [exec_powerDown he, if_pos (State.lowers_iff.mpr hhigh)]
      refine ⟨_, rfl, rfl, fun f => ?_, rfl, rfl, rfl, fun d => rfl, rfl, rfl, rfl, rfl⟩
      exact List.mem_filter.trans (by simp)
  case asked =>
    intro s he
    refine ⟨fun himage hfree => ?_, fun hbusy => by rw [exec_attestation_asked he, State.signs_busy hbusy]⟩
    obtain ⟨x, hx⟩ := Option.ne_none_iff_exists'.mp himage
    rw [exec_attestation_asked he, State.signs_free hx hfree]
  case signed =>
    intro s he
    refine ⟨fun x leaf hx hleaf => ?_, fun hidle => by rw [exec_attestation_signed he, State.reports_idle hidle]⟩
    exact (exec_attestation_signed he).trans (congrArg _ (State.reports_signed hx hleaf))

end Sys2Proof.Rules
end

section
/-! The copy engine's triggers (04_copies_and_landing R104 to R107, R111, R113, R115; 14_memory_functions R330, R331): what an engine's trigger is
when its operand is ready, the copy that begins, the copy that goes on, the lowest tag, and the statement on them. -/

namespace Sys2Proof.Machine

/-! ### Bits -/

theorem bit_eq_getLsbD {n : Nat} (x : BitVec n) (k : Nat) : bit x k = x.getLsbD k := by
  rw [BitVec.getLsbD, Nat.testBit_eq_decide_div_mod_eq]
  rfl

/-- The lowest set bit, by what it says of the bits (14 R331). -/
theorem lowBit_eq {v : W64} {n : Nat} (hn : n ≤ 64) (hbelow : ∀ j, j < n → v.getLsbD j = false) (hat : n < 64 → v.getLsbD n = true) :
    lowBit v = n := by
  unfold lowBit
  rcases Nat.lt_or_eq_of_le hn with hlt | rfl
  · have : (List.range 64).find? (fun i => bit v i) = some n := by
      rw [List.find?_range_eq_some]
      exact ⟨by rw [bit_eq_getLsbD, hat hlt], by simpa using hlt, fun j hj => by simp [bit_eq_getLsbD, hbelow j hj]⟩
    simp [this]
  · have : (List.range 64).find? (fun i => bit v i) = none := by
      rw [List.find?_range_eq_none]
      exact fun j hj => by simp [bit_eq_getLsbD, hbelow j hj]
    simp [this]

/-- A tag is taken from those that are set, but for one that a final status has set in the cycle (04 R115). -/
theorem getLsbD_tagTaken (ctag tagged : W64) (n : Nat) {j : Nat} (hj : j < 64) :
    (ctag &&& ~~~((1#64 <<< n) &&& ~~~tagged)).getLsbD j = (ctag.getLsbD j && (decide (j ≠ n) || tagged.getLsbD j)) := by
  have hone : (1#64 <<< n).getLsbD j = decide (j = n) := by
    simp only [BitVec.getLsbD_shiftLeft, hj, decide_true, Bool.true_and, BitVec.getLsbD_one]
    by_cases h : j = n
    · simp [h]
    · simp [h]; omega
  simp only [BitVec.getLsbD_and, BitVec.getLsbD_not, hj, hone]
  by_cases h : j = n <;> simp [h]

end Sys2Proof.Machine

namespace Sys2Proof.Rules

open Sys2Proof.Machine

/-! ### An engine's trigger whose operand is ready -/

theorem lowest_of_lowestLane {g : W32} {k : Nat} (h : LowestLane g k) : lowest g = some k := by
  obtain ⟨hk, hat, hbelow⟩ := h
  unfold lowest
  rw [List.find?_range_eq_some]
  exact ⟨by rw [maskBit_eq, hat], by simpa [nLanes] using hk, fun j hj => by simp [maskBit_eq, hbelow j hj]⟩

section
variable {s t : State} {w w1 : Warp} {m : Mv} {x : W64} {k : Nat} {u : Un} {h : W64} {f : FutAt}

/-- It acts on the operand of the guard's lowest lane (05 R126). -/
theorem Engine.engineTrig (hE : Engine s w m x k) (u : Un) (act : Port → W64 → Nat → Act) :
    s.engineTrig w u m act = act (w.ctx.port u) x k := by
  obtain ⟨g, v, ⟨-, hguard, hsource⟩, hlow, hx⟩ := hE.ready
  rw [← hguard] at hsource hlow
  simp only [engineTrig_of hsource, lowest_of_lowestLane hlow, hx]

theorem Engine.issue (hE : Engine s w m x k) {act : Warp → Act} (h : act w = .next t) : issue s act = .next (fin t) := by
  obtain ⟨g, v, ⟨hlive, -, -⟩, -, -⟩ := hE.ready
  exact issue_done hlive h

/-- An engine's trigger that gives a new future puts the handle into the result port, and then does what its function does (12 R270). -/
theorem Engine.withFuture (hnew : w.newFuture u.code = some (w1, h, f)) (act : State → Warp → FutAt → State) :
    s.withFuture w u act = .next (act (withHandle s w1 u h) (withResult w1 s.now u h) f) := withFuture_of hnew

theorem newFuture_wid {n : Nat} (hnew : w.newFuture n = some (w1, h, f)) : w1.wid = w.wid := by
  unfold Warp.newFuture at hnew
  split at hnew
  · cases hnew
  · cases hnew
    rfl

/-! ### A copy begins (04 R104 to R107, R111) -/

/-- `go` and `mcast` are one trigger, with a share for each destination or a single one. -/
theorem exec_copyTrig (multi : Bool) (t : MTrig) (s : State) :
    exec (if multi then .mcast t else .go t) s = issue s fun w => s.copyTrig w t multi := by
  cases multi <;> rfl

/-- The copy's slot is taken, its tag cleared, and its first chunk asked for. -/
theorem copyTrig_starts {t : MTrig} {multi : Bool} {a slot : Nat} (hE : Engine s w t.mv x k) (hnew : w.newFuture 20 = some (w1, h, f))
    (hlanded : s.writesLanded s.cur.core w.wid = true) (hval : ((s.core s.cur.core).segs.getD t.buf.toNat 0).getLsbD 63 = true)
    (halign : x.toNat % 128 = 0)
    (hplace : s.pinnedAt s.cur.core (s.tenOf w.nid) ((s.core s.cur.core).segs.getD t.buf.toNat 0) x.toNat 128 = some a) :
    let c := s.core s.cur.core
    let seg (n : Nat) := c.segs.getD n 0
    let sh : BitVec 1024 := BitVec.ofNat 1024 (leNat (readCells c.pool a 128))
    let paced := !multi && pacedTo s.cur.core (seg (shDbuf sh))
    let comp := opc w .cp
    s.copyFault sh (seg (shSbuf sh)) (seg (shDbuf sh)) multi = none →
    s.copyReason sh (seg (shDbuf sh)) multi paced (opa w .cp).toNat (opb w .cp).toNat comp (s.tenOf w.nid) = none →
    Tab.lowestFree c.copies 16 = some slot →
    s.copyTrig w t multi = .next (((withHandle s w1 .cp h).putCore s.cur.core { c with
      copies := Tab.put c.copies slot (newCopy s w f sh multi paced)
      ctag := if cwTge comp then c.ctag &&& ~~~(1#64 <<< cwTag comp) else c.ctag }).send .request s.cur.core 512
        (.copyChunkTranslate s.cur.core slot)) := by
  intro c seg sh paced comp hfault hreason hfree
  have hcode : Un.cp.code = 20 := rfl
  have hbit : brVal ((s.core s.cur.core).segs.getD t.buf.toNat 0) = true := by rw [brVal, bit_eq_getLsbD, hval]
  unfold State.copyTrig
  rw [hE.engineTrig]
  simp only [hlanded, hcode, hnew, hbit, halign, hplace, Bool.not_true, Bool.false_eq_true, if_false, decide_true, Bool.and_self, if_true]
  split
  · rename_i hf
    exact absurd (hfault.symm.trans hf) (by simp)
  · split
    · rename_i hr
      exact absurd (hreason.symm.trans hr) (by simp)
    · split
      · rename_i hn
        exact absurd (hfree.symm.trans hn) (by simp)
      · rename_i n hn
        obtain rfl : slot = n := Option.some.inj (hfree.symm.trans hn)
        rfl

/-! ### A copy goes on (04 R113) -/

/-- An empty slot has nothing that can go on. -/
theorem copyResume_empty {m : Mv} (hE : Engine s w m x k) (hnew : w.newFuture 20 = some (w1, h, f))
    (hlanded : s.writesLanded s.cur.core w.wid = true) (hslot : Tab.look (s.core s.cur.core).copies (x.toNat / 16 % 16) = none) :
    exec (.copyResume m) s = .next (fin ((withHandle s w1 .cp h).arriveFut s.cur.core f 0x706)) := by
  change execCopyResume m s = _
  refine hE.issue ?_
  have hlook : Tab.look ((withHandle s w1 .cp h).core (withHandle s w1 .cp h).cur.core).copies (fld x 7 4) = none := hslot
  rw [hE.engineTrig, hlanded, if_neg (by simp), Engine.withFuture (u := .cp) hnew]
  simp only [hlook]
  rfl

/-- A suspended copy of this warp goes on, if the operand names the code that suspended it. -/
theorem copyResume_suspended {m : Mv} {y : Copy} (hE : Engine s w m x k) (hnew : w.newFuture 20 = some (w1, h, f))
    (hlanded : s.writesLanded s.cur.core w.wid = true) (hslot : Tab.look (s.core s.cur.core).copies (x.toNat / 16 % 16) = some y)
    (hwid : y.fut.wid = w.wid) (hst : y.st = .suspended (x.toNat % 16)) (hpaced : y.paced = false) :
    exec (.copyResume m) s = .next (fin (((withHandle s w1 .cp h).updCopy s.cur.core (x.toNat / 16 % 16) (resumedCopy s w f)).send .request
      s.cur.core 512 (.copyChunkTranslate s.cur.core (x.toNat / 16 % 16)))) := by
  change execCopyResume m s = _
  refine hE.issue ?_
  have hlook : Tab.look ((withHandle s w1 .cp h).core (withHandle s w1 .cp h).cur.core).copies (fld x 7 4) = some y := hslot
  have hw1 : (withResult w1 s.now .cp h).wid = w.wid := (newFuture_wid hnew : w1.wid = w.wid)
  have hcode : fld x 3 0 = x.toNat % 16 := by simp [fld]
  rw [hE.engineTrig, hlanded, if_neg (by simp), Engine.withFuture (u := .cp) hnew]
  simp only [hlook, hw1, hwid, hst, hpaced, hcode, beq_self_eq_true, Bool.and_self, Bool.not_true, Bool.false_and, Bool.false_eq_true, if_false]
  rfl

/-! ### Tags (04 R115) -/

theorem tagWait_waits {m : Mv} (hE : Engine s w m x k) (hnew : w.newFuture 20 = some (w1, h, f)) (all : Bool) :
    s.tagWait w m all = .next ((withHandle s w1 .cp h).putCore s.cur.core
      { s.core s.cur.core with tagWaits := (s.core s.cur.core).tagWaits ++ [(f, x, all)] }) := by
  unfold State.tagWait
  rw [hE.engineTrig]
  exact Engine.withFuture (u := .cp) hnew _

/-- The lowest tag that is set and asked for is given and taken. -/
theorem cffr_takes {m : Mv} {n : Nat} (hE : Engine s w m x k) (hn : lowBit ((s.core s.cur.core).ctag &&& x) = n) :
    exec (.cffr m) s = .next (fin ((withHandle s w .cp (BitVec.ofNat 64 n)).putCore s.cur.core { s.core s.cur.core with
      ctag := (s.core s.cur.core).ctag &&& ~~~((1#64 <<< n) &&& ~~~(s.core s.cur.core).tagged) })) := by
  change execCffr m s = _
  refine hE.issue ?_
  rw [hE.engineTrig, hn]
  rfl

end

/-- Settles O26: `go` and `mcast` start a copy, tags are waited for and taken, and a suspended copy goes on, each as its own lemma above says. -/
theorem copies : Obligations.Copies := by
  refine ⟨?starts, ?engine⟩
  case starts =>
    intro t multi s w w1 x k a slot h f hE hnew hlanded c seg r hval halign hplace sh paced comp hfault hreason hfree y tags
    rw [exec_copyTrig]
    exact hE.issue (act := (s.copyTrig · t multi)) (copyTrig_starts hE hnew hlanded hval halign hplace hfault hreason hfree)
  case engine =>
    intro m s w w1 x k h f hE hnew c s1
    refine ⟨hE.issue (act := (s.tagWait · m false)) (tagWait_waits hE hnew false),
      hE.issue (act := (s.tagWait · m true)) (tagWait_waits hE hnew true), fun n hn hbelow hat => ?lowest,
      fun hlanded hslot => copyResume_empty hE hnew hlanded hslot,
      fun y hlanded hslot hwid hst hpaced => copyResume_suspended hE hnew hlanded hslot hwid hst hpaced⟩
    case lowest =>
      exact ⟨_, fun j hj => getLsbD_tagTaken c.ctag c.tagged n hj, cffr_takes hE (lowBit_eq hn hbelow hat)⟩

end Sys2Proof.Rules
end

section
/-! The chunks of a copy and its final status (04_copies_and_landing R107, R109 to R111): the rules for a copy in its slot and for what lands in a
pool, then each step of a copy, and the statement on them. -/

namespace Sys2Proof.Machine

/-! ### What the steps of a copy do with their events -/

section
variable {s : State} {core slot : Nat}

theorem exec_copyChunkTranslate (h : s.ev = some (.copyChunkTranslate core slot)) :
    exec .copyChunkTranslate s = .next (s.copyTranslate core slot) := by
  change execCopyChunkTranslate s = _
  simp only [execCopyChunkTranslate, h]

theorem exec_copyChunkLanding (h : s.ev = some (.copyChunkLanding core slot)) : exec .copyChunkLanding s = .next (s.copyLand core slot) := by
  change execCopyChunkLanding s = _
  simp only [execCopyChunkLanding, h]

theorem exec_unpacedChunkDelivery (h : s.ev = some (.unpacedChunkDelivery core slot)) :
    exec .unpacedChunkDelivery s = .next (s.copyDeliver core slot) := by
  change execUnpacedChunkDelivery s = _
  simp only [execUnpacedChunkDelivery, h]

theorem exec_copyFinalStatus {code : Nat} (h : s.ev = some (.copyFinalStatus core slot code)) :
    exec .copyFinalStatus s = .next (s.copyStatus core slot code) := by
  change execCopyFinalStatus s = _
  simp only [execCopyFinalStatus, h]

end

/-! ### A copy changed in its slot -/

section
variable {s : State} {core slot n : Nat} {f : Copy → Copy}

/-- A change of a copy changes the copies of its core alone. -/
theorem State.core_updCopy (s : State) (core slot : Nat) (f : Copy → Copy) (j : Nat) : (s.updCopy core slot f).core j =
    if j = core then { s.core core with copies := Tab.mapAll (s.core core).copies fun k x => if k = slot then f x else x } else s.core j :=
  State.core_putCore s core _ j

theorem State.copy_updCopy {c : Copy} (h : Tab.look (s.core core).copies slot = some c) :
    Tab.look ((s.updCopy core slot f).core core).copies slot = some (f c) := by
  simp only [State.core_updCopy, if_true, Tab.look_mapAll, h, Option.map_some]

theorem State.core_updCopy_rest (s : State) (core slot : Nat) (f : Copy → Copy) (j : Nat) :
    ∃ l, (s.updCopy core slot f).core j = { s.core j with copies := l } := by
  rw [State.core_updCopy]
  split
  · rename_i h
    exact ⟨_, by rw [h]⟩
  · exact ⟨_, rfl⟩

@[simp] theorem State.pool_updCopy (j : Nat) : ((s.updCopy core slot f).core j).pool = (s.core j).pool := by
  obtain ⟨l, h⟩ := s.core_updCopy_rest core slot f j
  rw [h]

theorem State.pages_updCopy (j : Nat) : ((s.updCopy core slot f).core j).pages = (s.core j).pages := by
  obtain ⟨l, h⟩ := s.core_updCopy_rest core slot f j
  rw [h]

/-- Whether bytes may land does not hang on the copies. -/
theorem State.landCode_updCopy (bytes : List (Nat × Byte)) (owners : List (Nat × Nat)) :
    (s.updCopy core slot f).landCode n bytes owners = s.landCode n bytes owners := by
  unfold State.landCode
  rw [State.pages_updCopy]
  rfl

end

/-! ### Bytes that land in a pool (04 R99) -/

/-- A byte on whose value the writes agree reads as that value, if one of them names it or it reads so already. -/
theorem readCell_writeCells_agreed (l : List (Nat × Byte)) (m : List Host.Cell) (hm : cellsWf m = true) (j : Nat) (v : Byte)
    (hone : ∀ b, b ∈ l → b.1 = j → b.2 = v) (h : (j, v) ∈ l ∨ readCell m j = v) : readCell (writeCells m l) j = v := by
  induction l generalizing m with
  | nil => exact h.resolve_left List.not_mem_nil
  | cons b l ih =>
    refine ih _ (wf_writeCell m b.1 b.2 hm) (fun y hy => hone y (List.mem_cons_of_mem _ hy)) ?_
    rw [readCell_write m b.1 j b.2 hm]
    by_cases hb : j = b.1
    · right
      rw [if_pos hb, hone b List.mem_cons_self hb.symm]
    · rw [if_neg hb]
      exact h.imp_left fun h => (List.mem_cons.mp h).resolve_left fun e => hb (congrArg Prod.fst e)

theorem bytesPut_writeCells {m : List Host.Cell} (hm : cellsWf m = true) (l : List (Nat × Byte)) : Rules.bytesPut m (writeCells m l) l :=
  ⟨fun x h => readCell_writeCells_ne l m x h, fun x v h hone => readCell_writeCells_agreed l m hm x v hone (.inl h)⟩

section
variable {s : State} {n : Nat} {bytes : List (Nat × Byte)} {psn : List Nat}

@[simp] theorem State.pool_poolLand (j : Nat) : ((s.updCore n fun c => c.poolLand bytes psn).core j).pool =
    if j = n then writeCells (s.core n).pool bytes else (s.core j).pool := by
  rw [State.updCore, State.core_putCore]
  split <;> rfl

@[simp] theorem State.copies_poolLand (j : Nat) : ((s.updCore n fun c => c.poolLand bytes psn).core j).copies = (s.core j).copies := by
  rw [State.updCore, State.core_putCore]
  split
  · rename_i h
    rw [h]
    rfl
  · rfl

end

/-! ### The translation of a chunk (04 R109) -/

section
variable {s : State} {core slot : Nat} {c : Copy}

/-- A `go` has one share, and loses none: what does not translate stops the copy. -/
theorem State.chunkDst_lost {n : Nat} {ds : List ChunkDst} {l : List Nat} (hm : c.mcast = false) (h : s.chunkDst c n = .ok (ds, l)) : l = [] := by
  unfold State.chunkDst at h
  extract_lets p q dst at h
  rw [hm] at h
  split at h
  · cases h
    rfl
  · rw [if_neg (by simp)] at h
    split at h
    · split at h <;> cases h
      rfl
    · split at h <;> cases h
      rfl
    · cases h
    · cases h

theorem walkLogged_eq (s : State) (x : Option Nat) : Rules.walkLogged s x = x.elim s s.logWalk := by
  cases x <;> rfl

/-- A paced `go` that asks for its next chunk, with nothing before it in the way. -/
structure State.AsksChunk (s : State) (core slot : Nat) (c : Copy) : Prop where
  held : Tab.look (s.core core).copies slot = some c
  running : c.st = .running
  fetching : c.fetching = true
  goesOn : c.fin = none
  paced : c.paced = true
  single : c.mcast = false
  whole : c.lost = []
  clear : s.anyOpen core c.behind = false

/-- Is the next chunk of a copy asked for? A paced copy has up to 32 chunks staged. -/
def Copy.wantsMore (c : Copy) : Bool := decide (c.k < c.chunks) && decide (c.staged.length < 32) && c.paced

/-- The copy with its next chunk staged, and the one after it asked for or not. -/
def Copy.stages (c : Copy) (ch : Chunk) : Copy :=
  let y := { c with staged := c.staged ++ [ch], k := c.k + 1 }
  { y with fetching := y.wantsMore }

theorem Copy.stages_eq {ch : Chunk} {more : Bool} (h : (c.stages ch).fetching = more) :
    c.stages ch = { c with staged := c.staged ++ [ch], k := c.k + 1, fetching := more } := by
  rw [← h]
  rfl

theorem Copy.stages_fetching {ch : Chunk} (h : c.paced = true) :
    (c.stages ch).fetching = true ↔ c.k + 1 < c.chunks ∧ c.staged.length < 31 := by
  have hstaged : (c.staged ++ [ch]).length < 32 ↔ c.staged.length < 31 := by
    rw [List.length_append, List.length_singleton]
    omega
  rw [Copy.stages, Copy.wantsMore, h, Bool.and_true, Bool.and_eq_true, decide_eq_true_iff, decide_eq_true_iff, hstaged]
  rfl

/-- A chunk that does not translate is staged with its code; one that does is read once its lines are reached, and waits for them else. -/
theorem State.AsksChunk.translates (h : s.AsksChunk core slot c)
    (hcoh : s.chunkCode core c c.k = 0 → coherentOf (s.chunkPlaces core c c.k) = []) : s.copyTranslate core slot =
    if s.chunkCode core c c.k ≠ 0 then
      (Rules.walkLogged s (if s.chunkCode core c c.k = 2 then s.chunkWalk core c c.k else none)).updCopy core slot fun _ => { c with
        staged := c.staged ++ [⟨c.k, [], s.chunkCode core c c.k⟩], k := c.k + 1, fetching := false }
    else (s.reachAll (linesOf (s.chunkPlaces core c c.k))).elim
      ((s.askAhead [] (linesOf (s.chunkPlaces core c c.k))).park core 512 (.copyChunkTranslate core slot)) fun s1 =>
        let y := c.stages ⟨c.k, s1.chunkBytes core c c.k, 0⟩
        let t := s1.updCopy core slot fun _ => y
        if y.fetching then t.send .request core 512 (.copyChunkTranslate core slot) else t := by
  unfold State.copyTranslate
  split
  · rename_i hno
    exact absurd (h.held.symm.trans hno) (by simp)
  · rename_i c' hc'
    obtain rfl : c = c' := Option.some.inj (h.held.symm.trans hc')
    rw [if_neg (by simp [h.running, h.fetching, h.goesOn]), if_neg (by simp [h.paced])]
    extract_lets lost c₁ code places secs again u
    have hlost : lost = [] := List.flatMap_eq_nil_iff.mpr fun n _ => by
      split
      · rename_i hok
        exact State.chunkDst_lost h.single hok
      · rfl
    have hc₁ : c₁ = c := by
      have : (c.lost ++ lost).eraseDups = c.lost := by rw [hlost, h.whole]; rfl
      show { c with lost := (c.lost ++ lost).eraseDups } = c
      rw [this]
    have hcode : code = s.chunkCode core c c.k := by simp [code, hc₁, h.single]
    have hplaces : places = if s.chunkCode core c c.k = 0 then s.chunkPlaces core c c.k else [] := by simp [places, hc₁, hcode]
    have hsecs : secs = [] := by
      simp only [secs, hplaces]
      split
      · exact hcoh ‹_›
      · rfl
    have hu : u = Rules.walkLogged s (if s.chunkCode core c c.k = 2 then s.chunkWalk core c c.k else none) := by
      simp only [u, hc₁, hcode, walkLogged_eq]
    rw [hu, hc₁, if_neg (by simp [h.clear]), if_neg (by simp [hsecs]), hcode, hplaces, hsecs]
    split
    · exact if_pos h.paced
    · rename_i hzero
      rw [if_pos (not_not.mp hzero)]
      cases s.reachAll (linesOf (s.chunkPlaces core c c.k)) with
      | none => rfl
      | some s1 => exact if_pos h.paced

end

/-! ### A copy that changes what it waits for -/

/-- From one state to the next a copy has changed what it waits for alone: its bytes, its staged chunks and its poison are those of `y`, and warps,
memory and pools are as they were. -/
structure State.OnlyWaits (s : State) (core slot : Nat) (y : Copy) (t : State) : Prop where
  warps : t.warps = s.warps
  mem : t.mem = s.mem
  slices : t.slices = s.slices
  pools : ∀ j, (t.core j).pool = (s.core j).pool
  copy : ∃ z, Tab.look (t.core core).copies slot = some z ∧ z.landed = y.landed ∧ z.staged = y.staged ∧ z.poison = y.poison

namespace State.OnlyWaits

variable {core slot : Nat} {y : Copy} {s t : State}

theorem refl (h : Tab.look (s.core core).copies slot = some y) : s.OnlyWaits core slot y s := ⟨rfl, rfl, rfl, fun _ => rfl, y, h, rfl, rfl, rfl⟩

/-- A change of the copy that leaves its bytes, its staged chunks and its poison, before the others. -/
theorem after {f : Copy → Copy} (hf : (f y).landed = y.landed ∧ (f y).staged = y.staged ∧ (f y).poison = y.poison)
    (h : (s.updCopy core slot f).OnlyWaits core slot (f y) t) : s.OnlyWaits core slot y t := by
  obtain ⟨hwarps, hmem, hslices, hpools, z, hz, hlanded, hstaged, hpoison⟩ := h
  obtain ⟨hl, hs, hp⟩ := hf
  exact ⟨hwarps, hmem, hslices, fun j => (hpools j).trans (State.pool_updCopy j), z, hz, hlanded.trans hl, hstaged.trans hs, hpoison.trans hp⟩

theorem updCopy {f : Copy → Copy} (h : Tab.look (s.core core).copies slot = some y)
    (hf : (f y).landed = y.landed ∧ (f y).staged = y.staged ∧ (f y).poison = y.poison) : s.OnlyWaits core slot y (s.updCopy core slot f) :=
  after hf (refl (State.copy_updCopy h))

theorem later (h : s.OnlyWaits core slot y t) {l : List Ev} : s.OnlyWaits core slot y (t.later l) := ⟨h.warps, h.mem, h.slices, h.pools, h.copy⟩

theorem send (h : s.OnlyWaits core slot y t) {c : NetClass} {a b : Nat} {e : Ev} : s.OnlyWaits core slot y (t.send c a b e) :=
  ⟨h.warps, h.mem, h.slices, h.pools, h.copy⟩

theorem arrive (h : s.OnlyWaits core slot y t) {c wid : Nat} {e : Ev} : s.OnlyWaits core slot y (t.arrive c wid e) := by
  rw [arrive_frame]
  exact ⟨h.warps, h.mem, h.slices, h.pools, h.copy⟩

/-- A copy that has stopped waits for its status, which is on its way to its warp, or for its writes on their way (04 R108, R111). -/
theorem copyCheck (h : Tab.look (s.core core).copies slot = some y) : s.OnlyWaits core slot y (s.copyCheck core slot) := by
  unfold State.copyCheck
  split
  · split
    · split
      · exact arrive (updCopy h ⟨rfl, rfl, rfl⟩)
      · exact refl h
    · exact refl h
  · exact refl h

end State.OnlyWaits

/-! ### The landing of a due chunk (04 R107, R109) -/

/-- The copy without staged chunks, as it is when its due chunk is taken to land. -/
def Copy.unstaged (c : Copy) : Copy := { c with staged := [] }

/-- The copy when a chunk of it has landed (04 R110). -/
def Copy.lands (c : Copy) (ch : Chunk) : Copy :=
  let y := { c with landed := c.landed + ch.bytes.length, poison := c.poison || ch.bytes.any ChunkByte.psn }
  { y with fin := if ch.k + 1 ≥ y.chunks then some y.code else none }

theorem Copy.lands_last {c : Copy} {ch : Chunk} (h : c.chunks ≤ ch.k + 1) (hm : c.mcast = false) :
    (c.lands ch).fin = some (if c.poison || ch.bytes.any ChunkByte.psn then 7 else 0) := by
  refine (if_pos h).trans ?_
  rw [Copy.code, hm]
  rfl

theorem Copy.lands_more {c : Copy} {ch : Chunk} (h : ch.k + 1 < c.chunks) : (c.lands ch).fin = none := if_neg (Nat.not_le.mpr h)

section
variable {s : State} {core slot n : Nat} {c : Copy} {ch : Chunk}

/-- A sound chunk of a copy that goes on, its bytes all for the pool of one core whose pages stand. -/
structure State.LandsChunk (s : State) (core slot n : Nat) (c : Copy) (ch : Chunk) : Prop where
  held : Tab.look (s.core core).copies slot = some c
  goesOn : c.fin = none
  sound : ch.code = 0
  target : chunkTargets ch.bytes = [(0, .core n)]
  stands : s.landCode n (chunkFor ch.bytes 0 (.core n)).1 (chunkOwners ch.bytes 0 (.core n)) = 0

/-- The chunk's bytes are in the pool, and the copy counts them. -/
def State.chunkLanded (s : State) (core slot n : Nat) (ch : Chunk) : State :=
  (s.updCore n fun x => x.poolLand (chunkFor ch.bytes 0 (.core n)).1 (chunkFor ch.bytes 0 (.core n)).2).updCopy core slot (Copy.lands · ch)

theorem State.LandsChunk.landChunk (h : s.LandsChunk core slot n c ch) : s.landChunk core slot ch = s.chunkLanded core slot n ch := by
  unfold State.landChunk
  simp only [h.held, h.goesOn, h.target, h.stands, h.sound, Option.isSome_none, Bool.false_eq_true, List.findSome?_cons, List.findSome?_nil,
    Option.getD_none, ne_eq, not_true, if_true, if_false, List.foldl_cons, List.foldl_nil]
  rfl

/-- The one staged chunk of a paced copy, which is due and lands. -/
structure State.LandsDue (s : State) (core slot n : Nat) (c : Copy) (ch : Chunk) : Prop extends s.LandsChunk core slot n c ch where
  running : c.st = .running
  paced : c.paced = true
  uncancelled : c.cancelled = false
  staged : c.staged = [ch]
  due : c.due ch.k ≤ s.lcycOf core

/-- The staged chunk has landed. -/
def State.dueLanded (s : State) (core slot n : Nat) (ch : Chunk) : State := (s.updCopy core slot Copy.unstaged).chunkLanded core slot n ch

theorem State.pool_dueLanded (j : Nat) : ((s.dueLanded core slot n ch).core j).pool =
    if j = n then writeCells (s.core n).pool (chunkFor ch.bytes 0 (.core n)).1 else (s.core j).pool := by
  simp only [State.dueLanded, State.chunkLanded, State.pool_updCopy, State.pool_poolLand]

namespace State.LandsDue

theorem unstaged (h : s.LandsDue core slot n c ch) : (s.updCopy core slot Copy.unstaged).LandsChunk core slot n c.unstaged ch :=
  ⟨State.copy_updCopy h.held, h.goesOn, h.sound, h.target, (State.landCode_updCopy ..).trans h.stands⟩

theorem copy_dueLanded (h : s.LandsDue core slot n c ch) :
    Tab.look ((s.dueLanded core slot n ch).core core).copies slot = some (c.unstaged.lands ch) :=
  State.copy_updCopy (by rw [State.copies_poolLand]; exact h.unstaged.held)

/-- The due chunk lands; then the copy ends with its code, or asks for a chunk where it has stopped asking, or waits for the one asked for. -/
theorem copyLand (h : s.LandsDue core slot n c ch) :
    let u := s.dueLanded core slot n ch
    let y := c.unstaged.lands ch
    s.copyLand core slot = y.fin.elim
      (if !y.fetching && decide (y.k < y.chunks) then
        (u.updCopy core slot fun z => { z with fetching := true }).send .request core 512 (.copyChunkTranslate core slot) else u)
      fun code => (u.updCopy core slot fun z => { z with fin := none, staged := [], fetching := false, cancelled := false }).later
        [.copyFinalStatus core slot code] := by
  intro u y
  have hpart : c.staged.partition (fun ch => decide (c.due ch.k ≤ s.lcycOf core)) = ([ch], []) := by
    simp [h.staged, List.partition_eq_filter_filter, h.due]
  have hland : (s.updCopy core slot fun z => { z with staged := [] }).landChunk core slot ch = u := h.unstaged.landChunk
  have hlook : Tab.look (u.core core).copies slot = some y := h.copy_dueLanded
  have hcan : y.cancelled = false := h.uncancelled
  have hstaged : y.staged = [] := rfl
  unfold State.copyLand
  simp only [h.held, h.running, h.paced, hpart, List.foldl_cons, List.foldl_nil, hland, hlook, hcan, hstaged, bne_self_eq_false, Bool.not_true,
    Bool.or_self, Bool.false_and, Bool.false_eq_true, if_false, List.length_nil, List.all_nil, Bool.and_true, Nat.ofNat_pos, decide_true]
  cases y.fin <;> rfl

/-- After the landing step the chunk's bytes stand in the pool, and the copy has counted them. -/
theorem onlyWaits (h : s.LandsDue core slot n c ch) :
    (s.dueLanded core slot n ch).OnlyWaits core slot (c.unstaged.lands ch) (s.copyLand core slot) := by
  have hlook := h.copy_dueLanded
  rw [h.copyLand]
  cases (c.unstaged.lands ch).fin with
  | some code => exact State.OnlyWaits.later (.updCopy hlook ⟨rfl, rfl, rfl⟩)
  | none =>
    rw [Option.elim_none]
    split
    · exact State.OnlyWaits.send (.updCopy hlook ⟨rfl, rfl, rfl⟩)
    · exact .refl hlook

theorem agenda (h : s.LandsDue core slot n c ch) : (s.copyLand core slot).agenda =
    s.agenda ++ (c.unstaged.lands ch).fin.elim [] fun code => [.copyFinalStatus core slot code] := by
  have hsame : (s.dueLanded core slot n ch).agenda = s.agenda := rfl
  rw [h.copyLand]
  cases (c.unstaged.lands ch).fin with
  | some code => exact congrArg (· ++ [Ev.copyFinalStatus core slot code]) hsame
  | none =>
    rw [Option.elim_none, Option.elim_none, List.append_nil]
    split <;> exact hsame

end State.LandsDue

end

/-! ### The delivery of a chunk of an unpaced copy (04 R107) -/

section
variable {b : List ChunkByte} {n : Nat}

/-- Every destination of the chunk is of its one target. -/
theorem space_of_chunkTargets {sp : Space} {j : Nat} (h : chunkTargets b = [(j, sp)]) {x : ChunkByte} (hx : x ∈ b) {d : ChunkDst} (hd : d ∈ x.dst) :
    d.place.space = sp := by
  have hmem : (d.entry, d.place.space) ∈ chunkTargets b :=
    List.mem_eraseDups.mpr (List.mem_flatMap.mpr ⟨x, hx, List.mem_map.mpr ⟨d, hd, rfl⟩⟩)
  rw [h, List.mem_singleton] at hmem
  exact (Prod.mk.inj hmem).2

/-- A chunk that goes to a slice's pool alone picks no destination in memory. -/
theorem flatMap_pa_slice {α : Type} (h : chunkTargets b = [(0, .slice n)]) (p : ChunkDst → Bool) (hp : ∀ d, p d = true → d.place.space = .pa)
    (f : ChunkByte → ChunkDst → α) : (b.flatMap fun x => (x.dst.filter p).map (f x)) = [] := by
  refine List.flatMap_eq_nil_iff.mpr fun x hx => List.map_eq_nil_iff.mpr (List.filter_eq_nil_iff.mpr fun d hd hpd => ?_)
  exact absurd ((hp d hpd).symm.trans (space_of_chunkTargets h hx hd)) (by simp)

theorem chunkLines_slice (h : chunkTargets b = [(0, .slice n)]) : chunkLines b = [] := by
  unfold chunkLines
  rw [flatMap_pa_slice h (fun d => d.place.space == .pa) fun d hd => by simpa using hd]
  rfl

theorem chunkCoherent_slice (h : chunkTargets b = [(0, .slice n)]) : chunkCoherent b = [] := by
  unfold chunkCoherent
  rw [flatMap_pa_slice h (fun d => d.place.space == .pa && d.cls != .non) fun d hd => by
    simp only [Bool.and_eq_true, beq_iff_eq] at hd
    exact hd.1]
  rfl

theorem chunkFor_pa_slice (h : chunkTargets b = [(0, .slice n)]) (j : Nat) : (chunkFor b j .pa).1 = [] := by
  unfold chunkFor
  rw [flatMap_pa_slice h (fun d => d.entry == j && d.place.space == .pa) fun d hd => by
    simp only [Bool.and_eq_true, beq_iff_eq] at hd
    exact hd.2]
  rfl

end

/-- A slice whose pool takes bytes with the poison of 64-byte blocks (17 R398). -/
def Slice.poolLand (x : Slice) (bytes : List (Nat × Byte)) (psn : List Nat) : Slice :=
  let y := x.poolWrite bytes
  { y with psn := psn ++ y.psn.filter fun b => !psn.contains b }

/-- The copy when a chunk of it has been delivered that goes to a slice's pool alone, with what is then staged. -/
def Copy.delivers (c : Copy) (ch : Chunk) (rest : List Chunk) (len : Nat) (more : Bool) : Copy :=
  { c with
    staged := rest, poison := c.poison || ch.bytes.any ChunkByte.psn, lines := c.lines.eraseDups, landed := c.landed + len, fetching := more }

section
variable {s : State} {core slot n : Nat} {c : Copy} {ch : Chunk} {rest : List Chunk}

/-- The chunk's bytes are in the slice's pool, and the copy counts them. -/
def State.chunkDelivered (s : State) (core slot n : Nat) (c : Copy) (ch : Chunk) (rest : List Chunk) : State :=
  (s.updCopy core slot fun z => z.delivers ch rest (c.range ch.k).length (!decide (c.k ≥ c.chunks))).updSlice n fun x =>
    x.poolLand (chunkFor ch.bytes 0 (.slice n)).1 (chunkFor ch.bytes 0 (.slice n)).2

/-- The next staged chunk of an unpaced copy, its bytes all for the pool of one slice. -/
structure State.DeliversChunk (s : State) (core slot n : Nat) (c : Copy) (ch : Chunk) (rest : List Chunk) : Prop where
  held : Tab.look (s.core core).copies slot = some c
  running : c.st = .running
  unpaced : c.paced = false
  goesOn : c.fin = none
  uncancelled : c.cancelled = false
  staged : c.staged = ch :: rest
  target : chunkTargets ch.bytes = [(0, .slice n)]

theorem State.slice_chunkDelivered (j : Nat) : (s.chunkDelivered core slot n c ch rest).slice j =
    if j = n then (s.slice n).poolLand (chunkFor ch.bytes 0 (.slice n)).1 (chunkFor ch.bytes 0 (.slice n)).2 else s.slice j :=
  State.slice_putSlice ..

theorem State.copy_chunkDelivered (h : Tab.look (s.core core).copies slot = some c) :
    Tab.look ((s.chunkDelivered core slot n c ch rest).core core).copies slot =
      some (c.delivers ch rest (c.range ch.k).length (!decide (c.k ≥ c.chunks))) :=
  State.copy_updCopy (f := fun z => z.delivers ch rest (c.range ch.k).length (!decide (c.k ≥ c.chunks))) h

/-- The chunk is written to the slice; then the next one is asked for, or the copy has ended. -/
theorem State.DeliversChunk.copyDeliver (h : s.DeliversChunk core slot n c ch rest) :
    let u := s.chunkDelivered core slot n c ch rest
    s.copyDeliver core slot =
      if c.k ≥ c.chunks then (u.updCopy core slot fun z => { z with fin := if z.fin.isSome then z.fin else some z.code }).copyCheck core slot
      else u.send .request core 512 (.copyChunkTranslate core slot) := by
  have hreach : s.reachAll [] true = some s := rfl
  unfold State.copyDeliver
  simp only [h.held, h.staged, h.running, h.unpaced, h.goesOn, h.uncancelled, bne_self_eq_false, Option.isSome_none, Bool.or_self,
    Bool.false_eq_true, if_false, chunkLines_slice h.target, chunkCoherent_slice h.target, chunkFor_pa_slice h.target, h.target, hreach,
    List.filterMap_nil, List.append_nil]
  rfl

/-- After its delivery the chunk's bytes stand in the slice, and the copy has counted them. -/
theorem State.DeliversChunk.onlyWaits (h : s.DeliversChunk core slot n c ch rest) :
    (s.chunkDelivered core slot n c ch rest).OnlyWaits core slot (c.delivers ch rest (c.range ch.k).length (!decide (c.k ≥ c.chunks)))
      (s.copyDeliver core slot) := by
  have hlook := State.copy_chunkDelivered (n := n) (ch := ch) (rest := rest) h.held
  rw [h.copyDeliver]
  split
  · exact .after ⟨rfl, rfl, rfl⟩ (.copyCheck (State.copy_updCopy hlook))
  · exact State.OnlyWaits.send (.refl hlook)

end

/-! ### The final status (04 R109 to R112) -/

/-- Two states agree in the warps, memory, the agenda, the messages on their way, and in each core's copies and tags. -/
structure State.SameCopies (s t : State) : Prop where
  warps : t.warps = s.warps
  mem : t.mem = s.mem
  agenda : t.agenda = s.agenda
  flight : t.flight = s.flight
  copies : ∀ j, (t.core j).copies = (s.core j).copies
  ctag : ∀ j, (t.core j).ctag = (s.core j).ctag

section
variable {s t u : State} {core : Nat} {f : FutAt} {v : W64}

theorem State.SameCopies.refl (s : State) : s.SameCopies s := ⟨rfl, rfl, rfl, rfl, fun _ => rfl, fun _ => rfl⟩

theorem State.SameCopies.trans (h : s.SameCopies t) (h' : t.SameCopies u) : s.SameCopies u :=
  ⟨h'.warps.trans h.warps, h'.mem.trans h.mem, h'.agenda.trans h.agenda, h'.flight.trans h.flight, fun j => (h'.copies j).trans (h.copies j),
    fun j => (h'.ctag j).trans (h.ctag j)⟩

theorem State.sameCopies_arrive (s : State) (core wid : Nat) (e : Ev) : s.SameCopies (s.arrive core wid e) := by
  rw [arrive_frame]
  exact ⟨rfl, rfl, rfl, rfl, fun _ => rfl, fun _ => rfl⟩

theorem State.sameCopies_predsMet (s : State) (core : Nat) (f : FutAt) : s.SameCopies (s.predsMet core f) :=
  ⟨rfl, rfl, rfl, rfl, fun _ => rfl, fun _ => rfl⟩

/-- A change of a core's named barriers. -/
theorem State.sameCopies_bars (s : State) (n : Nat) (f : Tab Bar → Tab Bar) : s.SameCopies (s.updCore n fun c => { c with bars := f c.bars }) := by
  refine ⟨rfl, rfl, rfl, rfl, fun j => ?_, fun j => ?_⟩ <;>
  · rw [State.updCore, State.core_putCore]
    split
    · rename_i h
      rw [h]
    · rfl

/-- What hangs on a future are named barriers and tasks (15 R346, 07 R176). -/
theorem State.sameCopies_resolved (s : State) (core : Nat) (f : FutAt) : s.SameCopies (s.resolved core f) := by
  refine State.SameCopies.trans ?_ (State.sameCopies_predsMet _ core f)
  refine List.foldlRecOn _ _ (State.SameCopies.refl s) fun u hu k _ => ?_
  split
  · exact hu.trans (State.sameCopies_bars ..)
  · exact hu

theorem State.gone_of_findWid {wid : Nat} (h : (s.findWid wid).isSome = true) : s.gone wid = false := by
  rw [State.gone, Option.isNone_eq_false_iff.mpr h, Bool.false_and]

theorem State.resolvesNow_live (h : (s.findWid f.wid).isSome = true) : s.resolvesNow core f v = s.later [.futureResolution f v .nothing] := by
  unfold State.resolvesNow
  rw [if_neg (by simp [State.gone_of_findWid h]), if_neg (by simp [Option.isSome_iff_ne_none.mp h])]

theorem State.sameCopies_resolvesNow (h : (s.findWid f.wid).isSome = false) : s.SameCopies (s.resolvesNow core f v) := by
  unfold State.resolvesNow
  split
  · exact (State.sameCopies_predsMet s core f).trans (State.sameCopies_arrive ..)
  · rw [if_pos (by simpa using h)]
    exact State.sameCopies_arrive ..

theorem State.sameCopies_resolveFut (h : (s.findWid f.wid).isSome = false) : s.SameCopies (s.resolveFut core f v) := by
  have hnone : s.findWid f.wid = none := by simpa using h
  unfold State.resolveFut
  rw [hnone]
  exact State.sameCopies_resolved ..

/-- A copy's future takes its status: at the end of the cycle for a live warp, and at once for an unpaced copy whose warp has ended. -/
def State.tellStatus (s : State) (unpaced : Bool) (core : Nat) (f : FutAt) (v : W64) : State :=
  if unpaced && s.gone f.wid then s.resolveFut core f v else s.resolvesNow core f v

theorem State.tellStatus_live {unpaced : Bool} (h : (s.findWid f.wid).isSome = true) :
    s.tellStatus unpaced core f v = s.later [.futureResolution f v .nothing] := by
  unfold State.tellStatus
  rw [if_neg (by simp [State.gone_of_findWid h]), State.resolvesNow_live h]

/-- The resolution stands on the agenda for a live warp; beyond that nothing of the copies changes. -/
theorem State.sameCopies_tellStatus (unpaced : Bool) : State.SameCopies
    { s with agenda := s.agenda ++ if (s.findWid f.wid).isSome then [.futureResolution f v .nothing] else [] } (s.tellStatus unpaced core f v) := by
  cases h : (s.findWid f.wid).isSome with
  | true =>
    rw [State.tellStatus_live h]
    exact State.SameCopies.refl _
  | false =>
    have : ({ s with agenda := s.agenda ++ if false = true then [.futureResolution f v .nothing] else [] } : State) = s := by simp
    rw [this]
    unfold State.tellStatus
    split
    · exact State.sameCopies_resolveFut h
    · exact State.sameCopies_resolvesNow h

end

section
variable {s : State} {core slot code : Nat} {c : Copy}

/-- A final status has freed the slot, set the copy's tag, and sent its bytes to their object, with a code of 0 or 4 (04 R110, R111). -/
def State.copyFreed (s : State) (core slot code : Nat) (c : Copy) : State :=
  let t := s.updCore core fun x => { x with
    copies := Tab.del x.copies slot
    ctag := if cwTge c.comp then x.ctag ||| (1#64 <<< cwTag c.comp) else x.ctag
    tagged := if cwTge c.comp then x.tagged ||| (1#64 <<< cwTag c.comp) else x.tagged }
  { t with flight := s.flight ++ if cwBce c.comp && (code = 0 || code = 4) then
      [⟨.request, core, 512, .byteCountAdd (cwBobj c.comp) (c.landed * c.reached.length) c.ten c.lines⟩] else [] }

theorem State.core_copyFreed (s : State) (core slot code : Nat) (c : Copy) : (s.copyFreed core slot code c).core core = { s.core core with
    copies := Tab.del (s.core core).copies slot
    ctag := if cwTge c.comp then (s.core core).ctag ||| (1#64 <<< cwTag c.comp) else (s.core core).ctag
    tagged := if cwTge c.comp then (s.core core).tagged ||| (1#64 <<< cwTag c.comp) else (s.core core).tagged } :=
  (State.core_putCore s core _ core).trans (if_pos rfl)

/-- Bytes that are sent where a condition holds. -/
theorem State.send_if (s : State) (p : Bool) (core : Nat) (e : Ev) :
    (if p then s.send .request core 512 e else s) = { s with flight := s.flight ++ if p then [⟨.request, core, 512, e⟩] else [] } := by
  cases p
  · simp
  · rfl

theorem State.copyStatus_suspends (hheld : Tab.look (s.core core).copies slot = some c) (hmove : c.tmove = none)
    (hlive : (s.findWid c.fut.wid).isSome = true) (hcode : code = 1 ∨ code = 2) :
    s.copyStatus core slot code = (s.updCopy core slot fun z => { z with
      st := .suspended code, k := (z.landed + 255) / 256, staged := [], fetching := false, fin := none }).later
        [.futureResolution c.fut (c.status slot code) .nothing] := by
  have hgone (u : Copy → Copy) : (s.updCopy core slot u).gone c.fut.wid = false := State.gone_of_findWid hlive
  have hends : (decide (code = 1) || decide (code = 2)) = true := by simpa using hcode
  unfold State.copyStatus State.copyEnds
  simp only [hheld, hmove, hends, if_true, hgone, Bool.and_false, Bool.false_eq_true, if_false]
  exact State.resolvesNow_live (by exact hlive)

theorem State.copyStatus_frees (hheld : Tab.look (s.core core).copies slot = some c) (hmove : c.tmove = none) (h1 : code ≠ 1) (h2 : code ≠ 2) :
    s.copyStatus core slot code = (s.copyFreed core slot code c).tellStatus (!c.paced) core c.fut (c.status slot code) := by
  have hends : (decide (code = 1) || decide (code = 2)) = false := by simp [h1, h2]
  unfold State.copyStatus State.copyEnds
  simp only [hheld, hmove, hends, Bool.false_eq_true, if_false]
  exact congrArg (fun u => State.tellStatus u (!c.paced) core c.fut (c.status slot code)) (State.send_if _ _ core _)

end

end Sys2Proof.Machine

namespace Sys2Proof.Rules

open Sys2Proof.Machine

/-- Settles O39: a chunk is translated, lands or is delivered, and a final status takes effect, as the lemma above on each step says. -/
theorem copySteps : Obligations.CopySteps := by
  refine ⟨?translate, ?landing, ?delivery, ?status⟩
  case translate =>
    intro s core slot c hev hheld hst hfetch hfin hpaced hsingle hlost hclear
    have hasks : s.AsksChunk core slot c := ⟨hheld, hst, hfetch, hfin, hpaced, hsingle, hlost, hclear⟩
    refine ⟨fun s1 hcode hcoh hreach => ?_, fun hcode => ?_⟩
    · have hstep := hasks.translates fun _ => hcoh
      rw [if_neg (by simp [hcode]), hreach, Option.elim_some] at hstep
      have hmore := Copy.stages_fetching (ch := ⟨c.k, s1.chunkBytes core c c.k, 0⟩) hpaced
      rw [exec_copyChunkTranslate hev, hstep]
      refine ⟨fun hk hlen => ?_, fun hno => ?_⟩
      · have hf := hmore.mpr ⟨hk, hlen⟩
        simp only [Copy.stages_eq hf, if_true]
      · have hf := Bool.eq_false_iff.mpr (mt hmore.mp (by omega))
        simp only [Copy.stages_eq hf, Bool.false_eq_true, if_false]
    · rw [exec_copyChunkTranslate hev, hasks.translates fun hzero => absurd hzero hcode, if_pos hcode]
  case landing =>
    intro s core slot n c ch hev hheld hst hpaced hfin hcan hsingle hone hdue hcode htarget bytes hstands hwf
    have hlands : s.LandsDue core slot n c ch := ⟨⟨hheld, hfin, hcode, htarget, hstands⟩, hst, hpaced, hcan, hone, hdue⟩
    obtain ⟨hwarps, hmem, -, hpools, hcopy⟩ := hlands.onlyWaits
    have hpool (j : Nat) : ((s.copyLand core slot).core j).pool = if j = n then writeCells (s.core n).pool bytes else (s.core j).pool :=
      (hpools j).trans (State.pool_dueLanded j)
    refine ⟨_, exec_copyChunkLanding hev, hwarps, hmem, ?_, fun j hj => by rw [hpool, if_neg hj], hcopy, fun hlast => ?_, fun hmore => ?_⟩
    · rw [hpool, if_pos rfl]
      exact bytesPut_writeCells hwf bytes
    · have hend : (c.unstaged.lands ch).fin = some (if c.poison || ch.bytes.any ChunkByte.psn then 7 else 0) := Copy.lands_last hlast hsingle
      rw [hlands.agenda, hend]
      rfl
    · have hgoes : (c.unstaged.lands ch).fin = none := Copy.lands_more hmore
      rw [hlands.agenda, hgoes]
      exact List.append_nil _
  case delivery =>
    intro s core slot n c ch rest hev hheld hst hpaced hfin hcan hstaged htarget hwf
    have hdelivers : s.DeliversChunk core slot n c ch rest := ⟨hheld, hst, hpaced, hfin, hcan, hstaged, htarget⟩
    obtain ⟨hwarps, hmem, hslices, -, z, hlook, hlanded, hstay, -⟩ := hdelivers.onlyWaits
    have hslice (j : Nat) : (s.copyDeliver core slot).slice j = (s.chunkDelivered core slot n c ch rest).slice j := by
      rw [State.slice, hslices]
      rfl
    refine ⟨_, exec_unpacedChunkDelivery hev, hwarps, hmem, ?_, fun j hj => ?_, ⟨z, hlook, hlanded, hstay⟩, fun hmore => ?_⟩
    · rw [hslice, State.slice_chunkDelivered, if_pos rfl]
      exact bytesPut_writeCells hwf _
    · rw [hslice, State.slice_chunkDelivered, if_neg hj]
    · rw [hdelivers.copyDeliver, if_neg (Nat.not_le.mpr hmore)]
      rfl
  case status =>
    intro s core slot code c hev hheld hmove
    refine ⟨fun hlive hcode => ?_, fun h1 h2 => ?_⟩
    · rw [exec_copyFinalStatus hev, State.copyStatus_suspends hheld hmove hlive hcode]
    · obtain ⟨hwarps, hmem, hagenda, hflight, hcopies, hctag⟩ := State.sameCopies_tellStatus (s := s.copyFreed core slot code c) (core := core)
        (f := c.fut) (v := c.status slot code) (!c.paced)
      have hcore := s.core_copyFreed core slot code c
      refine ⟨_, exec_copyFinalStatus hev, ?_⟩
      rw [State.copyStatus_frees hheld hmove h1 h2]
      refine ⟨hwarps, hmem, hagenda, (hcopies core).trans ?_, (hctag core).trans ?_, hflight⟩
      · exact congrArg Core.copies hcore
      · exact congrArg Core.ctag hcore

end Sys2Proof.Rules
end

section
/-! The moves to operand ports, registers, predicates and special registers (05_core_ports_and_registers R121 to R126, R133 to R136; 06_numbers R156,
R163), and the statements on them. -/

namespace Sys2Proof.Rules

open Sys2Proof.Machine

/-! ### A move whose source is readable -/

theorem lowest_zero : lowest 0 = none := by decide

section
variable {s t : State} {w : Warp} {m : Mv} {wide : Bool} {g : W32} {v : Lanes} {k : Nat}

/-- It acts on its guard's lanes and its source's value. -/
theorem Ready.withMove (h : Ready s w m wide g v) (f : W32 → Lanes → Act) : s.withMove w m wide f = f g v := by
  obtain ⟨-, rfl, hsource⟩ := h
  exact withMove_of hsource

/-- It changes its own warp alone. -/
theorem Ready.issue {w' : Warp} (h : Ready s w m wide g v) {f : Warp → Act} (hf : f w = .next (s.setMe w')) : issue s f = .next (mine s w') :=
  issue_done h.live hf

/-! ### Operand ports (05 R121, R126) -/

theorem unScalar_eq (u : Un) : unScalar u = oneValue u := by cases u <;> rfl

theorem portWrite_lanes {u : Un} (hu : oneValue u = false) (g : W32) (new old : Lanes) :
    lanesOver g (laneAt new) (laneAt old) (portWrite u g new old) := by
  intro i hi
  rw [portWrite, unScalar_eq, hu]
  exact laneAt_mergeLanes g new old i hi

theorem portWrite_one {u : Un} (hu : oneValue u = true) (hk : LowestLane g k) (new old : Lanes) {i : Nat} (hi : i < 32) :
    laneAt (portWrite u g new old) i = laneAt new k := by
  rw [portWrite, unScalar_eq, hu, if_pos rfl, lowest_of_lowestLane hk]
  exact laneAt_splat _ i hi

theorem portWrite_zero (u : Un) (new old : Lanes) {i : Nat} (hi : i < 32) : laneAt (portWrite u 0 new old) i = laneAt old i := by
  rw [portWrite, lowest_zero]
  split
  · rfl
  · simp [laneAt_mergeLanes _ _ _ i hi]

theorem exec_moveToPort (h : Ready s w m wide g v) (u : Un) (k : PortIx) : exec (.moveToPort u k wide m) s =
    .next (mine s (withCtx w (w.ctx.putPort u ((w.ctx.port u).setOperand k (portWrite u g v))))) :=
  h.issue (h.withMove _)

end

/-- Settles O14: the port takes what `portWrite` makes of the moved value and of what it held. -/
theorem portMoves : Obligations.PortMoves := by
  intro u k wide m s w g v h
  let old : Lanes := match k with
    | .a => (w.ctx.port u).a
    | .b => (w.ctx.port u).b
    | .c => (w.ctx.port u).c
  refine ⟨portWrite u g v old, fun hu => portWrite_lanes hu g v old, fun hu j hj i hi => portWrite_one hu hj v old hi, ?_, ?_⟩
  · rintro rfl i hi
    exact portWrite_zero u v old hi
  · rw [exec_moveToPort h]
    cases k <;> rfl

/-! ### Vector registers (05 R123, R133; 10 R234) -/

section
variable {s t : State} {w : Warp} {m : Mv} {wide : Bool} {g : W32} {v : Lanes} {k : Nat}

/-- The names v0 to v255 reach registers of their own. -/
theorem physReg_inj {rrb : BitVec 5} {j n : Nat} (hj : j < 256) (hn : n < 256) : physReg rrb j = physReg rrb n ↔ j = n := by
  have hr := rrb.isLt
  unfold physReg
  constructor
  · split <;> split <;> omega
  · rintro rfl
    rfl

theorem extractLsb'_eq_setWidth (x : W64) : x.extractLsb' 0 32 = x.setWidth 32 := by
  apply BitVec.eq_of_toNat_eq
  simp

theorem regAt_eq (vr : Tab (List W32)) (rrb : BitVec 5) (n i : Nat) : regAt vr rrb n i = vregOf vr (physReg rrb n) i := rfl

/-- A write of 32 bits of the moved value reaches the lanes of the mask in one register. -/
theorem regAt_writeVreg (vr : Tab (List W32)) (rrb : BitVec 5) {n j i : Nat} (hn : n < 256) (hj : j < 256) (hi : i < 32) (g : W32) (v : Lanes) (lo : Nat) :
    regAt (writeVreg vr (physReg rrb n) g v lo) rrb j i =
      if g.getLsbD i = true ∧ j = n then (laneAt v i).extractLsb' lo 32 else regAt vr rrb j i := by
  have hbits : BitVec.ofNat 32 ((laneAt v i).toNat / 2 ^ lo) = (laneAt v i).extractLsb' lo 32 := by
    apply BitVec.eq_of_toNat_eq
    simp [Nat.shiftRight_eq_div_pow]
  unfold writeVreg
  by_cases hg : g = 0
  · simp [hg]
  · have hput : (g == 0) = false := by simpa using hg
    simp only [hput, Bool.false_eq_true, if_false, regAt_eq, vregOf, Tab.get_put, physReg_inj hj hn]
    by_cases hjn : j = n
    · subst hjn
      simp [nLanes, hi, maskBit_eq, hbits]
    · simp [hjn]

theorem rangeFault_none {n : BitVec 8} (h : n.toNat + wide.toNat < w.regs) : rangeFault w n wide = none := by
  cases wide <;> simp_all [rangeFault]

theorem rangeFault_some {n : BitVec 8} (h : w.regs ≤ n.toNat + wide.toNat) : rangeFault w n wide = some (n.toNat + wide.toNat) := by
  cases wide <;> simp_all [rangeFault]

/-- What a move to a vector register, or to a pair, leaves in the registers. -/
def vregWritten (w : Warp) (rrb : BitVec 5) (n : Nat) (wide : Bool) (g : W32) (v : Lanes) : Tab (List W32) :=
  let t := writeVreg w.vregs (physReg rrb n) g v 0
  if wide then writeVreg t (physReg rrb (n + 1)) g v 32 else t

theorem exec_moveToVreg {n : BitVec 8} (h : Ready s w m wide g v) (hn : n.toNat + wide.toNat < w.regs) :
    exec (.moveToRegister (.vreg n wide) m) s = .next (mine s { w with vregs := vregWritten w (s.srcCtx w).rrb n.toNat wide g v }) :=
  h.issue (by
    simp only [h.withMove, rangeFault_none hn]
    rfl)

theorem exec_moveToVreg_range {n : BitVec 8} (h : Ready s w m wide g v) (hn : w.regs ≤ n.toNat + wide.toNat) :
    exec (.moveToRegister (.vreg n wide) m) s =
      .next { s.raiseTrap s.cur 0x03 (s.loc 0 (n.toNat + wide.toNat)) with verdict := .faulted 0x03 (s.loc 0 (n.toNat + wide.toNat)) } :=
  issue_fault h.live (by simp only [h.withMove, rangeFault_some hn])

/-- A pair begins with an even number, so that its second register has a name (05 R123). -/
theorem even_of_wellFormed {n : BitVec 8} (h : WellFormed (.moveToRegister (.vreg n true) m)) : n.toNat % 2 = 0 := by
  by_contra hodd
  have : (n.toNat % 2 == 1) = true := by simp; omega
  simp [WellFormed, Instr.illegal, this] at h

theorem regAt_vregWritten {n : BitVec 8} (h : WellFormed (.moveToRegister (.vreg n wide) m)) (rrb : BitVec 5) {j i : Nat} (hj : j < 256) (hi : i < 32)
    (g : W32) (v : Lanes) : regAt (vregWritten w rrb n.toNat wide g v) rrb j i =
      if g.getLsbD i = true ∧ j = n.toNat then (laneAt v i).setWidth 32
      else if g.getLsbD i = true ∧ wide = true ∧ j = n.toNat + 1 then (laneAt v i).extractLsb' 32 32
      else regAt w.vregs rrb j i := by
  have hlow := extractLsb'_eq_setWidth (laneAt v i)
  have hn := n.isLt
  unfold vregWritten
  cases wide with
  | false => simp [regAt_writeVreg w.vregs rrb hn hj hi, hlow]
  | true =>
    have heven := even_of_wellFormed h
    rw [if_pos rfl, regAt_writeVreg _ rrb (by omega) hj hi, regAt_writeVreg _ rrb hn hj hi, hlow]
    by_cases h1 : j = n.toNat + 1
    · simp [h1]
    · simp [h1]

/-! ### Scalar registers (05 R126, R134; 12 R271) -/

theorem exec_moveToSreg {n : BitVec 6} (h : Ready s w m false g v) (hk : LowestLane g k) : exec (.moveToRegister (.sreg n) m) s =
    .next (mine s (withCtx w { w.ctx.putSreg n.toNat (laneAt v k) with
      watch := setWatch w.ctx.watch n.toNat (watchAfter w.ctx m.src (laneAt v k)) })) :=
  h.issue (by
    simp only [h.withMove, lowest_of_lowestLane hk]
    rfl)

/-- A move to one value whose guard is true in no lane does nothing. -/
theorem exec_moveToSreg_idle {n : BitVec 6} (h : Ready s w m false 0 v) :
    exec (.moveToRegister (.sreg n) m) s = .next { s with verdict := .done } :=
  issue_done h.live (by simp only [h.withMove, lowest_zero])

theorem watchAfter_iff (x : Ctx) (src : Src) (y : W64) : watchAfter x src y = true ↔ (∃ u, src = .res u) ∧ x.outstanding y = true := by
  cases src <;> simp [watchAfter]

theorem getLsbD_oneShift {n j : Nat} (hj : j < 64) : (1#64 <<< n).getLsbD j = decide (j = n) := by
  simp only [BitVec.getLsbD_shiftLeft, hj, decide_true, Bool.true_and, BitVec.getLsbD_one]
  by_cases h : j = n
  · simp [h]
  · simp [h]; omega

theorem getLsbD_setWatch (b : W64) (n : Nat) (on : Bool) {j : Nat} (hj : j < 64) :
    (setWatch b n on).getLsbD j = if j = n ∧ j ≠ 0 then on else b.getLsbD j := by
  have hset : (b ||| (1#64 <<< n)).getLsbD j = (b.getLsbD j || decide (j = n)) := by rw [BitVec.getLsbD_or, getLsbD_oneShift hj]
  have hclear : (b &&& ~~~(1#64 <<< n)).getLsbD j = (b.getLsbD j && !decide (j = n)) := by
    rw [BitVec.getLsbD_and, BitVec.getLsbD_not, getLsbD_oneShift hj]
    simp [hj]
  unfold setWatch
  by_cases h0 : n = 0
  · have : ¬ (j = n ∧ j ≠ 0) := by omega
    rw [if_pos h0, if_neg this]
  · rw [if_neg h0]
    cases on with
    | true =>
      rw [if_pos rfl, hset]
      by_cases hjn : j = n <;> simp [hjn, h0]
    | false =>
      rw [if_neg Bool.false_ne_true, hclear]
      by_cases hjn : j = n <;> simp [hjn, h0]

/-! ### Predicates, `mode` and `flags` (05 R135, R136; 06 R156, R163) -/

/-- The sum of the powers of the numbers below n that pass a test has their bits. -/
theorem testBit_sumOf (f : Nat → Bool) (n : Nat) : (List.range n).foldl (fun m i => if f i then m + 2 ^ i else m) 0 < 2 ^ n ∧
    ∀ i, ((List.range n).foldl (fun m i => if f i then m + 2 ^ i else m) 0).testBit i = (decide (i < n) && f i) := by
  induction n with
  | zero => simp
  | succ n ih =>
    obtain ⟨hlt, hbit⟩ := ih
    rw [List.range_succ, List.foldl_append, List.foldl_cons, List.foldl_nil]
    generalize (List.range n).foldl (fun m i => if f i then m + 2 ^ i else m) 0 = x at hlt hbit
    cases hf : f n with
    | false =>
      refine ⟨by simp; omega, fun i => ?_⟩
      simp only [Bool.false_eq_true, if_false, hbit]
      by_cases hi : i = n
      · simp [hi, hf]
      · simp [show i < n + 1 ↔ i < n by omega]
    | true =>
      refine ⟨by simp; omega, fun i => ?_⟩
      have hor : x + 2 ^ n = 2 ^ n ||| x := by rw [Nat.add_comm]; simpa using Nat.two_pow_add_eq_or_of_lt hlt 1
      simp only [if_true, hor, Nat.testBit_or, hbit, Nat.testBit_two_pow]
      by_cases hi : i = n
      · simp [hi, hf]
      · simp [show i < n + 1 ↔ i < n by omega, Ne.symm hi]

theorem getLsbD_maskOf (f : Nat → Bool) {i : Nat} (hi : i < 32) : (maskOf f).getLsbD i = f i := by
  obtain ⟨hlt, hbit⟩ := testBit_sumOf f 32
  rw [maskOf, nLanes, BitVec.getLsbD, BitVec.toNat_ofNat, Nat.mod_eq_of_lt hlt, hbit]
  simp [hi]

/-- What a predicate holds after a move. -/
def predWritten (x : Ctx) (n : Nat) (g : W32) (v : Lanes) : W32 :=
  maskOf fun i => if maskBit g i then laneAt v i != 0 else maskBit (Tab.get x.preds 0 n) i

theorem exec_moveToPredicate {n : BitVec 4} (h : Ready s w m false g v) : exec (.moveToPredicate n m) s =
    .next (mine s (withCtx w { w.ctx with preds := Tab.put w.ctx.preds n.toNat (predWritten w.ctx n.toNat g v) })) :=
  h.issue (h.withMove _)

theorem exec_writeMode (h : Ready s w m false g v) (hk : LowestLane g k) : exec (.specialRegisterWrite 0xB m) s =
    .next (mine s (withCtx w { w.ctx with mode := modeStored (laneAt v k) })) :=
  h.issue (by
    simp only [h.withMove, lowest_of_lowestLane hk]
    rfl)

theorem exec_writeFlags (h : Ready s w m false g v) (hk : LowestLane g k) : exec (.specialRegisterWrite 0xC m) s =
    .next (mine s (withCtx w { w.ctx with flags := laneAt v k &&& 0xFF })) :=
  h.issue (by
    simp only [h.withMove, lowest_of_lowestLane hk]
    rfl)

theorem low8 (x : W64) : x &&& 0xFF = (x.setWidth 8).setWidth 64 := by
  apply BitVec.eq_of_toNat_eq
  simp [Nat.and_two_pow_sub_one_eq_mod x.toNat 8]
  omega

/-- `mode` as it is stored: the rounding mode, with 1 for the codes that name none, and the two bits above it. -/
theorem modeStored_spec (x : W64) : (modeStored x).toNat < 32 ∧ (modeStored x).getLsbD 3 = x.getLsbD 3 ∧ (modeStored x).getLsbD 4 = x.getLsbD 4 ∧
    (modeStored x).toNat % 8 = if x.toNat % 8 = 0 ∨ x.toNat % 8 = 7 then 1 else x.toNat % 8 := by
  have hval : (modeStored x).toNat = x.toNat / 8 % 4 * 8 + if x.toNat % 8 = 0 ∨ x.toNat % 8 = 7 then 1 else x.toNat % 8 := by
    simp only [modeStored, fld, Nat.reduceSub, Nat.reduceAdd, Nat.reducePow, Nat.div_one, BitVec.toNat_ofNat]
    split <;> omega
  simp only [BitVec.getLsbD, Nat.testBit_eq_decide_div_mod_eq, hval, decide_eq_decide]
  split <;> omega

end

/-- Settles O15: one clause for each kind of destination. -/
theorem registerMoves : Obligations.RegisterMoves := by
  refine ⟨⟨?vreg, ?range, ?sreg, ?idle⟩, ?predicate, ?special⟩
  case vreg =>
    intro n wide m s w g v hwf h hn
    exact ⟨_, exec_moveToVreg h hn, fun j i hj hi => regAt_vregWritten hwf _ hj hi g v⟩
  case range =>
    intro n wide m s w g v h hn
    exact exec_moveToVreg_range h hn
  case sreg =>
    intro n m s w g v k h hk
    refine ⟨_, exec_moveToSreg h hk, ?_, fun j hj => ?_⟩
    · by_cases h0 : n = 0
      · subst h0
        rfl
      · have : n.toNat ≠ 0 := fun h => h0 (BitVec.eq_of_toNat_eq h)
        simp only [Ctx.putSreg, this, h0, if_false]
    · simp only [getLsbD_setWatch _ _ _ hj, ← watchAfter_iff]
      split <;> rfl
  case idle =>
    intro n m s w v h
    exact exec_moveToSreg_idle h
  case predicate =>
    intro n m s w g v h
    refine ⟨_, fun i hi => ?_, exec_moveToPredicate h⟩
    simp only [predWritten, getLsbD_maskOf _ hi, maskBit_eq]
    split
    · exact Bool.eq_iff_iff.mpr (by simp)
    · rfl
  case special =>
    intro n m s w g v k hwf h hk
    by_cases hmode : n = 0xB
    · subst hmode
      exact .inl ⟨rfl, _, exec_writeMode h hk, modeStored_spec _⟩
    · have hflags : n = 0xC := by
        by_contra hflags
        have hnum : n.toNat ≠ 0xB ∧ n.toNat ≠ 0xC := ⟨fun h => hmode (BitVec.eq_of_toNat_eq h), fun h => hflags (BitVec.eq_of_toNat_eq h)⟩
        simp [WellFormed, Instr.illegal, hnum] at hwf
      subst hflags
      refine .inr ⟨rfl, (exec_writeFlags h hk).trans ?_⟩
      rw [low8 (laneAt v k)]

end Sys2Proof.Rules
end

section
/-! What every kind of source delivers, the readiness of result ports, and the guard of a move (05_core_ports_and_registers R123 to R136, R142), and the
statement on them. -/

namespace Sys2Proof.Rules

open Sys2Proof.Machine

section
variable (s : State) (w : Warp) (g : W32) (wide : Bool)

/-! ### Registers, literals and special registers (05 R123, R134, R136) -/

/-- Two 32-bit halves of a wide value, the low one first. -/
theorem ofNat_halves (lo hi : W32) : BitVec.ofNat 64 (lo.toNat + hi.toNat * 2 ^ 32) = (hi ++ lo : BitVec (32 + 32)) := by
  apply BitVec.eq_of_toNat_eq
  have hlo := lo.isLt
  have hhi := hi.isLt
  rw [BitVec.toNat_append, ← Nat.shiftLeft_add_eq_or_of_lt hlo, Nat.shiftLeft_eq, BitVec.toNat_ofNat]
  omega

theorem source_vreg {n : BitVec 8} (h : n.toNat + wide.toNat < w.regs) : ∃ l, s.source w (.vreg n) g wide = .ok l ∧ ∀ i, i < 32 →
    laneAt l i = ((if wide then regAt (s.srcVregs w) (s.srcCtx w).rrb (n.toNat + 1) i else 0) ++ regAt (s.srcVregs w) (s.srcCtx w).rrb n.toNat i :
      BitVec (32 + 32)) := by
  refine ⟨_, by simp only [State.source, rangeFault_none h]; rfl, fun i hi => ?_⟩
  rw [laneAt_lanesOf _ i hi, ← ofNat_halves]
  cases wide <;> rfl

/-- One value in every lane. -/
theorem source_splat {src : Src} {v : W64} (h : s.source w src g wide = .ok (splat v)) :
    ∃ l, s.source w src g wide = .ok l ∧ ∀ i, i < 32 → laneAt l i = v :=
  ⟨_, h, fun i hi => laneAt_splat v i hi⟩

theorem sreg_eq (x : Ctx) (n : BitVec 6) : x.sreg n.toNat = if n = 0 then 0 else Tab.get x.sregs 0 n.toNat := by
  have : n.toNat = 0 ↔ n = 0 := ⟨fun h => BitVec.eq_of_toNat_eq h, fun h => h ▸ rfl⟩
  simp only [Ctx.sreg, this]

theorem source_sreg {n : BitVec 6} (h : (s.srcCtx w).watched n.toNat = false) : s.source w (.sreg n) g wide = .ok (splat ((s.srcCtx w).sreg n.toNat)) := by
  simp [State.source, h]

theorem source_pred (n : BitVec 4) : ∃ l, s.source w (.pred n) g wide = .ok l ∧ ∀ i, i < 32 →
    laneAt l i = if ((s.srcCtx w).pred n.toNat).getLsbD i then 1 else 0 :=
  ⟨_, rfl, fun i hi => by rw [laneAt_lanesOf _ i hi, maskBit_eq]⟩

theorem source_special (n : BitVec 4) : ∃ l, s.source w (.special n) g wide = .ok l ∧ ∀ i, i < 32 →
    laneAt l i = s.special w (s.srcCtx w) n.toNat i :=
  ⟨_, rfl, fun i hi => laneAt_lanesOf _ i hi⟩

/-! ### Ring heads (05 R142) -/

variable {s w g wide}

theorem source_ring_off (n : BitVec 4) : s.source w (.ring n) 0 wide = .ok (splat 0) := rfl

theorem source_ring_none {n : BitVec 4} (hg : g ≠ 0) (h : Tab.look s.srcRings n.toNat = none) :
    s.source w (.ring n) g wide = .fault 0x0F (s.loc 0 n.toNat) := by
  simp [State.source, show ¬ g = 0#32 from hg, h]

theorem source_ring_empty {n : BitVec 4} {r : Ring} (hg : g ≠ 0) (h : Tab.look s.srcRings n.toNat = some r) (he : r.elems = []) :
    s.source w (.ring n) g wide = .wait .neighbour := by
  simp [State.source, show ¬ g = 0#32 from hg, h, he]

theorem source_ring_head {n : BitVec 4} {r : Ring} {e : Lanes} {rest : List Lanes} (hg : g ≠ 0) (h : Tab.look s.srcRings n.toNat = some r)
    (he : r.elems = e :: rest) : ∃ l, s.source w (.ring n) g wide = .ok l ∧ ∀ i, i < 32 → laneAt l i = laneAt e i :=
  ⟨lanesOf fun i => laneAt e i, by simp [State.source, show ¬ g = 0#32 from hg, h, he], fun i hi => laneAt_lanesOf _ i hi⟩

/-! ### Result ports (05 R128, R130) -/

theorem source_res (u : Un) (hg : g ≠ 0) : s.source w (.res u) g wide = s.portSrc (s.srcCtx w) u g false := by
  simp [State.source, show ¬ g = 0#32 from hg]

theorem source_sec (u : Un) (hg : g ≠ 0) : s.source w (.sec u) g wide = s.portSrc (s.srcCtx w) u g true := by
  simp [State.source, show ¬ g = 0#32 from hg]

variable {x : Ctx} {u : Un} {d : Nat}

theorem portSrc_waits (sec : Bool) (hd : (x.port u).due = some d) (hnow : s.now < d) (hp : (x.port u).pend &&& g ≠ 0) :
    s.portSrc x u g sec = .wait .waits := by
  have : ¬ (x.port u).pend &&& g = 0#32 := hp
  simp [State.portSrc, Port.readyAt, hd, hnow, this]

/-- A port of which other lanes are pending delivers the results that it holds. -/
theorem portSrc_held (hd : (x.port u).due = some d) (hnow : s.now < d) (hp : (x.port u).pend &&& g = 0) (hpsn : (x.port u).psn &&& g = 0) :
    s.portSrc x u g false = .ok (lanesOf fun i => laneAt (x.port u).res i) := by
  have : ¬ d ≤ s.now := by omega
  simp [State.portSrc, Port.seen, Port.readyAt, hd, this, hp, hpsn]

/-- A port whose results are due delivers them, in the lanes that its trigger started. -/
theorem portSrc_due (sec : Bool) (hd : (x.port u).due = some d) (hnow : d ≤ s.now) (hpsn : (x.port u).psn = 0) (hnpsn : (x.port u).npsn = 0) :
    s.portSrc x u g sec = .ok (lanesOf fun i => laneAt (if sec then (x.port u).commit.sec else (x.port u).commit.res) i) := by
  have hclean : (x.port u).commit.psn = 0 := by
    unfold Port.commit
    split <;> simp [hpsn, hnpsn]
  simp [State.portSrc, Port.seen, Port.readyAt, hd, hnow, hclean]

theorem commit_res (p : Port) {i : Nat} (hi : i < 32) :
    laneAt p.commit.res i = if p.pend.getLsbD i then laneAt p.nres i else laneAt p.res i := by
  unfold Port.commit
  split
  · rename_i h
    simp [h]
  · rw [laneAt_lanesOf _ i hi, maskBit_eq]

theorem commit_sec (p : Port) {i : Nat} (hi : i < 32) :
    laneAt p.commit.sec i = if p.pend.getLsbD i then laneAt p.nsec i else laneAt p.sec i := by
  unfold Port.commit
  split
  · rename_i h
    simp [h]
  · rw [laneAt_lanesOf _ i hi, maskBit_eq]

end

/-! ### Guards (05 R125) -/

theorem getLsbD_guard (x : Ctx) (g : Guard) {i : Nat} (hi : i < 32) :
    (x.guard g).getLsbD i = true ↔ x.mask.getLsbD i = true ∧ (x.pred g.pred.toNat).getLsbD i ≠ g.pol := by
  rw [Ctx.guard, BitVec.getLsbD_and]
  cases g.pol <;> simp [hi]

/-- Settles O12: sources that never wait, the heads of rings, result ports, guards. -/
theorem sourcesAndPorts : Obligations.SourcesAndPorts := by
  refine ⟨fun s w g wide => ?sources, fun s w u g wide hg => ?ports, fun x g i hi => ⟨getLsbD_guard x g hi, ?p0⟩⟩
  case sources =>
    refine ⟨fun n hn => source_vreg s w g wide hn, fun n hn => ?sreg, source_pred s w g wide, fun v => source_splat s w g wide rfl,
      fun v => source_splat s w g wide rfl, fun v => source_splat s w g wide rfl, fun n => ?special, fun n => ⟨?off, ?none, ?ring⟩⟩
    case sreg =>
      rw [← sreg_eq]
      exact source_splat s w g wide (source_sreg s w g wide hn)
    case special =>
      obtain ⟨l, hl, hlanes⟩ := source_special s w g wide n
      refine ⟨l, hl, fun i hi => ?_⟩
      rw [hlanes i hi]
      refine ⟨?_, ?_, ?_, ?_, ?_, ?_, ?_, ?_, ?_, ?_, ?_, ?_, fun y hy => ⟨?_, ?_, ?_, ?_⟩⟩ <;> rintro rfl
      iterate 12 rfl
      all_goals
        simp only [State.special, hy]
        rfl
    case off =>
      rintro rfl
      exact ⟨_, source_ring_off n⟩
    case none => exact source_ring_none
    case ring => exact fun hg r hr => ⟨source_ring_empty hg hr, fun e rest he => source_ring_head hg hr he⟩
  case ports =>
    simp only [source_res u hg, source_sec u hg]
    refine ⟨fun d hd hnow hp => ⟨portSrc_waits false hd hnow hp, portSrc_waits true hd hnow hp⟩, fun d hd hnow hp hpsn => ?held,
      fun d hd hnow hpsn hnpsn => ?due⟩
    case held => exact ⟨_, portSrc_held hd hnow hp hpsn, fun i hi => laneAt_lanesOf _ i hi⟩
    case due =>
      refine ⟨_, _, portSrc_due false hd hnow hpsn hnpsn, portSrc_due true hd hnow hpsn hnpsn, fun i hi => ?_⟩
      rw [laneAt_lanesOf _ i hi, laneAt_lanesOf _ i hi]
      exact ⟨commit_res _ hi, commit_sec _ hi⟩
  case p0 =>
    intro hp hpol
    simp [Ctx.guard, Ctx.pred, hp, hpol]

end Sys2Proof.Rules
end

section
/-! Rings: their making, freeing, advance and count, and a push to a tail (05_core_ports_and_registers R140 to R143; 14_memory_functions R337 to R339), and
the statement on them. -/

namespace Sys2Proof.Rules

open Sys2Proof.Machine

section
variable {s : State} {w : Warp} {m : Mv} {x : W64} {k : Nat}

/-! ### Making and freeing (R338) -/

theorem depthOk_pow {scalar : Bool} {j : Nat} (hj : j < if scalar then 16 else 12) : depthOk scalar (2 ^ j) = true :=
  List.any_eq_true.mpr ⟨j, List.mem_range.mpr hj, by simp⟩

/-- `rmake` of a free ring with a kind and a depth that a ring may have gives the storage, or answers 1 where the cluster has too little. -/
theorem exec_rmake {j : Nat} (hE : Engine s w m x k) (hn : (opa w .rg).toNat ≤ 15)
    (hfree : Tab.look (s.core s.cur.core).rings (opa w .rg).toNat = none) (hkind : (opb w .rg).toNat ≤ 1) (hx : x.toNat = 2 ^ j)
    (hj : j < if (opb w .rg).toNat = 1 then 16 else 12) :
    let scalar := (opb w .rg).toNat == 1
    let size := unitsOf scalar x.toNat
    let c := s.cluster (s.cur.core / 4)
    exec (.rmake m) s = .next (fin (if c.ringUsed + size > 1024 then withHandle s w .rg 1
      else ((withHandle s w .rg 0).putCluster (s.cur.core / 4) { c with ringUsed := c.ringUsed + size }).updCore s.cur.core fun y =>
        { y with rings := Tab.put y.rings (opa w .rg).toNat ⟨scalar, x.toNat, w.nid, []⟩ })) := by
  intro scalar size c
  have hdepth : depthOk scalar x.toNat = true := by
    rw [hx]
    refine depthOk_pow ?_
    simpa [scalar] using hj
  refine hE.issue (act := fun w => s.engineTrig w .rg m _) ?_
  rw [hE.engineTrig]
  have hgood : (opA (w.ctx.port .rg) > 15 || (Tab.look (s.core s.cur.core).rings (opA (w.ctx.port .rg))).isSome || opB (w.ctx.port .rg) > 1 ||
      !depthOk scalar x.toNat) ≠ true := by
    simp only [opa, opb] at hn hfree hkind
    simp [opA, opB, hn, hfree, hkind, hdepth]
  by_cases hroom : c.ringUsed + size > 1024
  · rw [if_pos hroom]
    exact (if_neg hgood).trans (if_pos hroom)
  · rw [if_neg hroom]
    exact (if_neg hgood).trans (if_neg hroom)

/-- The ring that a function of the unit names, as the cycle began. -/
theorem ownRing_of {n : Nat} {r : Ring} (h : ownsRing s w n r) : s.ownRing w n = some r := by
  obtain ⟨hlook, hnid⟩ := h
  simp [State.ownRing, hlook, hnid]

theorem exec_rfree {r : Ring} (hE : Engine s w m x k) (hr : ownsRing s w x.toNat r) : exec (.rfree m) s =
    .next (fin (((withHandle s w .rg 0).updCluster (s.cur.core / 4) fun y => { y with ringBack := y.ringBack + unitsOf r.scalar r.depth }).updCore
      s.cur.core fun y => { y with rings := Tab.del y.rings x.toNat })) := by
  refine hE.issue (act := fun w => s.engineTrig w .rg m _) ?_
  rw [hE.engineTrig]
  simp only [ownRing_of hr]
  rfl

theorem exec_rcnt {r : Ring} (hE : Engine s w m x k) (hr : ownsRing s w x.toNat r) :
    exec (.rcnt m) s = .next (fin (withHandle s w .rg (BitVec.ofNat 64 r.elems.length))) := by
  refine hE.issue (act := fun w => s.engineTrig w .rg m _) ?_
  rw [hE.engineTrig]
  simp only [ownRing_of hr]
  rfl

/-! ### Functions that need elements (05 R143) -/

theorem ringNeed_of {r : Ring} (hE : Engine s w m x k) (hr : ownsRing s w (opa w .rg).toNat r) (hpos : 1 ≤ x.toNat) (hdepth : x.toNat ≤ r.depth)
    (f : Nat → Nat → Ring → State) : s.ringNeed w m f =
      if r.elems.length < x.toNat then .wait .neighbour else .next (f (opa w .rg).toNat x.toNat r) := by
  have hgood : (x.toNat = 0 || x.toNat > r.depth : Bool) = false := by simp; omega
  have hown : s.ownRing w (opA (w.ctx.port .rg)) = some r := ownRing_of hr
  rw [State.ringNeed, hE.engineTrig]
  simp only [hown, hgood, Bool.false_eq_true, if_false]
  rfl

theorem Engine.live (hE : Engine s w m x k) : s.warp? s.cur = some w := by
  obtain ⟨g, v, hready, -, -⟩ := hE.ready
  exact hready.live

section
variable {r : Ring} (hE : Engine s w m x k) (hr : ownsRing s w (opa w .rg).toNat r)
include hE hr

/-- The bundle waits for its neighbours while the ring holds too few. -/
theorem exec_radv_waits (hfew : r.elems.length < x.toNat) (hdepth : x.toNat ≤ r.depth) : exec (.radv m) s = .next { s with verdict := .neighbour } :=
  issue_wait hE.live (by rw [ringNeed_of hE hr (by omega) hdepth, if_pos hfew])

theorem exec_rwait_waits (hfew : r.elems.length < x.toNat) (hdepth : x.toNat ≤ r.depth) : exec (.rwait m) s = .next { s with verdict := .neighbour } :=
  issue_wait hE.live (by rw [ringNeed_of hE hr (by omega) hdepth, if_pos hfew])

variable (hpos : 1 ≤ x.toNat) (henough : x.toNat ≤ r.elems.length) (hdepth : r.elems.length ≤ r.depth)
include hpos henough hdepth

theorem exec_radv : exec (.radv m) s = .next (fin ((withHandle s w .rg (BitVec.ofNat 64 (r.elems.length - x.toNat))).updCore s.cur.core fun c =>
    { c with rings := c.rings.map fun y => (y.1, if y.1 = (opa w .rg).toNat then { y.2 with elems := y.2.elems.drop x.toNat } else y.2) })) :=
  hE.issue (act := fun w => s.ringNeed w m _) (by
    rw [ringNeed_of hE hr hpos (by omega), if_neg (by omega)]
    rfl)

theorem exec_rwait : exec (.rwait m) s = .next (fin (withHandle s w .rg (BitVec.ofNat 64 r.elems.length))) :=
  hE.issue (act := fun w => s.ringNeed w m _) (by
    rw [ringNeed_of hE hr hpos (by omega), if_neg (by omega)]
    rfl)

end

/-! ### A push to a tail (05 R141, R142; 14 R339) -/

section
variable {n : BitVec 4} {g : W32} {v : Lanes} {r : Ring}

theorem ringElem_scalar (hk : LowestLane g k) (hr : r.scalar = true) {i : Nat} (hi : i < 32) : laneAt (ringElem r g v) i = laneAt v k := by
  rw [ringElem, if_pos hr, lowest_of_lowestLane hk]
  exact laneAt_splat _ i hi

theorem ringElem_vector (hr : r.scalar = false) {i : Nat} (hi : i < 32) :
    laneAt (ringElem r g v) i = if g.getLsbD i then ((laneAt v i).setWidth 32).setWidth 64 else 0 := by
  have hlow : BitVec.ofNat 64 (fld (laneAt v i) 31 0) = ((laneAt v i).setWidth 32).setWidth 64 := by
    apply BitVec.eq_of_toNat_eq
    simp [fld]
  rw [ringElem, hr, if_neg Bool.false_ne_true, laneAt_lanesOf _ i hi, maskBit_eq, hlow]

theorem ringPush_guarded (hk : LowestLane g k) : ¬ (g == 0) = true := by
  intro h
  obtain rfl : g = 0 := by simpa using h
  simpa using hk.2.1

theorem exec_ringPush (h : Ready s w m false g v) (hk : LowestLane g k) (hr : Tab.look s.srcRings n.toNat = some r) (hroom : r.elems.length < r.depth) :
    exec (.ringPush n m) s = .next (fin (s.updCore s.cur.core fun c => { c with rings := c.rings.map fun x =>
      (x.1, if x.1 = n.toNat then { x.2 with elems := x.2.elems ++ [ringElem x.2 g v] } else x.2) })) :=
  issue_done h.live (by
    rw [h.withMove, if_neg (ringPush_guarded hk)]
    simp only [hr, if_neg (Nat.not_le.mpr hroom)])

theorem exec_ringPush_waits (h : Ready s w m false g v) (hk : LowestLane g k) (hr : Tab.look s.srcRings n.toNat = some r)
    (hfull : r.depth ≤ r.elems.length) : exec (.ringPush n m) s = .next { s with verdict := .neighbour } :=
  issue_wait h.live (by
    rw [h.withMove, if_neg (ringPush_guarded hk)]
    simp only [hr, if_pos hfull])

end

end

/-- Settles O36: each function of the unit where its operands are good, then a push where the ring has room, and where it is full. -/
theorem rings : Obligations.Rings := by
  refine ⟨fun m s w x k hE => ⟨?made, fun r hr => ⟨?freed, ?counted⟩, fun r hr hpos henough hdepth => ⟨?advanced, ?awaited⟩, ?waits⟩,
    fun n m s w g v k r h hk hr => ⟨fun hroom => ?pushed, ?full⟩⟩
  case made =>
    intro j hn hfree hkind hx hj
    have hmade := exec_rmake hE hn hfree hkind hx hj
    refine ⟨fun hroom => ?_, fun hroom => ?_⟩
    · rw [hmade, if_pos hroom]
      rfl
    · rw [hmade, if_neg (Nat.not_lt.mpr hroom)]
      rfl
  case freed =>
    rw [exec_rfree hE hr]
    rfl
  case counted => exact exec_rcnt hE hr
  case advanced => exact exec_radv hE hr hpos henough hdepth
  case awaited => exact exec_rwait hE hr hpos henough hdepth
  case waits => exact fun r hr hfew hdepth => ⟨exec_radv_waits hE hr hfew hdepth, exec_rwait_waits hE hr hfew hdepth⟩
  case pushed =>
    exact ⟨ringElem r g v, fun hs i hi => ringElem_scalar hk hs hi, fun hs i hi => ringElem_vector hs hi, exec_ringPush h hk hr hroom, rfl⟩
  case full => exact exec_ringPush_waits h hk hr

end Sys2Proof.Rules
end

section
/-! The turn of a core on which one warp lives (05_core_ports_and_registers R124, R146, R147; 11_bundle_encoding R252): how its bundle is judged, what its
parts do, and the statement on the step. -/

namespace Sys2Proof.Rules

open Sys2Proof.Machine

/-! ### The choice among a single warp -/

section
variable {x : Stand}

theorem rank_cases (w : Warp) : w.rank = 0 ∨ w.rank = 1 ∨ w.rank = 2 := by
  unfold Warp.rank
  split
  · exact .inl rfl
  · split
    · exact .inr (.inl rfl)
    · exact .inr (.inr rfl)

theorem choose_waits (start : Nat) (h : x.next = none) : choose start [x] = none := by
  simp [choose, h]

/-- From whichever slot the search starts, it meets the one warp that can issue. -/
theorem choose_issues {u : State} (start : Nat) (h : x.next = some u) (hslot : x.at_.slot < 16) : choose start [x] = some x := by
  let inOrder := (List.range 16).filterMap fun k => ([x].filter fun y => y.next.isSome).find? fun y => y.at_.slot == (start + k) % 16
  have hmem (y : Stand) : y ∈ inOrder ↔ y = x := by
    simp only [inOrder, List.mem_filterMap, List.mem_range, List.filter_cons, h, Option.isSome_some, if_true, List.filter_nil]
    constructor
    · rintro ⟨k, -, hk⟩
      simpa using List.mem_of_find?_eq_some hk
    · rintro rfl
      refine ⟨(y.at_.slot + 16 - start % 16) % 16, Nat.mod_lt _ (by decide), ?_⟩
      rw [List.find?_cons_of_pos]
      simp only [beq_iff_eq]
      omega
  change ([0, 1, 2].findSome? fun r => inOrder.find? fun y => y.w.rank == r) = some x
  cases hres : [0, 1, 2].findSome? fun r => inOrder.find? fun y => y.w.rank == r with
  | none =>
    rw [List.findSome?_eq_none_iff] at hres
    have hno (r : Nat) (hr : r ∈ [0, 1, 2]) : x.w.rank ≠ r := by
      simpa using List.find?_eq_none.mp (hres r hr) x ((hmem x).mpr rfl)
    rcases rank_cases x.w with hr | hr | hr <;> exact absurd hr (hno _ (by decide))
  | some y =>
    obtain ⟨r, -, hr⟩ := List.exists_of_findSome?_eq_some hres
    rw [(hmem y).mp (List.mem_of_find?_eq_some hr)]

end

/-! ### The turn (05 R146, R147) -/

section
variable {s u : State} {cl p word : Nat} {a : WarpAt} {w : Warp} {b : Bundle} {j : Judged} {adm : Bool}

/-- The stand of the one warp of a core. -/
def standOf (a : WarpAt) (w : Warp) (j : Judged) : Stand := ⟨a, w, some j⟩

theorem TurnOf.step (h : TurnOf s cl p a w) : step s = .next (s.coreTurn a.core) := by
  obtain ⟨hagenda, htape, hflight⟩ := h.quiet
  have hturn : s.turn = s.coreTurn a.core := by
    rw [h.place.1]
    by_cases hp : p = 0
    · obtain ⟨hruns, hstill, hmiss⟩ := h.runs hp
      simp [State.turn, h.cursor, hp, State.startCycle, hruns, hstill, hmiss]
    · simp [State.turn, h.cursor, hp, h.up, h.phase]
  have hnext : s.upNext = (s.turn, none) := by simp [State.upNext, hagenda, htape, hflight]
  simp only [Machine.step, hnext, hturn]

theorem TurnOf.stands (h : TurnOf s cl p a w) : s.stands a.core = [standOf a w (s.judge a w)] := by
  obtain ⟨hleave, henter, hyield, hhold, -, -⟩ := h.free
  have hfree : w.free = true := by simp [Warp.free, hleave, henter, hyield, hhold]
  simp [State.stands, h.alone, hfree, h.started, standOf]

theorem TurnOf.not_called (h : TurnOf s cl p a w) : w.called = false := by
  unfold Warp.called
  cases hh : w.handler with
  | none => simp [h.calm.2 hh]
  | some y => simp

theorem markFreed_alone (t : State) (core : Nat) (old : Tab Ring) : t.markFreed core [] old = t := by
  unfold State.markFreed
  exact ite_self t

theorem cursor_hasIssued (t : State) (a : WarpAt) : (t.hasIssued a).cursor = t.cursor := by
  rw [State.hasIssued, State.updWarp_frame]
  rfl

/-- What the choice among one warp leaves: the state of its issue, or the state as it is. -/
def afterChoice (s : State) (core : Nat) (x : Stand) : State := match choose (s.core core).start [x] with
  | some y => ((y.next.getD s).hasIssued y.at_).markFreed core ([x].filter fun z => z.at_ != y.at_) (s.core core).rings
  | none => s

/-- The turn where the warp's bundle waits at an admission point only if the warp does: nothing is admitted, and the choice follows. -/
theorem TurnOf.coreTurn (h : TurnOf s cl p a w) (hj : s.judge a w = j) (hadm : (standOf a w j).adm = w.waiting) :
    let t := afterChoice s a.core (standOf a w j)
    Machine.step s = .next { t with cursor := ⟨t.cursor.cluster, t.cursor.phase + 1⟩ } := by
  have hgone : w.ringGone = false := h.calm.1
  have hcalled := h.not_called
  have hnone : [standOf a w j].find? (fun x => x.w.ringGone) = none := by simp [standOf, hgone]
  have hadmitted : [standOf a w j].find? (fun x => x.adm && !x.w.waiting && !x.w.called) = none := by
    rw [List.find?_singleton, hadm]
    cases hw : w.waiting <;> simp [standOf, hw]
  have hready : [standOf a w j].filter (fun x => !x.w.called || x.fault.isSome) = [standOf a w j] := by simp [standOf, hcalled]
  have hnocall : [standOf a w j].filter (fun x => x.w.called) = [] := by simp [standOf, hcalled]
  have hstay : ((standOf a w j).w.waiting && !(standOf a w j).adm) = false := by
    rw [hadm]
    cases hw : w.waiting <;> simp [standOf, hw]
  rw [h.step, State.coreTurn, h.stands, hj]
  simp only [hnone, hadmitted, hready, hnocall, List.foldl_cons, List.foldl_nil, hstay, Bool.false_eq_true, if_false]
  rfl

theorem TurnOf.issues (h : TurnOf s cl p a w) (hj : s.judge a w = .issues u adm) (hadm : adm = w.waiting) :
    Machine.step s = .next (issuedBy u a) := by
  have hchosen := choose_issues (s.core a.core).start (x := standOf a w (.issues u adm)) rfl h.place.2
  have hother : [standOf a w (.issues u adm)].filter (fun y => y.at_ != (standOf a w (.issues u adm)).at_) = [] := by simp
  have hnext : afterChoice s a.core (standOf a w (.issues u adm)) = u.hasIssued a := by
    rw [afterChoice, hchosen]
    simp only [hother, markFreed_alone]
    rfl
  rw [h.coreTurn hj hadm, hnext]
  simp only [cursor_hasIssued]
  rfl

theorem TurnOf.waits {blocked : Bool} {rings : List Nat} {fault : Option (Nat × W64)} (h : TurnOf s cl p a w)
    (hj : s.judge a w = .waits adm blocked rings fault) (hadm : adm = w.waiting) : Machine.step s = .next { s with cursor := ⟨cl, p + 1⟩ } := by
  have hnext : afterChoice s a.core (standOf a w (.waits adm blocked rings fault)) = s := by rw [afterChoice, choose_waits _ rfl]
  rw [h.coreTurn hj hadm, hnext, h.cursor]

/-! ### How the bundle is judged (11 R252, 12 R261) -/

/-- Does the bundle hold the control operation that is an admission point and never waits there? -/
def isTest (b : Bundle) : Bool := match b.ctl with
  | some (.ftest _ _) => true
  | _ => false

theorem isTest_eq_waiting (h : w.waiting = true ↔ ∃ sd sa, b.ctl = some (.ftest sd sa)) : isTest b = w.waiting := by
  rw [Bool.eq_iff_iff, h]
  unfold isTest
  split
  · rename_i sd sa hb
    simp [hb]
  · rename_i hb
    simpa using hb

theorem TurnOf.judge_word (h : TurnOf s cl p a w) (hfetch : s.fetch a.core w.nid w.ctx.pc = .ok word) : s.judge a w = s.judgeBundle a w word := by
  obtain ⟨-, -, -, -, hover, hskip⟩ := h.free
  simp only [State.judge, hover, hfetch, hskip]

theorem TurnOf.judge_bundle (h : TurnOf s cl p a w) (hfetch : s.fetch a.core w.nid w.ctx.pc = .ok word) (hdec : decodeBundle word = .ok b)
    (hconf : conflict b.moves ((b.ctl.map controlKeys).getD []) = none) (hrange : firstRange w b.moves = none) :
    s.judge a w = s.outcome a b.moves (s.tryBundle a w b) (isTest b) := by
  rw [h.judge_word hfetch]
  obtain ⟨ctl, moves⟩ := b
  cases ctl <;>
  · simp only [Option.map_some, Option.map_none, Option.getD_some, Option.getD_none] at hconf
    simp only [State.judgeBundle, hdec, hconf, hrange]
    rfl

theorem TurnOf.judge_illegal {k : Nat} {e : Reject} (h : TurnOf s cl p a w) (hfetch : s.fetch a.core w.nid w.ctx.pc = .ok word)
    (hdec : decodeBundle word = .error (k, e)) : s.judge a w = .issues (s.raiseTrap a 0x02 (BitVec.ofNat 64 (k * 2 ^ 61))) false := by
  rw [h.judge_word hfetch]
  simp only [State.judgeBundle, hdec]
  simp [locWord]

theorem TurnOf.judge_bad (h : TurnOf s cl p a w) (hfetch : s.fetch a.core w.nid w.ctx.pc = .bad) : s.judge a w =
    .issues ((walkLogged s (s.fetchWalk a.core w.nid w.ctx.pc)).raiseTrap a 0x04 ((w.ctx.pc.setWidth 56).setWidth 64)) false := by
  obtain ⟨-, -, -, -, hover, -⟩ := h.free
  have hpc : BitVec.ofNat 64 (fld w.ctx.pc 55 0) = (w.ctx.pc.setWidth 56).setWidth 64 := by
    apply BitVec.eq_of_toNat_eq
    simp [fld]
  have hlog : (s.fetchWalk a.core w.nid w.ctx.pc).elim s s.logWalk = walkLogged s (s.fetchWalk a.core w.nid w.ctx.pc) := by
    cases s.fetchWalk a.core w.nid w.ctx.pc <;> rfl
  simp only [State.judge, hover, hfetch, hpc, hlog]

/-! ### The parts of a bundle (05 R124) -/

/-- Each part that takes effect hands its state on. -/
theorem foldl_part {l : List (Nat × Instr)} {t : State} (seen : List (Nat × Verdict)) (h : runParts s l = some t) :
    l.foldl Tried.part ⟨s, seen⟩ = ⟨t, seen⟩ := by
  induction l generalizing s with
  | nil =>
    cases h
    rfl
  | cons x r ih =>
    obtain ⟨k, i⟩ := x
    rw [runParts] at h
    split at h
    · rename_i u hu
      split at h
      · rename_i hv
        rw [List.foldl_cons, Tried.part, hu]
        simp only [hv, beq_self_eq_true, if_true]
        exact ih h
      · cases h
    · cases h

theorem part_noted {k : Nat} {i : Instr} {t : State} {seen : List (Nat × Verdict)} (he : exec i { s with mslot := k } = .next t) (hv : t.verdict ≠ .done) :
    Tried.part ⟨s, seen⟩ (k, i) = ⟨s, seen ++ [(k, t.verdict)]⟩ := by
  simp [Tried.part, he, hv]

theorem partsOf_some (c : Instr) (moves : List (Nat × Instr)) : partsOf ⟨some c, moves⟩ =
    (moves.filter fun x => !isTrigger x.2) ++ (moves.filter fun x => isTrigger x.2) ++ [(6, c)] := by
  simp [partsOf]

theorem partsOf_moves {moves : List (Nat × Instr)} (h : moves ≠ []) : partsOf ⟨none, moves⟩ =
    (moves.filter fun x => !isTrigger x.2) ++ (moves.filter fun x => isTrigger x.2) := by
  have : (moves.filter fun x => !isTrigger x.2) ++ (moves.filter fun x => isTrigger x.2) ≠ [] := by
    intro hnil
    obtain ⟨x, hx⟩ := List.exists_mem_of_ne_nil _ h
    have : x ∈ (moves.filter fun x => !isTrigger x.2) ++ (moves.filter fun x => isTrigger x.2) := by
      cases ht : isTrigger x.2 <;> simp [hx, ht]
    rw [hnil] at this
    cases this
  simp only [partsOf, Option.map_none, Option.toList_none, List.append_nil, this, if_false]

theorem replies_of_none {t : State} {moves : List (Nat × Instr)} (h : w.responder = none ∨ moves = []) : t.replies w moves = false := by
  rcases h with h | rfl
  · simp [State.replies, h]
  · simp [State.replies]

/-- The parts are tried in the order of the rule; past a bundle of moves the program counter goes on if all of them took effect. -/
theorem tryBundle_eq (hctl : b.ctl ≠ none → w.ctx.loop = none ∧ (w.responder = none ∨ b.moves = [])) : s.tryBundle a w b =
    let x := (partsOf b).foldl Tried.part ⟨issuing s a w s.mslot, []⟩
    if b.ctl = none ∧ b.moves ≠ [] ∧ x.seen = [] then { x with st := x.st.advance a } else x := by
  obtain ⟨ctl, moves⟩ := b
  rw [State.tryBundle]
  simp only [List.partition_eq_filter_filter]
  cases ctl with
  | some c =>
    obtain ⟨hloop, hreply⟩ := hctl (by simp)
    simp only [partsOf_some, List.foldl_append, hloop, replies_of_none hreply, Option.isSome_none, Bool.false_eq_true, if_false, reduceCtorEq, false_and]
    rfl
  | none =>
    by_cases hm : moves = []
    · subst hm
      rfl
    · simp only [partsOf_moves hm, List.foldl_append, List.isEmpty_iff, hm, if_false, true_and, ne_eq, not_false_eq_true]
      rfl

/-! ### What the parts come to -/

/-- Parts that all take effect leave their state. -/
theorem outcome_done {moves : List (Nat × Instr)} {t : State} : s.outcome a moves ⟨t, []⟩ adm = .issues t.idle adm := rfl

/-- A bundle whose parts all take effect leaves their state, and past moves the program counter goes on. -/
theorem TurnOf.step_parts {t : State} (h : TurnOf s cl p a w) (hfetch : s.fetch a.core w.nid w.ctx.pc = .ok word) (hdec : decodeBundle word = .ok b)
    (hconf : conflict b.moves ((b.ctl.map controlKeys).getD []) = none) (hrange : firstRange w b.moves = none)
    (hctl : b.ctl ≠ none → w.ctx.loop = none ∧ (w.responder = none ∨ b.moves = []))
    (htest : w.waiting = true ↔ ∃ sd sa, b.ctl = some (.ftest sd sa)) (hrun : runParts (issuing s a w s.mslot) (partsOf b) = some t) :
    Machine.step s = .next (issuedBy (if b.ctl = none ∧ b.moves ≠ [] then t.advance a else t).idle a) := by
  have htried : s.tryBundle a w b = ⟨if b.ctl = none ∧ b.moves ≠ [] then t.advance a else t, []⟩ := by
    rw [tryBundle_eq hctl, foldl_part [] hrun]
    by_cases hm : b.ctl = none ∧ b.moves ≠ []
    · simp [hm]
    · rw [if_neg hm, if_neg fun h => hm ⟨h.1, h.2.1⟩]
  refine h.issues (adm := isTest b) ?_ (isTest_eq_waiting htest)
  rw [h.judge_bundle hfetch hdec hconf hrange, htried, outcome_done]

/-- A bundle of one part that does not take effect is judged by what it answered. -/
theorem TurnOf.judge_noted {t : State} {k : Nat} {i : Instr} (h : TurnOf s cl p a w) (hfetch : s.fetch a.core w.nid w.ctx.pc = .ok word)
    (hdec : decodeBundle word = .ok b) (hconf : conflict b.moves ((b.ctl.map controlKeys).getD []) = none) (hrange : firstRange w b.moves = none)
    (hctl : b.ctl ≠ none → w.ctx.loop = none ∧ (w.responder = none ∨ b.moves = [])) (hone : partsOf b = [(k, i)])
    (hexec : exec i (issuing s a w k) = .next t) (hv : t.verdict ≠ .done) :
    s.judge a w = s.outcome a b.moves ⟨issuing s a w s.mslot, [(k, t.verdict)]⟩ (isTest b) := by
  have hnoted := part_noted (s := issuing s a w s.mslot) (seen := []) hexec hv
  have htried : s.tryBundle a w b = ⟨issuing s a w s.mslot, [(k, t.verdict)]⟩ := by
    rw [tryBundle_eq hctl, hone, List.foldl_cons, List.foldl_nil, hnoted]
    exact if_neg fun hall => by simp at hall
  rw [h.judge_bundle hfetch hdec hconf hrange, htried]

end

/-- Settles O55: a bundle of one instruction, a bundle whose parts all take effect, an illegal bundle, a page that gives no bundle. -/
theorem stepRunsDecoded : Obligations.StepRunsDecoded := by
  refine ⟨?one, ?parts, ?illegal, ?bad⟩
  case one =>
    intro s t cl p k word a w i b h hfetch hdec hb hrange htest hexec
    have hone : partsOf b = [(k, i)] := by
      rcases hb with rfl | ⟨rfl, rfl, -⟩ | ⟨rfl, rfl, rfl⟩
      · cases ht : isTrigger i <;> simp [partsOf, ht]
      · rfl
      · rfl
    have hctl : b.ctl ≠ none → w.ctx.loop = none ∧ (w.responder = none ∨ b.moves = []) := by
      rcases hb with rfl | ⟨rfl, -, hloop⟩ | ⟨rfl, -⟩
      · simp
      · exact fun _ => ⟨hloop, .inr rfl⟩
      · simp
    have hconf : conflict b.moves ((b.ctl.map controlKeys).getD []) = none := by
      rcases hb with rfl | ⟨rfl, -⟩ | ⟨rfl, -⟩ <;> simp [conflict]
    have hfirst : firstRange w b.moves = none := by
      rcases hb with rfl | ⟨rfl, -⟩ | ⟨rfl, -⟩ <;> simp [firstRange, hrange]
    have hcase : (if b.ctl = none ∧ b.moves ≠ [] then t.advance a else t) = if b.moves = [] then t else t.advance a := by
      rcases hb with rfl | ⟨rfl, -⟩ | ⟨rfl, -⟩ <;> simp
    have hadm := isTest_eq_waiting htest
    refine ⟨fun hv => ?done, fun c x hv => ?faulted, fun u x hv => ?poisoned, fun pa c x hv => ?walk, fun hv => ?waits⟩
    case done =>
      have hrun : runParts (issuing s a w s.mslot) (partsOf b) = some t := by
        rw [hone, runParts]
        have : exec i { issuing s a w s.mslot with mslot := k } = .next t := hexec
        simp only [this, hv, if_true]
        rfl
      rw [h.step_parts hfetch hdec hconf hfirst hctl htest hrun, hcase]
    case faulted =>
      refine h.issues (adm := isTest b) ?_ hadm
      rw [h.judge_noted hfetch hdec hconf hfirst hctl hone hexec (by simp [hv]), hv]
      rfl
    case poisoned =>
      refine h.issues (adm := isTest b) ?_ hadm
      rw [h.judge_noted hfetch hdec hconf hfirst hctl hone hexec (by simp [hv]), hv]
      rfl
    case walk =>
      refine h.issues (adm := isTest b) ?_ hadm
      rw [h.judge_noted hfetch hdec hconf hfirst hctl hone hexec (by simp [hv]), hv]
      rfl
    case waits =>
      have hnot : t.verdict ≠ .done := by rcases hv with hv | hv | hv <;> simp [hv]
      have hj := h.judge_noted hfetch hdec hconf hfirst hctl hone hexec hnot
      rcases hv with hv | hv | hv <;> rw [hv] at hj <;> exact h.waits (adm := isTest b || false) hj (by rw [Bool.or_false, hadm])
  case parts =>
    intro s t cl p word a w b h hfetch hdec hconf hrange hctl htest hrun
    exact h.step_parts hfetch hdec hconf hrange (fun hc => ⟨(hctl hc).1, .inl (hctl hc).2⟩) htest hrun
  case illegal =>
    intro s cl p k word a w e h hfetch hwait hdec
    exact h.issues (h.judge_illegal hfetch hdec) hwait.symm
  case bad =>
    intro s cl p a w h hwait hfetch
    exact h.issues (h.judge_bad hfetch) hwait.symm

end Sys2Proof.Rules
end

section
/-! Every step answers (00_scope R13; 05_core_ports_and_registers R124, R147): the rows of a program issue, the other rows act on the event at hand, and the
statement that no step stops. -/

namespace Sys2Proof.Rules

open Sys2Proof.Machine

/-! ### The rows of a program issue for the warp at the cursor -/

theorem exec_eq_issue {i : Instr} (s : State) (h : inProgram i = true) : ∃ f, exec i s = issue s f := by
  cases i with
  | noOperation => exact ⟨fun _ => .next (s.advance s.cur), rfl⟩
  | exit => exact ⟨_, by rw [exec, execExit]⟩
  | trap n => exact ⟨_, by rw [exec, execTrap]⟩
  | bkpt => exact ⟨_, by rw [exec, execBkpt]⟩
  | ftest sd sa => exact ⟨_, by rw [exec, execFtest]⟩
  | fpass sd sa => exact ⟨_, by rw [exec, execFpass]⟩
  | eve => exact ⟨_, by rw [exec, execEve]⟩
  | _ => first
    | exact absurd h Bool.false_ne_true
    | exact ⟨_, rfl⟩

theorem issue_answers {s : State} {w : Warp} (h : s.warp? s.cur = some w) (f : Warp → Act) : ∃ t, issue s f = .next t := by
  cases he : f w with
  | wait v => exact ⟨_, issue_wait h he⟩
  | fault c i => exact ⟨_, issue_fault h he⟩
  | poison u i => exact ⟨_, issue_poison h he⟩
  | walkRefused pa c i => exact ⟨_, issue_walk h he⟩
  | next t => exact ⟨_, issue_done h he⟩

/-! ### The other rows act on the event at hand, and leave a state without one -/

theorem inProgram_row (e : Ev) : inProgram e.row = false := by cases e <;> rfl

theorem exec_row_answers {i : Instr} (s : State) (h : inProgram i = false) : ∃ t, exec i s = .next t := by
  cases i
  case moveToRegister d m => cases d <;> exact absurd h.symm Bool.false_ne_true
  all_goals first
    | exact absurd h.symm Bool.false_ne_true
    | simp only [exec, 
    execUnitResult, execInstructionCacheMiss, execLoadLineArrival, execLoadDue, execLaneStoreLanding, execOutsideWriteLanding,
    execOutsideEventAdmission, execFutureResolution, execSkip, execModuloInitiation, execCopyChunkTranslate, execCopyChunkLanding,
    execUnpacedChunkDelivery, execCopyFinalStatus, execTaskDispatch, execTaskOperandLineDue, execTaskRetire, execAcAccess, execClaimGrant,
    execSpawn, execRingCheck, execClaimCheck, execEngineArrival, execTrapEntry, execReadShared, execReadForOwnership, execWriteAtHome,
    execAtomicAtHome, execCopyRead, execUncachedRead, execRetryReissue, execRequestTimeout, execPersistentRequest, execDeactivation,
    execLineFill, execWriteBackDrain, execForwardedRead, execDemandForAllTokens, execOwnerRecall, execTokenTransfer, execL1Eviction,
    execHostCxlMemRead, execHostCxlMemWrite, execBackInvalidateSnoop, execHostSnoop, execPageResident, execLeafChange, execCensusOrder,
    execKeyArrival, execInsertCommit, execDeleteCommit, execDropCommit, execTmoveCopy, execMoveCommit, execReply, execCensusCompletion,
    execReleaseAtObject, execAcquireWake, execByteCountAdd, execGroupBarrierCompletion, execMessageArrival, execPostArrival, execProbeRequest,
    execOverflowTimeout, execRenewalSend, execRenewal, execAcknowledgement, execLeaseStop, execRecallTimeout, execDirectoryError,
    execDeclaredDead, execAlmanacTick, execTail, execQueueRegisterWrite, execAcceptance, execNodeCompletion, execNodePlacement, execPreEmption,
    execPreEmptionTimeout, execPreEmptionSave, execResume, execPrepare, execCommit, execAbort, execGangTimeout, execPrepareDecline,
    execHeldRecordRemoval, execGangAbort, execHeartbeatSend, execHeartbeat, execPeerDeath, execVendorDefinedMessage, execPeerAtomic, execBind,
    execLinkTraining, execRetrain, execIsolationTableWrite, execTenantReset, execDieReset, execControlDieReset, execDebugHold, execDebugHoldEnd,
    execPinnedPoolSet, execClockChange, execOvercurrent, execCurrentLimit, execSelfTest, execBaseField0PowerUp, execFirmwareDownload,
    execControlDiePowerUp, execBaseFieldsPowerUp, execStackTraining, execComputeDiePowerUp, execPowerDown, execPowerLoss, execAttestation,
    execPageError]
  all_goals
    repeat' split
  all_goals exact ⟨_, rfl⟩

/-- Settles O56: an event's row answers, whatever state it meets, and a turn of the clusters is no row. -/
theorem stepAnswers : Obligations.StepAnswers := by
  refine ⟨fun s => ?step, fun i s w hw => ?live, fun i s h => exec_row_answers s h, fun i s h hw => ?none⟩
  case step =>
    unfold step
    split
    · rename_i e _
      exact exec_row_answers _ (inProgram_row e)
    · exact ⟨_, rfl⟩
  case live =>
    cases h : inProgram i with
    | false => exact exec_row_answers s h
    | true =>
      obtain ⟨f, hf⟩ := exec_eq_issue s h
      rw [hf]
      exact issue_answers hw f
  case none =>
    obtain ⟨f, hf⟩ := exec_eq_issue s h
    rw [hf, issue_none hw]

end Sys2Proof.Rules
end

section
/-! The statement on the steps of a cluster (05_core_ports_and_registers R138, R139): a grant takes the registers that it gives out of the warp's table, which
drops one entry for each, so in a table that names a register twice the granted one does not read as zero. -/

namespace Sys2Proof.Rules

open Sys2Proof.Machine

/-- A warp with registers v0 to v7, whose table names register 8 twice. -/
def claimer : Warp := { wid := 1, nid := 0, die := 0, clus := 0, warp := 0, regs := 8, vregs := [(8, [1]), (8, [1])] }

/-- Its claim of 8 registers is about to be granted. -/
def claiming : State := { State.reset with warps := [(0, claimer)], cores := [(0, { claims := [(0, 8)] })], ev := some (.claimGrant 0) }

theorem exec_claiming : exec .claimGrant claiming = .next (claiming.grantClaim 0) := rfl

/-- One of the two entries stays. -/
theorem granted_vregs : ((claiming.grantClaim 0).warp? ⟨0, 0⟩).map Warp.vregs = some [(8, [1])] := by decide +kernel

/-- Refutes O38: the clause of a claim grant does not ask that the warp's table names each vector register once. Where v8 is named twice, the grant of
v8 to v15 takes one entry out, and v8 reads 1. -/
theorem not_clusterSteps : ¬ Obligations.ClusterSteps := by
  rintro ⟨-, hgrant, -⟩
  obtain ⟨vr, -, hzero, hexec⟩ := hgrant claiming 0 0 8 [] claimer rfl rfl rfl (by decide) (by decide) (by decide)
  rw [exec_claiming] at hexec
  injection hexec with hstate
  have hvregs := granted_vregs
  rw [hstate] at hvregs
  have hkept : some vr = some [(8, [1])] := hvregs
  obtain rfl : vr = [(8, [1])] := by simpa using hkept
  exact absurd (hzero 8 0 (by decide) (by decide)) (by decide)

end Sys2Proof.Rules
end

section
/-! The statement on what no instruction of a program changes by itself (05_core_ports_and_registers R124, 01 R20): a `tmove` whose destination is not
in order resolves its future with the refusal and goes on, and logs the walker read that met no window, though its verdict names none. -/

namespace Sys2Proof.Rules

open Sys2Proof.Machine

/-- A valid paged record of 64 KiB with one level of tables, whose table lies in no window of the tenant. -/
def unmappedRec : BufRec := BitVec.ofNat 256 (2 ^ 181 + 2 ^ 80 + 2 ^ 63 + 2 ^ 62)

/-- A tile of 256 bytes that is present. -/
def placedTile : Tile := { hva := 0, grp := 0, ten := 0, st := .present, tbuf := 0, tpos := 0, len := 1, key := 0, nid := 0 }

/-- A warp whose core holds the tile in entry 0 and the record in buffer 0. -/
def mover : State := { State.reset with
  warps := [(0, { wid := 1, nid := 0, die := 0, clus := 0, warp := 0 })]
  cores := [(0, { tiles := [(0, placedTile)], segs := [unmappedRec] })] }

/-- `tmove` of entry 0 to position 0 of buffer 0, in every lane. -/
def moveEntry : Instr := .tmove ⟨⟨⟨false, 0⟩, .imm 0⟩, 0⟩

/-- The verdict of an instruction, with the length of the error log after it. -/
def loggedAfter (i : Instr) (s : State) : Option (Verdict × Nat) := match exec i s with
  | .next t => some (t.verdict, t.errLog.length)
  | _ => none

theorem loggedAfter_next {i : Instr} {s t : State} (h : exec i s = .next t) : loggedAfter i s = some (t.verdict, t.errLog.length) := by
  simp [loggedAfter, h]

/-- The move is done, and its walk is in the error log, which was empty. -/
theorem loggedAfter_moveEntry : loggedAfter moveEntry mover = some (.done, 1) := by decide +kernel

/-- Refutes O57: a `tmove` whose destination's walk meets no window has the verdict `done`, and the error log gains an entry all the same. -/
theorem not_programFrame : ¬ Obligations.ProgramFrame := by
  intro hframe
  obtain ⟨-, hanswers, -⟩ := stepAnswers
  obtain ⟨t, ht⟩ := hanswers moveEntry mover _ rfl
  obtain ⟨hverdict, hlength⟩ : t.verdict = .done ∧ t.errLog.length = 1 := by
    simpa using (loggedAfter_next ht).symm.trans loggedAfter_moveEntry
  obtain ⟨-, -, -, -, -, hlog, -⟩ := hframe moveEntry mover t (by decide) ht
  have hsame : t.errLog = [] := hlog (by simp [hverdict])
  simp [hsame] at hlength

end Sys2Proof.Rules
end

section
/-! The statement on rounding to a last place (06_numbers R157, R160): the model rounds a magnitude in units of 2^−16 of that place, and the mark of
exactness tells whether these units have dropped a bit. -/

namespace Sys2Proof.Machine

/-! ### A magnitude in units of 2^−16 of the place -/

theorem Mag.units_of_whole {x : Mag} {q : Int} {k : Nat} (hexp : x.e - q + 16 = k) : x.units q = (x.m * 2 ^ k, !x.more) := by
  simp only [Mag.units, hexp]
  simp

theorem Mag.units_of_cut {x : Mag} {q : Int} {k : Nat} (hexp : x.e - q + 16 = -((k + 1 : Nat) : Int)) :
    x.units q = (x.m / 2 ^ (k + 1), x.m % 2 ^ (k + 1) == 0 && !x.more) := by
  have hneg : ¬ -((k + 1 : Nat) : Int) ≥ 0 := by omega
  simp only [Mag.units, hexp, hneg, if_false, neg_neg, Int.toNat_natCast]

/-- Up to 16 bits below the place, each bit is worth whole units; the bits beyond 16 are cut off, which divides by `2 ^ (n - 16)`. -/
theorem Mag.units_below (m n : Nat) (q : Int) :
    Mag.units ⟨m, q - n, false⟩ q = (m * 2 ^ 16 / 2 ^ n, m * 2 ^ 16 % 2 ^ n == 0) := by
  obtain hfew | hmany := le_or_gt n 16
  · obtain ⟨k, hk⟩ := Nat.exists_eq_add_of_le hfew
    have hunits : m * 2 ^ 16 = m * 2 ^ k * 2 ^ n := by rw [hk, Nat.pow_add, Nat.mul_assoc, Nat.mul_comm (2 ^ k)]
    rw [Mag.units_of_whole (k := k) (by simp only; omega), hunits]
    simp
  · obtain ⟨k, rfl⟩ := Nat.exists_eq_add_of_lt hmany
    have hplaces : 2 ^ (16 + k + 1) = 2 ^ (k + 1) * 2 ^ 16 := by rw [← Nat.pow_add]; congr 1; omega
    rw [Mag.units_of_cut (k := k) (by simp only; omega), hplaces, Nat.mul_div_mul_right _ _ (by decide), Nat.mul_mod_mul_right]
    simp

theorem whole_of_units (m one : Nat) : m * 65536 / one / 65536 = m / one := by
  rw [Nat.div_div_eq_div_mul, Nat.mul_div_mul_right _ _ (by decide)]

theorem fraction_of_units (m one : Nat) (hone : 0 < one) : m * 65536 / one % 65536 = m % one * 65536 / one := by
  have hsplit : m * 65536 = m % one * 65536 + one * (m / one * 65536) := by
    rw [← Nat.mul_assoc, ← Nat.add_mul, Nat.mod_add_div]
  have hless : m % one * 65536 / one < 65536 := by
    rw [Nat.div_lt_iff_lt_mul hone, Nat.mul_comm]
    exact Nat.mul_lt_mul_of_pos_left (Nat.mod_lt m hone) (by decide)
  rw [hsplit, Nat.add_mul_div_left _ _ hone, Nat.add_mul_mod_self_right, Nat.mod_eq_of_lt hless]

/-! ### When the model goes to the greater neighbour -/

/-- The condition under which `Mag.roundAt` adds 1 to `whole`, of the fraction `r` in units and the mark `exact`. -/
def unitsUp (rm : RMode) (neg : Bool) (d whole r : Nat) (exact : Bool) : Bool := match rm with
  | .rne => r > 32768 || (r == 32768 && (!exact || whole % 2 == 1))
  | .rtz => false
  | .rup => !neg && (r != 0 || !exact)
  | .rdn => neg && (r != 0 || !exact)
  | .rna => r ≥ 32768
  | .sr => r + d ≥ 65536

theorem Mag.roundAt_eq (x : Mag) (rm : RMode) (neg : Bool) (d : Nat) (q : Int) :
    x.roundAt rm neg d q =
      (if unitsUp rm neg d ((x.units q).1 / 65536) ((x.units q).1 % 65536) (x.units q).2 then (x.units q).1 / 65536 + 1 else (x.units q).1 / 65536,
        (x.units q).1 % 65536 != 0 || !(x.units q).2) := by
  cases rm <;> rfl

/-- The same of `n` bits below the place: the units of the rest, and whether they drop a bit. -/
theorem Mag.roundAt_below (m n d : Nat) (q : Int) (neg : Bool) (rm : RMode) :
    Mag.roundAt ⟨m, q - n, false⟩ rm neg d q =
      (if unitsUp rm neg d (m / 2 ^ n) (m % 2 ^ n * 65536 / 2 ^ n) (m % 2 ^ n * 65536 % 2 ^ n == 0) then m / 2 ^ n + 1 else m / 2 ^ n,
        m % 2 ^ n * 65536 / 2 ^ n != 0 || !(m % 2 ^ n * 65536 % 2 ^ n == 0)) := by
  simp only [Mag.roundAt_eq, Mag.units_below, Nat.reducePow, whole_of_units, fraction_of_units m _ (Nat.two_pow_pos n), Nat.mod_mul_mod]

/-- So a mode whose condition says `up` of the rest adds 1 exactly there. -/
theorem Mag.roundAt_below_whole {m n d : Nat} {neg : Bool} {rm : RMode} {up : Prop} [Decidable up] (q : Int)
    (hup : unitsUp rm neg d (m / 2 ^ n) (m % 2 ^ n * 65536 / 2 ^ n) (m % 2 ^ n * 65536 % 2 ^ n == 0) = true ↔ up) :
    (Mag.roundAt ⟨m, q - n, false⟩ rm neg d q).1 = m / 2 ^ n + (if up then 1 else 0) := by
  rw [Mag.roundAt_below, add_ite]
  exact if_congr hup rfl rfl

/-! ### What the units of a rest of `one` parts, and the bits they drop, say of it -/

section
variable {rest one : Nat} (hone : 0 < one)
include hone

theorem restUnits_exact_iff (k : Nat) : (rest * 65536 / one = k ∧ rest * 65536 % one = 0) ↔ rest * 65536 = k * one := by
  constructor
  · rintro ⟨rfl, hdropped⟩
    exact (Nat.div_mul_cancel (Nat.dvd_of_mod_eq_zero hdropped)).symm
  · intro hrest
    simp [hrest, hone]

theorem restInexact_iff : (rest * 65536 / one != 0 || !(rest * 65536 % one == 0)) = true ↔ rest ≠ 0 := by
  have hzero := restUnits_exact_iff (rest := rest) hone 0
  simp only [Bool.or_eq_true, bne_iff_ne, Bool.not_eq_true', beq_eq_false_iff_ne]
  omega

theorem half_le_restUnits_iff : 32768 ≤ rest * 65536 / one ↔ one ≤ 2 * rest := by
  rw [Nat.le_div_iff_mul_le hone]
  omega

theorem restTie_iff : (rest * 65536 / one = 32768 ∧ rest * 65536 % one = 0) ↔ one = 2 * rest := by
  rw [restUnits_exact_iff hone]
  omega

variable {neg : Bool} {d whole : Nat}

theorem unitsUp_rup_iff :
    unitsUp .rup neg d whole (rest * 65536 / one) (rest * 65536 % one == 0) = true ↔ rest ≠ 0 ∧ neg = false := by
  rw [unitsUp, Bool.and_eq_true, restInexact_iff hone, Bool.not_eq_true', and_comm]

theorem unitsUp_rdn_iff :
    unitsUp .rdn neg d whole (rest * 65536 / one) (rest * 65536 % one == 0) = true ↔ rest ≠ 0 ∧ neg = true := by
  rw [unitsUp, Bool.and_eq_true, restInexact_iff hone, and_comm]

theorem unitsUp_rna_iff :
    unitsUp .rna neg d whole (rest * 65536 / one) (rest * 65536 % one == 0) = true ↔ one ≤ 2 * rest := by
  rw [unitsUp, decide_eq_true_iff, ge_iff_le, half_le_restUnits_iff hone]

/-- Half the units without a dropped bit are the tie; with one they lie above it, as more units do. -/
theorem unitsUp_rne_iff :
    unitsUp .rne neg d whole (rest * 65536 / one) (rest * 65536 % one == 0) = true ↔
      one < 2 * rest ∨ (one = 2 * rest ∧ whole % 2 = 1) := by
  have hhalf := half_le_restUnits_iff (rest := rest) hone
  have htie := restTie_iff (rest := rest) hone
  simp only [unitsUp, Bool.or_eq_true, Bool.and_eq_true, decide_eq_true_iff, beq_iff_eq, Bool.not_eq_true', beq_eq_false_iff_ne]
  omega

end

end Sys2Proof.Machine

namespace Sys2Proof.Rules

open Sys2Proof.Machine

/-- Settles O11: the mark is that of the rest, and each mode goes up where its condition on the units of the rest says so. -/
theorem roundsToPlace : Obligations.RoundsToPlace := by
  intro m n d q neg _
  have hone := Nat.two_pow_pos n
  refine ⟨fun rm => ?mark, ?rtz, ?rup, ?rdn, ?rna, ?rne, ?sr⟩
  case mark => rw [Mag.roundAt_below]; exact restInexact_iff hone
  case rtz => simp [Mag.roundAt_below, unitsUp]
  case rup => exact Mag.roundAt_below_whole q (unitsUp_rup_iff hone)
  case rdn => exact Mag.roundAt_below_whole q (unitsUp_rdn_iff hone)
  case rna => exact Mag.roundAt_below_whole q (unitsUp_rna_iff hone)
  case rne => exact Mag.roundAt_below_whole q (unitsUp_rne_iff hone)
  case sr => exact Mag.roundAt_below_whole q (by simp [unitsUp])

end Sys2Proof.Rules
end

section
/-! Tasks of the matrix engines in their cluster's queue (07_matrix_engine R172 to R174, 15_engine_and_sync_functions R342): a trigger whose checks
all pass, the resume of a suspended task, and the statement on them. -/

namespace Sys2Proof.Rules

open Sys2Proof.Machine

/-! ### A task is triggered -/

/-- A predecessor operand names an entry and a serial number by its bits (12 R269). -/
theorem predOf_eq_predecessor (c : Cluster) (w : Warp) (v : W64) : predOf c w v = predecessor c w v := by
  have hser : BitVec.ofNat 32 (fld v 31 0) = v.setWidth 32 := BitVec.eq_of_toNat_eq (by simp [fld])
  unfold predOf predecessor
  simp only [hser]
  simp [fld]

/-- The mode functions are one trigger, by their code (07 R190). -/
theorem exec_taskTrig {i : Instr} {fn : Nat} {tri : Bool} {t : MTrig} (hi : taskOf i = some (fn, tri, t)) (s : State) :
    exec i s = issue s fun w => s.taskTrig w fn tri t := by
  unfold taskOf at hi
  split at hi <;> cases hi <;> rfl

/-- The task of a trigger (07 R174): its record, its operands, and what it takes from its warp and its core. -/
def newTask (s : State) (w : Warp) (f : FutAt) (fn : Nat) (tri : Bool) (y : TaskRec) : Task :=
  let cl := s.cluster (s.cur.core / 4)
  let seg (n : Nat) := (s.core s.cur.core).segs.getD n 0
  { num := cl.nextTask, seq := cl.nextTask - cl.taskBase, t := s.now, core := s.cur.core, wid := w.wid, nid := w.nid, ten := s.tenOf w.nid
    seed := s.seedOf w.nid, cell := w.die * 4 + w.clus, fut := f, fn := fn, tri := tri, record := y, bias := (opc w .mx).toNat
    rnd := taskRnd w.ctx.mode y, p0 := predOf cl w (opa w .mx), p1 := predOf cl w (opb w .mx), abuf := seg (tkAbuf y), bbuf := seg (tkBbuf y)
    sbuf := seg (tkSbuf y), dbuf := seg (tkDbuf y), behind := s.writesOf s.cur.core w.wid }

section
variable {s : State} {w w1 : Warp} {x : W64} {k q : Nat} {h : W64} {f : FutAt}

/-- A task that is neither faulted nor refused takes the slot and the next number in task order. -/
theorem taskTrig_enqueues {t : MTrig} {fn a : Nat} {tri : Bool} (hE : Engine s w t.mv x k) (hnew : w.newFuture 21 = some (w1, h, f))
    (hlanded : s.writesLanded s.cur.core w.wid = true) (hfree : Tab.lowestFree (s.cluster (s.cur.core / 4)).tasks 64 = some q)
    (hval : ((s.core s.cur.core).segs.getD t.buf.toNat 0).getLsbD 63 = true) (halign : x.toNat % 64 = 0)
    (hplace : s.pinnedAt s.cur.core (s.tenOf w.nid) ((s.core s.cur.core).segs.getD t.buf.toNat 0) x.toNat 64 = some a) :
    let y : TaskRec := BitVec.ofNat 512 (leNat (readCells (s.core s.cur.core).pool a 64))
    s.taskFault w fn y (opc w .mx).toNat = none → taskReason w fn y (opc w .mx).toNat (opa w .mx) (opb w .mx) = none →
    s.taskTrig w fn tri t = .next ((withHandle s w1 .mx h).updCluster (s.cur.core / 4) fun c =>
      { c with tasks := Tab.put c.tasks q (newTask s w f fn tri y), nextTask := c.nextTask + 1 }) := by
  intro y hfault hreason
  have hcode : Un.mx.code = 21 := rfl
  have hbit : brVal ((s.core s.cur.core).segs.getD t.buf.toNat 0) = true := by rw [brVal, bit_eq_getLsbD, hval]
  unfold State.taskTrig
  rw [hE.engineTrig]
  simp only [hlanded, hcode, hnew, hbit, halign, hplace, clusterOf, hfree, Bool.not_true, Bool.false_eq_true, if_false, decide_true, Bool.and_self,
    if_true]
  split
  · rename_i hf
    exact absurd (hfault.symm.trans hf) (by simp)
  · split
    · rename_i hr
      exact absurd (hreason.symm.trans hr) (by simp)
    · rfl

/-! ### A suspended task is queued again (07 R188) -/

theorem taskResume_suspended {m : Mv} {z : Task} (hE : Engine s w m x k) (hnew : w.newFuture 21 = some (w1, h, f))
    (hlanded : s.writesLanded s.cur.core w.wid = true) (hslot : Tab.look (s.cluster (s.cur.core / 4)).tasks (x.toNat / 1024 % 64) = some z)
    (hwid : z.wid = w.wid) (hst : z.st = .suspended (x.toNat % 16)) :
    let cl := s.cluster (s.cur.core / 4)
    exec (.taskResume m) s = .next (fin ((withHandle s w1 .mx h).putCluster (s.cur.core / 4) { cl with
      tasks := Tab.put cl.tasks (x.toNat / 1024 % 64) { z with
        behind := s.writesOf s.cur.core w.wid, fut := f, num := cl.nextTask, seq := cl.nextTask - cl.taskBase, t := s.now, st := .queued
        row0 := z.prog, p0 := none, p1 := none, fail := 0 }
      nextTask := cl.nextTask + 1 })) := by
  intro cl
  change execTaskResume m s = _
  refine hE.issue ?_
  have hlook : Tab.look ((withHandle s w1 .mx h).cluster (clusterOf (withHandle s w1 .mx h).cur.core)).tasks (fld x 15 10) = some z := hslot
  have hw1 : (withResult w1 s.now .mx h).wid = w.wid := (newFuture_wid hnew : w1.wid = w.wid)
  have hcode : fld x 3 0 = x.toNat % 16 := by simp [fld]
  rw [hE.engineTrig, hlanded, if_neg (by simp), Engine.withFuture (u := .mx) hnew]
  simp only [hlook, hw1, hwid, hst, hcode, beq_self_eq_true, Bool.and_self, if_true]
  rfl

end

/-- Settles O27: a trigger's task takes the free slot with its number, record, operands and predecessors, and a suspended task is queued again. -/
theorem tasksQueue : Obligations.TasksQueue := by
  refine ⟨?trigger, ?resume⟩
  case trigger =>
    intro i fn tri t s w w1 x k a q h f hi hE hnew hlanded c cl seg r hfree hval halign hplace y bias hfault hreason
    refine ⟨newTask s w f fn tri y, ?_, rfl, rfl, rfl, rfl, rfl, rfl, rfl, rfl, rfl, rfl, rfl, rfl, rfl, rfl,
      predOf_eq_predecessor .., predOf_eq_predecessor ..⟩
    rw [exec_taskTrig hi]
    exact hE.issue (act := (s.taskTrig · fn tri t)) (taskTrig_enqueues hE hnew hlanded hfree hval halign hplace hfault hreason)
  case resume =>
    intro m s w w1 x k h f z hE hnew cl hlanded hslot hwid hst y
    exact taskResume_suspended hE hnew hlanded hslot hwid hst

end Sys2Proof.Rules
end

section
/-! The dispatch of a task and its operand lines (07_matrix_engine R175, R177, R178): what each step puts into the task's slot. -/

namespace Sys2Proof

/-- Entries that are set one after the other, each from what it held. -/
theorem Tab.get_foldl_put {α : Type} (d : α) (a n : Nat) (f : Nat → α → α) (T : Tab α) (m : Nat) :
    Tab.get ((List.range n).foldl (fun T k => Tab.put T (a + k) (f k (Tab.get T d (a + k)))) T) d m =
      if a ≤ m ∧ m < a + n then f (m - a) (Tab.get T d m) else Tab.get T d m := by
  induction n with
  | zero => rw [if_neg (by omega)]; rfl
  | succ n ih =>
    rw [List.range_succ, List.foldl_append, List.foldl_cons, List.foldl_nil, Tab.get_put]
    by_cases hm : m = a + n
    · subst hm
      rw [if_pos rfl, ih, if_neg (by omega), if_pos (by omega), Nat.add_sub_cancel_left]
    · rw [if_neg hm, ih]
      exact if_congr (by omega) rfl rfl

end Sys2Proof

namespace Sys2Proof.Machine

/-! ### What the steps of a task do with their events -/

section
variable {s : State} {cl q : Nat}

theorem exec_taskDispatch {eng : Nat} (h : s.ev = some (.taskDispatch cl q eng)) :
    exec .taskDispatch s = .next (s.startTask cl q eng ((s.cluster cl).lcyc + 1)) := by
  change execTaskDispatch s = _
  simp only [execTaskDispatch, h]

theorem exec_taskOperandLineDue {p : Nat} (h : s.ev = some (.taskOperandLineDue cl q p)) :
    exec .taskOperandLineDue s = .next (s.readPass cl q p) := by
  change execTaskOperandLineDue s = _
  simp only [execTaskOperandLineDue, h]

theorem exec_taskRetire (h : s.ev = some (.taskRetire cl q)) : exec .taskRetire s = .next (s.retireTask cl q) := by
  change execTaskRetire s = _
  simp only [execTaskRetire, h]

end

/-! ### Dispatch (07 R175, R177, R187) -/

theorem taskTime_eq_retireTime (t : Task) (rows : Nat) : taskTime t rows = Rules.retireTime t rows := rfl

theorem elim_logWalk (s : State) (x : Option Nat) : x.elim s s.logWalk = Rules.walkLogged s x := by cases x <;> rfl

@[simp] theorem State.cluster_walkLogged (s : State) (x : Option Nat) (n : Nat) : (Rules.walkLogged s x).cluster n = s.cluster n := by
  cases x <;> rfl

/-- The rows that a task is to do, the failure that ends them, and the two cycles are fixed when an engine takes it. -/
theorem State.startTask_of {s : State} {cl q : Nat} {t : Task} (eng d : Nat) (hheld : Tab.look (s.cluster cl).tasks q = some t) :
    let c := s.cluster cl
    let p := s.taskProgress t c.oldLeaves t.ten
    s.startTask cl q eng d = (Rules.walkLogged s (if p.2 = 2 then s.taskWalk t c.oldLeaves t.ten p.1 else none)).putCluster cl { c with
      tasks := Tab.put c.tasks q { t with
        prog := p.1, fail := p.2, eng := eng, old := c.oldLeaves, opA := [], opB := [], opS := []
        st := .dispatched d (d + Rules.retireTime t (p.1 - t.row0)) eng } } := by
  unfold State.startTask State.updCluster
  simp only [hheld, elim_logWalk, cluster_walkLogged]
  rfl

/-! ### Operand lines (07 R178) -/

/-- The task with one row of A, one row of B, or the scale bytes read; a row of A goes on after its earlier passes. -/
def State.takesOperand (s : State) (t : Task) (x : Nat × Nat × BufRec × Nat × Nat) : Task :=
  let b := s.opBytes t x.2.2.1 x.2.2.2.1 x.2.2.2.2
  match x.1 with
  | 0 => { t with opA := Tab.put t.opA x.2.1 (Tab.get t.opA [] x.2.1 ++ b) }
  | 1 => { t with opB := Tab.put t.opB x.2.1 b }
  | _ => { t with opS := b }

/-- A pass that reads no coherent sector reads its operands once its lines have been reached. -/
theorem State.readPass_of {s s1 : State} {cl q p : Nat} {t : Task} (hheld : Tab.look (s.cluster cl).tasks q = some t)
    (hcoh : coherentOf (s.passPlaces t p) = []) (hreach : s.reachAll (linesOf (s.passPlaces t p)) = some s1) :
    s.readPass cl q p = s1.putCluster cl { s1.cluster cl with
      tasks := Tab.put (s1.cluster cl).tasks q ((taskReads t p).foldl s1.takesOperand t) } := by
  unfold State.readPass
  simp only [hheld, hcoh, hreach, Option.getD_some, List.foldl_nil]
  rfl

section
variable (s : State) (t : Task)

/-- Rows of A change the rows of A alone. -/
theorem State.foldl_takesRowsA (r : BufRec) (a n len : Nat) (pos : Nat → Nat) :
    ((List.range n).map fun k => (0, a + k, r, pos k, len)).foldl s.takesOperand t = { t with
      opA := (List.range n).foldl (fun T k => Tab.put T (a + k) (Tab.get T [] (a + k) ++ s.opBytes t r (pos k) len)) t.opA } := by
  rw [List.foldl_map]
  generalize List.range n = l
  have step (T : Tab (List (Byte × Bool))) : l.foldl (fun u k => s.takesOperand u (0, a + k, r, pos k, len)) { t with opA := T } = { t with
      opA := l.foldl (fun T k => Tab.put T (a + k) (Tab.get T [] (a + k) ++ s.opBytes t r (pos k) len)) T } := by
    induction l generalizing T with
    | nil => rfl
    | cons k l ih => exact ih _
  exact step t.opA

/-- Rows of B change the rows of B alone. -/
theorem State.foldl_takesRowsB (r : BufRec) (a n len : Nat) (pos : Nat → Nat) :
    ((List.range n).map fun k => (1, a + k, r, pos k, len)).foldl s.takesOperand t = { t with
      opB := (List.range n).foldl (fun T k => Tab.put T (a + k) (s.opBytes t r (pos k) len)) t.opB } := by
  rw [List.foldl_map]
  generalize List.range n = l
  have step (T : Tab (List (Byte × Bool))) : l.foldl (fun u k => s.takesOperand u (1, a + k, r, pos k, len)) { t with opB := T } = { t with
      opB := l.foldl (fun T k => Tab.put T (a + k) (s.opBytes t r (pos k) len)) T } := by
    induction l generalizing T with
    | nil => rfl
    | cons k l ih => exact ih _
  exact step t.opB

end

/-- A `scacc` reads its scale bytes alone. -/
theorem taskReads_scacc {t : Task} (hfn : t.fn = 7) :
    taskReads t 0 = [(2, 0, t.sbuf, tkSpos t.record, tkM t.record * tkKb t.record + 256 * tkKb t.record)] := by
  simp [taskReads, hfn, fnQ4, fnScacc]

/-- A whole pass of an `mm` reads 256 elements of each row of A, and 256 rows of B. -/
theorem taskReads_mm {t : Task} {p : Nat} (hfn : t.fn ≤ 5) (hpass : 256 * (p + 1) ≤ 32 * tkKb t.record) :
    taskReads t p =
      ((List.range (t.prog - t.row0)).map fun k => (0, t.row0 + k, t.abuf,
        tkApos t.record + (t.row0 + k) * tkAstr t.record + 256 * p * mmSize t.fn, 256 * mmSize t.fn)) ++
      ((List.range 256).map fun k => (1, 256 * p + k, t.bbuf, tkBpos t.record + (256 * p + k) * tkBstr t.record, 256 * mmSize t.fn)) := by
  have h6 : ¬ t.fn = 6 := by omega
  have h7 : ¬ t.fn = 7 := by omega
  have hle : t.fn ≤ 6 := by omega
  have hhi : min (32 * tkKb t.record) (256 * p + 256) = 256 * p + 256 := by omega
  simp only [taskReads, rowsB, rowB, fnQ4, fnScacc, h6, h7, hle, if_true, if_false, decide_false, Bool.or_false, Bool.and_false, Bool.false_eq_true,
    List.append_nil, hhi, Nat.add_sub_cancel_left]

/-- What such a pass leaves in the task. -/
theorem State.foldl_taskReads_mm (s : State) {t : Task} {p : Nat} (hfn : t.fn ≤ 5) (hpass : 256 * (p + 1) ≤ 32 * tkKb t.record) :
    ∃ A B, (taskReads t p).foldl s.takesOperand t = { t with opA := A, opB := B } ∧
      (∀ m, t.row0 ≤ m → m < t.prog → Tab.get A [] m = Tab.get t.opA [] m ++
        s.opBytes t t.abuf (tkApos t.record + m * tkAstr t.record + 256 * p * mmSize t.fn) (256 * mmSize t.fn)) ∧
      (∀ j, 256 * p ≤ j → j < 256 * p + 256 → Tab.get B [] j = s.opBytes t t.bbuf (tkBpos t.record + j * tkBstr t.record) (256 * mmSize t.fn)) := by
  rw [taskReads_mm hfn hpass, List.foldl_append, State.foldl_takesRowsA, State.foldl_takesRowsB]
  refine ⟨_, _, rfl, fun m hlo hhi => ?_, fun j hlo hhi => ?_⟩
  · rw [Tab.get_foldl_put [] t.row0 _ fun k v => v ++ s.opBytes t t.abuf
      (tkApos t.record + (t.row0 + k) * tkAstr t.record + 256 * p * mmSize t.fn) (256 * mmSize t.fn), if_pos (by omega), Nat.add_sub_cancel' hlo]
  · refine (Tab.get_foldl_put [] (256 * p) _ (fun k _ => s.opBytes t t.bbuf (tkBpos t.record + (256 * p + k) * tkBstr t.record) (256 * mmSize t.fn))
      t.opB j).trans ?_
    rw [if_pos ⟨hlo, hhi⟩, Nat.add_sub_cancel' hlo]

end Sys2Proof.Machine
end

section
/-! The retirement of a task (06_numbers R168, R169; 07_matrix_engine R177, R179, R184 to R187): tables in rising order and the accumulator store, the
cells that an `mm` gives, what a retirement that drains nothing leaves, and the statement on the steps of a task. -/

namespace Sys2Proof

/-! ### Tables in rising order -/

/-- The numbers of a table rise. -/
def Tab.Rising {α : Type} (t : Tab α) : Prop := t.Pairwise fun x y => x.1 < y.1

section
variable {α : Type} {t : Tab α}

theorem Tab.look_cons (a : Nat) (v : α) (t : Tab α) (k : Nat) : Tab.look ((a, v) :: t) k = if a = k then some v else Tab.look t k := rfl

/-- A number below every entry has none. -/
theorem Tab.look_below {k : Nat} (h : ∀ x, x ∈ t → k < x.1) : Tab.look t k = none :=
  Tab.look_none_of_not_mem t k fun hk => by
    obtain ⟨x, hx, rfl⟩ := List.mem_map.mp hk
    exact Nat.lt_irrefl _ (h x hx)

/-- Every number of a rising table lies above what lies below its first. -/
theorem Tab.Rising.above {a k : Nat} {v : α} (h : Tab.Rising ((a, v) :: t)) (hk : k < a) : ∀ x, x ∈ (a, v) :: t → k < x.1 := fun x hx => by
  obtain rfl | hx := List.mem_cons.mp hx
  · exact hk
  · exact Nat.lt_trans hk ((List.pairwise_cons.mp h).1 x hx)

/-- What stands in a rising table is found there. -/
theorem Tab.Rising.look_iff (h : Tab.Rising t) {k : Nat} {v : α} : Tab.look t k = some v ↔ (k, v) ∈ t := by
  refine ⟨Tab.look_mem t k v, fun hmem => ?_⟩
  induction t with
  | nil => cases hmem
  | cons x t ih =>
    obtain ⟨habove, hrest⟩ := List.pairwise_cons.mp h
    obtain rfl | hin := List.mem_cons.mp hmem
    · rw [Tab.look_cons, if_pos rfl]
    · have hlt := habove _ hin
      rw [Tab.look_cons, if_neg (Nat.ne_of_lt hlt)]
      exact ih hrest hin

/-- Entries taken out by their number. -/
theorem Tab.look_filter_number (p : Nat → Bool) (t : Tab α) (k : Nat) :
    Tab.look (t.filter fun x => p x.1) k = if p k then Tab.look t k else none := by
  induction t with
  | nil => simp [Tab.look]
  | cons x t ih =>
    obtain ⟨a, v⟩ := x
    have hfilter : ((a, v) :: t).filter (fun x => p x.1) = if p a then (a, v) :: t.filter (fun x => p x.1) else t.filter (fun x => p x.1) :=
      List.filter_cons
    by_cases ha : a = k
    · subst ha
      cases hp : p a <;> simp [hfilter, hp, ih, Tab.look_cons]
    · rw [Tab.look_cons, if_neg ha, ← ih, hfilter]
      split
      · rw [Tab.look_cons, if_neg ha]
      · rfl

/-- Entries that are 0 are left out, and what is left out reads as 0. -/
theorem Tab.Rising.get_filter_ne_zero {t : Tab W32} (h : Tab.Rising t) (k : Nat) : Tab.get (t.filter fun x => x.2 != 0) 0 k = Tab.get t 0 k := by
  unfold Tab.get
  cases hk : Tab.look t k with
  | none =>
    have hnone : Tab.look (t.filter fun x => x.2 != 0) k = none := by
      refine Option.eq_none_iff_forall_ne_some.mpr fun v hv => ?_
      have hmem := List.mem_of_mem_filter (Tab.look_mem _ _ _ hv)
      rw [h.look_iff.mpr hmem] at hk
      cases hk
    rw [hnone]
  | some v =>
    have hsub : Tab.Rising (t.filter fun x => x.2 != 0) := h.filter _
    by_cases hv : v = 0
    · subst hv
      cases hf : Tab.look (t.filter fun x => x.2 != 0) k with
      | none => rfl
      | some y =>
        have hmem := List.mem_of_mem_filter (Tab.look_mem _ _ _ hf)
        exact congrArg (·.getD 0) ((h.look_iff.mpr hmem).symm.trans hk)
    · rw [hsub.look_iff.mpr (List.mem_filter.mpr ⟨Tab.look_mem _ _ _ hk, by simpa using hv⟩)]

/-- The later of two entries set under one number stands. -/
theorem Tab.put_put_self (t : Tab α) (k : Nat) (v w : α) : Tab.put (Tab.put t k v) k w = Tab.put t k w := by
  induction t with
  | nil => simp [Tab.put]
  | cons x t ih =>
    obtain ⟨a, y⟩ := x
    by_cases ha : a = k
    · simp [Tab.put, ha]
    · by_cases hlt : k < a
      · simp [Tab.put, ha, hlt]
      · simp [Tab.put, ha, hlt, ih]

/-- A table made of a list of numbers. -/
theorem Tab.look_map_number (f : Nat → α) {l : List Nat} {m : Nat} (hm : m ∈ l) : Tab.look (l.map fun k => (k, f k)) m = some (f m) := by
  induction l with
  | nil => cases hm
  | cons k l ih =>
    rw [List.map_cons, Tab.look_cons]
    by_cases hk : k = m
    · rw [if_pos hk, hk]
    · rw [if_neg hk]
      exact ih ((List.mem_cons.mp hm).resolve_left (Ne.symm hk))

end

end Sys2Proof

namespace Sys2Proof.Machine

/-! ### The accumulator store (07 R185) -/

/-- A row begins with the first cell, and goes on with the table's entries above it. -/
theorem fillRow_succ (n : Nat) {base : Nat} {t : Tab W32} (ht : Tab.Rising t) (hbase : ∀ x, x ∈ t → base ≤ x.1) :
    ∃ u : Tab W32, Tab.Rising u ∧ (∀ x, x ∈ u → base + 1 ≤ x.1) ∧ (∀ k, base < k → Tab.look u k = Tab.look t k) ∧
      fillRow base (n + 1) t = Tab.get t 0 base :: fillRow (base + 1) n u := by
  cases t with
  | nil => exact ⟨[], ht, by simp, fun _ _ => rfl, rfl⟩
  | cons x t =>
    obtain ⟨k, v⟩ := x
    obtain ⟨habove, hrest⟩ := List.pairwise_cons.mp ht
    obtain rfl | hlt := Nat.eq_or_lt_of_le (hbase (k, v) List.mem_cons_self)
    · refine ⟨t, hrest, habove, fun j hj => ?_, ?_⟩
      · rw [Tab.look_cons, if_neg (Nat.ne_of_lt hj)]
      · rw [fillRow, if_pos rfl, Tab.get, Tab.look_cons, if_pos rfl, Option.getD_some]
    · refine ⟨(k, v) :: t, ht, ht.above hlt, fun _ _ => rfl, ?_⟩
      rw [fillRow, if_neg (Nat.ne_of_gt hlt), Tab.get, Tab.look_below (ht.above hlt), Option.getD_none]

/-- A row filled from a rising table that starts no lower than the row. -/
theorem fillRow_getElem? (n : Nat) {base : Nat} {t : Tab W32} (ht : Tab.Rising t) (hbase : ∀ x, x ∈ t → base ≤ x.1) {j : Nat} (hj : j < n) :
    (fillRow base n t)[j]? = some (Tab.get t 0 (base + j)) := by
  induction n generalizing base t j with
  | zero => omega
  | succ n ih =>
    obtain ⟨u, hu, hlow, hsame, hrow⟩ := fillRow_succ n ht hbase
    rw [hrow]
    cases j with
    | zero => rfl
    | succ j => rw [List.getElem?_cons_succ, ih hu hlow (by omega), Tab.get, hsame _ (by omega), Tab.get, Nat.succ_add_eq_add_succ]

/-- Does a cell's number lie in a row? -/
def inRow (row k : Nat) : Bool := decide (row * 256 ≤ k) && decide (k < row * 256 + 256)

theorem accRow_eq_fillRow (acc : Tab W32) (row : Nat) : accRow acc row = fillRow (row * 256) 256 (acc.filter fun x => inRow row x.1) := rfl

/-- A row of the store, cell by cell. -/
theorem accRow_getD {acc : Tab W32} (h : Tab.Rising acc) (row : Nat) {j : Nat} (hj : j < 256) :
    (accRow acc row).getD j 0 = Tab.get acc 0 (row * 256 + j) := by
  have hlow : ∀ x, x ∈ acc.filter (fun x => inRow row x.1) → row * 256 ≤ x.1 := fun x hx => by
    have hin := (List.mem_filter.mp hx).2
    rw [inRow, Bool.and_eq_true, decide_eq_true_eq] at hin
    exact hin.1
  have hin : inRow row (row * 256 + j) = true := by simp [inRow, hj]
  rw [accRow_eq_fillRow, List.getD_eq_getElem?_getD, fillRow_getElem? 256 (h.filter _) hlow hj, Option.getD_some, Tab.get,
    Tab.look_filter_number, if_pos hin, Tab.get]

/-- A cell written before the rest of the merged cells, which have none of its number; a 0 is left out. -/
theorem get_cell_cons {b k : Nat} {y : W32} {rest u w : Tab W32} (hrest : Tab.get rest 0 k = (Tab.look w k).getD (Tab.get u 0 k))
    (hu : Tab.look u b = none) (hw : Tab.look w b = none) :
    Tab.get (if y = 0 then rest else (b, y) :: rest) 0 k = (Tab.look ((b, y) :: w) k).getD (Tab.get u 0 k) := by
  by_cases hk : b = k
  · subst hk
    have hzero : Tab.get rest 0 b = 0 := by rw [hrest, hw, Option.getD_none, Tab.get, hu, Option.getD_none]
    rw [Tab.look_cons, if_pos rfl, Option.getD_some]
    split
    · rename_i hy
      rw [hzero, hy]
    · rw [Tab.get, Tab.look_cons, if_pos rfl, Option.getD_some]
  · rw [Tab.look_cons, if_neg hk, ← hrest]
    split
    · rfl
    · rw [Tab.get, Tab.look_cons, if_neg hk, Tab.get]

/-- Cells that are written hold their new values, the others what they held. -/
theorem get_accMerge (n : Nat) {t w : Tab W32} (ht : Tab.Rising t) (hw : Tab.Rising w) (hn : t.length + w.length < n) (k : Nat) :
    Tab.get (accMerge n t w) 0 k = (Tab.look w k).getD (Tab.get t 0 k) := by
  induction n generalizing t w with
  | zero => omega
  | succ n ih =>
    cases w with
    | nil => rw [accMerge]; rfl
    | cons y w =>
    obtain ⟨b, y⟩ := y
    cases t with
    | nil => exact hw.get_filter_ne_zero k
    | cons x t =>
    obtain ⟨a, x⟩ := x
    obtain ⟨htop, htr⟩ := List.pairwise_cons.mp ht
    obtain ⟨hwop, hwr⟩ := List.pairwise_cons.mp hw
    simp only [List.length_cons] at hn
    obtain hlt | rfl | hgt := Nat.lt_trichotomy a b
    · -- the old cell comes first
      have hrest := ih htr hw (by simp only [List.length_cons]; omega)
      simp only [accMerge, if_pos hlt]
      by_cases hk : a = k
      · subst hk
        rw [Tab.look_below (hw.above hlt), Option.getD_none, Tab.get, Tab.get, Tab.look_cons, Tab.look_cons, if_pos rfl, if_pos rfl]
      · simp only [Tab.get, Tab.look_cons a, if_neg hk] at hrest ⊢
        exact hrest
    · -- the new cell takes the old one's place
      have hrest := ih htr hwr (by omega)
      simp only [accMerge, Nat.lt_irrefl, if_true, if_false]
      rw [get_cell_cons hrest (Tab.look_below htop) (Tab.look_below hwop)]
      by_cases hk : a = k
      · rw [Tab.look_cons, if_pos hk, Option.getD_some, Option.getD_some]
      · rw [Tab.get, Tab.get, Tab.look_cons a x, if_neg hk]
    · -- the new cell comes first
      have hrest := ih ht hwr (by simp only [List.length_cons]; omega)
      simp only [accMerge, if_neg (Nat.lt_asymm hgt), if_neg (Nat.ne_of_gt hgt)]
      exact get_cell_cons hrest (Tab.look_below (ht.above hgt)) (Tab.look_below hwop)

theorem Cluster.cell_accPut {c : Cluster} {w : Tab W32} (hc : Rules.storeWf c) (hw : Tab.Rising w) (row col : Nat) :
    (c.accPut w).cell row col = (Tab.look w (row * 256 + col)).getD (c.cell row col) :=
  get_accMerge _ hc hw (Nat.lt_succ_self _) _

/-! ### Columns of cells -/

/-- Rows that leave the generator alone are independent of one another. -/
theorem column_fst {rows : List Nat} {g : W32} {f : Nat → W32 → Option W32 × W32 × BitVec 8} (hf : ∀ m, (f m g).2.1 = g) :
    (column rows g f).1 = rows.map fun m => (f m g).1 := by
  have hfold (acc : List (Option W32)) (fl : BitVec 8) : (rows.foldl (fun (a : List (Option W32) × W32 × BitVec 8) m =>
      ((f m a.2.1).1 :: a.1, (f m a.2.1).2.1, a.2.2 ||| (f m a.2.1).2.2)) (acc, g, fl)).1 = (rows.map fun m => (f m g).1).reverse ++ acc := by
    induction rows generalizing acc fl with
    | nil => rfl
    | cons m rows ih =>
      rw [List.foldl_cons, hf, ih]
      simp
  rw [column, hfold, List.append_nil, List.reverse_reverse]

/-- The cells of 256 columns, over the rows from a on. -/
def rowCells (a n : Nat) (cols : Nat → List (Option W32)) : Tab W32 :=
  (List.range n).flatMap fun i => (List.range 256).filterMap fun j => ((cols j).getD i none).map fun v => ((a + i) * 256 + j, v)

theorem cellsFromCols_eq_rowCells {rows : List Nat} {at_ : Nat → Nat} {a : Nat} (hat : ∀ i, i < rows.length → at_ (rows.getD i 0) = a + i)
    (cols : Nat → List (Option W32)) : cellsFromCols rows at_ ((List.range 256).map cols) = rowCells a rows.length cols := by
  unfold cellsFromCols rowCells
  refine List.flatMap_congr fun i hi => ?_
  have hzip : (List.range ((List.range 256).map cols).length).zip ((List.range 256).map cols) = (List.range 256).map fun j => (j, cols j) := by
    rw [List.length_map, List.length_range]
    have h := List.zip_map' (f := id) (g := cols) (l := List.range 256)
    rwa [List.map_id] at h
  rw [hzip, List.filterMap_map, hat i (List.mem_range.mp hi)]
  refine List.filterMap_congr fun j _ => ?_
  simp only [Function.comp]
  cases (cols j).getD i none <;> rfl

theorem mem_rowCells {a n : Nat} {cols : Nat → List (Option W32)} {k : Nat} {v : W32} :
    (k, v) ∈ rowCells a n cols ↔ ∃ i j, i < n ∧ j < 256 ∧ (cols j).getD i none = some v ∧ (a + i) * 256 + j = k := by
  simp only [rowCells, List.mem_flatMap, List.mem_range, List.mem_filterMap, Option.map_eq_some_iff, Prod.mk.injEq]
  constructor
  · rintro ⟨i, hi, j, hj, v, hv, hk, rfl⟩
    exact ⟨i, j, hi, hj, hv, hk⟩
  · rintro ⟨i, j, hi, hj, hv, hk⟩
    exact ⟨i, hi, j, hj, v, hv, hk, rfl⟩

theorem rowCells_rising (a n : Nat) (cols : Nat → List (Option W32)) : Tab.Rising (rowCells a n cols) := by
  unfold Tab.Rising rowCells
  rw [List.pairwise_flatMap]
  refine ⟨fun i _ => ?_, List.pairwise_lt_range.imp fun {i i'} hlt x hx y hy => ?_⟩
  · rw [List.pairwise_filterMap]
    refine List.pairwise_lt_range.imp fun {j j'} hlt x hx y hy => ?_
    obtain ⟨_, _, rfl⟩ := Option.map_eq_some_iff.mp hx
    obtain ⟨_, _, rfl⟩ := Option.map_eq_some_iff.mp hy
    exact Nat.add_lt_add_left hlt _
  · obtain ⟨j, hj, hx⟩ := List.mem_filterMap.mp hx
    obtain ⟨j', hj', hy⟩ := List.mem_filterMap.mp hy
    obtain ⟨_, _, rfl⟩ := Option.map_eq_some_iff.mp hx
    obtain ⟨_, _, rfl⟩ := Option.map_eq_some_iff.mp hy
    have := List.mem_range.mp hj
    show (a + i) * 256 + j < (a + i') * 256 + j'
    omega

/-- The cell of a row and a column is what the column has there. -/
theorem look_rowCells {a n : Nat} {cols : Nat → List (Option W32)} {i j : Nat} (hi : i < n) (hj : j < 256) :
    Tab.look (rowCells a n cols) ((a + i) * 256 + j) = (cols j).getD i none := by
  refine Option.ext fun v => ?_
  rw [(rowCells_rising a n cols).look_iff, mem_rowCells]
  constructor
  · rintro ⟨i', j', -, hj', hv, hk⟩
    obtain rfl : i' = i := by omega
    obtain rfl : j' = j := by omega
    exact hv
  · exact fun hv => ⟨i, j, hi, hj, hv, rfl⟩

/-! ### The cells of an `mm` (06 R168, R169; 07 R179, R184) -/

/-- Only a stochastic rounding draws. -/
theorem draw1_of_ne_sr {r : RCtl} (hr : r.rm ≠ .sr) (g : W32) : draw1 r g = (0, g) := if_neg hr

theorem blockSum_generator {r : RCtl} (hr : r.rm ≠ .sr) (g : W32) (prod : FVal → FVal → Option FVal) (ps : List (FVal × FVal)) :
    (blockSum r g prod ps).2.1 = g := by
  unfold blockSum
  extract_lets xs nv pos neg fl fin nz
  split
  · rfl
  · split
    · rfl
    · clear_value nz
      cases nz with
      | nil => rfl
      | cons x l => exact congrArg Prod.snd (draw1_of_ne_sr hr g)

theorem dotAcc_generator {r : RCtl} (hr : r.rm ≠ .sr) (prod : FVal → FVal → Option FVal) (bs : List (List (FVal × FVal))) (acc : Nat) (g : W32)
    (fl : BitVec 8) : (dotAcc r prod bs acc g fl).2.1 = g := by
  induction bs generalizing acc g fl with
  | nil => rfl
  | cons b bs ih => rw [dotAcc, ih, blockSum_generator hr, draw1_of_ne_sr hr]

/-- What an `mm` puts into a cell when its rounding does not draw: nothing where the whole tile is masked, the record's constant where the cell is,
and otherwise the sums of the rounding tree, from what the cell held or from 0. -/
def mmCell (t : Task) (r : RCtl) (acc : Tab W32) (m j : Nat) : Option W32 :=
  if t.tileGone m j then none
  else if t.masked m j then some (tconOf t)
  else
    let b := (List.range (32 * tkKb t.record)).map fun k => (elemsOf t.fn r.ftz (Tab.get t.opB [] k)).getD j quiet
    let old := Tab.get acc 0 ((tkAccrow t.record + t.bias + m) * 256 + j)
    some (BitVec.ofNat 32 (dotAcc r (if t.fn = 5 then intProd else prodF)
      (blocks32 (tkKb t.record) ((elemsOf t.fn r.ftz (Tab.get t.opA [] m)).zip b)) (if tkInit t.record then 0 else old.toNat) 0 0).1)

section
variable {t : Task} {r : RCtl} {acc : Tab W32}

theorem Task.length_doing : t.doing.length = t.prog - t.row0 := by rw [Task.doing, List.length_map, List.length_range]

theorem Task.getD_doing {i : Nat} (hi : i < t.prog - t.row0) : t.doing.getD i 0 = t.row0 + i := by
  simp [Task.doing, hi]

theorem Task.mem_doing {m : Nat} (hlo : t.row0 ≤ m) (hhi : m < t.prog) : m ∈ t.doing :=
  List.mem_map.mpr ⟨m - t.row0, List.mem_range.mpr (by omega), by omega⟩

/-- The elements of the rows of A. -/
theorem get_elemsOf (m : Nat) : Tab.get (t.opA.map fun (m, b) => (m, elemsOf t.fn r.ftz b)) [] m = elemsOf t.fn r.ftz (Tab.get t.opA [] m) := by
  have h := Tab.look_mapAll t.opA (fun _ b => elemsOf t.fn r.ftz b) m
  rw [Tab.mapAll] at h
  rw [Tab.get, h, Tab.get]
  cases Tab.look t.opA m with
  | none => simp [elemsOf]
  | some b => rfl

/-- Where the sums of a cell start. -/
theorem getD_start (hacc : Tab.Rising acc) (base : Nat) {m j : Nat} (hm : m ∈ t.doing) (hj : j < 256) :
    ((Tab.get (t.doing.map fun m => (m, if tkInit t.record then [] else accRow acc (base + m))) [] m).getD j 0).toNat =
      if tkInit t.record then 0 else (Tab.get acc 0 ((base + m) * 256 + j)).toNat := by
  rw [Tab.get, Tab.look_map_number _ hm, Option.getD_some]
  split
  · rfl
  · rw [accRow_getD hacc _ hj]

/-- Only the first 256 columns count. -/
theorem rowCells_congr {a n : Nat} {cols cols' : Nat → List (Option W32)} (h : ∀ j, j < 256 → cols j = cols' j) :
    rowCells a n cols = rowCells a n cols' := by
  unfold rowCells
  refine List.flatMap_congr fun i _ => List.filterMap_congr fun j hj => ?_
  rw [h j (List.mem_range.mp hj)]

theorem runMm_cells (hr : r.rm ≠ .sr) (hacc : Tab.Rising acc) : (runMm t r (List.replicate 256 0) acc).cells =
    rowCells (tkAccrow t.record + t.bias + t.row0) (t.prog - t.row0) fun j => t.doing.map fun m => mmCell t r acc m j := by
  unfold runMm
  simp only [List.map_map]
  rw [cellsFromCols_eq_rowCells (a := tkAccrow t.record + t.bias + t.row0) (fun i hi => by
    rw [Task.getD_doing (Task.length_doing ▸ hi)]
    omega), Task.length_doing]
  refine rowCells_congr fun j hj => ?_
  have hg : (List.replicate 256 (0 : W32)).getD j 0 = 0 := List.getD_replicate _ hj
  simp only [Function.comp, hg]
  rw [column_fst]
  · refine List.map_congr_left fun m hm => ?_
    simp only [mmCell, get_elemsOf, getD_start hacc _ hm hj, Function.comp_def]
    split
    · rfl
    · split
      · rfl
      · split <;> rfl
  · intro m
    split
    · rfl
    · split
      · rfl
      · exact dotAcc_generator hr ..

theorem look_runMm (hr : r.rm ≠ .sr) (hacc : Tab.Rising acc) {m j : Nat} (hlo : t.row0 ≤ m) (hhi : m < t.prog) (hj : j < 256) :
    Tab.look (runMm t r (List.replicate 256 0) acc).cells ((tkAccrow t.record + t.bias + m) * 256 + j) = mmCell t r acc m j := by
  obtain ⟨i, rfl⟩ := Nat.exists_eq_add_of_le hlo
  have hi : i < t.prog - t.row0 := by omega
  rw [runMm_cells hr hacc, ← Nat.add_assoc, look_rowCells hi hj]
  simp [Task.doing, hi]

/-- The tile of a cell is masked whole, or the cell is, by what R184 says. -/
theorem Task.tileGone_iff {m j : Nat} : t.tileGone m j = true ↔
    t.tri = true ∧ ((32 * (j / 32) : Nat) : Int) > (min (m / 32 * 32 + 31) (tkM t.record - 1) : Nat) + tkDlt t.record := by
  rw [Task.tileGone, Bool.and_eq_true, decide_eq_true_eq]

theorem Task.masked_iff {m j : Nat} : t.masked m j = true ↔ t.tri = true ∧ (j : Int) > (m : Int) + tkDlt t.record := by
  rw [Task.masked, Bool.and_eq_true, decide_eq_true_eq]

/-- The outcome of an `mm` whose rounding does not draw. -/
theorem State.taskOut_mm {s : State} {cl : Nat} (hfn : t.fn ≤ 5) (hr : (rctl 1 t.rnd.toNat).rm ≠ .sr) :
    s.taskOut cl t = runMm t (rctl 1 t.rnd.toNat) (List.replicate 256 0) (s.cluster cl).acc := by
  simp only [State.taskOut, if_pos hfn, if_neg hr]

end

/-! ### What a retirement leaves (07 R177, R186, R187) -/

/-- The accumulator cells of a cluster are not what a resolution changes. -/
theorem State.acc_updCluster (s : State) (k n : Nat) (f : Cluster → Cluster) (hf : ∀ c, (f c).acc = c.acc := by exact fun _ => rfl) :
    ((s.updCluster k f).cluster n).acc = (s.cluster n).acc := by
  rw [State.updCluster, State.cluster_putCluster]
  split
  · rename_i h
    rw [hf, h]
  · rfl

theorem State.acc_arrive (s : State) (core wid : Nat) (e : Ev) (n : Nat) : ((s.arrive core wid e).cluster n).acc = (s.cluster n).acc := by
  unfold State.arrive
  split
  · exact State.acc_updCluster ..
  · split
    · rfl
    · exact State.acc_updCluster ..

theorem State.acc_resolvesNow (s : State) (core : Nat) (f : FutAt) (v : W64) (n : Nat) :
    ((s.resolvesNow core f v).cluster n).acc = (s.cluster n).acc := by
  unfold State.resolvesNow
  split
  · exact (State.acc_arrive ..).trans (State.acc_updCluster ..)
  · split
    · exact State.acc_arrive ..
    · rfl

/-- The code of a retirement: the failure that ended the rows early, poison, or 0. -/
def Task.endCode (t : Task) : Nat := if t.prog < tkM t.record then t.fail else if t.poison || t.poisoned then 7 else 0

/-- The task with the flags and the poison of its rows, its operands dropped. -/
def Task.done (t : Task) (fl : BitVec 8) : Task := { t with xf := t.xf ||| fl, poison := t.poison || t.poisoned, opA := [], opB := [], opS := [] }

/-- The cluster after a retirement that drains nothing: its cells, and the slot kept by a task of a live warp that is suspended. -/
def State.taskRetired (s : State) (cl q : Nat) (t : Task) : Cluster :=
  let o := s.taskOut cl t
  let held := Tab.put (s.cluster cl).tasks q (t.done o.fl)
  let kept := (t.endCode = 1 || t.endCode = 2) && !s.gone t.wid
  { (s.cluster cl).accPut o.cells with
    tasks := if kept then Tab.put held q { t.done o.fl with st := .suspended t.endCode } else Tab.del held q }

section
variable {s : State} {cl q : Nat} {t : Task}

theorem State.putCluster_putCluster (s : State) (n : Nat) (c d : Cluster) : (s.putCluster n c).putCluster n d = s.putCluster n d :=
  congrArg (fun l => ({ s with clusters := l } : State)) (Tab.put_put_self s.clusters n c d)

theorem State.updCluster_putCluster (s : State) (n : Nat) (c : Cluster) (f : Cluster → Cluster) :
    (s.putCluster n c).updCluster n f = s.putCluster n (f c) := by
  rw [State.updCluster, State.putCluster_putCluster, State.cluster_putCluster, if_pos rfl]

theorem State.updCluster_updCluster (s : State) (n : Nat) (f g : Cluster → Cluster) :
    (s.updCluster n f).updCluster n g = s.putCluster n (g (f (s.cluster n))) := State.updCluster_putCluster s n (f (s.cluster n)) g

theorem State.taskEnds_putCluster {c : Cluster} {code : Nat} (hheld : Tab.look c.tasks q = some t) :
    let kept := (code = 1 || code = 2) && !s.gone t.wid
    (s.putCluster cl c).taskEnds cl q t.num code = s.putCluster cl { c with
      tasks := if kept then Tab.put c.tasks q { t with st := .suspended code } else Tab.del c.tasks q } := by
  intro kept
  unfold State.taskEnds
  rw [State.updCluster_putCluster]
  have hgone : (s.putCluster cl c).gone t.wid = s.gone t.wid := rfl
  simp only [hheld, bne_self_eq_false, Bool.false_eq_true, if_false, hgone]
  split <;> rfl

/-- A task that drains nothing writes its cells, leaves or keeps its slot, and its future resolves. -/
theorem State.retireTask_undrained (hheld : Tab.look (s.cluster cl).tasks q = some t) (hrows : t.row0 < t.prog)
    (hbytes : (s.taskOut cl t).bytes = []) :
    s.retireTask cl q = (s.putCluster cl (s.taskRetired cl q t)).resolvesNow (cl * 4) t.fut
      (taskStatus t.prog (t.xf ||| (s.taskOut cl t).fl) 0 q t.eng t.endCode) := by
  have hput : Tab.look (Tab.put (s.cluster cl).tasks q (t.done (s.taskOut cl t).fl)) q = some (t.done (s.taskOut cl t).fl) := Tab.look_put_self ..
  have hends := State.taskEnds_putCluster (s := s) (cl := cl) (code := t.endCode) (c := { (s.cluster cl).accPut (s.taskOut cl t).cells with
    tasks := Tab.put (s.cluster cl).tasks q (t.done (s.taskOut cl t).fl) }) hput
  unfold State.retireTask
  simp only [hheld, gt_iff_lt, hrows, if_true, decide_true, Bool.true_and, hbytes, List.filterMap_nil, List.filter_nil, List.map_nil,
    List.eraseDups_nil, List.isEmpty_nil, List.foldl_fixed]
  rw [State.updCluster_updCluster]
  exact congrArg (fun u => State.resolvesNow u (cl * 4) t.fut _) hends

@[simp] theorem State.acc_taskRetired : (s.taskRetired cl q t).acc = ((s.cluster cl).accPut (s.taskOut cl t).cells).acc := rfl

theorem State.taskRetired_suspended (hlive : s.gone t.wid = false) (hcode : t.endCode = 1 ∨ t.endCode = 2) :
    Tab.look (s.taskRetired cl q t).tasks q = some { t.done (s.taskOut cl t).fl with st := .suspended t.endCode } := by
  unfold State.taskRetired
  simp only [hlive, Bool.not_false, Bool.and_true, Bool.or_eq_true, decide_eq_true_eq, if_pos hcode]
  exact Tab.look_put_self ..

theorem State.taskRetired_freed (h1 : t.endCode ≠ 1) (h2 : t.endCode ≠ 2) :
    (s.taskRetired cl q t).tasks = Tab.del (Tab.put (s.cluster cl).tasks q (t.done (s.taskOut cl t).fl)) q := by
  unfold State.taskRetired
  simp [h1, h2]

/-- The cells of the rows that a retiring `mm` has done. -/
theorem State.cell_retireTask_mm (hheld : Tab.look (s.cluster cl).tasks q = some t) (hfn : t.fn ≤ 5) (hr : (rctl 1 t.rnd.toNat).rm ≠ .sr)
    (hwf : Rules.storeWf (s.cluster cl)) {m j : Nat} (hlo : t.row0 ≤ m) (hhi : m < t.prog) (hj : j < 256) :
    ((s.retireTask cl q).cluster cl).cell (tkAccrow t.record + t.bias + m) j =
      (mmCell t (rctl 1 t.rnd.toNat) (s.cluster cl).acc m j).getD ((s.cluster cl).cell (tkAccrow t.record + t.bias + m) j) := by
  have hout := State.taskOut_mm (s := s) (cl := cl) hfn hr
  have hacc : ((s.retireTask cl q).cluster cl).acc = ((s.cluster cl).accPut (s.taskOut cl t).cells).acc := by
    rw [State.retireTask_undrained hheld (by omega) (by rw [hout]; rfl), State.acc_resolvesNow, State.cluster_putCluster, if_pos rfl,
      State.acc_taskRetired]
  have hrising : Tab.Rising (s.taskOut cl t).cells := by
    rw [hout, runMm_cells hr hwf]
    exact rowCells_rising ..
  calc ((s.retireTask cl q).cluster cl).cell (tkAccrow t.record + t.bias + m) j
      = ((s.cluster cl).accPut (s.taskOut cl t).cells).cell (tkAccrow t.record + t.bias + m) j := by rw [Cluster.cell, hacc, Cluster.cell]
    _ = (Tab.look (s.taskOut cl t).cells ((tkAccrow t.record + t.bias + m) * 256 + j)).getD _ := Cluster.cell_accPut hwf hrising ..
    _ = _ := by rw [hout, look_runMm hr hwf hlo hhi hj]

end

end Sys2Proof.Machine

namespace Sys2Proof.Rules

open Sys2Proof.Machine

/-- Settles O40: dispatch, operand reads and retirement, each as its lemma above says, and the cells of an `mm` as `mmCell` has them. -/
theorem taskSteps : Obligations.TaskSteps := by
  refine ⟨⟨?dispatch, ?scales, ?operands, ?retire⟩, ?cells⟩
  case dispatch =>
    intro s cl q eng t hev hheld c p d
    rw [exec_taskDispatch hev, State.startTask_of eng _ hheld]
  case scales =>
    intro s s1 cl q t hev hheld hfn hcoh hreach c r
    rw [exec_taskOperandLineDue hev, State.readPass_of hheld hcoh hreach, taskReads_scacc hfn]
    rfl
  case operands =>
    intro s s1 cl q p t hev hheld _ hfn hcoh hreach hpass size r
    obtain ⟨A, B, htakes, hA, hB⟩ := s1.foldl_taskReads_mm hfn hpass
    refine ⟨{ t with opA := A, opB := B }, ?_, rfl, rfl, rfl, hA, hB⟩
    rw [exec_taskOperandLineDue hev, State.readPass_of hheld hcoh hreach, htakes]
  case retire =>
    intro s cl q t hev hheld hrows o hbytes hlive hwarp bad code
    have hz := State.retireTask_undrained hheld hrows hbytes
    rw [State.resolvesNow_live (by exact hwarp)] at hz
    have hcl : ((s.putCluster cl (s.taskRetired cl q t)).later
        [.futureResolution t.fut (taskStatus t.prog (t.xf ||| o.fl) 0 q t.eng t.endCode) .nothing]).cluster cl = s.taskRetired cl q t :=
      (State.cluster_putCluster ..).trans (if_pos rfl)
    refine ⟨_, (exec_taskRetire hev).trans (congrArg Host.Outcome.next hz), rfl, rfl, rfl, rfl, ?_, fun h1 h2 => ?_, fun hcode => ?_⟩
    · rw [hcl, State.acc_taskRetired]
    · rw [hcl]
      exact State.taskRetired_freed h1 h2
    · rw [hcl]
      exact State.taskRetired_suspended hlive hcode
  case cells =>
    intro s cl q t hev hheld _ hfn _ hwf r hr
    refine ⟨_, exec_taskRetire hev, fun m j hlo hhi hj => ?_⟩
    intro row old a b whole masked
    rw [State.cell_retireTask_mm hheld hfn hr hwf hlo hhi hj, mmCell]
    refine ⟨fun h => ?_, fun hn h => ?_, fun hn hm => ?_⟩
    · rw [if_pos (Task.tileGone_iff.mpr h), Option.getD_none]
    · rw [if_neg (mt Task.tileGone_iff.mp hn), if_pos (Task.masked_iff.mpr h), Option.getD_some, tconOf]
    · rw [if_neg (mt Task.tileGone_iff.mp hn), if_neg (mt Task.masked_iff.mp hm), Option.getD_some]
      rfl

end Sys2Proof.Rules
end

section
/-! The tile directory's functions (08_solicit_and_census R194 to R196, R198): insertions, deletions and moves of tiles, and the statement on them. -/

namespace Sys2Proof.Rules

open Sys2Proof.Machine

/-! ### The directory as programs see it (R198) -/

section
variable {c : Core} {e nid : Nat} {y : Tile}

theorem vacant_iff_unseen : vacant c e ↔ ((c.tileSeen e).isNone && (c.tile? e).isNone) = true := by
  unfold vacant Core.tileSeen Core.tile?
  cases Tab.look c.oldTiles e <;> simp

theorem not_vacant_iff_unseen : ¬ vacant c e ↔ (!((c.tileSeen e).isNone && (c.tile? e).isNone)) = true := by
  rw [vacant_iff_unseen, Bool.not_eq_true, Bool.not_eq_true']

theorem entryFree_of_vacant (he : e < 128) (hv : vacant c e) (hbelow : ∀ j, j < e → ¬ vacant c j) : c.entryFree = some e := by
  unfold Core.entryFree
  rw [List.find?_range_eq_some]
  exact ⟨vacant_iff_unseen.mp hv, List.mem_range.mpr he, fun j hj => not_vacant_iff_unseen.mp (hbelow j hj)⟩

theorem entryFree_of_full (h : ∀ j, j < 128 → ¬ vacant c j) : c.entryFree = none := by
  unfold Core.entryFree
  rw [List.find?_range_eq_none]
  exact fun j hj => not_vacant_iff_unseen.mp (h j hj)

theorem ownTile_of_seen (hseen : c.tileSeen e = some y) (hst : y.st = .present) (hnid : y.nid = nid) : c.ownTile e nid = some y := by
  simp [Core.ownTile, hseen, hst, hnid]

theorem ownTile_of_foreign (h : ∀ y, c.tileSeen e = some y → y.st ≠ .present ∨ y.nid ≠ nid) : c.ownTile e nid = none := by
  unfold Core.ownTile
  cases hseen : c.tileSeen e with
  | none => rfl
  | some y =>
    have : ¬ (y.st = .present ∧ y.nid = nid) := fun hy => (h y hseen).elim (absurd hy.1) (absurd hy.2)
    simpa using this

/-- What the program sees departs; the entry itself only where no commit has changed it meanwhile. -/
theorem departs_of_seen (hseen : c.tileSeen e = some y) (f : FutAt) :
    let gone : Tile := { y with st := .departing, leave := some f }
    c.departs e f = { c with
      tiles := if Tab.look c.tiles e = some y then Tab.put c.tiles e gone else c.tiles
      oldTiles := if (Tab.look c.oldTiles e).isSome then Tab.put c.oldTiles e gone else c.oldTiles } := by
  simp only [Core.departs, hseen, Core.tile?, beq_iff_eq]

end

/-! ### What a new handle in the port leaves as it was -/

section
variable (s : State) (w1 : Warp) (u : Un) (h : W64) (old : Tab W64) (ten x n p : Nat) (r : BitVec 256)

theorem setMe_engineResult : s.setMe (w1.engineResult s.now u h) = withHandle s w1 u h := rfl

theorem core_withHandle : (withHandle s w1 u h).core n = s.core n := rfl

theorem walk_withHandle (node : Nat) : (withHandle s w1 u h).walk old ten x node n = s.walk old ten x node n := by
  induction n generalizing node with
  | zero => rfl
  | succ n ih =>
    simp only [State.walk, ih]
    rfl

theorem walkStop_withHandle (node : Nat) : (withHandle s w1 u h).walkStop old ten x node n = s.walkStop old ten x node n := by
  induction n generalizing node with
  | zero => rfl
  | succ n ih =>
    simp only [State.walkStop, ih]
    rfl

theorem walkBad_withHandle : (withHandle s w1 u h).walkBad old ten r p = s.walkBad old ten r p := by
  simp only [State.walkBad, walkStop_withHandle]

theorem pinnedByte_withHandle (core : Nat) : (withHandle s w1 u h).pinnedByte old core ten r p = s.pinnedByte old core ten r p := by
  simp only [State.pinnedByte, State.translate, walk_withHandle]
  rfl

theorem pinnedBad_withHandle (core : Nat) (owner : Option (Nat × Nat)) :
    (withHandle s w1 u h).pinnedBad old core ten r p n owner = s.pinnedBad old core ten r p n owner := by
  simp only [State.pinnedBad, pinnedByte_withHandle]
  rfl

end

section
variable {s : State} {w w1 : Warp} {x : W64} {k e : Nat} {h : W64} {f : FutAt}

theorem newFuture_withCtx {n : Nat} (hnew : w.newFuture n = some (w1, h, f)) : w1 = withCtx w w1.ctx := by
  unfold Warp.newFuture at hnew
  split at hnew <;> cases hnew
  rfl

theorem newFuture_responder {n : Nat} (hnew : w.newFuture n = some (w1, h, f)) : w1.responder = w.responder := by
  rw [newFuture_withCtx hnew]
  rfl

theorem newFuture_nid {n : Nat} (hnew : w.newFuture n = some (w1, h, f)) : w1.nid = w.nid := by
  rw [newFuture_withCtx hnew]
  rfl

/-- The first warp of a number in a table, with its place. -/
def firstOf (n : Nat) (l : Tab Warp) : Option (WarpAt × Warp) := (l.map fun (k, w) => (⟨k / 16, k % 16⟩, w)).find? fun (_, w) => w.wid == n

theorem findWid_eq_firstOf (s : State) (n : Nat) : s.findWid n = firstOf n s.warps := rfl

theorem firstOf_cons (n k : Nat) (v : Warp) (l : Tab Warp) :
    firstOf n ((k, v) :: l) = if v.wid = n then some (⟨k / 16, k % 16⟩, v) else firstOf n l := by
  by_cases hv : v.wid = n <;> simp [firstOf, hv]

theorem slot_of_firstOf {n : Nat} {l : Tab Warp} {b : WarpAt} (hat : (firstOf n l).map Prod.fst = some b) : b.slot < 16 := by
  obtain ⟨⟨a, w⟩, hfind, rfl⟩ := Option.map_eq_some_iff.mp hat
  obtain ⟨⟨k, v⟩, -, hk⟩ := List.mem_map.mp (List.mem_of_find?_eq_some hfind)
  cases hk
  exact Nat.mod_lt _ (by decide)

theorem warpKey_place {b : WarpAt} (hslot : b.slot < 16) : (⟨warpKey b / 16, warpKey b % 16⟩ : WarpAt) = b := by
  obtain ⟨c, j⟩ := b
  simp only [warpKey, WarpAt.mk.injEq] at hslot ⊢
  omega

/-- The first warp of a number is found again in its place when it is set to another state of the warp. -/
theorem firstOf_put {l : Tab Warp} {n : Nat} {b : WarpAt} {v : Warp} (hv : v.wid = n) (hat : (firstOf n l).map Prod.fst = some b) :
    firstOf n (Tab.put l (warpKey b) v) = some (b, v) := by
  have hplace := warpKey_place (slot_of_firstOf hat)
  induction l with
  | nil => simp [firstOf] at hat
  | cons z r ih =>
    obtain ⟨k, y⟩ := z
    rw [firstOf_cons] at hat
    simp only [Tab.put]
    split
    · rw [firstOf_cons, if_pos hv, hplace]
    · rename_i hk
      split
      · rw [firstOf_cons, if_pos hv, hplace]
      · have hy : ¬ y.wid = n := by
          intro hy
          rw [if_pos hy, Option.map_some, Option.some.injEq] at hat
          apply hk
          simp only [← hat, warpKey]
          omega
        rw [if_neg hy] at hat
        rw [firstOf_cons, if_neg hy]
        exact ih hat

theorem findWid_withHandle {u : Un} {n : Nat} (hwid : w1.wid = n) (hat : (s.findWid n).map Prod.fst = some s.cur) :
    (withHandle s w1 u h).findWid n = some (s.cur, withResult w1 s.now u h) := firstOf_put hwid hat

/-! ### Insertions (R194) -/

/-- The operands of an insertion that the unit does not refuse. -/
def TileOk (x key : W64) (len : Nat) : Prop := key.toNat < 2 ^ 48 ∧ len % 256 = 0 ∧ 256 ≤ len ∧ len ≤ 2 ^ 22 ∧ x.toNat % 32 = 0

/-- The unit's test of the operands, with its key, length and address (R194). -/
def tileRefused (x key : W64) (len : Nat) : Bool :=
  fld key 63 48 != 0 || len % 256 != 0 || len < 256 || len > 2 ^ 22 || x.toNat % 32 != 0

theorem tileRefused_iff (x key : W64) (len : Nat) : tileRefused x key len = true ↔ ¬ TileOk x key len := by
  have hkey : fld key 63 48 = 0 ↔ key.toNat < 2 ^ 48 := by
    have := key.isLt
    simp only [fld]
    omega
  simp only [tileRefused, TileOk, ← hkey, Bool.or_eq_true, bne_iff_ne, ne_eq, decide_eq_true_eq]
  omega

/-- What a `tins` with its buffer in place comes to, once its handle `s` stands, where `free` is the lowest entry that may be taken. -/
def insertTile (s : State) (w : Warp) (t : MTrig) (x key : W64) (len : Nat) (f : FutAt) (free : Option Nat) : State :=
  if tileRefused x key len then s.arriveFut s.cur.core f (refusal 1)
  else match free with
    | none => s.arriveFut s.cur.core f (refusal 2)
    | some e => (s.updCore s.cur.core fun c => { c with tiles := Tab.put c.tiles e (newTile s w t x key len f) }).send .request s.cur.core 512
        (.censusOrder (.insert s.cur.core e f))

theorem ofNat_fld_55 (x : W64) : BitVec.ofNat 64 (fld x 55 0) = (x.setWidth 56).setWidth 64 := by
  apply BitVec.eq_of_toNat_eq
  simp [fld]

section
variable {t : MTrig} (hE : Engine s w t.mv x k) (hnew : w.newFuture 24 = some (w1, h, f)) (hresp : w.responder = none)
  (hplace : s.pinnedBad (s.mapping s.cur.core) s.cur.core (s.tenOf w.nid) ((s.core s.cur.core).segs.getD t.buf.toNat 0) (opb w .so).toNat
    (opc w .so).toNat (some (w.nid, s.homeKey w)) = none)
include hE hnew hresp hplace

theorem exec_tins : exec (.tins t) s =
    .next (fin (insertTile (withHandle s w1 .so h) w t x (opa w .so) (opc w .so).toNat f (s.core s.cur.core).entryFree)) := by
  have hcode : Un.so.code = 24 := rfl
  simp only [opb, opc] at hplace
  change execTins t s = _
  refine hE.issue ?_
  rw [hE.engineTrig]
  simp only [hcode, hnew, hresp, Option.isSome_none, Bool.false_eq_true, if_false, opB, opC, hplace, ofNat_fld_55, setMe_engineResult,
    core_withHandle]
  unfold insertTile
  by_cases hbad : tileRefused x (opa w .so) (opc w .so).toNat = true
  · rw [if_pos hbad]
    exact if_pos hbad
  · rw [if_neg hbad]
    refine (if_neg hbad).trans ?_
    cases (s.core s.cur.core).entryFree <;> rfl

theorem exec_tins_refused (hbad : ¬ TileOk x (opa w .so) (opc w .so).toNat) :
    exec (.tins t) s = .next (fin ((withHandle s w1 .so h).arriveFut s.cur.core f (refusedWith 1))) := by
  rw [exec_tins hE hnew hresp hplace, insertTile.eq_def, if_pos ((tileRefused_iff ..).mpr hbad)]
  rfl

variable (hgood : TileOk x (opa w .so) (opc w .so).toNat)
include hgood

theorem exec_tins_full (hfull : ∀ j, j < 128 → ¬ vacant (s.core s.cur.core) j) :
    exec (.tins t) s = .next (fin ((withHandle s w1 .so h).arriveFut s.cur.core f (refusedWith 2))) := by
  rw [exec_tins hE hnew hresp hplace, insertTile.eq_def, if_neg fun hbad => (tileRefused_iff ..).mp hbad hgood, entryFree_of_full hfull]
  rfl

theorem exec_tins_pends (hfree : (s.core s.cur.core).entryFree = some e) :
    let c := s.core s.cur.core
    exec (.tins t) s = .next { withHandle s w1 .so h with
      cores := Tab.put s.cores s.cur.core { c with tiles := Tab.put c.tiles e (newTile s w t x (opa w .so) (opc w .so).toNat f) }
      flight := s.flight ++ [⟨.request, s.cur.core, 512, .censusOrder (.insert s.cur.core e f)⟩], verdict := .done } := by
  rw [exec_tins hE hnew hresp hplace, insertTile.eq_def, if_neg fun hbad => (tileRefused_iff ..).mp hbad hgood, hfree]
  rfl

end

/-! ### Deletions (R195) -/

/-- What a `tdel` comes to, once its handle `s` stands, where `own` is the launch's present tile in the entry. -/
def deleteTile (s : State) (x : W64) (f : FutAt) (responds : Bool) (own : Option Tile) : State :=
  if responds then s.arriveFut s.cur.core f (refusal 4)
  else match own with
    | none => s.arriveFut s.cur.core f (refusal 3)
    | some _ => (s.updCore s.cur.core fun c => c.departs x.toNat f).send .request s.cur.core 512 (.censusOrder (.delete s.cur.core x.toNat f))

theorem exec_tdel {m : Mv} (hE : Engine s w m x k) (hnew : w.newFuture 24 = some (w1, h, f)) : exec (.tdel m) s =
    .next (fin (deleteTile (withHandle s w1 .so h) x f w.responder.isSome ((s.core s.cur.core).ownTile x.toNat w.nid))) := by
  change execTdel m s = _
  refine hE.issue ?_
  rw [hE.engineTrig, Engine.withFuture (u := .so) hnew, ← newFuture_responder hnew, ← newFuture_nid hnew]
  rfl

/-! ### Moves (R196) -/

/-- The walk read in no window that a destination of a move meets (01 R20). -/
def moveWalk (s : State) (ten : Nat) (r : BitVec 256) (pos len : Nat) : Option Nat :=
  if brVal r then ((blockHeads pos len).filter fun q => decide (q < brExtent r)).findSome? fun q =>
    s.walkBad (s.mapping s.cur.core) ten r (swizzle r q) else none

/-- Is the move's destination outside the launch, or its buffer not in place there (R198)? -/
def moveRefused (s : State) (w : Warp) (d : Nat) (r : BitVec 256) (y : Tile) : Bool :=
  !s.launchCore w.nid d || (s.pinnedBad (s.mapping s.cur.core) d (s.tenOf w.nid) r (opb w .so).toNat (y.len * 256) none).isSome

/-- The record of a move that goes on (R196). -/
def newMove (s : State) (w : Warp) (t : MTrig) (x : W64) (e : Nat) (f : FutAt) : TMove :=
  { fut := f, core := s.cur.core, entry := x.toNat, dcore := (opa w .so).toNat, dentry := e
    dbuf := (s.core s.cur.core).segs.getD t.buf.toNat 0, dnum := t.buf.toNat, dpos := (opb w .so).toNat
    waits := s.owedFrom s.cur.core x.toNat, behind := s.writesOf s.cur.core w.wid }

/-- A move that goes on, once its handle stands: the source departs, the destination arrives, the move is recorded (R196). -/
def recordMove (s : State) (w : Warp) (t : MTrig) (x : W64) (e : Nat) (y : Tile) (f : FutAt) : State :=
  let s1 := (s.updCore s.cur.core fun c => c.departs x.toNat f).updCore (opa w .so).toNat fun c =>
    { c with tiles := Tab.put c.tiles e { y with st := .arriving, tbuf := t.buf.toNat, tpos := (opb w .so).toNat, fut := f, leave := none } }
  { s1 with nextMove := s.nextMove + 1, tmoves := Tab.put s.tmoves s.nextMove (newMove s w t x e f) }

/-- With no responder to wait for, its copy waits for an admission of the warp. -/
def startsMove (s : State) (w : Warp) (t : MTrig) (x : W64) (e : Nat) (y : Tile) (f : FutAt) : State :=
  if (s.owedFrom s.cur.core x.toNat).isEmpty then (recordMove s w t x e y f).arrive s.cur.core w.wid (.tmoveCopy s.nextMove)
  else recordMove s w t x e y f

theorem exec_tmove {t : MTrig} {y : Tile} (hE : Engine s w t.mv x k) (hnew : w.newFuture 24 = some (w1, h, f))
    (hresp : w.responder = none) (hlanded : s.writesLanded s.cur.core w.wid = true) (hd : (opa w .so).toNat < 256)
    (hfree : (s.core (opa w .so).toNat).entryFree = some e) (hown : (s.core s.cur.core).ownTile x.toNat w.nid = some y) :
    let r := (s.core s.cur.core).segs.getD t.buf.toNat 0
    let s1 := withHandle s w1 .so h
    exec (.tmove t) s = .next (fin (if moveRefused s w (opa w .so).toNat r y
      then ((moveWalk s (s.tenOf w.nid) r (opb w .so).toNat (y.len * 256)).elim s1 s1.logWalk).arriveFut s.cur.core f (refusal 5)
      else startsMove s1 w t x e y f)) := by
  intro r s1
  change execTmove t s = _
  refine hE.issue ?_
  have hnid : (withResult w1 s.now .so h).nid = w.nid := (newFuture_nid hnew : w1.nid = w.nid)
  have hwid : (withResult w1 s.now .so h).wid = w.wid := (newFuture_wid hnew : w1.wid = w.wid)
  have hresp1 : ¬ (withResult w1 s.now .so h).responder.isSome = true := by
    rw [show (withResult w1 s.now .so h).responder = none from (newFuture_responder hnew).trans hresp]
    exact Bool.false_ne_true
  have hfree1 : (s1.core (opA (w.ctx.port .so))).entryFree = some e := hfree
  have hown1 : (s1.core s1.cur.core).ownTile x.toNat w.nid = some y := hown
  have hd1 : opA (w.ctx.port .so) < 256 := hd
  rw [hE.engineTrig, hlanded, if_neg (by simp), Engine.withFuture (u := .so) hnew, hnid, hwid]
  refine congrArg Act.next ((if_neg hresp1).trans ?_)
  rw [if_pos hd1, hfree1, hown1]
  have hbad : (!s1.launchCore w.nid (opa w .so).toNat || (s1.pinnedBad (s1.mapping s1.cur.core) (opa w .so).toNat (s1.tenOf w.nid) r
      (opb w .so).toNat (y.len * 256) none).isSome) = moveRefused s w (opa w .so).toNat r y := by
    rw [pinnedBad_withHandle]
    rfl
  have hwalk : moveWalk s1 (s.tenOf w.nid) r (opb w .so).toNat (y.len * 256) = moveWalk s (s.tenOf w.nid) r (opb w .so).toNat (y.len * 256) := by
    simp only [moveWalk, s1, walkBad_withHandle]
    rfl
  by_cases hcond : moveRefused s w (opa w .so).toNat r y = true
  · rw [if_pos hcond, ← hwalk]
    exact if_pos (hbad.trans hcond)
  · rw [if_neg hcond]
    exact if_neg (hbad.symm ▸ hcond)

/-! ### What a move that goes on leaves as it was, and where its copy waits -/

/-- What changes neither the slices nor the memory leaves every byte of the home copy. -/
theorem homeByte_congr {t : State} (hslices : t.slices = s.slices) (hmem : t.mem = s.mem) (a : Nat) : t.homeByte a = s.homeByte a := by
  simp only [State.homeByte, State.slice, hslices, hmem]

/-- What changes none of the parts that a trigger leaves, but the warps. -/
theorem frame_of_same {t : State} (hslices : t.slices = s.slices) (hmem : t.mem = s.mem) (hdies : t.dies = s.dies) (hobjs : t.objs = s.objs)
    (hdir : t.dir = s.dir) (hmails : t.mails = s.mails) : Frame s (fin t) t.warps where
  done := rfl
  warps := rfl
  home := fun a _ => homeByte_congr hslices hmem a
  pools := fun n => by simp only [State.slice, fin, hslices]
  dies := hdies
  objs := hobjs
  dir := hdir
  mails := hmails

theorem recordMove_eq (s : State) (w : Warp) (t : MTrig) (x : W64) (e : Nat) (y : Tile) (f : FutAt) : recordMove s w t x e y f =
    { s with cores := (recordMove s w t x e y f).cores, nextMove := s.nextMove + 1
             tmoves := Tab.put s.tmoves s.nextMove (newMove s w t x e f) } := rfl

/-- A move that goes on changes cores, clusters, the saved groups and the moves. -/
theorem startsMove_eq (s : State) (w : Warp) (t : MTrig) (x : W64) (e : Nat) (y : Tile) (f : FutAt) : ∃ cores clusters saved,
    startsMove s w t x e y f = { s with cores := cores, clusters := clusters, saved := saved, nextMove := s.nextMove + 1
                                        tmoves := Tab.put s.tmoves s.nextMove (newMove s w t x e f) } := by
  unfold startsMove
  split
  · rw [arrive_frame, recordMove_eq]
    exact ⟨_, _, _, rfl⟩
  · rw [recordMove_eq]
    exact ⟨_, _, _, rfl⟩

theorem frame_startsMove {t : MTrig} {y : Tile} {w' : Warp} :
    Frame s (fin (startsMove (withHandle s w1 .so h) w' t x e y f)) (withHandle s w1 .so h).warps := by
  obtain ⟨cores, clusters, saved, heq⟩ := startsMove_eq (withHandle s w1 .so h) w' t x e y f
  rw [heq]
  exact frame_of_same rfl rfl rfl rfl rfl rfl

theorem startsMove_recorded {s : State} {t : MTrig} {y : Tile} : (startsMove s w t x e y f).nextMove = s.nextMove + 1 ∧
    Tab.look (startsMove s w t x e y f).tmoves s.nextMove = some (newMove s w t x e f) := by
  obtain ⟨cores, clusters, saved, heq⟩ := startsMove_eq s w t x e y f
  rw [heq]
  exact ⟨rfl, Tab.look_put_self ..⟩

/-- The copy of a move that waits for no responder waits in the cluster of its warp. -/
theorem startsMove_arrived {s : State} {t : MTrig} {y : Tile} {a : WarpAt} {v : Warp} (howed : s.owedFrom s.cur.core x.toNat = [])
    (hfind : s.findWid w.wid = some (a, v)) :
    ∃ l, ((startsMove s w t x e y f).cluster (a.core / 4)).arrived = l ++ [(w.wid, .tmoveCopy s.nextMove)] := by
  have hfind1 : (recordMove s w t x e y f).findWid w.wid = some (a, v) := hfind
  rw [startsMove, howed, if_pos List.isEmpty_nil, arrive_live _ _ hfind1, State.updCluster, clusterOf, State.cluster_putCluster, if_pos rfl]
  exact ⟨_, rfl⟩

/-- A walk read that a destination meets is one of a position of the record. -/
theorem walkBad_of_moveWalk {ten pos len pa : Nat} {r : BitVec 256} (hwalk : moveWalk s ten r pos len = some pa) :
    ∃ q, s.walkBad (s.mapping s.cur.core) ten r q ≠ none := by
  unfold moveWalk at hwalk
  split at hwalk
  · obtain ⟨q, -, hq⟩ := List.exists_of_findSome?_eq_some hwalk
    exact ⟨_, by rw [hq]; exact Option.some_ne_none _⟩
  · cases hwalk

theorem logWalk_elim (s : State) (o : Option Nat) : ∃ log, (log ≠ s.errLog → o ≠ none) ∧ o.elim s s.logWalk = { s with errLog := log } := by
  cases o with
  | none => exact ⟨s.errLog, fun hne => absurd rfl hne, rfl⟩
  | some pa => exact ⟨_, fun _ => Option.some_ne_none _, rfl⟩

end

/-- Settles O33: an insertion comes to what its operands and the lowest vacant entry say, a deletion to what the entry's present tile says, and a move to
what its destination says. -/
theorem tiles : Obligations.Tiles := by
  refine ⟨?tins, ?tdel, ?tmove⟩
  case tins =>
    intro t s w w1 x k e h f hE hnew c key len s1 hresp hplace good
    refine ⟨exec_tins_refused hE hnew hresp hplace, exec_tins_full hE hnew hresp hplace, fun hgood he hv hbelow =>
      exec_tins_pends hE hnew hresp hplace hgood (entryFree_of_vacant he hv hbelow)⟩
  case tdel =>
    intro m s w w1 x k h f hE hnew c s1
    rw [exec_tdel hE hnew]
    refine ⟨fun hresp => ?_, fun hresp hforeign => ?_, fun y hresp hseen hst hnid => ?_⟩
    · rw [Option.isSome_iff_ne_none.mpr hresp]
      rfl
    · rw [ownTile_of_foreign hforeign, hresp]
      rfl
    · rw [ownTile_of_seen hseen hst hnid, hresp]
      change Host.Outcome.next (fin (((s1.putCore s.cur.core (c.departs x.toNat f)).send ..))) = _
      rw [departs_of_seen hseen]
      rfl
  case tmove =>
    intro t s w w1 x k e h f y hE hnew c d r s1 hresp hlanded hd he hv hbelow hseen hst hnid
    have hexec := exec_tmove hE hnew hresp hlanded hd (entryFree_of_vacant he hv hbelow) (ownTile_of_seen hseen hst hnid)
    refine ⟨fun hbad => ?_, fun hlaunch hplace => ?_⟩
    · have hrefused : moveRefused s w d r y = true := by
        rcases hbad with hbad | hbad
        · simp [moveRefused, hbad]
        · rw [moveRefused, hbad, Bool.or_true]
      obtain ⟨log, hlog, helim⟩ := logWalk_elim s1 (moveWalk s (s.tenOf w.nid) r (opb w .so).toNat (y.len * 256))
      refine ⟨log, fun hne => ?_, ?_⟩
      · obtain ⟨pa, hpa⟩ := Option.ne_none_iff_exists'.mp (hlog hne)
        exact walkBad_of_moveWalk hpa
      · rw [hexec, if_pos hrefused, helim]
        rfl
    · have hok : ¬ moveRefused s w d r y = true := by simpa [moveRefused, hlaunch] using hplace
      rw [hexec, if_neg hok]
      refine ⟨_, rfl, frame_startsMove, startsMove_recorded.1, startsMove_recorded.2, fun howed hat => ?_⟩
      exact startsMove_arrived howed (findWid_withHandle (newFuture_wid hnew) hat)

end Sys2Proof.Rules
end

section
/-! The statement on solicits and replies (08_solicit_and_census R199, R203): the release that a reply begins goes on with the core's earlier releases, and
where the table of the core's L1 names a line twice, an acquire among them uncovers the second entry, whose dirty bytes the reply then writes back. -/

namespace Sys2Proof.Rules

open Sys2Proof.Machine

/-- A responder that replies to the device. -/
def replier : Warp := { wid := 1, nid := 0, die := 0, clus := 0, warp := 0, responder := some ⟨0, 1, 0, 1, 1024⟩ }

/-- An acquire at work, its write-backs done. -/
def acquiring : Rel :=
  { wid := 2, nid := 0, recs := none, scope := .dev, ops := [], lands := [], after := 0, wb := false, acq := true, act := .done ⟨2, 0, 1⟩ }

/-- An L1 whose table names line 0 twice: as a line of a non-coherent page, and as one of a coherent page whose byte 0 is 1 and dirty. -/
def twiceHeld : Tab L1Line :=
  [(0, ⟨0, .non, .normal, [], [], false⟩), (0, ⟨1, .device, .normal, [{ val := true, dty := true, own := true, tok := 512 }], [1], false⟩)]

def replying : State := { State.reset with warps := [(0, replier)], cores := [(0, { l1 := twiceHeld, rels := [acquiring] })] }

/-- `sreply` of 0, in every lane. -/
def replyMove : Mv := ⟨⟨false, 0⟩, .imm 0⟩

theorem replying_engine : Engine replying replier replyMove 0 0 :=
  ⟨0xFFFFFFFF, splat 0, ⟨rfl, rfl, rfl⟩, ⟨by decide, by decide, fun _ hj => absurd hj (Nat.not_lt_zero _)⟩, rfl⟩

/-- Byte 0 of the home copy after an instruction. -/
def homeByteAfter (i : Instr) (s : State) : Option Byte := match exec i s with
  | .next t => some (t.homeByte 0)
  | _ => none

theorem homeByteAfter_next {i : Instr} {s t : State} (h : exec i s = .next t) : homeByteAfter i s = some (t.homeByte 0) := by
  simp [homeByteAfter, h]

theorem homeByteAfter_reply : homeByteAfter (.sreply replyMove) replying = some 1 := by decide +kernel

theorem homeByte_replying : replying.homeByte 0 = 0 := by decide +kernel

/-- The entry that is found for the line is not coherent. -/
theorem notOwn_replying : notOwn replying 0 := by
  intro l hl
  cases hl
  rfl

/-- Refutes O32: the frame of a reply does not ask that the L1's table name each line once. Where it names line 0 twice, an acquire at work takes out the
first entry, which is not coherent, and the reply's release writes the second one's byte home. -/
theorem not_solicits : ¬ Obligations.Solicits := by
  rintro ⟨-, hreply⟩
  obtain ⟨-, hresponder⟩ := hreply replyMove replying replier 0 0 replying_engine
  obtain ⟨t, hexec, hframe⟩ := hresponder (by decide)
  have hkept : t.homeByte 0 = 0 := (hframe.home 0 notOwn_replying).trans homeByte_replying
  have hwritten := (homeByteAfter_next hexec).symm.trans homeByteAfter_reply
  rw [hkept] at hwritten
  exact absurd hwritten (by decide)

end Sys2Proof.Rules
end

section
/-! The census network (08_solicit_and_census R192 to R197, R200, R203 to R205): keys at the cores, the root's order, commits, moves, replies, the combining
tree, and the statement on them. -/

namespace Sys2Proof.Machine

section
variable {s : State} {core cen e id : Nat} {f : FutAt}

/-! ### What the steps of the network do with their events -/

theorem exec_keyArrival (h : s.ev = some (.keyArrival core cen)) : exec .keyArrival s = .next (s.keyComes core cen) := by
  change execKeyArrival s = _
  simp only [execKeyArrival, h]

theorem exec_censusOrder {it : CensusItem} (h : s.ev = some (.censusOrder it)) : exec .censusOrder s = .next (s.order it) := by
  change execCensusOrder s = _
  simp only [execCensusOrder, h]

theorem exec_insertCommit (h : s.ev = some (.insertCommit core e f)) : exec .insertCommit s = .next (s.inserted core e f) := by
  change execInsertCommit s = _
  simp only [execInsertCommit, h]

theorem exec_deleteCommit (h : s.ev = some (.deleteCommit core e f)) : exec .deleteCommit s = .next (s.deleted core e f) := by
  change execDeleteCommit s = _
  simp only [execDeleteCommit, h]

theorem exec_dropCommit (h : s.ev = some (.dropCommit core e f)) : exec .dropCommit s = .next (s.dropped core e f) := by
  change execDropCommit s = _
  simp only [execDropCommit, h]

theorem exec_tmoveCopy (h : s.ev = some (.tmoveCopy id)) : exec .tmoveCopy s = .next (s.startMove id) := by
  change execTmoveCopy s = _
  simp only [execTmoveCopy, h]

theorem exec_moveCommit (h : s.ev = some (.moveCommit id)) : exec .moveCommit s = .next (s.moved id) := by
  change execMoveCommit s = _
  simp only [execMoveCommit, h]

theorem exec_reply {v : Option W64} (h : s.ev = some (.reply cen core e v)) : exec .reply s = .next (s.replied cen core e v) := by
  change execReply s = _
  simp only [execReply, h]

theorem exec_censusCompletion (h : s.ev = some (.censusCompletion cen)) : exec .censusCompletion s = .next (s.completeCensus cen) := by
  change execCensusCompletion s = _
  simp only [execCensusCompletion, h]

/-! ### The end of a census is looked for (R205) -/

theorem Census.done_iff (c : Census) : c.done = true ↔ c.unheard = [] ∧ c.owed = [] := by
  simp [Census.done, List.isEmpty_iff]

theorem State.censusCheck_done {c : Census} (h : Tab.look s.censuses cen = some c) (hdone : c.unheard = [] ∧ c.owed = []) :
    s.censusCheck cen = s.send .request 512 512 (.censusCompletion cen) := by
  simp only [State.censusCheck, h, (c.done_iff).mpr hdone, if_true]
  rfl

theorem State.censusCheck_open {c : Census} (h : Tab.look s.censuses cen = some c) (hopen : ¬ (c.unheard = [] ∧ c.owed = [])) :
    s.censusCheck cen = s := by
  simp only [State.censusCheck, h, if_neg ((c.done_iff).not.mpr hopen)]

theorem State.censusCheck_eq (s : State) (cen : Nat) : ∃ l, s.censusCheck cen = { s with flight := s.flight ++ l } := by
  unfold State.censusCheck
  split
  · split
    · exact ⟨_, rfl⟩
    · exact ⟨[], by rw [List.append_nil]⟩
  · exact ⟨[], by rw [List.append_nil]⟩

/-! ### A key at a core (R200, R201) -/

theorem State.censusHeld_of_open (h : Rules.openTo s core) : s.censusHeld core = false := by
  obtain ⟨hdie, hroom, hparked⟩ := h
  simp only [State.censusHeld, Bool.or_eq_false_iff, decide_eq_false_iff_not, List.any_eq_false, Bool.and_eq_true, beq_iff_eq]
  refine ⟨⟨hdie, Nat.not_le.mpr hroom⟩, fun f hf => ?_⟩
  rcases hparked f hf with h | h
  · exact fun hboth => h hboth.1
  · simp [h]

/-- Responders that are to start wait for an admission, where a warp lives in the cluster. -/
def State.spawnsWait (s : State) (core : Nat) (idle : Bool) : State :=
  if idle then s
  else if (s.liveIn (clusterOf core)).isEmpty then s.later [.spawn core true]
  else s.updCluster (clusterOf core) fun c => { c with arrived := c.arrived ++ [(0, .spawn core true)] }

theorem State.spawnsWait_eq (s : State) (core : Nat) (idle : Bool) :
    ∃ agenda clusters, s.spawnsWait core idle = { s with agenda := agenda, clusters := clusters } := by
  unfold State.spawnsWait
  split
  · exact ⟨_, _, rfl⟩
  · split <;> exact ⟨_, _, rfl⟩

/-- A key at a core whose matching tiles all stand in living groups. -/
theorem State.keyComes_of {x : Census} (hx : Tab.look s.censuses cen = some x) (hopen : Rules.openTo s core)
    (hlive : ∀ y, y ∈ (s.core core).matching x → y.2.orphan = false ∧ s.groupEnded y.2.nid y.2.grp = false) :
    let ms := (s.core core).matching x
    let x' : Census := { x with unheard := x.unheard.filter fun k => k != core, owed := x.owed ++ ms.map fun y => (core, y.1) }
    let c : Core := { s.core core with spawns := (s.core core).spawns ++ ms.map fun y => ⟨cen, y.1, y.2, false⟩ }
    ∃ agenda clusters flight, s.keyComes core cen = { s with
      censuses := Tab.put s.censuses cen x', cores := Tab.put s.cores core c, agenda := agenda, clusters := clusters, flight := flight } := by
  intro ms x' c
  have hpart : ms.partition (fun y => y.2.orphan || s.groupEnded y.2.nid y.2.grp) = ([], ms) := by
    rw [List.partition_eq_filter_filter, Prod.mk.injEq]
    refine ⟨List.filter_eq_nil_iff.mpr fun y hy => ?_, List.filter_eq_self.mpr fun y hy => ?_⟩ <;> simp [hlive y hy]
  let s2 := State.putCore { s with censuses := Tab.put s.censuses cen x' } core c
  obtain ⟨agenda, clusters, hwait⟩ := State.spawnsWait_eq s2 core ms.isEmpty
  obtain ⟨l, hcheck⟩ := State.censusCheck_eq (s2.spawnsWait core ms.isEmpty) cen
  unfold State.keyComes
  simp only [hx, State.censusHeld_of_open hopen, Bool.false_eq_true, if_false]
  rw [show ((s.core core).matching x).partition (fun y => y.2.orphan || s.groupEnded y.2.nid y.2.grp) = ([], ms) from hpart]
  simp only [List.map_nil, List.append_nil]
  change ∃ agenda clusters flight, (s2.spawnsWait core ms.isEmpty).censusCheck cen = _
  rw [hcheck, hwait]
  exact ⟨_, _, _, rfl⟩

/-! ### A solicit is opened (R193, R199) -/

/-- Keys are sent to some cores. -/
theorem State.foldl_toCore (s : State) (l : List Nat) (id : Nat) :
    l.foldl (fun s k => s.toCore k (.keyArrival k id)) s = { s with flight := s.flight ++ l.map fun k => Rules.fromBase k (.keyArrival k id) } := by
  induction l generalizing s with
  | nil => simp
  | cons k l ih =>
    rw [List.foldl_cons, ih]
    simp [State.toCore, State.send, Rules.fromBase, basePort]

theorem State.mem_inScope (s : State) (adie scope c : Nat) : c ∈ s.inScope adie scope ↔
    c < 256 ∧ (scope ≠ 0 ∨ c / 16 = adie) ∧ (s.die (c / 16)).powered = true ∧ (s.die (c / 16)).dead = false := by
  simp [State.inScope, dieOf, and_assoc]

/-- The census that a solicit opens. -/
def newCensus (s : State) (f : FutAt) (key : BitVec 48) (arg : W64) (scope cmb core slot ten : Nat) (at_ : List Nat) (stopped : Bool) : Census :=
  { num := BitVec.ofNat 24 s.nextCensus, fut := f, asker := ⟨core, slot⟩, adie := core / 16, ten := ten, key := key, arg := arg, scope := scope
    cmb := cmb, core := core, at_ := at_, unheard := s.inScope (core / 16) scope, owed := [], replies := [], cancelled := stopped }

theorem State.openCensus_solicit {key : BitVec 48} {arg : W64} {scope cmb slot ten : Nat} {at_ : List Nat} {stopped : Bool}
    (hroom : s.censuses.length < 4096) :
    let x := newCensus s f key arg scope cmb core slot ten at_ stopped
    ∃ l, s.openCensus (.solicit f key arg scope cmb core slot ten at_ stopped) = { s with
      nextCensus := s.nextCensus + 1, censuses := Tab.put s.censuses s.nextCensus x
      flight := s.flight ++ (x.unheard.map fun k => Rules.fromBase k (.keyArrival k s.nextCensus)) ++ l } := by
  intro x
  unfold State.openCensus
  dsimp only
  rw [if_neg (Nat.not_le.mpr hroom), State.foldl_toCore]
  obtain ⟨l, hcheck⟩ := State.censusCheck_eq ({ s with
    nextCensus := s.nextCensus + 1, censuses := Tab.put s.censuses s.nextCensus x
    flight := s.flight ++ (x.unheard.map fun k => Rules.fromBase k (.keyArrival k s.nextCensus)) }) s.nextCensus
  exact ⟨l, hcheck⟩

/-! ### Commits (R192, R194, R195) -/

theorem State.putCore_putCore (s : State) (n : Nat) (a b : Core) : (s.putCore n a).putCore n b = s.putCore n b := by
  simp only [State.putCore, Tab.put_put_self]

theorem Core.keepTile_of {c : Core} {y : Tile} (hy : Tab.look c.tiles e = some y) :
    c.keepTile e = { c with oldTiles := if (Tab.look c.oldTiles e).isSome then c.oldTiles else Tab.put c.oldTiles e y } := by
  unfold Core.keepTile
  rw [hy]
  cases Tab.look c.oldTiles e <;> rfl

/-- A commit changes an entry of a core, and programs still see it as it was (00 R4). -/
theorem State.keepTile_updCore {y : Tile} (hy : Tab.look (s.core core).tiles e = some y) (g : Core → Core) :
    (s.keepTile core e).updCore core g = s.putCore core (g { s.core core with oldTiles := Rules.seenStill s core e y }) := by
  by_cases hnone : (s.liveIn (core / 4)).isEmpty = true
  · have hseen : Rules.seenStill s core e y = (s.core core).oldTiles := if_pos (by rw [hnone, Bool.true_or])
    rw [State.keepTile, clusterOf, if_pos hnone, hseen]
    rfl
  · have hseen : Rules.seenStill s core e y = if (Tab.look (s.core core).oldTiles e).isSome then (s.core core).oldTiles
        else Tab.put (s.core core).oldTiles e y := by
      rw [Rules.seenStill, Bool.eq_false_iff.mpr hnone, Bool.false_or]
    rw [State.keepTile, clusterOf, if_neg hnone, hseen, ← Core.keepTile_of hy, State.updCore, State.updCore, State.core_putCore, if_pos rfl,
      State.putCore_putCore]

theorem State.freeTile_of {y : Tile} (hy : Tab.look (s.core core).tiles e = some y) (hleave : y.leave = some f) :
    s.freeTile core e f = s.putCore core { s.core core with tiles := Tab.del (s.core core).tiles e, oldTiles := Rules.seenStill s core e y } := by
  have hmine : (((s.core core).tile? e).any fun t => t.leave == some f) = true := by
    rw [Core.tile?, hy, Option.any_some, hleave, beq_self_eq_true]
  rw [State.freeTile, if_pos hmine, State.keepTile_updCore hy]

theorem State.settleTile_of {y : Tile} (hy : Tab.look (s.core core).tiles e = some y) (hfut : y.fut = f) (horphan : y.orphan = false)
    (hgroup : s.groupEnded y.nid y.grp = false) :
    s.settleTile core e f = s.putCore core { s.core core with
      tiles := (s.core core).tiles.map fun z => (z.1, if z.1 = e then { z.2 with st := .present } else z.2)
      oldTiles := Rules.seenStill s core e y } := by
  have hmine : (y.fut != f || y.orphan) = false := by rw [hfut, horphan, bne_self_eq_false, Bool.or_self]
  unfold State.settleTile
  simp only [Core.tile?, hy, hmine, hgroup, Bool.false_eq_true, if_false, State.setTile]
  exact State.keepTile_updCore hy _

theorem State.inserted_of {y : Tile} (hopen : Rules.openTo s core) (hy : Tab.look (s.core core).tiles e = some y) (hfut : y.fut = f)
    (horphan : y.orphan = false) (hgroup : s.groupEnded y.nid y.grp = false) :
    s.inserted core e f = (s.putCore core { s.core core with
      tiles := (s.core core).tiles.map fun z => (z.1, if z.1 = e then { z.2 with st := .present } else z.2)
      oldTiles := Rules.seenStill s core e y }).arriveFut core f (Rules.entryDone e) := by
  rw [State.inserted, State.censusHeld_of_open hopen, if_neg Bool.false_ne_true, State.settleTile_of hy hfut horphan hgroup]
  rfl

theorem State.deleted_of {y : Tile} (hopen : Rules.openTo s core) (hy : Tab.look (s.core core).tiles e = some y) (hleave : y.leave = some f) :
    s.deleted core e f = (s.putCore core { s.core core with
      tiles := Tab.del (s.core core).tiles e, oldTiles := Rules.seenStill s core e y }).arriveFut core f (Rules.entryDone e) := by
  rw [State.deleted, State.censusHeld_of_open hopen, if_neg Bool.false_ne_true, State.freeTile_of hy hleave]
  rfl

theorem State.dropped_of {y : Tile} (hopen : Rules.openTo s core) (hy : Tab.look (s.core core).tiles e = some y) :
    s.dropped core e f = if (y.fut == f && y.orphan) = true then s.putCore core { s.core core with
      tiles := Tab.del (s.core core).tiles e, oldTiles := Rules.seenStill s core e y } else s := by
  rw [State.dropped, State.censusHeld_of_open hopen, if_neg Bool.false_ne_true, Core.tile?, hy, Option.any_some, State.keepTile_updCore hy]

/-! ### Moves (R196) -/

theorem State.moved_of {m : TMove} {x y : Tile} (hm : Tab.look s.tmoves id = some m) (hne : m.core ≠ m.dcore)
    (hx : Tab.look (s.core m.core).tiles m.entry = some x) (hleave : x.leave = some m.fut) (hy : Tab.look (s.core m.dcore).tiles m.dentry = some y)
    (hfut : y.fut = m.fut) (horphan : y.orphan = false) (hgroup : s.groupEnded y.nid y.grp = false) :
    let c := s.core m.core
    let d := s.core m.dcore
    s.moved id = State.arriveFut { s with
      tmoves := Tab.del s.tmoves id
      cores := Tab.put (Tab.put s.cores m.core { c with tiles := Tab.del c.tiles m.entry, oldTiles := Rules.seenStill s m.core m.entry x }) m.dcore { d with
        tiles := d.tiles.map fun z => (z.1, if z.1 = m.dentry then { z.2 with st := .present } else z.2)
        oldTiles := Rules.seenStill s m.dcore m.dentry y } } m.core m.fut (Rules.entryDone m.dentry) := by
  intro c d
  let s0 : State := { s with tmoves := Tab.del s.tmoves id }
  let s1 : State := s0.putCore m.core { c with tiles := Tab.del c.tiles m.entry, oldTiles := Rules.seenStill s m.core m.entry x }
  have hfree : s0.freeTile m.core m.entry m.fut = s1 := State.freeTile_of (s := s0) hx hleave
  have hd : s1.core m.dcore = d := by rw [State.core_putCore, if_neg hne.symm]; rfl
  have hseen : Rules.seenStill s1 m.dcore m.dentry y = Rules.seenStill s m.dcore m.dentry y := by
    unfold Rules.seenStill
    rw [hd]
    rfl
  have hsettle := State.settleTile_of (s := s1) (by rw [hd]; exact hy) hfut horphan hgroup
  rw [hd, hseen] at hsettle
  unfold State.moved
  rw [hm]
  change State.arriveFut ((s0.freeTile m.core m.entry m.fut).settleTile m.dcore m.dentry m.fut) m.core m.fut (entryStatus m.dentry) = _
  rw [hfree, hsettle]
  rfl

/-- The shape of a tile's copy is one run of its length (04 R101). -/
theorem moveShape_toNat {len soff doff : Nat} (hlen : len < 2 ^ 32) (hsoff : soff < 2 ^ 47) (hdoff : doff < 2 ^ 47) :
    (moveShape len soff doff).toNat = len * 2 ^ 224 + soff * 2 ^ 47 + doff := by
  rw [moveShape, BitVec.toNat_ofNat]
  exact Nat.mod_eq_of_lt (by omega)

theorem shSoff_moveShape {len soff doff : Nat} (hlen : len < 2 ^ 32) (hsoff : soff < 2 ^ 47) (hdoff : doff < 2 ^ 47) :
    shSoff (moveShape len soff doff) = soff := by
  rw [shSoff, fld, moveShape_toNat hlen hsoff hdoff]
  omega

theorem shDoff_moveShape {len soff doff : Nat} (hlen : len < 2 ^ 32) (hsoff : soff < 2 ^ 47) (hdoff : doff < 2 ^ 47) :
    shDoff (moveShape len soff doff) = doff := by
  rw [shDoff, fld, moveShape_toNat hlen hsoff hdoff]
  omega

theorem shBytes_moveShape {len soff doff : Nat} (hlen : len < 2 ^ 32) (hsoff : soff < 2 ^ 47) (hdoff : doff < 2 ^ 47) :
    shBytes (moveShape len soff doff) = len := by
  have hrun : shBnd (moveShape len soff doff) 0 = len := by
    simp only [shBnd, fld, moveShape_toNat hlen hsoff hdoff, gt_iff_lt, Nat.lt_irrefl, false_and, if_false, Nat.mul_zero, Nat.add_zero]
    omega
  have hdim (d : Nat) (hd : 0 < d) : shBnd (moveShape len soff doff) d = 1 := by
    have hlow : (moveShape len soff doff).toNat / 2 ^ (224 + 128 * d) = 0 := by
      rw [moveShape_toNat hlen hsoff hdoff]
      refine Nat.div_eq_of_lt (Nat.lt_of_lt_of_le (m := 2 ^ 256) (by omega) (Nat.pow_le_pow_right (by decide) (by omega)))
    simp only [shBnd, fld, hlow, Nat.zero_mod, hd, true_and, if_true]
  simp only [shBytes, hrun, hdim, Nat.lt_add_one, Nat.zero_lt_succ, Nat.mul_one]

theorem State.startMove_of {m : TMove} {slot : Nat} {y : Tile} (hm : Tab.look s.tmoves id = some m)
    (hslot : Tab.lowestFree (s.core (s.homeOf m.core m.fut)).copies 16 = some slot) (hy : Tab.look (s.core m.core).tiles m.entry = some y)
    (hleave : y.leave = some m.fut) :
    let core := s.homeOf m.core m.fut
    ∃ c : Copy, s.startMove id = (State.updCore { s with tmoves := Tab.put s.tmoves id { m with copying := true } } core fun x =>
        { x with copies := Tab.put x.copies slot c }).send .request core 512 (.copyChunkTranslate core slot) ∧
      c.tmove = some id ∧ c.behind = m.behind ∧ c.paced = false ∧ c.mcast = false ∧ c.shape = moveShape (y.len * 256) y.tpos m.dpos ∧
      c.src = (s.core m.core).segs.getD y.tbuf 0 ∧ c.dst = m.dbuf := by
  intro core
  have htile : (((s.core m.core).tile? m.entry).bind fun t => if t.leave == some m.fut then some t else none) = some y := by
    rw [Core.tile?, hy, Option.bind_some, hleave, beq_self_eq_true, if_pos rfl]
  unfold State.startMove
  simp only [hm, hslot, htile]
  exact ⟨_, rfl, rfl, rfl, rfl, rfl, rfl, rfl, rfl⟩

theorem State.core_send (s : State) (cls : NetClass) (src dst : Nat) (ev : Ev) (n : Nat) : (s.send cls src dst ev).core n = s.core n := rfl

/-! ### Replies (R203) -/

theorem State.moveReplies_none (hnone : s.tmoves = []) : s.moveReplies cen core e = s := by
  rw [State.moveReplies, hnone]
  rfl

theorem State.replied_unowed {x : Census} {v : Option W64} (hx : Tab.look s.censuses cen = some x) (howed : (core, e) ∉ x.owed) :
    s.replied cen core e v = s := by
  simp [State.replied, hx, howed]

theorem State.replied_owed {x : Census} {v : Option W64} (hx : Tab.look s.censuses cen = some x) (howed : (core, e) ∈ x.owed)
    (hnone : s.tmoves = []) :
    let x' : Census := { x with owed := x.owed.filter fun y => y != (core, e), replies := x.replies ++ [(core, e, v)] }
    s.replied cen core e v = State.censusCheck { s with censuses := Tab.put s.censuses cen x' } cen := by
  intro x'
  have hmoves : State.moveReplies { s with censuses := Tab.put s.censuses cen x' } cen core e = { s with censuses := Tab.put s.censuses cen x' } :=
    State.moveReplies_none hnone
  simp only [State.replied, hx, List.contains_iff_mem.mpr howed, Bool.not_true, Bool.false_eq_true, if_false]
  rw [hmoves]

/-! ### The tree (R204) -/

/-- The value that stands for an absent one in a sum. -/
def valueOf (v : Option W64) : W64 := v.getD 0

/-- A node of the sum takes in one child's value. -/
def sumStep : Option W64 → Option W64 → Option W64
  | some x, some y => some (treeOp 5 x y)
  | none, v => v
  | x, none => x

theorem valueOf_sumStep (x y : Option W64) : valueOf (sumStep x y) = valueOf x + valueOf y := by
  cases x <;> cases y <;> simp [sumStep, valueOf, treeOp]

theorem treeNode_sum (l : List (Option W64)) : valueOf (treeNode 5 l) = (l.map valueOf).sum := by
  have hfold (acc : Option W64) : valueOf (l.foldl sumStep acc) = valueOf acc + (l.map valueOf).sum := by
    induction l generalizing acc with
    | nil => simp
    | cons v l ih => rw [List.foldl_cons, ih, valueOf_sumStep, List.map_cons, List.sum_cons, add_assoc]
  have hzero : valueOf none = 0 := rfl
  rw [← zero_add (l.map valueOf).sum, ← hzero, ← hfold none]
  rfl

theorem sum_map_range (n : Nat) (g : Nat → W64) : ((List.range n).map g).sum = ∑ i ∈ Finset.range n, g i := rfl

/-- The sum over the children of a node that stand in ascending order. -/
theorem treeNode_range (n : Nat) (g : Nat → Option W64) : valueOf (treeNode 5 ((List.range n).map g)) = ∑ i ∈ Finset.range n, valueOf (g i) := by
  rw [treeNode_sum, List.map_map]
  exact sum_map_range n (valueOf ∘ g)

/-- The sum of the replies of one entry. -/
def entrySum (l : List (Nat × Nat × Option W64)) (core e : Nat) : W64 :=
  (((l.filter fun y => y.1 == core && y.2.1 == e).map fun y => y.2.2).map valueOf).sum

theorem entrySum_cons (y : Nat × Nat × Option W64) (l : List (Nat × Nat × Option W64)) (core e : Nat) :
    entrySum (y :: l) core e = (if y.1 = core then if y.2.1 = e then valueOf y.2.2 else 0 else 0) + entrySum l core e := by
  by_cases hc : y.1 = core <;> by_cases he : y.2.1 = e <;> simp [entrySum, hc, he]

theorem Census.coreValue_sum {x : Census} (hcmb : x.cmb = 5) (core : Nat) :
    valueOf (x.coreValue core) = ∑ e ∈ Finset.range 128, entrySum x.replies core e := by
  rw [Census.coreValue, hcmb, treeNode_sum, List.map_flatMap, List.flatMap_def, List.sum_flatten, List.map_map]
  exact sum_map_range 128 (entrySum x.replies core)

/-- Numbers in blocks of m. -/
theorem sum_range_blocks (n m : Nat) (g : Nat → W64) :
    ∑ i ∈ Finset.range n, ∑ j ∈ Finset.range m, g (i * m + j) = ∑ k ∈ Finset.range (n * m), g k := by
  induction n with
  | zero => simp
  | succ n ih => rw [Finset.sum_range_succ, ih, Nat.succ_mul, Finset.sum_range_add]

/-- The tree takes in the value of each of the 256 cores. -/
theorem Census.rootValue_sum {x : Census} (hcmb : x.cmb = 5) :
    valueOf x.rootValue = ∑ core ∈ Finset.range 256, valueOf (x.coreValue core) := by
  have hcluster (cl : Nat) : valueOf (x.clusterValue cl) = ∑ k ∈ Finset.range 4, valueOf (x.coreValue (cl * 4 + k)) := by
    rw [Census.clusterValue, hcmb, treeNode_range]
  have hdie (d : Nat) : valueOf (x.dieValue d) = ∑ j ∈ Finset.range 4, valueOf (x.clusterValue (d * 4 + j)) := by
    rw [Census.dieValue, hcmb, treeNode_range]
  calc valueOf x.rootValue
      = ∑ d ∈ Finset.range 16, ∑ j ∈ Finset.range 4, valueOf (x.clusterValue (d * 4 + j)) := by
        rw [Census.rootValue, hcmb, treeNode_range]
        exact Finset.sum_congr rfl fun d _ => hdie d
    _ = ∑ cl ∈ Finset.range 64, valueOf (x.clusterValue cl) := sum_range_blocks 16 4 fun cl => valueOf (x.clusterValue cl)
    _ = ∑ cl ∈ Finset.range 64, ∑ k ∈ Finset.range 4, valueOf (x.coreValue (cl * 4 + k)) := Finset.sum_congr rfl fun cl _ => hcluster cl
    _ = ∑ core ∈ Finset.range 256, valueOf (x.coreValue core) := sum_range_blocks 64 4 fun core => valueOf (x.coreValue core)

/-- Each reply stands at one entry of one core. -/
theorem sum_entrySum (l : List (Nat × Nat × Option W64)) (hin : ∀ y, y ∈ l → y.1 < 256 ∧ y.2.1 < 128) :
    ∑ core ∈ Finset.range 256, ∑ e ∈ Finset.range 128, entrySum l core e = (l.map fun y => valueOf y.2.2).sum := by
  induction l with
  | nil => simp [entrySum]
  | cons y l ih =>
    obtain ⟨hcore, hentry⟩ := hin y List.mem_cons_self
    have hone : ∑ core ∈ Finset.range 256, ∑ e ∈ Finset.range 128, (if y.1 = core then if y.2.1 = e then valueOf y.2.2 else 0 else 0) =
        valueOf y.2.2 := by
      rw [Finset.sum_eq_single_of_mem y.1 (Finset.mem_range.mpr hcore) fun c _ hc => by simp [Ne.symm hc]]
      simp only [if_true]
      rw [Finset.sum_ite_eq, if_pos (Finset.mem_range.mpr hentry)]
    simp only [entrySum_cons, Finset.sum_add_distrib, hone, List.map_cons, List.sum_cons]
    rw [ih fun z hz => hin z (List.mem_cons_of_mem _ hz)]

/-- A sum of words is that of their numbers, modulo 2^64. -/
theorem toNat_sum (l : List W64) : l.sum.toNat = (l.map BitVec.toNat).sum % 2 ^ 64 := by
  induction l with
  | nil => rfl
  | cons v l ih =>
    rw [List.sum_cons, BitVec.toNat_add, ih, List.map_cons, List.sum_cons]
    omega

/-- The block of an integer sum. -/
theorem Census.block_sum {x : Census} (hcmb : x.cmb = 5) (hin : ∀ y, y ∈ x.replies → y.1 < 256 ∧ y.2.1 < 128) :
    x.block.toNat = (x.replies.map fun y => (y.2.2.getD 0).toNat).sum % 2 ^ 64 := by
  have hblock : x.block = valueOf x.rootValue := by
    unfold Census.block
    rw [hcmb]
    rfl
  have hsum : valueOf x.rootValue = (x.replies.map fun y => valueOf y.2.2).sum := by
    rw [Census.rootValue_sum hcmb, ← sum_entrySum x.replies hin]
    exact Finset.sum_congr rfl fun core _ => Census.coreValue_sum hcmb core
  rw [hblock, hsum, toNat_sum, List.map_map]
  rfl

/-- The block of a count: the number of good replies, modulo 2^64. -/
theorem Census.block_count {x : Census} (hcmb : x.cmb = 1) : x.block = BitVec.ofNat 64 x.good := by
  unfold Census.block
  rw [hcmb]
  rfl

theorem leBytes_mod (v : Nat) : leBytes 8 (v % 2 ^ 64) = leBytes 8 v := by
  refine List.map_congr_left fun k hk => BitVec.eq_of_toNat_eq ?_
  have hk : k < 8 := List.mem_range.mp hk
  have hsplit : 2 ^ 64 = 256 ^ k * 256 ^ (8 - k) := by
    rw [← Nat.pow_add, Nat.add_sub_cancel' hk.le]
    norm_num
  have hdvd : 2 ^ 8 ∣ 256 ^ (8 - k) := dvd_pow_self 256 (by omega)
  rw [BitVec.toNat_ofNat, BitVec.toNat_ofNat, hsplit, Nat.mod_mul_right_div_self, Nat.mod_mod_of_dvd _ hdvd]

/-! ### Completion (R205) -/

theorem State.censusWait_arriveFut (s : State) (core : Nat) (f : FutAt) (v : W64) (eff : ResEff) :
    (s.arriveFut core f v eff).censusWait = s.censusWait := by
  rw [State.arriveFut, arrive_frame]

theorem State.censusWait_intoPath (s : State) (core : Nat) (f : FutAt) (bytes : List (Nat × Byte)) :
    (s.intoPath core f bytes).censusWait = s.censusWait := by
  unfold State.intoPath
  dsimp only
  split
  · rfl
  · split
    · rfl
    · split <;> rfl

theorem State.completeCensus_of {x : Census} (hx : Tab.look s.censuses cen = some x) (hunheard : x.unheard = []) (howed : x.owed = [])
    (hgoes : x.cancelled = false) (hwait : s.censusWait = []) :
    let bytes := if x.cmb = 0 then [] else x.at_.zip (leBytes 8 x.block.toNat)
    s.completeCensus cen = (State.intoPath { s with censuses := Tab.del s.censuses cen } x.core x.fut bytes).arriveFut x.core x.fut x.status
      (.census x.core bytes) := by
  intro bytes
  have hdone : ¬ (!x.done) = true := by simp [(x.done_iff).mpr ⟨hunheard, howed⟩]
  have hnone : ((State.intoPath { s with censuses := Tab.del s.censuses cen } x.core x.fut bytes).arriveFut x.core x.fut x.status
      (.census x.core bytes)).censusWait = [] := by
    rw [State.censusWait_arriveFut, State.censusWait_intoPath]
    exact hwait
  have hnext (t : State) (ht : t.censusWait = []) :
      (match t.censusWait with | [] => t | it :: rest => State.openCensus { t with censusWait := rest } it) = t := by rw [ht]
  unfold State.completeCensus
  rw [hx]
  refine (if_neg hdone).trans ?_
  rw [hgoes]
  exact hnext _ hnone

theorem Census.good_eq (x : Census) : x.good = x.replies.countP fun y => y.2.2.isSome := List.countP_eq_length_filter.symm

theorem Census.failed_eq (x : Census) : x.failed = x.replies.countP fun y => y.2.2.isNone := List.countP_eq_length_filter.symm

theorem Census.status_eq (x : Census) :
    let bad := x.replies.countP fun y => y.2.2.isNone
    let good := x.replies.countP fun y => y.2.2.isSome
    x.status = BitVec.ofNat 64 (bad % 65536 * 2 ^ 48 + good % 65536 * 2 ^ 32 + x.num.toNat * 256 + if bad = 0 then 0 else 1) := by
  rw [Census.status, Census.failed_eq, Census.good_eq]

end
end Sys2Proof.Machine

namespace Sys2Proof.Rules

open Sys2Proof.Machine

/-- Settles O45: each step of the network is as its own lemma says. -/
theorem censusSteps : Obligations.CensusSteps := by
  refine ⟨?key, ?solicit, ?commits, ?copy, ?move, ?reply, ?completion⟩
  case key =>
    intro s core cen x hev hx hopen ms hlive
    obtain ⟨agenda, clusters, flight, hkey⟩ := State.keyComes_of hx hopen hlive
    rw [exec_keyArrival hev, hkey]
    exact ⟨_, rfl, rfl, rfl, Tab.look_put_self .., congrArg Core.spawns ((State.core_putCore s core _ core).trans (if_pos rfl))⟩
  case solicit =>
    intro s f key arg scope cmb core slot ten at_ stopped hev hroom
    obtain ⟨l, hopened⟩ := State.openCensus_solicit (s := s) (f := f) (key := key) (arg := arg) (scope := scope) (cmb := cmb) (core := core)
      (slot := slot) (ten := ten) (at_ := at_) (stopped := stopped) hroom
    refine ⟨_, newCensus s f key arg scope cmb core slot ten at_ stopped, (exec_censusOrder hev).trans (congrArg _ hopened), rfl, rfl,
      Tab.look_put_self .., rfl, rfl, rfl, rfl, rfl, rfl, rfl, rfl, rfl, rfl, rfl, rfl, fun c => s.mem_inScope .., fun c hc => ?_⟩
    exact List.mem_append_left _ (List.mem_append_right _ (List.mem_map_of_mem hc))
  case commits =>
    intro s core e f
    refine ⟨exec_censusOrder, exec_censusOrder, exec_censusOrder, ?_⟩
    intro hopen c y hy free
    refine ⟨fun hev hfut horphan hgroup => ?_, fun hev hleave => ?_, fun hev hfut horphan => ?_, fun hev hfut => ?_⟩
    · rw [exec_insertCommit hev, State.inserted_of hopen hy hfut horphan hgroup]
    · rw [exec_deleteCommit hev, State.deleted_of hopen hy hleave]
    · rw [exec_dropCommit hev, State.dropped_of hopen hy, if_pos (by rw [hfut, horphan, beq_self_eq_true, Bool.and_self])]
    · rw [exec_dropCommit hev, State.dropped_of hopen hy, if_neg (by simp [hfut])]
  case copy =>
    intro s id slot m y hev hm core hslot hy hleave hlen hsoff hdoff
    obtain ⟨c, hstart, htmove, hbehind, hpaced, hmcast, hshape, hsrc, hdst⟩ := State.startMove_of hm hslot hy hleave
    refine ⟨_, c, (exec_tmoveCopy hev).trans (congrArg _ hstart), rfl, rfl, ?copies, htmove, hbehind, hpaced, hmcast,
      by rw [hshape, shBytes_moveShape hlen hsoff hdoff], by rw [hshape, shSoff_moveShape hlen hsoff hdoff],
      by rw [hshape, shDoff_moveShape hlen hsoff hdoff], hsrc, hdst, rfl⟩
    case copies =>
      rw [State.core_send, State.updCore, State.core_putCore, if_pos rfl]
      exact Tab.look_put_self ..
  case move =>
    intro s id m x y hev hm hne hx hleave hy hfut horphan hgroup
    rw [exec_moveCommit hev, State.moved_of hm hne hx hleave hy hfut horphan hgroup]
  case reply =>
    intro s cen core e v x hev hx hnone x'
    rw [exec_reply hev]
    have hx' : Tab.look (Tab.put s.censuses cen x') cen = some x' := Tab.look_put_self ..
    refine ⟨fun howed => ?_, fun howed hdone => ?_, fun howed hmore => ?_⟩
    · rw [State.replied_unowed hx howed]
    · rw [State.replied_owed hx howed hnone, State.censusCheck_done hx' hdone]
      rfl
    · rw [State.replied_owed hx howed hnone, State.censusCheck_open (c := x') hx' fun hdone => hmore.elim (absurd hdone.1) (absurd hdone.2)]
  case completion =>
    intro s cen x hev hx hunheard howed hgoes hwait bad good status
    refine ⟨if x.cmb = 1 then good else x.block.toNat, fun hcmb => if_pos hcmb, fun hcmb hin => ?_, ?_⟩
    · rw [hcmb]
      exact Census.block_sum hcmb hin
    · rw [exec_censusCompletion hev, State.completeCensus_of hx hunheard howed hgoes hwait]
      have hblock : leBytes 8 x.block.toNat = leBytes 8 (if x.cmb = 1 then good else x.block.toNat) := by
        split
        · rename_i hcmb
          rw [Census.block_count hcmb, BitVec.toNat_ofNat, leBytes_mod, Census.good_eq]
        · rfl
      rw [hblock, Census.status_eq]

end Sys2Proof.Rules
end

section
/-! The statement on acquires, releases and fences (09_ordering R213 to R218): the release half of a fence begins once the core's earlier releases have
gone on, and where the table of the core's L1 names a line twice, an acquire among them uncovers the second entry, whose dirty bytes the fence then
writes home. -/

namespace Sys2Proof.Rules

open Sys2Proof.Machine

theorem homeByteAfter_fence : homeByteAfter (.fence .dev replyMove) replying = some 1 := by decide +kernel

/-- Refutes O29: the frame of a fence does not ask that the L1's table names each line once. In `replying`, whose table names line 0 twice, the acquire at
work takes out the first entry, which is not coherent, and the fence's release half writes the second one's byte home. -/
theorem not_ordering : ¬ Obligations.Ordering := by
  intro hordering
  obtain ⟨-, -, -, -, -, hfence⟩ := hordering .dev replyMove replying replier _ 0 0 _ _ replying_engine rfl
  obtain ⟨t, hexec, hframe⟩ := hfence
  have hkept : t.homeByte 0 = 0 := (hframe.home 0 notOwn_replying).trans homeByte_replying
  have hwritten := (homeByteAfter_next hexec).symm.trans homeByteAfter_fence
  rw [hkept] at hwritten
  exact absurd hwritten (by decide)

end Sys2Proof.Rules
end

section
/-! Synchronisation objects and group barriers at the base (09_ordering R210, R213, R216; 15_engine_and_sync_functions R351, R353, R354;
04_copies_and_landing R111): a release, an acquire, an arm or a wait at its object, the waiters that wake, the bytes that are counted, and the phase
of a group barrier that is complete. -/

namespace Sys2Proof.Machine

section
variable {s : State} {o : Nat} {f : FutAt} {q : BitVec 16}

/-! ### What the steps of the objects do with their events -/

theorem exec_releaseAtObject {op : ObjOp} (h : s.ev = some (.releaseAtObject op)) : exec .releaseAtObject s = .next (s.objectGets op) := by
  change execReleaseAtObject s = _
  simp only [execReleaseAtObject, h]

theorem exec_acquireWake (h : s.ev = some (.acquireWake o)) : exec .acquireWake s = .next (s.wakes o) := by
  change execAcquireWake s = _
  simp only [execAcquireWake, h]

theorem exec_byteCountAdd {n ten : Nat} {lines : List Nat} (h : s.ev = some (.byteCountAdd o n ten lines)) :
    exec .byteCountAdd s = .next (s.countBytes o n ten lines) := by
  change execByteCountAdd s = _
  simp only [execByteCountAdd, h]

theorem exec_groupBarrierCompletion {nid key : Nat} (h : s.ev = some (.groupBarrierCompletion nid key)) :
    exec .groupBarrierCompletion s = .next (s.groupComplete nid key) := by
  change execGroupBarrierCompletion s = _
  simp only [execGroupBarrierCompletion, h]

/-! ### The phase in a status word, and the lines of the phases that have ended (09 R213, R226) -/

theorem phaseStatus_zero (q : BitVec 16) : phaseStatus q 0 = Rules.phased q := by
  apply BitVec.eq_of_toNat_eq
  have hq := q.isLt
  simp only [phaseStatus, Rules.phased, Nat.add_zero, BitVec.toNat_ofNat, BitVec.toNat_shiftLeft, BitVec.toNat_setWidth, Nat.shiftLeft_eq]
  rw [Nat.mod_eq_of_lt (a := q.toNat) (by omega)]

theorem Obj.mem_linesSince (x : Obj) (q : BitVec 16) (n : Nat) : n ∈ x.linesSince q ↔ Rules.countedSince x q n := by
  simp only [Obj.linesSince, List.mem_eraseDups, List.mem_flatMap, Prod.exists, List.mem_ite_nil_right, Rules.countedSince]
  exact exists_congr fun p => exists_congr fun l => and_congr_right fun _ => and_comm

theorem Obj.waitEff_barrier {x : Obj} (hmd : x.md = 2) (o : Nat) (bc : Bool) (q : BitVec 16) : x.waitEff o bc q = .acquire o := by
  simp [Obj.waitEff, hmd]

theorem Obj.waitEff_count {x : Obj} (hmd : x.md = 3) (o : Nat) (bc : Bool) (q : BitVec 16) :
    x.waitEff o bc q = .flip (if bc then none else some o) (x.linesSince q) := by
  simp [Obj.waitEff, hmd]

/-! ### A release at its object (09 R216) -/

theorem State.releases_lock (hmd : (s.obj o).md = 1) (hholder : (s.obj o).holder = some f.wid) :
    s.releases o f = ((s.putObj o { s.obj o with count := 0, holder := none }).arriveFut 0 f 0).wakeSoon o := by
  unfold State.releases
  exact if_pos (by simp [hmd, hholder])

/-- At an arrival barrier the phase of the warp's release is kept, and the phase flips with the last arrival that it expects. -/
theorem State.releases_barrier (hmd : (s.obj o).md = 2) : s.releases o f =
    let x := { s.obj o with rels := Tab.put (s.obj o).rels f.wid (s.obj o).phase }
    if (s.obj o).expected ≤ (s.obj o).count + 1 then
      ((s.putObj o { x with phase := x.phase + 1, count := 0 }).arriveFut 0 f (Rules.phased (x.phase + 1))).wakeSoon o
    else (s.putObj o { x with count := x.count + 1 }).arriveFut 0 f (Rules.phased x.phase) := by
  unfold State.releases
  simp only [phaseStatus_zero]
  exact (if_neg (by simp [hmd])).trans (if_pos (by simp [hmd]))

/-! ### An acquire, and a wait for a phase (09 R216; 15 R354) -/

theorem State.phaseWait_passed {bc : Bool} (h : (s.obj o).phase ≠ q) :
    s.phaseWait o bc f q = s.arriveFut 0 f (Rules.phased (s.obj o).phase) ((s.obj o).waitEff o bc q) := by
  unfold State.phaseWait
  rw [← phaseStatus_zero]
  exact if_pos (by simpa using h)

theorem State.phaseWait_waits {bc : Bool} (h : (s.obj o).phase = q) : s.phaseWait o bc f q = s.putObj o { s.obj o with
    waiters := (s.obj o).waiters ++ [(f, some q)], bcs := if bc then (s.obj o).bcs ++ [f] else (s.obj o).bcs } := by
  unfold State.phaseWait
  exact if_neg (by simpa using h)

/-- At a byte-count barrier what resolves takes the lines that were counted into the phases that have ended. -/
theorem State.phaseWait_count {bc : Bool} (hmd : (s.obj o).md = 3) (h : (s.obj o).phase ≠ q) : ∃ ls,
    s.phaseWait o bc f q = s.arriveFut 0 f (Rules.phased (s.obj o).phase) (.flip (if bc then none else some o) ls) ∧
      ∀ n, n ∈ ls ↔ Rules.countedSince (s.obj o) q n :=
  ⟨_, by rw [State.phaseWait_passed h, Obj.waitEff_count hmd], (s.obj o).mem_linesSince q⟩

theorem State.acquireAt_lock (hmd : (s.obj o).md = 1) : s.acquireAt o f q =
    if s.gone f.wid = true then s
    else if (s.obj o).count = 0 ∧ (s.obj o).waiters = [] then s.takeLock o f
    else s.putObj o { s.obj o with waiters := (s.obj o).waiters ++ [(f, none)] } := by
  unfold State.acquireAt
  refine (if_pos (by simp [hmd])).trans (if_congr Iff.rfl rfl (if_congr ?_ rfl rfl))
  simp [List.isEmpty_iff]

/-- At an arrival barrier it waits to leave the phase of the warp's latest release there, or, without one, the phase that it has read. -/
theorem State.acquireAt_barrier (hmd : (s.obj o).md = 2) : s.acquireAt o f q = s.phaseWait o false f (Tab.get (s.obj o).rels q f.wid) := by
  unfold State.acquireAt
  exact (if_neg (by simp [hmd])).trans (if_pos (by simp [hmd]))

theorem State.acquireAt_count (hmd : (s.obj o).md = 3) : s.acquireAt o f q = s.phaseWait o false f q := by
  unfold State.acquireAt
  exact (if_neg (by simp [hmd])).trans ((if_neg (by simp [hmd])).trans (if_pos (by simp [hmd])))

theorem State.takeLock_of {a : WarpAt} (hplace : s.placeOf f.wid = some a) : s.takeLock o f =
    (s.putObj o { s.obj o with count := a.core * 16 + a.slot + 1, holder := some f.wid, lost := false }).arriveFut a.core f
      (if (s.obj o).lost then 1 else 0) (.acquire o) := by
  have hcode : BitVec.ofNat 64 (if (s.obj o).lost then 1 else 0) = (if (s.obj o).lost then 1 else 0 : W64) := by split <;> rfl
  unfold State.takeLock
  rw [hplace, ← hcode]
  rfl

/-! ### A byte-count barrier (15 R353; 04 R111) -/

/-- The phase flips once when enough is counted, and the lines that were counted into the phase stay with it. -/
theorem Obj.flip_cases (x : Obj) :
    (x.expected ≤ x.count ∧ ∃ cs, Tab.get cs [] x.phase.toNat = Tab.get x.counted [] x.phase.toNat ∧
      x.flip = { x with phase := x.phase + 1, count := x.count - x.expected, counted := cs }) ∨
    (¬ x.expected ≤ x.count ∧ x.flip = x) := by
  unfold Obj.flip
  by_cases h : x.expected ≤ x.count
  · have hne : x.phase.toNat ≠ (x.phase + 1).toNat := by bv_omega
    exact .inl ⟨h, _, (Tab.get_put ..).trans (if_neg hne), if_pos h⟩
  · exact .inr ⟨h, if_neg h⟩

theorem State.arm_of {n : Nat} (hmd : (s.obj o).md = 3) : s.objectGets (.arm f o n) =
    let x := Obj.flip { s.obj o with expected := n }
    ((s.putObj o x).arriveFut 0 f (Rules.phased x.phase)).wakeSoon o := by
  unfold State.objectGets
  simp only [phaseStatus_zero]
  exact if_pos (by simp [hmd])

theorem State.bcwait_of (hmd : (s.obj o).md = 3) : s.objectGets (.wait f o q) = s.phaseWait o true f q := by
  unfold State.objectGets
  exact if_pos (by simp [hmd])

/-- The table of counted lines when lines are added to a phase. -/
def Obj.counts (x : Obj) (lines : List Nat) : Tab (List Nat) :=
  if lines.isEmpty then x.counted else Tab.put x.counted x.phase.toNat ((Tab.get x.counted [] x.phase.toNat ++ lines).eraseDups)

theorem Obj.mem_counts (x : Obj) {lines : List Nat} {k : Nat} (hk : k ∈ lines) : k ∈ Tab.get (x.counts lines) [] x.phase.toNat := by
  have hne : ¬ lines.isEmpty = true := by
    rw [List.isEmpty_iff]
    exact List.ne_nil_of_mem hk
  rw [Obj.counts, if_neg hne, Tab.get_put, if_pos rfl, List.mem_eraseDups]
  exact List.mem_append_right _ hk

theorem State.countBytes_refused {n ten : Nat} {lines : List Nat} (h : 0xFFFF ≤ o ∨ (s.obj o).md ≠ 3 ∨ (s.obj o).ten ≠ some ten) :
    s.countBytes o n ten lines = s.log 8 6 o ten 0 := by
  unfold State.countBytes
  exact if_pos (by simpa [or_assoc] using h)

theorem State.countBytes_counted {n ten : Nat} {lines : List Nat} (ho : o < 0xFFFF) (hmd : (s.obj o).md = 3) (hten : (s.obj o).ten = some ten) :
    s.countBytes o n ten lines =
      (s.putObj o { s.obj o with count := ((s.obj o).count + n) % 2 ^ 48, counted := (s.obj o).counts lines }.flip).wakeSoon o := by
  unfold State.countBytes
  exact if_neg (by simp [hmd, hten, ho])

/-! ### Waiters that wake (09 R216) -/

theorem State.wakes_held (hmd : (s.obj o).md = 1) (hcount : (s.obj o).count ≠ 0) : s.wakes o = s := by
  unfold State.wakes
  exact (if_pos (by simp [hmd])).trans (if_pos hcount)

/-- The first waiter of a free lock takes it. -/
theorem State.wakes_lock {r : Option (BitVec 16)} {rest : List (FutAt × Option (BitVec 16))} (hmd : (s.obj o).md = 1) (hcount : (s.obj o).count = 0)
    (hwait : (s.obj o).waiters = (f, r) :: rest) (halive : ∀ y, y ∈ (s.obj o).waiters → s.gone y.1.wid = false) :
    s.wakes o = (s.putObj o { s.obj o with waiters := rest }).takeLock o f := by
  have hall : ((s.obj o).waiters.filter fun (f, _) => !s.gone f.wid) = (f, r) :: rest :=
    (List.filter_eq_self.mpr fun y hy => by simp [halive y hy]).trans hwait
  unfold State.wakes
  refine (if_pos (by simp [hmd])).trans ((if_neg (by simp [hcount])).trans ?_)
  simp only [hall]

/-- The only waiter of an arrival barrier whose phase has passed resolves. -/
theorem State.wakes_barrier (hmd : (s.obj o).md = 2) (hwait : (s.obj o).waiters = [(f, some q)]) (hpassed : q ≠ (s.obj o).phase) : s.wakes o =
    (s.putObj o { s.obj o with waiters := [], bcs := [] }).arriveFut 0 f (Rules.phased (s.obj o).phase) (.acquire o) := by
  have hparts : (s.obj o).waiters.partition (fun y => y.2 != some (s.obj o).phase) = ([(f, some q)], []) := by
    rw [hwait]
    simp [List.partition_eq_filter_filter, hpassed]
  unfold State.wakes
  refine (if_neg (by simp [hmd])).trans ?_
  rw [hparts]
  simp [Obj.waitEff_barrier hmd, phaseStatus_zero]

end

/-! ### A group barrier that is complete (15 R351) -/

section
variable {s : State} {nid key : Nat} {n : Node}

theorem State.resolvesNow_later {core : Nat} {f : FutAt} {v : W64} {eff : ResEff} (h : (s.findWid f.wid).isSome = true) :
    s.resolvesNow core f v eff = s.later [.futureResolution f v eff] := by
  unfold State.resolvesNow
  rw [if_neg (by simp [State.gone_of_findWid h]), if_neg (by simp [Option.isSome_iff_ne_none.mp h])]

theorem State.foldl_resolvesNow (core : Nat → Nat) (v : W64) (eff : ResEff) {l : List (Nat × FutAt)}
    (hlive : ∀ y, y ∈ l → (s.findWid y.2.wid).isSome = true) : l.foldl (fun s y => s.resolvesNow (core y.1) y.2 v eff) s =
      { s with agenda := s.agenda ++ l.map fun y => .futureResolution y.2 v eff } := by
  induction l generalizing s with
  | nil => simp
  | cons y l ih =>
    have hrest : ∀ z, z ∈ l → ((s.later [.futureResolution y.2 v eff]).findWid z.2.wid).isSome = true :=
      fun z hz => hlive z (List.mem_cons_of_mem _ hz)
    rw [List.foldl_cons, State.resolvesNow_later (hlive y List.mem_cons_self), ih hrest]
    simp [State.later]

theorem State.groupMet_of (hnode : s.node? nid = some n) (hsome : (Tab.get s.gbars {} (mailKey nid key)).arrived ≠ [])
    (hall : ∀ i, i ∈ n.keyed key → i ∈ n.gone ∨ ∃ f, (i, f) ∈ (Tab.get s.gbars {} (mailKey nid key)).arrived) : s.groupMet nid key = true := by
  have hmembers : ((n.keyed key).all fun i => n.gone.contains i || (Tab.get s.gbars {} (mailKey nid key)).arrived.any fun y => y.1 == i) = true := by
    simpa using hall
  simp only [State.groupMet, hnode, Bool.and_eq_true]
  exact ⟨by simpa using hsome, hmembers⟩

theorem State.groupComplete_cluster (hnode : s.node? nid = some n) (hmet : s.groupMet nid key = true) (hscope : n.groupScope key = .cl)
    (hlive : ∀ y, y ∈ (Tab.get s.gbars {} (mailKey nid key)).arrived → (s.findWid y.2.wid).isSome = true) :
    let b := Tab.get s.gbars {} (mailKey nid key)
    s.groupComplete nid key = { s with
      gbars := Tab.put s.gbars (mailKey nid key) ⟨b.phase + 1, []⟩
      agenda := s.agenda ++ b.arrived.map fun y => .futureResolution y.2 (Rules.phased (b.phase + 1)) (.acquire 0xFFFF) } := by
  intro b
  unfold State.groupComplete
  simp only [hmet, hnode, hscope, Bool.not_true, Bool.false_eq_true, if_false, beq_self_eq_true, if_true]
  exact State.foldl_resolvesNow (s := { s with gbars := Tab.put s.gbars (mailKey nid key) ⟨b.phase + 1, []⟩ })
    (fun i => n.clusterAt (i / 256) (i / 64 % 4) * 4) _ _ hlive

end

end Sys2Proof.Machine
end

section
/-! Mailboxes (15_engine_and_sync_functions R360 to R363): a message, a receive or a probe that reaches its mailbox, and a wait for room that has lasted
too long; after them the statement on objects, group barriers and mailboxes. -/

namespace Sys2Proof.Machine

section
variable {s t u : State} {k : Nat} {m : MsgRec} {r : RecvRec} {f : FutAt}

/-! ### What the steps of the mailboxes do with their events -/

theorem exec_messageArrival (h : s.ev = some (.messageArrival m)) : exec .messageArrival s = .next (s.messageComes m) := by
  change execMessageArrival s = _
  simp only [execMessageArrival, h]

theorem exec_postArrival (h : s.ev = some (.postArrival r)) : exec .postArrival s = .next (s.postComes r) := by
  change execPostArrival s = _
  simp only [execPostArrival, h]

theorem exec_probeRequest (h : s.ev = some (.probeRequest r)) : exec .probeRequest s = .next (s.probeComes r) := by
  change execProbeRequest s = _
  simp only [execProbeRequest, h]

theorem exec_overflowTimeout (h : s.ev = some (.overflowTimeout k)) : exec .overflowTimeout s = .next (s.overflowed k) := by
  change execOverflowTimeout s = _
  simp only [execOverflowTimeout, h]

/-! ### What a receive and a disposition leave as it was -/

/-- From one state to the next only the clusters and the saved groups have changed. -/
def State.OnlyArrivals (s t : State) : Prop := t = { s with clusters := t.clusters, saved := t.saved }

theorem State.OnlyArrivals.trans (h : s.OnlyArrivals t) (h' : t.OnlyArrivals u) : s.OnlyArrivals u := by
  unfold State.OnlyArrivals at *
  rw [h', h]

theorem State.OnlyArrivals.nodes (h : s.OnlyArrivals t) : t.nodes = s.nodes := by rw [h]
theorem State.OnlyArrivals.mails (h : s.OnlyArrivals t) : t.mails = s.mails := by rw [h]
theorem State.OnlyArrivals.mem (h : s.OnlyArrivals t) : t.mem = s.mem := by rw [h]
theorem State.OnlyArrivals.warps (h : s.OnlyArrivals t) : t.warps = s.warps := by rw [h]

theorem State.onlyArrivals_arriveFut (s : State) (core : Nat) (f : FutAt) (v : W64) (eff : ResEff) : s.OnlyArrivals (s.arriveFut core f v eff) :=
  arrive_frame ..

theorem State.onlyArrivals_intoPath (s : State) (core : Nat) (f : FutAt) (bytes : List (Nat × Byte)) : s.OnlyArrivals (s.intoPath core f bytes) := by
  unfold State.intoPath
  dsimp only
  split
  · rfl
  · split
    · rfl
    · split <;> rfl

theorem State.deliver_eq (s : State) (r : RecvRec) (m : MsgRec) : s.deliver r m = Rules.received s r m := rfl

theorem State.onlyArrivals_received (s : State) (r : RecvRec) (m : MsgRec) : s.OnlyArrivals (Rules.received s r m) :=
  (s.onlyArrivals_intoPath ..).trans (State.onlyArrivals_arriveFut ..)

/-- The disposition of a message of this package goes to its sender (R362). -/
theorem State.dispose_sender (s : State) (hsender : m.sender = some f) (code : Nat) :
    s.dispose m code = s.arriveFut (Rules.senderCore s m) f (BitVec.ofNat 64 code) := by
  obtain ⟨sender⟩ := m
  obtain rfl : sender = some f := hsender
  rfl

theorem senderCore_congr (h : t.nodes = s.nodes) (m : MsgRec) : Rules.senderCore t m = Rules.senderCore s m := by
  simp only [Rules.senderCore, State.node?, h]

theorem homeKey_congr (h : t.nodes = s.nodes) (w : Warp) : t.homeKey w = s.homeKey w := by
  simp only [State.homeKey, State.node?, h]

theorem State.dispose_received (hsender : m.sender = some f) (x : Mail) (code : Nat) : (Rules.received (s.putMail k x) r m).dispose m code =
    (Rules.received (s.putMail k x) r m).arriveFut (Rules.senderCore s m) f (BitVec.ofNat 64 code) := by
  rw [State.dispose_sender _ hsender, senderCore_congr (State.onlyArrivals_received ..).nodes]
  rfl

/-- A mailbox in which no message waits for room admits none. -/
theorem State.mailAdmits_idle (h : (s.mail k).waiting = []) : s.mailAdmits k = s := by
  unfold State.mailAdmits
  exact if_pos (by simp [h])

/-! ### The first of a list that satisfies a test -/

section
variable {α : Type} {p : α → Bool} {x : α} {before after : List α}

theorem find?_first (hx : p x = true) (hbefore : ∀ y, y ∈ before → p y = false) : (before ++ x :: after).find? p = some x :=
  List.find?_eq_some_iff_append.mpr ⟨hx, before, after, rfl, fun y hy => by simp [hbefore y hy]⟩

theorem eraseIdx_first (hx : p x = true) (hbefore : ∀ y, y ∈ before → p y = false) :
    (before ++ x :: after).eraseIdx ((before ++ x :: after).findIdx p) = before ++ after := by
  have hidx : (before ++ x :: after).findIdx p = before.length := by
    rw [List.findIdx_append, List.findIdx_eq_length_of_false hbefore, if_neg (Nat.lt_irrefl _), List.findIdx_cons, hx]
    exact Nat.zero_add _
  rw [hidx, List.eraseIdx_append_of_length_le (Nat.le_refl _), Nat.sub_self]
  rfl

theorem filter_ne_middle [DecidableEq α] (h : (before ++ x :: after).Nodup) : ((before ++ x :: after).filter fun y => y != x) = before ++ after := by
  obtain ⟨-, -, hdisjoint⟩ := List.nodup_append.mp h
  have hnot : x ∉ before := fun hmem => hdisjoint x hmem x List.mem_cons_self rfl
  rw [← h.erase_eq_filter, List.erase_append_right _ hnot, List.erase_cons_head]

end

/-! ### A message at its mailbox (R360, R362) -/

/-- In a mailbox where none waits for room a message is judged at once. -/
theorem State.messageComes_takes (hwarp : s.hasWarp m = true) (haway : s.mailAway (s.mailOf m.nid m.ddie m.dclus m.dwarp) = false)
    (hwaiting : (s.mail (s.mailOf m.nid m.ddie m.dclus m.dwarp)).waiting = []) :
    s.messageComes m = s.mailTakes (s.mailOf m.nid m.ddie m.dclus m.dwarp) m := by
  unfold State.messageComes
  simp [hwarp, haway, hwaiting]

/-- It meets the earliest receive that wants it. -/
theorem State.mailTakes_posted {before after : List RecvRec} (hsender : m.sender = some f) (hposts : (s.mail k).posts = before ++ r :: after)
    (hwants : wants r m = true) (hbefore : ∀ y, y ∈ before → wants y m = false) (hnodup : (s.mail k).posts.Nodup) : s.mailTakes k m =
      (Rules.received (s.putMail k { s.mail k with posts := before ++ after }) r m).arriveFut (Rules.senderCore s m) f 0 := by
  have hfind : ((s.mail k).posts.find? fun r => wants r m) = some r := hposts ▸ find?_first hwants hbefore
  have hrest : ((s.mail k).posts.filter fun y => y != r) = before ++ after := by
    rw [hposts] at hnodup ⊢
    exact filter_ne_middle hnodup
  unfold State.mailTakes
  simp only [hfind, hrest, State.deliver_eq]
  exact State.dispose_received hsender _ 0

theorem find?_posts_none {l : List RecvRec} (h : ∀ y, y ∈ l → wants y m = false) : (l.find? fun r => wants r m) = none :=
  List.find?_eq_none.mpr fun y hy => by simp [h y hy]

/-- Without one it enters the queue, which holds 256. -/
theorem State.mailTakes_queued (hsender : m.sender = some f) (hnone : ∀ y, y ∈ (s.mail k).posts → wants y m = false)
    (hroom : (s.mail k).queue.length < 256) : s.mailTakes k m =
      (s.putMail k { s.mail k with queue := (s.mail k).queue ++ [{ m with since := none }] }).arriveFut (Rules.senderCore s m) f 1 := by
  unfold State.mailTakes
  simp only [find?_posts_none hnone, hroom, if_true]
  exact State.dispose_sender _ hsender 1

theorem State.mailTakes_waits (hnone : ∀ y, y ∈ (s.mail k).posts → wants y m = false) (hfull : 256 ≤ (s.mail k).queue.length) : s.mailTakes k m =
    s.putMail k { s.mail k with waiting := (s.mail k).waiting ++ [{ m with since := some (m.since.getD s.root) }] } := by
  unfold State.mailTakes
  simp only [find?_posts_none hnone, Nat.not_lt.mpr hfull, if_false]

/-! ### A receive and a probe at their mailbox (R360, R361, R363) -/

theorem find?_messages_none {l : List MsgRec} (h : ∀ y, y ∈ l → wants r y = false) : (l.find? fun m => wants r m) = none :=
  List.find?_eq_none.mpr fun y hy => by simp [h y hy]

section
variable (hcancel : r.cancel = false) (hlive : (s.findWid r.fut.wid).isSome = true)
  {before after : List MsgRec}
include hcancel hlive

theorem State.postComes_posted
    (hnone : ∀ m, m ∈ (s.mail (s.mailOf r.nid r.die r.clus r.warp)).queue ∨ m ∈ (s.mail (s.mailOf r.nid r.die r.clus r.warp)).waiting → wants r m = false) :
    let k := s.mailOf r.nid r.die r.clus r.warp
    s.postComes r = s.putMail k { s.mail k with posts := (s.mail k).posts ++ [r] } := by
  unfold State.postComes
  simp [hcancel, State.gone_of_findWid hlive, find?_messages_none fun m hm => hnone m (.inl hm), find?_messages_none fun m hm => hnone m (.inr hm)]

/-- It takes the oldest message of the queue that it wants. -/
theorem State.postComes_queue (hqueue : (s.mail (s.mailOf r.nid r.die r.clus r.warp)).queue = before ++ m :: after) (hwants : wants r m = true)
    (hbefore : ∀ y, y ∈ before → wants r y = false) (hwaiting : (s.mail (s.mailOf r.nid r.die r.clus r.warp)).waiting = []) :
    let k := s.mailOf r.nid r.die r.clus r.warp
    s.postComes r = Rules.received (s.putMail k { s.mail k with queue := before ++ after }) r m := by
  intro k
  have hmail : (Rules.received (s.putMail k { s.mail k with queue := before ++ after }) r m).mail k = { s.mail k with queue := before ++ after } := by
    rw [State.mail, (State.onlyArrivals_received ..).mails]
    exact (State.mail_putMail ..).trans (if_pos rfl)
  unfold State.postComes
  simp only [hcancel, State.gone_of_findWid hlive, Bool.false_eq_true, if_false, hqueue, find?_first hwants hbefore, eraseIdx_first hwants hbefore,
    State.deliver_eq]
  exact State.mailAdmits_idle (by rw [hmail]; exact hwaiting)

/-- With none there it takes the oldest that waits for room, whose sender is told. -/
theorem State.postComes_waiting (hqueue : ∀ y, y ∈ (s.mail (s.mailOf r.nid r.die r.clus r.warp)).queue → wants r y = false)
    (hwaiting : (s.mail (s.mailOf r.nid r.die r.clus r.warp)).waiting = before ++ m :: after) (hwants : wants r m = true)
    (hbefore : ∀ y, y ∈ before → wants r y = false) (hsender : m.sender = some f) :
    let k := s.mailOf r.nid r.die r.clus r.warp
    s.postComes r = (Rules.received (s.putMail k { s.mail k with waiting := before ++ after }) r m).arriveFut (Rules.senderCore s m) f 0 := by
  unfold State.postComes
  simp only [hcancel, State.gone_of_findWid hlive, Bool.false_eq_true, if_false, find?_messages_none hqueue, hwaiting, find?_first hwants hbefore,
    eraseIdx_first hwants hbefore, State.deliver_eq]
  exact State.dispose_received hsender _ 0

end

theorem State.probeComes_none (hnone : ∀ m, m ∈ (s.mail (s.mailOf r.nid r.die r.clus r.warp)).queue → wants r m = false) :
    s.probeComes r = s.arriveFut r.core r.fut 2 := by
  unfold State.probeComes
  rw [find?_messages_none hnone]

theorem State.probeComes_found {before after : List MsgRec} (hqueue : (s.mail (s.mailOf r.nid r.die r.clus r.warp)).queue = before ++ m :: after)
    (hwants : wants r m = true) (hbefore : ∀ y, y ∈ before → wants r y = false) :
    s.probeComes r = s.arriveFut r.core r.fut (recvStatus m m.payload.length false) := by
  unfold State.probeComes
  rw [hqueue, find?_first hwants hbefore]

/-! ### Warps set one after the other, each in its place -/

section
variable {g : Warp → Warp} {a : WarpAt} {w : Warp} {l : List (WarpAt × Warp)}

theorem State.foldl_putWarp_eq (g : Warp → Warp) (l : List (WarpAt × Warp)) (s : State) :
    ∃ ws, l.foldl (fun s x => s.putWarp x.1 (g x.2)) s = { s with warps := ws } := by
  induction l generalizing s with
  | nil => exact ⟨_, rfl⟩
  | cons x l ih =>
    obtain ⟨ws, h⟩ := ih (s.putWarp x.1 (g x.2))
    exact ⟨ws, h⟩

/-- A slot whose warp is not among them keeps it. -/
theorem State.warp?_foldl_putWarp_ne (h : ∀ x, x ∈ l → warpKey x.1 ≠ warpKey a) :
    (l.foldl (fun s x => s.putWarp x.1 (g x.2)) s).warp? a = s.warp? a := by
  induction l generalizing s with
  | nil => rfl
  | cons x l ih =>
    rw [List.foldl_cons, ih fun y hy => h y (List.mem_cons_of_mem _ hy), State.warp?_putWarp_ne _ _ _ _ (h x List.mem_cons_self).symm]

/-- One that is named with a single warp gets that warp's new state. -/
theorem State.warp?_foldl_putWarp_mem (hmem : (a, w) ∈ l ∨ s.warp? a = some (g w)) (huniq : ∀ x, x ∈ l → warpKey x.1 = warpKey a → x.2 = w) :
    (l.foldl (fun s x => s.putWarp x.1 (g x.2)) s).warp? a = some (g w) := by
  induction l generalizing s with
  | nil => exact hmem.resolve_left List.not_mem_nil
  | cons x l ih =>
    refine ih ?_ fun y hy => huniq y (List.mem_cons_of_mem _ hy)
    by_cases hx : warpKey x.1 = warpKey a
    · refine .inr ?_
      rw [← huniq x List.mem_cons_self hx, State.warp?, ← hx]
      exact Tab.look_put_self ..
    · rcases hmem with hmem | hmem
      · rcases List.mem_cons.mp hmem with rfl | hmem
        · exact absurd rfl hx
        · exact .inl hmem
      · exact .inr ((State.warp?_putWarp_ne _ _ _ _ (Ne.symm hx)).trans hmem)

/-- The warp of a slot is live there. -/
theorem State.mem_live (hslot : a.slot < 16) (h : s.warp? a = some w) : (a, w) ∈ s.live := by
  refine List.mem_map.mpr ⟨(warpKey a, w), Tab.look_mem _ _ _ h, ?_⟩
  exact congrArg (·, w) (Rules.warpKey_place hslot)

/-- Where no two live warps stand in one slot, no other warp is live in it. -/
theorem State.live_unique (hwf : Rules.slotsWf s) {x : WarpAt × Warp} (hx : x ∈ s.live) (h : s.warp? a = some w) (hkey : warpKey x.1 = warpKey a) :
    x.2 = w := by
  obtain ⟨⟨j, v⟩, hj, rfl⟩ := List.mem_map.mp hx
  have hplace : j = warpKey a := by
    simp only [warpKey] at hkey ⊢
    omega
  have hsame := List.inj_on_of_nodup_map hwf hj (Tab.look_mem _ _ _ h) hplace
  exact congrArg Prod.snd hsame

/-- Warps that are chosen by a test are changed, the others stay. -/
theorem State.warp?_foldl_live (c : Warp → Bool) (hwf : Rules.slotsWf s) (hslot : a.slot < 16) (h : s.warp? a = some w) :
    ((s.live.filter fun x => c x.2).foldl (fun s x => s.putWarp x.1 (g x.2)) s).warp? a = some (if c w = true then g w else w) := by
  split
  · rename_i hc
    exact State.warp?_foldl_putWarp_mem (.inl (List.mem_filter.mpr ⟨State.mem_live hslot h, hc⟩))
      fun x hx hkey => State.live_unique hwf (List.mem_filter.mp hx).1 h hkey
  · rename_i hc
    rw [State.warp?_foldl_putWarp_ne, h]
    intro x hx hkey
    obtain ⟨hlive, hcx⟩ := List.mem_filter.mp hx
    exact hc (State.live_unique hwf hlive h hkey ▸ hcx)

end

/-! ### A wait for room that has lasted too long (R362) -/

/-- The overflow fault of a warp, with the home group by its key. -/
def Warp.overflows (key : Nat) (w : Warp) : Warp := { w with overflow := some (if key ≥ 1024 then 252 else key) }

theorem partition_one {α : Type} (p : α → Bool) (x : α) : [x].partition p = if p x = true then ([x], []) else ([], [x]) := by
  cases hx : p x <;> simp [List.partition_eq_filter_filter, hx]

theorem State.overflowed_early {t0 : Nat} (hwaiting : (s.mail k).waiting = [m]) (hsince : m.since = some t0) (hearly : s.root < t0 + 2 ^ 20) :
    s.overflowed k = s := by
  have hnot : ¬ decide (s.root ≥ m.since.getD s.root + 2 ^ 20) = true := by
    rw [hsince, decide_eq_true_iff]
    exact Nat.not_le.mpr hearly
  unfold State.overflowed
  simp only [hwaiting, partition_one, if_neg hnot]
  rfl

/-- The state when a message that has waited alone is dropped: its sender is told. -/
def State.waitDropped (s : State) (k : Nat) (m : MsgRec) (f : FutAt) : State :=
  (s.putMail k { s.mail k with waiting := [] }).arriveFut (Rules.senderCore s m) f 4

theorem State.onlyArrivals_waitDropped (s : State) (k : Nat) (m : MsgRec) (f : FutAt) :
    (s.putMail k { s.mail k with waiting := [] }).OnlyArrivals (s.waitDropped k m f) := State.onlyArrivals_arriveFut ..

theorem State.mail_waitDropped (s : State) (k : Nat) (m : MsgRec) (f : FutAt) : ((s.waitDropped k m f).mail k).waiting = [] := by
  rw [State.mail, (s.onlyArrivals_waitDropped k m f).mails]
  exact congrArg Mail.waiting ((State.mail_putMail ..).trans (if_pos rfl))

/-- Does the overflow of a mailbox fault a warp: one of its group, and no responder? -/
def State.overflowHits (s : State) (k : Nat) (w : Warp) : Bool := w.nid == k / 4096 && w.responder.isNone && s.homeKey w == k % 4096

theorem State.overflowHits_iff (s : State) (k : Nat) (w : Warp) :
    s.overflowHits k w = true ↔ w.nid = k / 4096 ∧ w.responder = none ∧ s.homeKey w = k % 4096 := by
  simp [State.overflowHits, and_assoc]

section
variable {t0 : Nat} (hwaiting : (s.mail k).waiting = [m]) (hsince : m.since = some t0) (hsender : m.sender = some f) (hlate : t0 + 2 ^ 20 ≤ s.root)
include hwaiting hsince hsender hlate

theorem State.overflowed_late : s.overflowed k =
    ((s.waitDropped k m f).live.filter fun x => (s.waitDropped k m f).overflowHits k x.2).foldl
      (fun s x => s.putWarp x.1 (x.2.overflows (k % 4096))) (s.waitDropped k m f) := by
  have his : decide (s.root ≥ m.since.getD s.root + 2 ^ 20) = true := by
    rw [hsince, decide_eq_true_iff]
    exact hlate
  have hdrop : (s.putMail k { s.mail k with waiting := [] }).dispose m 4 = s.waitDropped k m f := State.dispose_sender _ hsender 4
  unfold State.overflowed
  simp only [hwaiting, partition_one, if_pos his, List.isEmpty_cons, Bool.false_eq_true, if_false, List.foldl_cons, List.foldl_nil, hdrop]
  rfl

/-- But for the warps, the overflow leaves what the drop of the message has left. -/
theorem State.overflowed_eq : ∃ ws, s.overflowed k = { s.waitDropped k m f with warps := ws } := by
  rw [State.overflowed_late hwaiting hsince hsender hlate]
  exact State.foldl_putWarp_eq ..

theorem State.mem_overflowed : (s.overflowed k).mem = s.mem := by
  obtain ⟨ws, h⟩ := State.overflowed_eq hwaiting hsince hsender hlate
  rw [h]
  exact (s.onlyArrivals_waitDropped k m f).mem

theorem State.mail_overflowed : ((s.overflowed k).mail k).waiting = [] := by
  obtain ⟨ws, h⟩ := State.overflowed_eq hwaiting hsince hsender hlate
  rw [h]
  exact s.mail_waitDropped k m f

theorem State.warp?_overflowed {a : WarpAt} {w : Warp} (hwf : Rules.slotsWf s) (hslot : a.slot < 16) (hw : s.warp? a = some w) :
    (s.overflowed k).warp? a = some (if s.overflowHits k w = true then w.overflows (k % 4096) else w) := by
  have hdrop := s.onlyArrivals_waitDropped k m f
  have hwf' : Rules.slotsWf (s.waitDropped k m f) := by
    rw [Rules.slotsWf, hdrop.warps]
    exact hwf
  have hw' : (s.waitDropped k m f).warp? a = some w := by
    rw [State.warp?, hdrop.warps]
    exact hw
  rw [State.overflowed_late hwaiting hsince hsender hlate, State.warp?_foldl_live _ hwf' hslot hw', State.overflowHits, homeKey_congr hdrop.nodes]
  rfl

end

end

end Sys2Proof.Machine

namespace Sys2Proof.Rules

open Sys2Proof.Machine

/-- Settles O46: each clause is the lemma above on its step, by the mode of the object, the state of the mailbox, or the length of the wait. -/
theorem objectAndMailSteps : Obligations.ObjectAndMailSteps := by
  refine ⟨⟨?requests, ?wakes, ?counts, ?groups⟩, ?messages, ?posts, ?probes, ?overflows⟩
  case requests =>
    intro s f o x wake
    refine ⟨fun hev hmd hholder => ?lock, fun hev hmd => ?barrier, fun q hev hmd => ?acqLock, fun q hev hmd => ?acqBarrier, fun n hev hmd => ?arm,
      fun q hev hmd => ?wait, fun q hev hmd => ?acqCount⟩
    all_goals rw [exec_releaseAtObject hev]
    case lock => exact congrArg _ (State.releases_lock hmd hholder)
    case barrier =>
      have hrel : s.objectGets (.rel f o) = _ := State.releases_barrier hmd
      exact ⟨fun hshort => congrArg _ (hrel.trans (if_neg (Nat.not_le.mpr hshort))), fun hlast => congrArg _ (hrel.trans (if_pos hlast))⟩
    case acqLock =>
      have hacq : s.objectGets (.acq f o q) = _ := State.acquireAt_lock hmd
      refine ⟨fun hgone => congrArg _ (hacq.trans (if_pos hgone)), fun a hlive hcount hwait hplace => congrArg _ ?_, fun hlive hbusy => congrArg _ ?_⟩
      · exact (hacq.trans (if_neg (by simp [hlive]))).trans ((if_pos ⟨hcount, hwait⟩).trans (State.takeLock_of hplace))
      · exact (hacq.trans (if_neg (by simp [hlive]))).trans (if_neg fun hfree => hbusy.elim (absurd hfree.1) (absurd hfree.2))
    case acqBarrier =>
      intro p
      have hacq : s.objectGets (.acq f o q) = _ := State.acquireAt_barrier hmd
      refine ⟨fun hpassed => congrArg _ ?_, fun hsame => congrArg _ (hacq.trans (State.phaseWait_waits hsame))⟩
      rw [hacq, State.phaseWait_passed hpassed, Obj.waitEff_barrier hmd]
    case arm =>
      have harm : s.objectGets (.arm f o n) = _ := State.arm_of hmd
      have hthen {y z : Obj} (h : y = z) := congrArg (fun x => (.next (((s.putObj o x).arriveFut 0 f (phased x.phase)).wakeSoon o) : Out)) h
      rw [harm]
      rcases Obj.flip_cases { s.obj o with expected := n } with ⟨hfull, cs, -, hflip⟩ | ⟨hshort, hflip⟩
      · exact ⟨cs, hthen (hflip.trans (if_pos hfull).symm)⟩
      · exact ⟨[], hthen (hflip.trans (if_neg hshort).symm)⟩
    case wait =>
      have hwait : s.objectGets (.wait f o q) = _ := State.bcwait_of hmd
      refine ⟨fun hsame => congrArg _ (hwait.trans (State.phaseWait_waits hsame)), fun hpassed => ?_⟩
      obtain ⟨ls, hflip, hlines⟩ := State.phaseWait_count hmd hpassed
      exact ⟨ls, congrArg _ (hwait.trans hflip), hlines⟩
    case acqCount =>
      have hacq : s.objectGets (.acq f o q) = _ := State.acquireAt_count hmd
      refine ⟨fun hsame => congrArg _ (hacq.trans (State.phaseWait_waits hsame)), fun hpassed => ?_⟩
      obtain ⟨ls, hflip, hlines⟩ := State.phaseWait_count hmd hpassed
      exact ⟨ls, congrArg _ (hacq.trans hflip), hlines⟩
  case wakes =>
    intro s o hev x
    rw [exec_acquireWake hev]
    refine ⟨fun f r rest a hmd hcount hwait halive hplace => congrArg _ ?_, fun hmd hcount => congrArg _ (State.wakes_held hmd hcount),
      fun f q hmd hwait hpassed => congrArg _ (State.wakes_barrier hmd hwait hpassed)⟩
    rw [State.wakes_lock hmd hcount hwait halive, State.takeLock_of (s := s.putObj o { s.obj o with waiters := rest }) hplace, State.obj_putObj, if_pos rfl]
    rfl
  case counts =>
    intro s o n ten lines hev x sum
    rw [exec_byteCountAdd hev]
    refine ⟨fun ho hmd hten => ?_, fun h => congrArg _ (State.countBytes_refused h)⟩
    have hlines := fun k hk => (s.obj o).mem_counts (lines := lines) (k := k) hk
    have hthen {y z : Obj} (h : y = z) := congrArg (fun x => (.next ((s.putObj o x).wakeSoon o) : Out)) h
    rw [State.countBytes_counted ho hmd hten]
    rcases Obj.flip_cases { s.obj o with count := sum, counted := (s.obj o).counts lines } with ⟨hfull, cs, hkept, hflip⟩ | ⟨hshort, hflip⟩
    · exact ⟨cs, hthen (hflip.trans (if_pos hfull).symm), fun k hk => hkept ▸ hlines k hk⟩
    · exact ⟨_, hthen (hflip.trans (if_neg hshort).symm), hlines⟩
  case groups =>
    intro s nid key n hev hnode b hsome hlive hall hscope
    rw [exec_groupBarrierCompletion hev]
    exact congrArg _ (State.groupComplete_cluster hnode (State.groupMet_of hnode hsome hall) hscope hlive)
  case messages =>
    intro s m f hev hsender k x src
    rw [exec_messageArrival hev]
    refine ⟨fun hnone => congrArg _ ?_, fun hwarp haway hwaiting => ?_⟩
    · unfold State.messageComes
      rw [hnone]
      exact State.dispose_sender s hsender 3
    · rw [State.messageComes_takes hwarp haway hwaiting]
      refine ⟨fun r before after hposts hwants hbefore hnodup => congrArg _ (State.mailTakes_posted hsender hposts hwants hbefore hnodup),
        fun hnone hroom => congrArg _ (State.mailTakes_queued hsender hnone hroom), fun hnone hfull hsince => congrArg _ ?_⟩
      rw [State.mailTakes_waits hnone hfull, hwaiting, hsince]
      rfl
  case posts =>
    intro s r hev k x hcancel hlive
    rw [exec_postArrival hev]
    exact ⟨fun hnone => congrArg _ (State.postComes_posted hcancel hlive hnone),
      fun m before after hqueue hwants hbefore hwaiting => congrArg _ (State.postComes_queue hcancel hlive hqueue hwants hbefore hwaiting),
      fun m f before after hqueue hwaiting hwants hbefore hsender =>
        congrArg _ (State.postComes_waiting hcancel hlive hqueue hwaiting hwants hbefore hsender)⟩
  case probes =>
    intro s r hev x
    rw [exec_probeRequest hev]
    exact ⟨fun hnone => congrArg _ (State.probeComes_none hnone),
      fun m before after hqueue hwants hbefore => congrArg _ (State.probeComes_found hqueue hwants hbefore)⟩
  case overflows =>
    intro s k m f t0 hev hwaiting hsince hsender
    rw [exec_overflowTimeout hev]
    refine ⟨fun hearly => congrArg _ (State.overflowed_early hwaiting hsince hearly), fun hlate hwf => ⟨_, rfl,
      State.mem_overflowed hwaiting hsince hsender hlate, State.mail_overflowed hwaiting hsince hsender hlate, fun a w hslot hw => ?_⟩⟩
    rw [State.warp?_overflowed hwaiting hsince hsender hlate hwf hslot hw]
    exact congrArg some (if_congr (s.overflowHits_iff k w) rfl rfl)

end Sys2Proof.Rules
end

section
/-! The empty bundle, and triggers whose guard is true in no lane (10_idioms R233; 05_core_ports_and_registers R125, R126): one lemma for each shared
trigger operation, then one group of rows for each of these operations, and the statement on both. -/

namespace Sys2Proof.Rules

open Sys2Proof.Machine

section
variable {s : State} {w : Warp} {m : Mv} {wide : Bool} {v : Lanes}

/-! ### The trigger operations on a guard that is true in no lane (05 R125, R126) -/

/-- A move whose operation does nothing without a lane does nothing. -/
theorem Ready.withMove_idle (h : Ready s w m wide 0 v) {f : W32 → Lanes → Act} (hf : f 0 v = .next s) : s.withMove w m wide f = .next s :=
  (h.withMove f).trans hf

theorem Ready.laneTrig_idle (h : Ready s w m wide 0 v) (u : Un) (lat : Nat) (f : W64 → W64 → W64 → W64 → LaneOut) :
    s.laneTrig w u lat m wide f = .next s :=
  h.withMove_idle (if_pos rfl)

theorem Ready.roundTrig_idle {t : Trig} (h : Ready s w t.mv wide 0 v) (u : Un) (lat n : Nat)
    (f : RCtl → W64 → W64 → W64 → W64 → List Nat → LaneOut) : s.roundTrig w u lat t wide n f = .next s :=
  h.withMove_idle (if_pos rfl)

theorem Ready.crossTrig_idle (h : Ready s w m wide 0 v) (u : Un) (lat : Nat) (f : W32 → Port → Lanes → Lanes × BitVec 8 × List W32) :
    s.crossTrig w u lat m wide f = .next s :=
  h.withMove_idle (if_pos rfl)

theorem Ready.acTrig_idle (h : Ready s w m false 0 v) (f : Port → W32 → List (Nat × Nat × Nat) → Act) : s.acTrig w m f = .next s :=
  h.withMove_idle (if_pos rfl)

theorem Ready.scalarTrig_idle (h : Ready s w m wide 0 v) (u : Un) (lat : Nat) (f : W64 → W64 → W64 → W64 → LaneOut) :
    s.scalarTrig w u lat m wide f = .next s :=
  h.withMove_idle (by simp only [lowest_zero])

theorem Ready.engineTrig_idle (h : Ready s w m false 0 v) (u : Un) (f : Port → W64 → Nat → Act) : s.engineTrig w u m f = .next s :=
  h.withMove_idle (by simp only [lowest_zero])

theorem Ready.memTrig_idle {t : MTrig} (h : Ready s w t.mv false 0 v) (u : Un) (one : Bool) (need : BufRec → Need)
    (f : BufRec → W32 → Nat → List (Nat × LaneRes) → Act) : s.memTrig w u t one need f = .next s :=
  h.withMove_idle (by simp only [lowest_zero])

theorem Ready.atTrig_idle {t : MTrig} (h : Ready s w t.mv false 0 v) (op : AtOp) (sc : Scope) : s.atTrig w op sc t = .next s :=
  h.withMove_idle (h.memTrig_idle ..)

/-- A row that does nothing for the warp at the cursor leaves the state as it is. -/
theorem issue_idle (h : Ready s w m wide 0 v) {f : Warp → Act} (hf : f w = .next s) : issue s f = .next { s with verdict := .done } :=
  issue_done h.live hf

/-! ### Rows in a move slot that trigger nothing (11 R241) -/

theorem isTrigger_moveToPort (u : Un) (k : PortIx) (wide : Bool) (m : Mv) : isTrigger (.moveToPort u k wide m) = false := by
  have hk : k.code < 3 := by cases k <;> decide
  have hport : ((u.code * 4 + k.code) % 4 == 3) = false := beq_false_of_ne (by omega)
  simp only [isTrigger, Instr.raw, hport, Bool.and_false]

theorem isTrigger_moveToRegister (d : RegDst) (m : Mv) : isTrigger (.moveToRegister d m) = false := by
  cases d <;> rfl

theorem isTrigger_ringPush (n : BitVec 4) (m : Mv) : isTrigger (.ringPush n m) = false := by
  have hdst : decide (0x70 + n.toNat < 0x6C) = false := decide_eq_false (by omega)
  simp only [isTrigger, Instr.raw, hdst, Bool.false_and]

/-! ### Every trigger -/

/-- A row that triggers a unit reads its source, and without a lane it goes no further (05 R125, R126). -/
theorem exec_trigger_idle {i : Instr} {r : RawMove} (hr : i.raw = some r) (ht : isTrigger i = true) (h : Ready s w r.mv i.readsWide 0 v) :
    exec i s = .next { s with verdict := .done } := by
  cases i with
  | moveToPort => exact absurd ((isTrigger_moveToPort ..).symm.trans ht) Bool.false_ne_true
  | moveToRegister => exact absurd ((isTrigger_moveToRegister ..).symm.trans ht) Bool.false_ne_true
  | ringPush => exact absurd ((isTrigger_ringPush ..).symm.trans ht) Bool.false_ne_true
  | iaAdd | iaSub | iaMin | iaMax | iaAnd | iaOr | iaXor | iaAndn | iaEq | iaNe | iaLt | iaLe | iaSel | iaAbs | iaNeg | iaMov
  | imMul | imMulhi | imMad | mulw | madw | dp4
  | shShl | shShr | shSar | rol | ror | popc | clz | ctz | brev | bfx | bfxs | bfi | perm
  | faMin | faMax | faEq | faLt | faLe | plAnd | plOr | plXor | plAndn | plNot =>
    cases hr
    exact issue_idle h (h.laneTrig_idle ..)
  | faAdd | faSub | faMul | fma | fnma | cvt | rcp | rsq | sqrt | exp | log | sin | cos | tanh | frc | rnd | cls =>
    cases hr
    exact issue_idle h (h.roundTrig_idle ..)
  | xlSum | xlMin | xlMax | xlAnd | xlOr | scan | shfl | up | down | bfly | bcast | ballot | plAny | plAll =>
    cases hr
    exact issue_idle h (h.crossTrig_idle ..)
  | saAdd | saSub | saMin | saMax | saAnd | saOr | saXor | saAndn | saEq | saNe | saLt | saLe | saSel | saShl | saShr | saSar
  | smMul | smMulhi | smMad | div | rem =>
    cases hr
    exact issue_idle h (h.scalarTrig_idle ..)
  | ld | lds | ldu | preq | touch | st | stu | wb | inv =>
    cases hr
    exact issue_idle h (h.memTrig_idle ..)
  | atAdd | umin | umax | smin | smax | atAnd | atOr | exch | cas | incw | decw | addb =>
    cases hr
    exact issue_idle h (h.atTrig_idle ..)
  | acRd | acWr =>
    cases hr
    exact issue_idle h (h.acTrig_idle ..)
  | go | mcast | copyResume | cwany | cwall | cffr
  | mmBf16 | mmF16 | mmE4m3 | mmE5m2 | mmS8 | mmQ4 | scacc | drain | hrot | taskResume | win | acZero
  | acq | rel | fence | barArr | barWait | barSync | barSet | gbar | bcarm | bcwait
  | sol | sreply | tins | tdel | tmove | send | post | probe | rmake | rfree | radv | rwait | vgive | vclaim | rcnt =>
    cases hr
    exact issue_idle h (h.engineTrig_idle ..)
  | qunpack =>
    cases hr
    exact issue_idle h (h.withMove_idle (if_pos rfl))
  | qpack | ldc | csize =>
    cases hr
    exact issue_idle h (h.withMove_idle (by simp only [lowest_zero]))
  | _ => exact absurd ht Bool.false_ne_true

/-! ### The empty bundle (10 R233) -/

theorem exec_noOperation (h : s.warp? s.cur = some w) (hloop : w.ctx.loop = none) :
    exec .noOperation s = .next (mine s (atPc w (w.ctx.pc + 32))) :=
  issue_done (f := fun _ => .next (s.advance s.cur)) h (congrArg Act.next (advance_of h hloop))

end

/-- Settles O13: an empty bundle advances the program counter alone, and each trigger without a lane does nothing, as the two lemmas above say. -/
theorem emptyAndGuardedOff : Obligations.EmptyAndGuardedOff :=
  ⟨fun _ _ h hloop => exec_noOperation h hloop, fun _ _ _ _ _ hr ht h => exec_trigger_idle hr ht h⟩

end Sys2Proof.Rules
end

section
/-! The round trip of the encoder (11_bundle_encoding R235 to R252): the lemmas of Laws/PerInstr.lean as one. -/

namespace Sys2Proof.Laws.Encoding

/-- A well-formed instruction's fields fit their places and are read back from them. -/
theorem fields_read_back (i : Instr) : Statement i := by
  cases i with
  | moveToPort => exact moveToPort _ _ _ _ | moveToRegister => exact moveToRegister _ _ | moveToPredicate => exact moveToPredicate _ _
  | specialRegisterWrite => exact specialRegisterWrite _ _ | ringPush => exact ringPush _ _ | iaAdd => exact iaAdd _ _ _ | iaSub => exact iaSub _ _ _
  | iaMin => exact iaMin _ _ _ | iaMax => exact iaMax _ _ _ | iaAnd => exact iaAnd _ _ _ | iaOr => exact iaOr _ _ _ | iaXor => exact iaXor _ _ _
  | iaAndn => exact iaAndn _ _ _ | iaEq => exact iaEq _ _ _ | iaNe => exact iaNe _ _ _ | iaLt => exact iaLt _ _ _ | iaLe => exact iaLe _ _ _
  | iaSel => exact iaSel _ _ _ | iaAbs => exact iaAbs _ _ _ | iaNeg => exact iaNeg _ _ _ | iaMov => exact iaMov _ _ _ | imMul => exact imMul _ _
  | imMulhi => exact imMulhi _ _ | imMad => exact imMad _ _ | mulw => exact mulw _ _ | madw => exact madw _ _ | dp4 => exact dp4 _ _
  | shShl => exact shShl _ _ | shShr => exact shShr _ _ | shSar => exact shSar _ _ | rol => exact rol _ _ | ror => exact ror _ _
  | popc => exact popc _ _ | clz => exact clz _ _ | ctz => exact ctz _ _ | brev => exact brev _ _ | bfx => exact bfx _ _ | bfxs => exact bfxs _ _
  | bfi => exact bfi _ _ | perm => exact perm _ _ | faAdd => exact faAdd _ _ _ | faSub => exact faSub _ _ _ | faMul => exact faMul _ _ _
  | fma => exact fma _ _ _ | fnma => exact fnma _ _ _ | faMin => exact faMin _ _ _ | faMax => exact faMax _ _ _ | faEq => exact faEq _ _ _
  | faLt => exact faLt _ _ _ | faLe => exact faLe _ _ _ | cvt => exact cvt _ _ _ | rcp => exact rcp _ | rsq => exact rsq _ | sqrt => exact sqrt _
  | exp => exact exp _ | log => exact log _ | sin => exact sin _ | cos => exact cos _ | tanh => exact tanh _ | frc => exact frc _
  | rnd => exact rnd _ | cls => exact cls _ | qpack => exact qpack _ | qunpack => exact qunpack _ | xlSum => exact xlSum _ _
  | xlMin => exact xlMin _ _ | xlMax => exact xlMax _ _ | xlAnd => exact xlAnd _ _ | xlOr => exact xlOr _ _ | scan => exact scan _ _
  | shfl => exact shfl _ _ | up => exact up _ _ | down => exact down _ _ | bfly => exact bfly _ _ | bcast => exact bcast _ _
  | ballot => exact ballot _ _ | plAnd => exact plAnd _ | plOr => exact plOr _ | plXor => exact plXor _ | plAndn => exact plAndn _
  | plNot => exact plNot _ | plAny => exact plAny _ | plAll => exact plAll _ | saAdd => exact saAdd _ _ _ | saSub => exact saSub _ _ _
  | saMin => exact saMin _ _ _ | saMax => exact saMax _ _ _ | saAnd => exact saAnd _ _ _ | saOr => exact saOr _ _ _ | saXor => exact saXor _ _ _
  | saAndn => exact saAndn _ _ _ | saEq => exact saEq _ _ _ | saNe => exact saNe _ _ _ | saLt => exact saLt _ _ _ | saLe => exact saLe _ _ _
  | saSel => exact saSel _ _ _ | saShl => exact saShl _ _ _ | saShr => exact saShr _ _ _ | saSar => exact saSar _ _ _ | smMul => exact smMul _ _
  | smMulhi => exact smMulhi _ _ | smMad => exact smMad _ _ | div => exact div _ _ | rem => exact rem _ _ | ldc => exact ldc _ | ld => exact ld _ _
  | lds => exact lds _ _ | ldu => exact ldu _ _ | preq => exact preq _ _ | touch => exact touch _ _ | st => exact st _ | stu => exact stu _
  | wb => exact wb _ | inv => exact inv _ | csize => exact csize _ | atAdd => exact atAdd _ _ | umin => exact umin _ _ | umax => exact umax _ _
  | smin => exact smin _ _ | smax => exact smax _ _ | atAnd => exact atAnd _ _ | atOr => exact atOr _ _ | exch => exact exch _ _
  | cas => exact cas _ _ | incw => exact incw _ _ | decw => exact decw _ _ | addb => exact addb _ _ | go => exact go _ | mcast => exact mcast _
  | copyResume => exact copyResume _ | cwany => exact cwany _ | cwall => exact cwall _ | cffr => exact cffr _ | mmBf16 => exact mmBf16 _ _
  | mmF16 => exact mmF16 _ _ | mmE4m3 => exact mmE4m3 _ _ | mmE5m2 => exact mmE5m2 _ _ | mmS8 => exact mmS8 _ _ | mmQ4 => exact mmQ4 _ _
  | scacc => exact scacc _ _ | drain => exact drain _ _ | hrot => exact hrot _ _ | taskResume => exact taskResume _ | win => exact win _
  | acRd => exact acRd _ | acWr => exact acWr _ | acZero => exact acZero _ | acq => exact acq _ _ | rel => exact rel _ _ | fence => exact fence _ _
  | barArr => exact barArr _ | barWait => exact barWait _ | barSync => exact barSync _ | barSet => exact barSet _ | gbar => exact gbar _
  | bcarm => exact bcarm _ | bcwait => exact bcwait _ | sol => exact sol _ | sreply => exact sreply _ | tins => exact tins _ | tdel => exact tdel _
  | tmove => exact tmove _ | send => exact send _ | post => exact post _ | probe => exact probe _ | rmake => exact rmake _ | rfree => exact rfree _
  | radv => exact radv _ | rwait => exact rwait _ | vgive => exact vgive _ | vclaim => exact vclaim _ | rcnt => exact rcnt _ | br => exact br _
  | brz => exact brz _ _ | brnz => exact brnz _ _ | brany => exact brany _ _ _ | brall => exact brall _ _ _ | jmp => exact jmp _
  | call => exact call _ | ret => exact ret | mloop => exact mloop _ _ _ | vif => exact vif _ _ | velse => exact velse | vend => exact vend
  | vloop => exact vloop | vwhile => exact vwhile _ _ | vbrk => exact vbrk _ | vnext => exact vnext _ | exit => exact exit | trap => exact trap _
  | yield => exact yield | bkpt => exact bkpt | fwait => exact fwait _ | ftest => exact ftest _ _ | fcancel => exact fcancel _
  | fpass => exact fpass _ _ | sysrd => exact sysrd _ _ | syswr => exact syswr _ _ | ctxsv => exact ctxsv _ | ctxld => exact ctxld _
  | launch => exact launch _ _ | eve => exact eve | pwait => exact pwait | gang => exact gang _ _
  | _ => exact of_neither rfl rfl

end Sys2Proof.Laws.Encoding
end

section
/-! The layout of bundles (11_bundle_encoding R235 to R252): a slot, the list of slots, the header, the bundles that `encode` writes, and the
statement that decoding gives an encoded instruction back. -/

namespace Sys2Proof.Rules

/-! ### Sources and slots (11 R238 to R240) -/

theorem Un.code_lt (u : Un) : u.code < 32 := by cases u <;> decide

theorem Un.ofCode_code (u : Un) : Un.ofCode u.code = some u := by cases u <;> rfl

theorem ofNat_add_toNat {n a : Nat} (x : BitVec n) (ha : a % 2 ^ n = 0) : BitVec.ofNat n (a + x.toNat) = x :=
  BitVec.eq_of_toNat_eq (by rw [BitVec.toNat_ofNat, Nat.add_mod, ha, Nat.zero_add, Nat.mod_mod, Nat.mod_eq_of_lt x.isLt])

section
variable {k : Nat} (hk : k < 6)
include hk

theorem Src.code_lt (src : Src) : src.code k < 4096 := by
  cases src with
  | res u | sec u => have := Un.code_lt u; simp only [Src.code]; omega
  | litZ | litS => simp only [Src.code]; omega
  | _ n => have := n.isLt; simp only [Src.code]; omega

/-- A source is read back from its code where the bundle holds its literal. -/
theorem srcOf_code {l : Lits} {src : Src} (hlit : ∀ v, src.lit = some v → l.get k = some v) : srcOf l (src.code k) = .ok src := by
  cases src with
  | res u | sec u =>
    have := Un.code_lt u
    simp (disch := omega) only [srcOf, Src.code, if_pos, if_neg, Nat.add_sub_cancel_left, Un.ofCode_code]
  | litZ v | litS v => simp (disch := omega) only [srcOf, Src.code, if_pos, if_neg, Nat.add_sub_cancel_left, hlit v rfl]
  | vreg n =>
    simp (disch := omega) only [srcOf, Src.code, if_pos, BitVec.ofNat_toNat, BitVec.setWidth_eq]
  | _ n =>
    have := n.isLt
    simp (disch := omega) only [srcOf, Src.code, if_pos, if_neg, ofNat_add_toNat]

end

theorem legal_eq_ok {i j : Instr} : legal i = .ok j ↔ i = j ∧ WellFormed j := by
  unfold legal WellFormed
  constructor
  · intro h
    split at h
    · cases h
    · cases h; exact ⟨rfl, ‹_›⟩
  · rintro ⟨rfl, h⟩
    rw [h]

section
variable {r : RawMove} {k : Nat} (hdst : r.dst < 128) (hfn : r.fn < 256) (hmd : r.md < 256) (hk : k < 6)
include hdst hfn hmd hk

theorem RawMove.slot_lt : r.slot k < 2 ^ 40 := by
  have hsrc := Src.code_lt hk r.mv.src
  have hpred := r.mv.g.pred.isLt
  have hpol := r.mv.g.pol.toNat_lt
  unfold RawMove.slot
  omega

/-- The fields of a slot (11 R238). -/
theorem RawMove.slot_fields : bitsAt (r.slot k) 0 8 = r.md ∧ bitsAt (r.slot k) 8 8 = r.fn ∧ bitsAt (r.slot k) 16 7 = r.dst ∧
    bitsAt (r.slot k) 23 12 = r.mv.src.code k ∧ bitsAt (r.slot k) 35 4 = r.mv.g.pred.toNat ∧ r.slot k / 2 ^ 39 % 2 = r.mv.g.pol.toNat ∧
    bitsAt (r.slot k) 35 5 = r.mv.g.pred.toNat + 16 * r.mv.g.pol.toNat := by
  have hsrc := Src.code_lt hk r.mv.src
  have hpred := r.mv.g.pred.isLt
  have hpol := r.mv.g.pol.toNat_lt
  unfold RawMove.slot bitsAt
  omega

/-- A move whose guard marks no empty slot is read back from its slot. -/
theorem decodeSlot_slot {l : Lits} {i : Instr} (hlit : ∀ v, r.mv.src.lit = some v → l.get k = some v)
    (hmove : moveOf r.dst r.fn r.md r.mv = .ok i) (hguard : ¬(r.mv.g.pol = true ∧ r.mv.g.pred.toNat = 0)) (hwf : WellFormed i) :
    decodeSlot l (r.slot k) = .ok (some i) := by
  obtain ⟨h0, h8, h16, h23, h35, h39, hempty⟩ := RawMove.slot_fields hdst hfn hmd hk
  have hpol : bitAt (r.slot k) 39 = r.mv.g.pol := by
    unfold bitAt
    rw [h39]
    cases r.mv.g.pol <;> rfl
  have hfull : ¬bitsAt (r.slot k) 35 5 = 16 := by
    rw [hempty]
    have := r.mv.g.pred.isLt
    cases hp : r.mv.g.pol with
    | true => have : r.mv.g.pred.toNat ≠ 0 := fun h => hguard ⟨hp, h⟩; simp; omega
    | false => simp; omega
  have hmv : (⟨⟨r.mv.g.pol, BitVec.ofNat 4 r.mv.g.pred.toNat⟩, r.mv.src⟩ : Mv) = r.mv := by simp
  rw [decodeSlot, if_neg hfull, h0, h8, h16, h23, h35, hpol, srcOf_code hk hlit]
  simp only [bind, Except.bind]
  rw [hmv, hmove]
  simp only [legal_eq_ok.mpr ⟨rfl, hwf⟩]

end

/-! ### The slots of a bundle (11 R236, R237, R239) -/

theorem Lits.get_litsOf {w n k : Nat} (hk : k < n) :
    (litsOf w n).get k = if bitAt w (240 + k) then some (BitVec.ofNat 40 (bitsAt w (40 * k) 40)) else none := by
  simp [Lits.get, litsOf, hk]

/-- Slots that hold a literal or nothing give no move. -/
theorem decodeSlots_nothing {l : Lits} {w n k : Nat}
    (h : ∀ j, k ≤ j → j < k + n → (l.get j).isSome = true ∨ bitsAt w (40 * j) 40 = emptySlot) : decodeSlots l w k n = .ok [] := by
  induction n generalizing k with
  | zero => rfl
  | succ n ih =>
    have hrest := ih (k := k + 1) fun j hj hj' => h j (by omega) (by omega)
    rw [decodeSlots]
    split
    case isTrue => exact hrest
    case isFalse hlit =>
      rw [(h k le_rfl (by omega)).resolve_left hlit, show decodeSlot l emptySlot = .ok none from rfl]
      exact hrest

theorem decodeSlots_move {l : Lits} {w n k : Nat} {i : Instr} (hlit : l.get k = none) (hi : decodeSlot l (bitsAt w (40 * k) 40) = .ok (some i))
    (hrest : decodeSlots l w (k + 1) n = .ok []) : decodeSlots l w k (n + 1) = .ok [(k, i)] := by
  rw [decodeSlots, hlit, hi, hrest]
  rfl

/-! ### The header (11 R235, R236) -/

section
variable {w : Nat} {l : List (Nat × Instr)}

theorem decodeBundle_moves (hkind : bitsAt w 254 2 = 0) (hres : bitsAt w 246 8 = 0) (hl : decodeSlots (litsOf w 6) w 0 6 = .ok l) :
    decodeBundle w = .ok ⟨none, l⟩ := by
  simp only [decodeBundle, hkind, hres, hl]
  rfl

theorem decodeBundle_control {c : Instr} (hkind : bitsAt w 254 2 = 1) (hres : bitsAt w 246 8 = 0) (hlit : bitsAt w 244 2 = 0)
    (hc : decodeCtl (bitsAt w 160 80) = .ok c) (hl : decodeSlots (litsOf w 4) w 0 4 = .ok l) : decodeBundle w = .ok ⟨some c, l⟩ := by
  simp only [decodeBundle, hkind, hres, hlit, hc, hl]
  rfl

theorem decodeTableWord_of {b : Bundle} (hw : w < 2 ^ 256) (hb : decodeBundle w = .ok b) : decodeTableWord 256 w = b.single := by
  rw [decodeTableWord, Nat.min_self, Nat.mod_eq_of_lt hw, hb]

end

/-! ### The bundles that `encode` writes (11 R254) -/

/-- The bundle of one move: its slot, its literal in slot 1, and empty slots. -/
def moveBundle (s : Nat) : Option (BitVec 40) → Nat
  | none => alone s
  | some v => s + v.toNat * 2 ^ 40 + 2 ^ 119 + 2 ^ 159 + 2 ^ 199 + 2 ^ 239 + 2 ^ 241

/-- The bundle of one control operation, from its field. -/
def controlBundle (c : Nat) : Nat := c * 2 ^ 160 + 2 ^ 39 + 2 ^ 79 + 2 ^ 119 + 2 ^ 159 + 2 ^ 254

/-- Empty slots as `encode` writes them: those from a to b in a bundle of n. -/
def emptySlots (a b n : Nat) : Nat := ((List.range n).map fun k => if k < a then 0 else if k < b then emptySlot * 2 ^ (40 * k) else 0).sum

theorem encode_move {i : Instr} {r : RawMove} (hno : i ≠ .noOperation) (hctl : i.ctl = none) (hraw : i.raw = some r) :
    encode i = some (moveBundle (r.slot 1) r.mv.src.lit) := by
  have hone : emptySlots 1 6 6 = 2 ^ 79 + 2 ^ 119 + 2 ^ 159 + 2 ^ 199 + 2 ^ 239 := rfl
  have htwo : emptySlots 2 6 6 = 2 ^ 119 + 2 ^ 159 + 2 ^ 199 + 2 ^ 239 := rfl
  unfold encode
  split
  case h_1 => exact absurd rfl hno
  case h_2 =>
    rw [hctl, hraw]
    cases hlit : r.mv.src.lit with
    | none =>
      simp only [hlit]
      change some (r.slot 1 + emptySlots 1 6 6) = _
      rw [hone, moveBundle, alone]
      exact congrArg some (by omega)
    | some v =>
      simp only [hlit]
      change some (2 ^ 241 + v.toNat * 2 ^ 40 + r.slot 1 + emptySlots 2 6 6) = _
      rw [htwo, moveBundle]
      exact congrArg some (by omega)

theorem encode_control {i : Instr} {f : CtlFields} (hno : i ≠ .noOperation) (hctl : i.ctl = some f) : encode i = some (controlBundle f.word) := by
  have hfour : emptySlots 0 4 6 = 2 ^ 39 + 2 ^ 79 + 2 ^ 119 + 2 ^ 159 := rfl
  unfold encode
  split
  case h_1 => exact absurd rfl hno
  case h_2 =>
    rw [hctl]
    change some (2 ^ 254 + f.word * 2 ^ 160 + emptySlots 0 4 6) = _
    rw [hfour, controlBundle]
    exact congrArg some (by omega)

section
variable {s : Nat} {lit : Option (BitVec 40)} (hs : s < 2 ^ 40)
include hs

theorem moveBundle_header : moveBundle s lit < 2 ^ 256 ∧ bitsAt (moveBundle s lit) 254 2 = 0 ∧ bitsAt (moveBundle s lit) 246 8 = 0 := by
  cases lit with
  | none => simp only [moveBundle, alone, bitsAt]; omega
  | some v => have := v.isLt; simp only [moveBundle, bitsAt]; omega

theorem moveBundle_first : bitsAt (moveBundle s lit) 0 40 = s ∧ (litsOf (moveBundle s lit) 6).get 0 = none := by
  rw [Lits.get_litsOf (by omega)]
  simp only [bitAt, ite_eq_right_iff, reduceCtorEq, imp_false, beq_iff_eq]
  cases lit with
  | none => simp only [moveBundle, alone, bitsAt]; omega
  | some v => have := v.isLt; simp only [moveBundle, bitsAt]; omega

theorem moveBundle_literal {v : BitVec 40} : (litsOf (moveBundle s (some v)) 6).get 1 = some v := by
  have hv := v.isLt
  have hset : bitAt (moveBundle s (some v)) 241 = true := by simp only [bitAt, moveBundle, beq_iff_eq]; omega
  have hval : bitsAt (moveBundle s (some v)) 40 40 = v.toNat := by simp only [bitsAt, moveBundle]; omega
  rw [Lits.get_litsOf (by omega), if_pos hset, hval, BitVec.ofNat_toNat, BitVec.setWidth_eq]

theorem moveBundle_rest {j : Nat} (hj : 1 ≤ j) (hj' : j < 6) :
    ((litsOf (moveBundle s lit) 6).get j).isSome = true ∨ bitsAt (moveBundle s lit) (40 * j) 40 = emptySlot := by
  cases lit with
  | none =>
    right
    simp only [bitsAt, moveBundle, alone, emptySlot]
    interval_cases j <;> omega
  | some v =>
    have hv := v.isLt
    obtain rfl | hj := hj.eq_or_lt
    · left
      rw [moveBundle_literal hs]; rfl
    · right
      simp only [bitsAt, moveBundle, emptySlot]
      interval_cases j <;> omega

end

/-- The bundle of one move holds that move in slot 0. -/
theorem decodeBundle_moveBundle {s : Nat} {lit : Option (BitVec 40)} {i : Instr} (hs : s < 2 ^ 40)
    (hi : decodeSlot (litsOf (moveBundle s lit) 6) s = .ok (some i)) : decodeBundle (moveBundle s lit) = .ok ⟨none, [(0, i)]⟩ := by
  obtain ⟨-, hkind, hres⟩ := moveBundle_header (lit := lit) hs
  obtain ⟨hslot, hlit⟩ := moveBundle_first (lit := lit) hs
  exact decodeBundle_moves hkind hres (decodeSlots_move hlit (by rw [Nat.mul_zero, hslot]; exact hi)
    (decodeSlots_nothing fun j hj hj' => moveBundle_rest hs hj (by omega)))

theorem decodeBundle_controlBundle {c : Nat} {i : Instr} (hc : c < 2 ^ 80) (hi : decodeCtl c = .ok i) :
    controlBundle c < 2 ^ 256 ∧ decodeBundle (controlBundle c) = .ok ⟨some i, []⟩ := by
  have hslots : decodeSlots (litsOf (controlBundle c) 4) (controlBundle c) 0 4 = .ok [] := decodeSlots_nothing fun j _ hj => .inr (by
    simp only [bitsAt, controlBundle, emptySlot]
    interval_cases j <;> omega)
  obtain ⟨hkind, hres, hlit, hfield⟩ : bitsAt (controlBundle c) 254 2 = 1 ∧ bitsAt (controlBundle c) 246 8 = 0 ∧
      bitsAt (controlBundle c) 244 2 = 0 ∧ bitsAt (controlBundle c) 160 80 = c := by
    simp only [bitsAt, controlBundle]
    omega
  exact ⟨by unfold controlBundle; omega, decodeBundle_control hkind hres hlit (hfield.symm ▸ hi) hslots⟩

theorem encode_noOperation : ∃ w, encode .noOperation = some w ∧ w < 2 ^ 256 ∧ decodeTableWord 256 w = some .noOperation :=
  ⟨_, rfl, of_decide_eq_true rfl, rfl⟩

theorem guard_of_encodable {i : Instr} (h : i.encodable = true) (hno : i ≠ .noOperation) (hctl : i.ctl = none) :
    ∃ r, i.raw = some r ∧ ¬(r.mv.g.pol = true ∧ r.mv.g.pred.toNat = 0) := by
  cases hraw : i.raw with
  | none => simp [Instr.encodable, hno, hctl, hraw] at h
  | some r => exact ⟨r, rfl, by simpa [Instr.encodable, hno, hctl, hraw, imp_iff_not_or] using h⟩

/-- Settles O54: the empty bundle by computation, a control operation by its field, a move by the fields of its slot. -/
theorem decodeEncode : Obligations.DecodeEncode := by
  intro i hwf henc
  obtain ⟨hmove, hcontrol⟩ := Laws.Encoding.fields_read_back i hwf
  by_cases hno : i = .noOperation
  · subst hno
    exact encode_noOperation
  cases hctl : i.ctl with
  | some f =>
    obtain ⟨hlt, hread⟩ := hcontrol f hctl
    obtain ⟨hw, hb⟩ := decodeBundle_controlBundle hlt hread
    exact ⟨_, encode_control hno hctl, hw, decodeTableWord_of hw hb⟩
  | none =>
    obtain ⟨r, hraw, hguard⟩ := guard_of_encodable henc hno hctl
    obtain ⟨hdst, hfn, hmd, hread⟩ := hmove r hraw
    have hs := RawMove.slot_lt hdst hfn hmd (show 1 < 6 by decide)
    have hlit : ∀ v, r.mv.src.lit = some v → (litsOf (moveBundle (r.slot 1) r.mv.src.lit) 6).get 1 = some v :=
      fun v hv => hv.symm ▸ moveBundle_literal hs
    have hw := (moveBundle_header (lit := r.mv.src.lit) hs).1
    have hb := decodeBundle_moveBundle hs (decodeSlot_slot hdst hfn hmd (by decide) hlit hread hguard hwf)
    exact ⟨_, encode_move hno hctl hraw, hw, decodeTableWord_of hw hb⟩

end Sys2Proof.Rules
end

section
/-! What the decoder reads and refuses (11_bundle_encoding R235 to R252): each table of rows, a slot, the list of slots, the bundle, and the
statement on legal encodings. -/

namespace Sys2Proof.Rules

/-! ### What the decoder reads (11 R238 to R252) -/

section
variable {i : Instr} {u : Un} {fn md dst : Nat} {m : Mv}

/-- The instruction stands in a move slot, with this guard and source. -/
def Carries (i : Instr) (m : Mv) : Prop := i.raw.map RawMove.mv = some m

/-- No unit has more than sixteen typed functions. -/
theorem ofTyped_none (u : Un) (op : Nat) (ty : Ty) (t : Trig) : ofTyped u (op + 16) ty t = none := by cases u <;> rfl

/-- Row by row of the table of 11 R244. -/
theorem carries_ofTyped {op : Nat} {ty : Ty} {t : Trig} (h : ofTyped u op ty t = some i) : Carries i t.mv := by
  obtain hop | hop := Nat.lt_or_ge op 16
  · interval_cases op <;> cases u <;> cases h <;> rfl
  · obtain ⟨k, rfl⟩ := Nat.exists_eq_add_of_le' hop
    cases (ofTyped_none u k ty t).symm.trans h

theorem carries_ofSpecial {t : Trig} (h : ofSpecial fn t = some i) : Carries i t.mv := by
  unfold ofSpecial at h
  split at h <;> cases h <;> rfl

theorem carries_plainForm (h : plainForm u fn m = some i) : Carries i m := by
  unfold plainForm at h
  split at h <;> cases h <;> rfl

theorem carries_recordForm {t : MTrig} (h : recordForm u fn t = some i) : Carries i t.mv := by
  unfold recordForm at h
  split at h <;> cases h <;> rfl

theorem carries_atomicForm {op : Nat} {sc : Scope} {t : MTrig} (h : atomicForm op sc t = some i) : Carries i t.mv := by
  unfold atomicForm at h
  split at h <;> cases h <;> rfl

theorem carries_taskForm {tri : Bool} {t : MTrig} (h : taskForm fn tri t = some i) : Carries i t.mv := by
  unfold taskForm at h
  split at h <;> cases h <;> rfl

theorem carries_scopeForm {sc : Scope} (h : scopeForm fn sc m = some i) : Carries i m := by
  unfold scopeForm at h
  split at h <;> cases h <;> rfl

theorem carries_laneTrigger {t : Trig} (h : laneTrigger u fn t = .ok i) : Carries i t.mv := by
  unfold laneTrigger at h
  split at h
  case h_1 =>
    split_ifs at h
    · cases h; rfl
    · split at h <;> cases h
      exact carries_ofSpecial ‹_›
  case h_2 =>
    split_ifs at h
    split at h <;> cases h
    exact carries_ofTyped ‹_›
  case h_3 =>
    split at h <;> cases h
    exact carries_ofTyped ‹_›

theorem carries_otherTrigger (h : otherTrigger u fn md m = .ok i) : Carries i m := by
  unfold otherTrigger at h
  split at h
  case h_1 hplain =>
    split_ifs at h
    cases h
    exact carries_plainForm hplain
  case h_2 =>
  simp only at h
  split at h
  case h_1 hrecord =>
    split_ifs at h
    cases h
    exact carries_recordForm hrecord
  case h_2 =>
  split at h
  case h_1 =>
    split at h
    case h_1 => cases h
    case h_2 =>
    split at h
    case h_1 hatomic =>
      split_ifs at h
      cases h
      exact carries_atomicForm hatomic
    case h_2 => cases h
  case h_2 =>
    split at h
    case h_1 htask =>
      split_ifs at h
      cases h
      exact carries_taskForm htask
    case h_2 => cases h
  case h_3 =>
    split at h
    case h_1 => split_ifs at h
    case h_2 =>
    split at h <;> cases h
    exact carries_scopeForm ‹_›
  case h_4 => cases h

/-- What is read from a slot's fields stands in a slot, with the guard and source given. -/
theorem carries_moveOf (h : moveOf dst fn md m = .ok i) : Carries i m := by
  unfold moveOf at h
  split at h
  case isTrue =>
    split at h
    case h_1 => cases h
    case h_2 =>
    split at h
    case isTrue =>
      split at h
      · exact carries_laneTrigger h
      · exact carries_otherTrigger h
    case isFalse => split at h <;> cases h; rfl
  case isFalse =>
    split_ifs at h <;> cases h <;> rfl

theorem control_of_raw {r : RawMove} (h : i.raw = some r) : i.control = false := by
  cases i with
  | br | brz | brnz | brany | brall | jmp | call | ret | mloop | vif | velse | vend | vloop | vwhile | vbrk | vnext | exit | trap | yield | bkpt
  | fwait | ftest | fcancel | fpass | sysrd | syswr | ctxsv | ctxld | launch | eve | pwait | gang => cases h
  | _ => rfl

/-- A legal row of a move slot, whose guard marks no empty slot. -/
structure SlotRow (i : Instr) : Prop where
  wf : WellFormed i
  encodable : i.encodable = true
  control : i.control = false
  busy : i ≠ .noOperation

theorem encodable_of_raw {r : RawMove} (hraw : i.raw = some r) (hguard : ¬(r.mv.g.pol = true ∧ r.mv.g.pred.toNat = 0)) : i.encodable = true := by
  have hbusy : (r.mv.g.pol && r.mv.g.pred.toNat == 0) = false := by simpa using hguard
  simp [Instr.encodable, hraw, hbusy]

/-- The guard of polarity 1 with p0 marks an empty slot (11 R239). -/
theorem empty_of_guard {w : Nat} (hpol : bitAt w 39 = true) (hpred : (BitVec.ofNat 4 (bitsAt w 35 4)).toNat = 0) : bitsAt w 35 5 = 16 := by
  simp only [bitAt, beq_iff_eq] at hpol
  simp only [bitsAt, BitVec.toNat_ofNat] at *
  omega

theorem decodeSlot_row {l : Lits} {w : Nat} (h : decodeSlot l w = .ok (some i)) : SlotRow i := by
  unfold decodeSlot at h
  split at h
  case isTrue => split_ifs at h; cases h
  case isFalse hfull =>
    simp only [bind, Except.bind] at h
    split at h
    case h_1 => cases h
    case h_2 src _ =>
    split at h
    case h_1 => cases h
    case h_2 j hmove =>
    split at h
    case h_1 => cases h
    case h_2 j' hlegal =>
    cases h
    obtain ⟨rfl, hwf⟩ := legal_eq_ok.mp hlegal
    obtain ⟨r, hraw, hmv⟩ := Option.map_eq_some_iff.mp (carries_moveOf hmove)
    refine ⟨hwf, encodable_of_raw hraw fun hguard => hfull ?_, control_of_raw hraw, fun h => by rw [h] at hraw; cases hraw⟩
    rw [hmv] at hguard
    exact empty_of_guard hguard.1 hguard.2

theorem decodeCtl_row {w : Nat} (h : decodeCtl w = .ok i) : WellFormed i ∧ i.control = true := by
  simp only [decodeCtl] at h
  split at h
  case h_1 => cases h
  case h_2 j _ hop =>
    split_ifs at h
    obtain ⟨rfl, hwf⟩ := legal_eq_ok.mp h
    refine ⟨hwf, ?_⟩
    unfold ctlOf at hop
    simp only at hop
    split at hop <;> cases hop <;> rfl

end

/-- The moves of slots k to k + n - 1, with their slots, ascending. -/
structure SlotRows (k n : Nat) (l : List (Nat × Instr)) : Prop where
  length : l.length ≤ n
  ascending : l.Pairwise fun x y => x.1 < y.1
  rows : ∀ j i, (j, i) ∈ l → k ≤ j ∧ j < k + n ∧ SlotRow i

theorem SlotRows.skip {k n : Nat} {l : List (Nat × Instr)} (h : SlotRows (k + 1) n l) : SlotRows k (n + 1) l where
  length := h.length.trans n.le_succ
  ascending := h.ascending
  rows j i hj := by
    obtain ⟨hk, hn, hi⟩ := h.rows j i hj
    exact ⟨by omega, by omega, hi⟩

theorem SlotRows.mono {k m n : Nat} {l : List (Nat × Instr)} (h : SlotRows k m l) (hmn : m ≤ n) : SlotRows k n l where
  length := h.length.trans hmn
  ascending := h.ascending
  rows j i hj := by
    obtain ⟨hk, hm, hi⟩ := h.rows j i hj
    exact ⟨hk, by omega, hi⟩

theorem SlotRows.cons {k n : Nat} {l : List (Nat × Instr)} {i : Instr} (h : SlotRows (k + 1) n l) (hi : SlotRow i) :
    SlotRows k (n + 1) ((k, i) :: l) where
  length := Nat.succ_le_succ h.length
  ascending := List.pairwise_cons.mpr ⟨fun x hx => (h.rows x.1 x.2 hx).1, h.ascending⟩
  rows j i' hj := by
    obtain hj | hj := List.mem_cons.mp hj
    · cases hj
      exact ⟨le_rfl, by omega, hi⟩
    · exact h.skip.rows j i' hj

theorem decodeSlots_rows {lits : Lits} {w k n : Nat} {l : List (Nat × Instr)} (h : decodeSlots lits w k n = .ok l) : SlotRows k n l := by
  induction n generalizing k l with
  | zero => cases h; exact ⟨le_rfl, .nil, fun _ _ h => absurd h List.not_mem_nil⟩
  | succ n ih =>
    rw [decodeSlots] at h
    split at h
    case isTrue => exact (ih h).skip
    case isFalse =>
    split at h
    case h_1 => cases h
    case h_2 => exact (ih h).skip
    case h_3 hrow =>
    split at h
    case h_1 => cases h
    case h_2 hrest => cases h; exact (ih hrest).cons (decodeSlot_row hrow)

theorem decodeBundle_rows {w : Nat} {b : Bundle} (h : decodeBundle w = .ok b) :
    (∀ c, b.ctl = some c → (WellFormed c ∧ c.control = true) ∧ SlotRows 0 4 b.moves) ∧ SlotRows 0 6 b.moves := by
  simp only [decodeBundle] at h
  split_ifs at h
  · split at h
    case h_1 => cases h
    case h_2 hctl =>
    split at h
    case h_1 => cases h
    case h_2 hslots =>
    cases h
    have h4 := decodeSlots_rows hslots
    exact ⟨fun c hc => by cases hc; exact ⟨decodeCtl_row hctl, h4⟩, h4.mono (by decide)⟩
  · split at h
    case h_1 => cases h
    case h_2 hslots =>
    cases h
    exact ⟨fun _ hc => (nomatch hc), decodeSlots_rows hslots⟩

/-! ### What the decoder refuses (11 R236, R237, R239) -/

theorem decodeBundle_badKind {w : Nat} (h : 2 ≤ bitsAt w 254 2) : decodeBundle w = .error (7, .bundleKind) := if_pos h

theorem decodeBundle_badHeader {w : Nat} (hkind : bitsAt w 254 2 < 2) (h : bitsAt w 246 8 ≠ 0) : decodeBundle w = .error (7, .headerReserved) :=
  (if_neg (Nat.not_le.mpr hkind)).trans (if_pos h)

theorem decodeBundle_badLiteral {w : Nat} (hkind : bitsAt w 254 2 = 1) (hres : bitsAt w 246 8 = 0) (h : bitsAt w 244 2 ≠ 0) :
    decodeBundle w = .error (7, .controlLitBits) := by
  simp only [decodeBundle, hkind, hres]
  exact if_pos h

/-- An empty slot holds no other bit. -/
theorem decodeSlot_notEmpty (l : Lits) {x : Nat} (hx : x < 2 ^ 35) (h : x ≠ 0) : decodeSlot l (2 ^ 39 + x) = .error .slotNotEmpty := by
  rw [decodeSlot, if_pos (by simp only [bitsAt]; omega), if_neg (by simp only [bitsAt]; omega)]

/-- A bundle whose first slot is refused. -/
theorem decodeBundle_firstRefused {s : Nat} {e : Reject} (hs : s < 2 ^ 40) (h : ∀ l, decodeSlot l s = .error e) :
    decodeBundle (alone s) = .error (0, e) := by
  obtain ⟨-, hkind, hres⟩ := moveBundle_header (lit := none) hs
  obtain ⟨hslot, hlit⟩ := moveBundle_first (lit := none) hs
  simp only [moveBundle] at hkind hres hslot hlit
  have hslots : decodeSlots (litsOf (alone s) 6) (alone s) 0 6 = .error (0, e) := by
    rw [decodeSlots, hlit, Nat.mul_zero, hslot, h]
    rfl
  simp only [decodeBundle, hkind, hres, hslots]
  rfl

/-- Settles O53: every slot that is read holds a legal row, and each refusal is made where the header or the slot is read. -/
theorem decodedWellFormed : Obligations.DecodedWellFormed := by
  refine ⟨fun w b h => ?_, fun w h => decodeBundle_badKind h, fun w hkind h => decodeBundle_badHeader hkind h,
    fun w hkind hres h => decodeBundle_badLiteral hkind hres h,
    fun x hx h => decodeBundle_firstRefused (by omega) fun l => decodeSlot_notEmpty l hx h⟩
  obtain ⟨hcontrol, hslots⟩ := decodeBundle_rows h
  refine ⟨fun c hc => ?_, hslots.length, hslots.ascending, fun k i hk => ?_⟩
  · obtain ⟨⟨hwf, hctl⟩, hfour⟩ := hcontrol c hc
    exact ⟨hwf, hctl, hfour.length⟩
  · obtain ⟨-, hlt, hrow⟩ := hslots.rows k i hk
    exact ⟨by omega, hrow.wf, hrow.encodable, hrow.control, hrow.busy⟩

end Sys2Proof.Rules
end

section
/-! Words written out in the spec (11_bundle_encoding R235 to R250). -/

namespace Sys2Proof.Rules

/-- Settles O52: each word decodes by computation. -/
theorem decodingWords : Obligations.DecodingWords := by
  unfold Obligations.DecodingWords
  exact ⟨rfl, rfl, rfl, rfl, rfl, rfl, rfl, rfl, rfl, rfl, rfl, rfl, rfl⟩

end Sys2Proof.Rules
end

section
/-! Branches, calls, returns and the sequencer (12_control_operations R257 to R261, R267): what a control operation makes of its register and of its
target, and the statement on them. -/

namespace Sys2Proof.Rules

open Sys2Proof.Machine

section
variable {s : State} {w w' : Warp} {n : BitVec 6} {v : W64}

/-! ### Registers of a control operation (12 R257, R258, R271) -/

theorem issue_mine {f : Warp → Act} (h : s.warp? s.cur = some w) (hf : f w = .next (s.setMe w')) : issue s f = .next (mine s w') :=
  issue_done h hf

theorem CtlReady.ctlReg (h : CtlReady s w n v) (f : W64 → Act) : s.ctlReg w n f = f v := by
  rw [ctlReg_of, h.free, if_neg Bool.false_ne_true, h.value]

/-- An operation whose register is free acts on its value, and changes its own warp. -/
theorem CtlReady.issue (h : CtlReady s w n v) {g : Warp → Act} {f : W64 → Act} (hg : g w = s.ctlReg w n f) (hf : f v = .next (s.setMe w')) :
    issue s g = .next (mine s w') :=
  issue_mine h.live (hg.trans ((h.ctlReg f).trans hf))

/-- A plain value that a scalar register receives. -/
theorem putPlain_eq (x : Ctx) (k : Nat) (v : W64) : x.putPlain k v = plainReg x k v := by
  unfold Ctx.putPlain Ctx.putSreg plainReg setWatch
  split <;> rfl

/-! ### Targets (12 R261; 11 R251) -/

theorem inRegion_iff (s : State) (nid : Nat) (a : W64) :
    s.inRegion nid a = true ↔ ∃ n, s.node? nid = some n ∧ lrPva n.raw ≤ a.toNat ∧ a.toNat < lrPva n.raw + n.plen := by
  unfold State.inRegion
  cases s.node? nid <;> simp [Node.inRegion]

theorem branchTo_eq (w : Warp) (x : BitVec 32) : branchTo w x = target w x := by
  rw [branchTo, target, BitVec.mul_comm]

/-- Control passes to a target to which it may go. -/
theorem goTo_of_mayGo {a : W64} (h : mayGo s w a) : s.goTo w a = .next (s.setMe (atPc w a)) := by
  obtain ⟨haligned, hregion⟩ := h
  rw [State.goTo, if_neg (by simp [haligned]), (inRegion_iff s w.nid a).mpr hregion]
  rfl

theorem goTo_misaligned {a : W64} (h : a.toNat % 32 ≠ 0) : s.goTo w a = .fault 0x02 (s.loc 0 0) := by
  rw [State.goTo, if_pos (by simpa using h)]

/-- An aligned target outside the program region takes the fetch fault, with its low 56 bits. -/
theorem goTo_outside {a : W64} (haligned : a.toNat % 32 = 0) (h : ¬ mayGo s w a) : s.goTo w a = .fault 0x04 (a &&& 0xFFFFFFFFFFFFFF) := by
  have hregion : ¬ s.inRegion w.nid a = true := fun hin => h ⟨haligned, (inRegion_iff s w.nid a).mp hin⟩
  have hlow : BitVec.ofNat 64 (fld a 55 0) = a &&& 0xFFFFFFFFFFFFFF := by
    apply BitVec.eq_of_toNat_eq
    rw [ofNat_fld_55, BitVec.toNat_and]
    calc (a.setWidth 56 |>.setWidth 64).toNat = a.toNat % 2 ^ 56 := by simp; omega
      _ = a.toNat &&& (2 ^ 56 - 1) := (Nat.and_two_pow_sub_one_eq_mod a.toNat 56).symm
  rw [State.goTo, if_neg (by simp [haligned]), if_pos (by simpa using hregion), hlow]

theorem target_aligned (x : BitVec 32) (h : w.ctx.pc.toNat % 32 = 0) : (target w x).toNat % 32 = 0 := by
  rw [target, BitVec.toNat_add, BitVec.toNat_mul]
  change (_ + _ * 32 % _) % _ % 32 = 0
  omega

/-- A conditional branch goes to its target where its condition holds, and else to the next bundle. -/
theorem branchIf_of {p : Prop} [Decidable p] {c : Bool} {x : BitVec 32} (hc : c = true ↔ p) (h : p → mayGo s w (target w x)) :
    s.branchIf w c x = .next (s.setMe (atPc w (if p then target w x else w.ctx.pc + 32))) := by
  by_cases hp : p
  · rw [State.branchIf, if_pos (hc.mpr hp), branchTo_eq, goTo_of_mayGo (h hp), if_pos hp]
  · rw [State.branchIf, if_neg (mt hc.mp hp), if_neg hp]
    rfl

end

/-! ### Branches and calls (12 R259, R260) -/

section
variable {s : State} {w : Warp} (hlive : s.warp? s.cur = some w)
include hlive

theorem exec_br {x : BitVec 32} (h : mayGo s w (target w x)) : exec (.br x) s = .next (mine s (atPc w (target w x))) :=
  issue_mine hlive ((branchTo_eq w x).symm ▸ goTo_of_mayGo h)

theorem exec_call {x : BitVec 32} (h : mayGo s w (target w x)) :
    exec (.call x) s = .next (mine s (atPc (withCtx w (plainReg w.ctx 62 (w.ctx.pc + 32))) (target w x))) := by
  refine issue_mine hlive ?_
  rw [branchTo_eq, putPlain_eq]
  exact goTo_of_mayGo h

end

/-- Settles O16: each operation goes to its target or to the next bundle, by the lemmas above on targets and conditional branches. -/
theorem branches : Obligations.Branches := by
  refine ⟨fun s w hlive => ⟨fun x hgo => ⟨exec_br hlive hgo, exec_call hlive hgo⟩, ?jmp, ?ret, ?brz, ?brnz, ?brany, ?brall⟩,
    fun s w x sa v hlive => ⟨fun haligned hgo => ?outside, fun hready hodd => ?misaligned⟩,
    fun s w sa ii stages n hready => ⟨fun hzero hgo => ?passes, fun hsome => ?starts⟩⟩
  case jmp => exact fun sa v hready hgo => hready.issue rfl (goTo_of_mayGo hgo)
  case ret => exact fun v hready hgo => hready.issue rfl (goTo_of_mayGo hgo)
  case brz => exact fun sa x v hready hgo => hready.issue rfl (branchIf_of beq_iff_eq hgo)
  case brnz =>
    intro sa x v hready hgo
    rw [← ite_not]
    exact hready.issue rfl (branchIf_of bne_iff_ne hgo)
  case brany =>
    intro p ng x c m hgo
    have hc : ((s.srcCtx w).cond p ng != 0) = true ↔ c &&& m ≠ 0 := by rw [BitVec.and_comm]; exact bne_iff_ne
    rw [← ite_not]
    exact issue_mine hlive (branchIf_of hc hgo)
  case brall =>
    intro p ng x c m hgo
    have hc : ((s.srcCtx w).cond p ng == m) = true ↔ c &&& m = m := by rw [BitVec.and_comm]; exact beq_iff_eq
    exact issue_mine hlive (branchIf_of hc hgo)
  case outside =>
    refine issue_fault hlive ?_
    rw [branchTo_eq]
    exact goTo_outside (target_aligned x haligned) hgo
  case misaligned => exact issue_fault hlive ((hready.ctlReg _).trans (goTo_misaligned hodd))
  case passes =>
    subst hzero
    have hafter : BitVec.ofNat 64 (32 * (ii.toNat + 1)) = 32 * (ii.setWidth 64 + 1) := by
      apply BitVec.eq_of_toNat_eq
      simp [BitVec.toNat_mul, BitVec.toNat_add]
    rw [← hafter] at hgo ⊢
    exact hready.issue rfl ((if_pos rfl).trans (goTo_of_mayGo hgo))
  case starts => exact hready.issue rfl (if_neg hsome)

end Sys2Proof.Rules
end

section
/-! Divergent regions (12_control_operations R262 to R266): what a region operation makes of the mask and of the token stack, the tokens that `vbrk` and
`vnext` reach, the loop head to which `vwhile` goes back, and the statement on them. -/

namespace Sys2Proof.Rules

open Sys2Proof.Machine

section
variable {s : State} {w : Warp} {f : Ctx → Except Nat Ctx} {x : Ctx} {mask : W32} {toks : List Token} {pc : W64}

/-! ### A region operation changes its warp or raises its fault (12 R264 to R266) -/

theorem regionOp_ok (h : f w.ctx = .ok { w.ctx with mask := mask, toks := toks, pc := pc }) :
    s.regionOp w f = .next (s.setMe (withCtx w (region w.ctx mask toks pc))) := by
  simp only [State.regionOp, h, beq_iff_eq]
  rfl

theorem regionOp_error {c : Nat} (h : f w.ctx = .error c) : s.regionOp w f = .fault c (s.loc 0 0) := by
  simp only [State.regionOp, h]

theorem issue_region {act : Warp → Act} (hlive : s.warp? s.cur = some w) (hact : act w = s.regionOp w f)
    (h : f w.ctx = .ok { w.ctx with mask := mask, toks := toks, pc := pc }) :
    issue s act = .next (mine s (withCtx w (region w.ctx mask toks pc))) :=
  issue_mine hlive (hact.trans (regionOp_ok h))

theorem issue_regionFault {act : Warp → Act} {c : Nat} (hlive : s.warp? s.cur = some w) (hact : act w = s.regionOp w f) (h : f w.ctx = .error c) :
    issue s act = .next { s.raiseTrap s.cur c (s.loc 0 0) with verdict := .faulted c (s.loc 0 0) } :=
  issue_fault hlive (hact.trans (regionOp_error h))

/-! ### `vif` and `vloop` need room, the others an open region of their kind (12 R263, R266) -/

theorem vif_full {b : W32} (h : 32 ≤ x.toks.length) : x.vif b = .error 0x06 := if_pos h

theorem vloop_full (h : 32 ≤ x.toks.length) : x.vloop = .error 0x06 := if_pos h

theorem vif_room {b : W32} (h : x.toks.length < 32) :
    x.vif b = .ok { x with mask := b, toks := ⟨0, 0, x.mask, x.mask &&& ~~~b, 0⟩ :: x.toks, pc := x.pc + 32 } :=
  if_neg (Nat.not_le.mpr h)

theorem vloop_room (h : x.toks.length < 32) :
    x.vloop = .ok { x with mask := x.mask, toks := ⟨2, (x.pc + 32).extractLsb' 5 51, x.mask, 0, 0⟩ :: x.toks, pc := x.pc + 32 } := by
  have hhead : BitVec.ofNat 51 ((x.pc + 32).toNat / 32) = (x.pc + 32).extractLsb' 5 51 := by
    apply BitVec.eq_of_toNat_eq
    simp [BitVec.extractLsb'_toNat, Nat.shiftRight_eq_div_pow]
  rw [Ctx.vloop, if_neg (Nat.not_le.mpr h), hhead]
  rfl

theorem velse_closed (h : ∀ t r, x.toks = t :: r → t.kind ≠ 0) : x.velse = .error 0x05 := by
  unfold Ctx.velse
  split
  · exact if_neg (h _ _ ‹_›)
  · rfl

theorem vend_closed (h : ∀ t r, x.toks = t :: r → t.kind ≠ 0 ∧ t.kind ≠ 1) : x.vend = .error 0x05 := by
  unfold Ctx.vend
  split
  · exact if_neg (not_or.mpr (h _ _ ‹_›))
  · rfl

theorem vwhile_closed {c : W32} (h : ∀ t r, x.toks = t :: r → t.kind ≠ 2) : x.vwhile c = .error 0x05 := by
  unfold Ctx.vwhile
  split
  · exact if_neg (h _ _ ‹_›)
  · rfl

/-! ### `vbrk` and `vnext` (12 R264) -/

/-- A token that is no loop's, and one that is passed over, lose the lanes. -/
theorem leaveLoop_other (b : W32) (next : Bool) (k : Nat) {t : Token} (r : List Token) (ht : t.kind ≠ 2) :
    leaveLoop b next k (t :: r) = (leaveLoop b next k r).map (withoutLanes b t :: ·) := by
  cases k <;> exact if_neg ht

theorem leaveLoop_passed (b : W32) (next : Bool) (k : Nat) {t : Token} (r : List Token) (ht : t.kind = 2) :
    leaveLoop b next (k + 1) (t :: r) = (leaveLoop b next k r).map (withoutLanes b t :: ·) := if_pos ht

/-- The lanes leave every token above the loop token that is reached, which notes them. -/
theorem leaveLoop_reaches (b : W32) (next : Bool) {t : Token} (r : List Token) (ht : t.kind = 2) {up : List Token} {k : Nat}
    (hk : (up.filter fun y => y.kind == 2).length = k) : leaveLoop b next k (up ++ t :: r) =
      some (up.map (withoutLanes b) ++ (if next then { t with cont := t.cont ||| b } else { t with alt := t.alt ||| b }) :: r) := by
  induction up generalizing k with
  | nil =>
    subst hk
    exact if_pos ht
  | cons y up ih =>
    by_cases hy : y.kind = 2
    · rw [List.filter_cons_of_pos (by simpa using hy), List.length_cons] at hk
      subst hk
      rw [List.cons_append, leaveLoop_passed b next _ _ hy, ih rfl]
      rfl
    · rw [List.filter_cons_of_neg (by simpa using hy)] at hk
      rw [List.cons_append, leaveLoop_other b next _ _ hy, ih hk]
      rfl

/-- With too few loop tokens none is reached. -/
theorem leaveLoop_none (b : W32) (next : Bool) {l : List Token} {k : Nat} (hk : (l.filter fun y => y.kind == 2).length ≤ k) :
    leaveLoop b next k l = none := by
  induction l generalizing k with
  | nil => rfl
  | cons y l ih =>
    by_cases hy : y.kind = 2
    · rw [List.filter_cons_of_pos (by simpa using hy), List.length_cons] at hk
      obtain ⟨j, rfl⟩ : ∃ j, k = j + 1 := ⟨k - 1, by omega⟩
      rw [leaveLoop_passed b next _ _ hy, ih (by omega)]
      rfl
    · rw [List.filter_cons_of_neg (by simpa using hy)] at hk
      rw [leaveLoop_other b next _ _ hy, ih hk]
      rfl

theorem leave_reaches (next : Bool) {up r : List Token} {t : Token} {k : Nat} (htoks : x.toks = up ++ t :: r) (ht : t.kind = 2)
    (hk : (up.filter fun y => y.kind == 2).length = k) : x.leave next k = .ok { x with
      mask := 0, pc := x.pc + 32
      toks := up.map (withoutLanes x.mask) ++ (if next then { t with cont := t.cont ||| x.mask } else { t with alt := t.alt ||| x.mask }) :: r } := by
  simp only [Ctx.leave, htoks, leaveLoop_reaches x.mask next r ht hk]
  rfl

theorem leave_short (next : Bool) {k : Nat} (hk : (x.toks.filter fun y => y.kind == 2).length ≤ k) : x.leave next k = .error 0x05 := by
  simp only [Ctx.leave, leaveLoop_none x.mask next hk]

/-! ### `vwhile` (12 R261, R264) -/

/-- The address of a loop head, which a token holds without its 5 low bits. -/
theorem head_eq (h : BitVec 51) : BitVec.ofNat 64 (h.toNat * 32) = (h ++ 0#5).setWidth 64 := by
  apply BitVec.eq_of_toNat_eq
  rw [BitVec.toNat_ofNat, BitVec.toNat_setWidth, BitVec.toNat_append, Nat.shiftLeft_eq]
  exact congrArg (· % 2 ^ 64) (Nat.or_zero _).symm

/-- The head is an address of 56 bits. -/
theorem head_low (h : BitVec 51) : BitVec.ofNat 64 (fld ((h ++ 0#5).setWidth 64 : W64) 55 0) = (h ++ 0#5).setWidth 64 := by
  rw [← head_eq]
  apply BitVec.eq_of_toNat_eq
  simp only [fld, BitVec.toNat_ofNat]
  omega

theorem head_aligned (h : BitVec 51) : ((h ++ 0#5).setWidth 64).toNat % 32 = 0 := by
  rw [← head_eq, BitVec.toNat_ofNat]
  omega

theorem back_closed {c : W32} (h : ∀ t r, x.toks = t :: r → t.kind ≠ 2) : x.back c = none := by
  unfold Ctx.back
  split
  · exact if_neg fun hc => h _ _ ‹_› hc.1
  · rfl

section
variable {t : Token} {r : List Token} {c : W32} (htoks : x.toks = t :: r)
include htoks

theorem back_none (hgo : (x.mask ||| t.cont) &&& c = 0) : x.back c = none := by
  simp only [Ctx.back, htoks]
  exact if_neg fun h => h.2 hgo

theorem back_some (hkind : t.kind = 2) (hgo : (x.mask ||| t.cont) &&& c ≠ 0) : x.back c = some ((t.head ++ 0#5).setWidth 64) := by
  simp only [Ctx.back, htoks]
  rw [if_pos ⟨hkind, hgo⟩, head_eq]

/-- Without a lane that goes on, the lanes that the token has kept go on behind the loop. -/
theorem vwhile_ends (hkind : t.kind = 2) (hgo : (x.mask ||| t.cont) &&& c = 0) :
    x.vwhile c = .ok { x with mask := t.alt ||| ((x.mask ||| t.cont) &&& ~~~((x.mask ||| t.cont) &&& c)), toks := r, pc := x.pc + 32 } := by
  simp only [Ctx.vwhile, htoks]
  rw [if_pos hkind, hgo]
  rfl

theorem vwhile_goesOn (hkind : t.kind = 2) (hgo : (x.mask ||| t.cont) &&& c ≠ 0) : x.vwhile c = .ok { x with
    mask := (x.mask ||| t.cont) &&& c
    toks := { t with alt := t.alt ||| ((x.mask ||| t.cont) &&& ~~~((x.mask ||| t.cont) &&& c)), cont := 0 } :: r
    pc := (t.head ++ 0#5).setWidth 64 } := by
  simp only [Ctx.vwhile, htoks]
  rw [if_pos hkind, if_pos (bne_iff_ne.mpr hgo), head_eq]

end

/-- With an open loop, `vwhile` goes back to its head where a lane goes on, if control may pass there. -/
theorem exec_vwhile_loop {p : BitVec 4} {ng : Bool} {t : Token} {r : List Token} (hlive : s.warp? s.cur = some w) (hsrc : s.srcCtx w = w.ctx)
    (htoks : w.ctx.toks = t :: r) (hkind : t.kind = 2) :
    let l := w.ctx.mask ||| t.cont
    let go := l &&& cond w.ctx p ng
    let alt := t.alt ||| (l &&& ~~~go)
    let head : W64 := (t.head ++ 0#5).setWidth 64
    (go = 0 → exec (.vwhile p ng) s = .next (mine s (withCtx w (region w.ctx alt r (w.ctx.pc + 32))))) ∧
    (go ≠ 0 → mayGo s w head →
      exec (.vwhile p ng) s = .next (mine s (withCtx w (region w.ctx go ({ t with alt := alt, cont := 0 } :: r) head)))) ∧
    (go ≠ 0 → ¬ mayGo s w head → exec (.vwhile p ng) s = .next { s.raiseTrap s.cur 0x04 head with verdict := .faulted 0x04 head }) := by
  intro l go alt head
  have hcond : (if ng then ~~~((s.srcCtx w).pred p.toNat) else (s.srcCtx w).pred p.toNat) = cond w.ctx p ng := by rw [hsrc]; rfl
  refine ⟨fun hgo => ?ends, fun hgo hmay => ?goesOn, fun hgo hmay => ?outside⟩
  case ends =>
    refine issue_region (f := fun x => x.vwhile (cond w.ctx p ng)) hlive ?_ (vwhile_ends htoks hkind hgo)
    dsimp only
    rw [hcond, back_none htoks hgo]
  case goesOn =>
    refine issue_region (f := fun x => x.vwhile (cond w.ctx p ng)) hlive ?_ (vwhile_goesOn htoks hkind hgo)
    dsimp only
    rw [hcond, back_some htoks hkind hgo]
    exact if_pos ((inRegion_iff s w.nid head).mpr hmay.2)
  case outside =>
    have hregion : ¬ s.inRegion w.nid head = true := fun hin => hmay ⟨head_aligned t.head, (inRegion_iff s w.nid head).mp hin⟩
    refine issue_fault hlive ?_
    dsimp only
    rw [hcond, back_some htoks hkind hgo]
    exact (if_neg hregion).trans (congrArg (Act.fault 0x04) (head_low t.head))

theorem exec_vwhile_closed {p : BitVec 4} {ng : Bool} (hlive : s.warp? s.cur = some w) (h : ∀ t r, w.ctx.toks = t :: r → t.kind ≠ 2) :
    exec (.vwhile p ng) s = .next { s.raiseTrap s.cur 0x05 (s.loc 0 0) with verdict := .faulted 0x05 (s.loc 0 0) } := by
  refine issue_regionFault (f := fun x => x.vwhile (cond (s.srcCtx w) p ng)) hlive ?_ (vwhile_closed h)
  dsimp only
  rw [back_closed h]
  rfl

end

/-- Settles O17: each operation by what it makes of the mask and the stack where its requirement holds, and by its fault where it fails. -/
theorem regions : Obligations.Regions := by
  refine ⟨fun s w hlive hsrc => ⟨?vif, ?velse, ?vend, ?vloop, ?vwhile, ?leave⟩,
    fun s w p ng k hlive => ⟨fun hfull => ⟨?vifFull, ?vloopFull⟩, fun h => ?velseClosed, fun h => ?vendClosed, fun h => ?vwhileClosed,
      fun hk => ⟨?vbrkShort, ?vnextShort⟩⟩⟩
  case vif =>
    intro p ng hroom t
    refine issue_region hlive rfl ?_
    rw [hsrc]
    exact vif_room hroom
  case velse =>
    intro t r htoks hkind
    refine issue_region hlive rfl ?_
    simp only [Ctx.velse, htoks]
    exact if_pos hkind
  case vend =>
    intro t r htoks hkind
    refine issue_region hlive rfl ?_
    simp only [Ctx.vend, htoks]
    exact if_pos hkind
  case vloop => exact fun hroom => issue_region hlive rfl (vloop_room hroom)
  case vwhile => exact fun p ng t r htoks hkind => exec_vwhile_loop hlive hsrc htoks hkind
  case leave =>
    exact fun k up t r htoks hkind hk => ⟨issue_region hlive rfl (leave_reaches false htoks hkind hk),
      issue_region hlive rfl (leave_reaches true htoks hkind hk)⟩
  case vifFull => exact issue_regionFault hlive rfl (vif_full hfull)
  case vloopFull => exact issue_regionFault hlive rfl (vloop_full hfull)
  case velseClosed => exact issue_regionFault hlive rfl (velse_closed h)
  case vendClosed => exact issue_regionFault hlive rfl (vend_closed h)
  case vwhileClosed => exact exec_vwhile_closed hlive h
  case vbrkShort => exact issue_regionFault hlive rfl (leave_short false hk)
  case vnextShort => exact issue_regionFault hlive rfl (leave_short true hk)

end Sys2Proof.Rules
end

section
/-! Futures (12_control_operations R269 to R274): the handle of a new future and its serial number, and the statement on them. -/

namespace Sys2Proof

/-- The lowest number without an entry. -/
theorem Tab.lowestFree_eq_some {α : Type} {t : Tab α} {n e : Nat} :
    Tab.lowestFree t n = some e ↔ e < n ∧ Tab.look t e = none ∧ ∀ j, j < e → (Tab.look t j).isSome = true := by
  unfold Tab.lowestFree
  rw [List.find?_range_eq_some, List.mem_range]
  constructor
  · rintro ⟨hfree, hlt, hbelow⟩
    exact ⟨hlt, Option.isNone_iff_eq_none.mp hfree, fun j hj => by simpa [Option.isSome_iff_ne_none] using hbelow j hj⟩
  · rintro ⟨hlt, hfree, hbelow⟩
    exact ⟨Option.isNone_iff_eq_none.mpr hfree, hlt, fun j hj => by simpa [Option.isSome_iff_ne_none] using hbelow j hj⟩

theorem Tab.lowestFree_eq_none {α : Type} {t : Tab α} {n : Nat} : Tab.lowestFree t n = none ↔ ∀ e, e < n → (Tab.look t e).isSome = true := by
  unfold Tab.lowestFree
  rw [List.find?_range_eq_none]
  exact forall₂_congr fun e _ => by simp [Option.isSome_iff_ne_none]

namespace Machine

/-! ### The fields of a handle (12 R269) -/

section
variable {u e : Nat} (ser : W32) (hu : u < 256) (he : e < 64)
include hu he

theorem handleOf_toNat : (handleOf u e ser).toNat = 0xF7 * 2 ^ 56 + u * 2 ^ 48 + e * 2 ^ 32 + ser.toNat := by
  rw [handleOf, BitVec.toNat_ofNat]
  have := ser.isLt
  omega

theorem fld_handleOf_mark : fld (handleOf u e ser) 63 56 = 0xF7 := by
  rw [fld, handleOf_toNat ser hu he]
  have := ser.isLt
  omega

theorem fld_handleOf_unit : fld (handleOf u e ser) 55 48 = u := by
  rw [fld, handleOf_toNat ser hu he]
  have := ser.isLt
  omega

theorem fld_handleOf_entry : fld (handleOf u e ser) 37 32 = e := by
  rw [fld, handleOf_toNat ser hu he]
  have := ser.isLt
  omega

theorem fld_handleOf_serial : fld (handleOf u e ser) 31 0 = ser.toNat := by
  rw [fld, handleOf_toNat ser hu he]
  have := ser.isLt
  omega

/-- A handle whose serial number is 1 or more and not above the counter, and stands at its entry, is outstanding. -/
theorem outstanding_handleOf {x : Ctx} (hunit : handleUnit u = true) (hone : 1 ≤ ser.toNat) (hser : ser.toNat ≤ x.fser.toNat)
    (hlook : Tab.look x.futs e = some ser) : x.outstanding (handleOf u e ser) = true := by
  simp [Ctx.outstanding, isHandle, fld_handleOf_mark ser hu he, fld_handleOf_unit ser hu he, fld_handleOf_entry ser hu he,
    fld_handleOf_serial ser hu he, hunit, hone, hser, hlook]

end

theorem toNat_append_eq {m n : Nat} (x : BitVec m) (y : BitVec n) : (x ++ y).toNat = x.toNat * 2 ^ n + y.toNat := by
  rw [BitVec.toNat_append, ← Nat.shiftLeft_add_eq_or_of_lt y.isLt, Nat.shiftLeft_eq]

theorem handleOf_append {u : Nat} (e : BitVec 6) (ser : W32) (hu : u < 256) :
    handleOf u e.toNat ser = (0xF7#8 ++ BitVec.ofNat 8 u ++ 0#10 ++ e ++ ser : BitVec 64) := by
  apply BitVec.eq_of_toNat_eq
  rw [handleOf_toNat ser hu e.isLt]
  simp only [toNat_append_eq, BitVec.toNat_ofNat]
  omega

/-! ### The next serial number (12 R270) -/

/-- Serial numbers count from 1 and go on with 1 after 0xFFFF_FFFF. -/
def nextSerial (c : W32) : W32 := if c = 0xFFFFFFFF then 1 else c + 1

theorem one_le_nextSerial (c : W32) : 1 ≤ (nextSerial c).toNat := by
  unfold nextSerial
  split
  · decide
  · have : c.toNat ≠ 0xFFFFFFFF := fun h => ‹¬ c = _› (BitVec.eq_of_toNat_eq (y := 0xFFFFFFFF) h)
    rw [BitVec.toNat_add]
    change 1 ≤ (c.toNat + 1) % 2 ^ 32
    omega

/-- A new future takes the lowest free entry. -/
theorem newFuture_eq_some {w w1 : Warp} {u : Nat} {h : W64} {f : FutAt} (hnew : w.newFuture u = some (w1, h, f)) :
    ∃ e, Tab.lowestFree w.ctx.futs 64 = some e ∧ h = handleOf u e (nextSerial w.ctx.fser) ∧ f = ⟨w.wid, e, nextSerial w.ctx.fser⟩ ∧
      w1 = { w with ctx := { w.ctx with fser := nextSerial w.ctx.fser, futs := Tab.put w.ctx.futs e (nextSerial w.ctx.fser) } } := by
  unfold Warp.newFuture at hnew
  split at hnew
  · cases hnew
  · rename_i e he
    cases hnew
    exact ⟨e, he, rfl, rfl, rfl⟩

theorem newFuture_eq_none {w : Warp} {u : Nat} : w.newFuture u = none ↔ Tab.lowestFree w.ctx.futs 64 = none := by
  unfold Warp.newFuture
  split <;> simp [*]

end Machine

end Sys2Proof

namespace Sys2Proof.Rules

open Sys2Proof.Machine

theorem handleUnit_engine {u : Nat} (hlow : 16 ≤ u) (hhigh : u ≤ 26) : handleUnit u = true := by
  simp [handleUnit, hlow, hhigh]

/-- Settles O25: the entry is the lowest that is free, and the handle's fields are those of R269. -/
theorem handles : Obligations.Handles := by
  refine fun w u hlow hhigh => ⟨fun w1 h f hnew => ?new, newFuture_eq_none.trans Tab.lowestFree_eq_none⟩
  case new =>
    obtain ⟨e, he, rfl, rfl, rfl⟩ := newFuture_eq_some hnew
    obtain ⟨hlt, hfree, hbelow⟩ := Tab.lowestFree_eq_some.mp he
    have hnum : (BitVec.ofNat 6 e).toNat = e := by rw [BitVec.toNat_ofNat]; omega
    refine ⟨BitVec.ofNat 6 e, nextSerial w.ctx.fser, by rwa [hnum], by rwa [hnum], rfl, ?_, by rw [hnum], by rw [hnum]; rfl, ?_⟩
    · rw [← handleOf_append _ _ (by omega), hnum]
    · exact outstanding_handleOf _ (by omega) hlt (handleUnit_engine hlow hhigh) (one_le_nextSerial _) (Nat.le_refl _) (Tab.look_put_self ..)

end Sys2Proof.Rules
end

section
/-! `fcancel` and the other operations on futures (12_control_operations R274): what a cancellation leaves alone, and the statement on them. -/

namespace Sys2Proof.Machine

/-- Two states agree in the memory and in the warps. -/
structure State.SameMemAndWarps (s t : State) : Prop where
  mem : t.mem = s.mem
  warps : t.warps = s.warps

namespace State.SameMemAndWarps

variable {s t u : State}

theorem refl (s : State) : s.SameMemAndWarps s := ⟨rfl, rfl⟩

/-- A change of other parts of the state. -/
theorem upd (h : s.SameMemAndWarps t) (hu : t.SameMemAndWarps u := by exact ⟨rfl, rfl⟩) : s.SameMemAndWarps u :=
  ⟨hu.mem.trans h.mem, hu.warps.trans h.warps⟩

theorem ite {p : Prop} [Decidable p] (ht : s.SameMemAndWarps t) (hu : s.SameMemAndWarps u) : s.SameMemAndWarps (if p then t else u) := by
  split
  · exact ht
  · exact hu

theorem arriveFut (h : s.SameMemAndWarps t) {core : Nat} {f : FutAt} {v : W64} {eff : ResEff} : s.SameMemAndWarps (t.arriveFut core f v eff) := by
  have hall := t.onlyArrivals_arriveFut core f v eff
  exact h.upd ⟨hall.mem, hall.warps⟩

/-! ### A node ends (16 R374) -/

theorem gangEnds (h : s.SameMemAndWarps t) {n : Node} : s.SameMemAndWarps (t.gangEnds n) := by
  unfold State.gangEnds
  exact ite h h.upd

theorem launchEnds (h : s.SameMemAndWarps t) {q : Nat} {entry : Option Nat} {fut : Option FutAt} {v : W64} :
    s.SameMemAndWarps (t.launchEnds q entry fut v) := by
  unfold State.launchEnds
  cases entry <;> cases fut
  · exact h
  · exact h.arriveFut
  · exact h.upd
  · exact h.upd.arriveFut

theorem markReady (h : s.SameMemAndWarps t) : s.SameMemAndWarps t.markReady := by
  unfold State.markReady
  exact List.foldlRecOn (motive := fun u => s.SameMemAndWarps u) _ _ h fun u hu n _ => ite hu.upd hu

theorem endNode (h : s.SameMemAndWarps t) {nid detail rec_ code : Nat} : s.SameMemAndWarps (t.endNode nid detail rec_ code) := by
  unfold State.endNode
  split
  · exact h
  · exact (launchEnds h.gangEnds.upd).markReady

/-! ### What a cancellation ends (12 R274) -/

theorem cancelTask (h : s.SameMemAndWarps t) {cluster q : Nat} : s.SameMemAndWarps (t.cancelTask cluster q) := by
  unfold State.cancelTask
  split
  · exact ite h.upd h
  · exact h

theorem cancelObj (h : s.SameMemAndWarps t) {core : Nat} {f : FutAt} : s.SameMemAndWarps (t.cancelObj core f) := by
  unfold State.cancelObj
  dsimp only
  split
  · exact h
  · exact arriveFut h.upd

theorem cancelSolicit (h : s.SameMemAndWarps t) {core : Nat} {f : FutAt} : s.SameMemAndWarps (t.cancelSolicit core f) := by
  unfold State.cancelSolicit
  exact ite (arriveFut h.upd) (ite (arriveFut h.upd) h)

theorem cancelMail (h : s.SameMemAndWarps t) {core : Nat} {f : FutAt} : s.SameMemAndWarps (t.cancelMail core f) := by
  unfold State.cancelMail
  exact ite h.upd h

theorem cancelLaunch (h : s.SameMemAndWarps t) {core : Nat} {f : FutAt} : s.SameMemAndWarps (t.cancelLaunch core f) := by
  unfold State.cancelLaunch
  dsimp only
  split
  · split
    · exact arriveFut h.upd
    · exact h
  · split
    · exact arriveFut h.upd
    · split
      · exact ite h (ite (ite h.endNode h) (endNode (ite h.upd h)))
      · exact h

theorem cancelFut (h : s.SameMemAndWarps t) {core : Nat} {f : FutAt} : s.SameMemAndWarps (t.cancelFut core f) := by
  unfold State.cancelFut
  extract_lets cl answers preqs copies tags tasks
  have hpreqs : s.SameMemAndWarps preqs := ite (arriveFut h.upd) h
  have hcopies : s.SameMemAndWarps copies := by
    unfold copies
    split
    · exact ite hpreqs.upd hpreqs
    · exact hpreqs
  have htags : s.SameMemAndWarps tags := by
    unfold tags
    split
    · exact arriveFut hcopies.upd
    · exact hcopies
  have htasks : s.SameMemAndWarps tasks := by
    unfold tasks
    split
    · exact htags.cancelTask
    · exact htags
  exact htasks.cancelObj.cancelSolicit.cancelMail.cancelLaunch

end State.SameMemAndWarps

end Sys2Proof.Machine

namespace Sys2Proof.Rules

open Sys2Proof.Machine

theorem sameMemAndWarps_fin {s t : State} (h : s.SameMemAndWarps t) : s.SameMemAndWarps (fin t) := ⟨h.mem, h.warps⟩

/-- `ftest` and `fpass` put a plain value into their register. -/
theorem issue_putPlain {s : State} {w : Warp} {act : Warp → Act} {n : BitVec 6} {v : W64} (hlive : s.warp? s.cur = some w)
    (hact : act w = .next (s.setMe ({ w with ctx := w.ctx.putPlain n.toNat v }).fall)) :
    issue s act = .next (mine s (atPc (withCtx w (plainReg w.ctx n.toNat v)) (w.ctx.pc + 32))) := by
  refine issue_mine hlive (hact.trans ?_)
  have hpc : (plainReg w.ctx n.toNat v).pc = w.ctx.pc := by
    unfold plainReg
    split <;> rfl
  simp only [Warp.fall, putPlain_eq, hpc]
  rfl

/-- The future that a register's handle names. -/
def futureNamed (w : Warp) (v : W64) : FutAt := ⟨w.wid, fld v 37 32, BitVec.ofNat 32 (fld v 31 0)⟩

theorem exec_fcancel_watched {s : State} {w : Warp} {sa : BitVec 6} (hlive : s.warp? s.cur = some w)
    (hwatched : (s.srcCtx w).watched sa.toNat = true) :
    exec (.fcancel sa) s = .next (fin ((s.setMe w.fall).cancelFut s.cur.core (futureNamed w ((s.srcCtx w).sreg sa.toNat)))) := by
  refine issue_done hlive ?_
  dsimp only
  rw [if_pos hwatched]
  rfl

/-- Settles O18: a wait or the next bundle for `fwait`, a plain value for `ftest` and `fpass`, and a cancellation that keeps memory and registers. -/
theorem futureOperations : Obligations.FutureOperations := by
  refine fun s w sd sa hlive => ⟨fun hfree => ?goes, fun hwatched => ?waits, ?ftest, ?fpass, fun hwatched => ?cancels, fun hfree hplain => ?nothing⟩
  case goes => exact CtlReady.issue ⟨hlive, hfree, rfl⟩ rfl rfl
  case waits => exact issue_wait hlive ((ctlReg_of ..).trans (if_pos hwatched))
  case ftest =>
    change execFtest sd sa s = _
    exact issue_putPlain hlive rfl
  case fpass =>
    change execFpass sd sa s = _
    exact issue_putPlain hlive rfl
  case cancels =>
    have hkept := sameMemAndWarps_fin ((State.SameMemAndWarps.refl (s.setMe w.fall)).cancelFut (core := s.cur.core)
      (f := futureNamed w ((s.srcCtx w).sreg sa.toNat)))
    exact ⟨_, exec_fcancel_watched hlive hwatched, rfl, hkept.mem, hkept.warps⟩
  case nothing =>
    refine issue_mine hlive ?_
    dsimp only
    rw [hfree, hplain]
    rfl

end Sys2Proof.Rules
end

section
/-! The statement on ends and traps (12_control_operations R275 to R277, R279, R282): a return from a handler restores a claim that its save holds, but
not where a trap waits to be entered, and the statement does not ask that none waits. -/

namespace Sys2Proof.Rules

open Sys2Proof.Machine

/-- A warp in the handler of a user trap that interrupted a claim of 8 registers, with another trap still to be entered. -/
def returner : Warp :=
  { wid := 1, nid := 0, die := 0, clus := 0, warp := 0, handler := some ⟨⟨.user, 0x20, 0, 0⟩, { hold := some (.claim 8) }⟩
    entering := some ⟨.user, 0x20, 0, 0⟩ }

def returning : State := { State.reset with warps := [(0, returner)] }

/-- The claims that wait on core 0 after an instruction. -/
def claimsAfter (i : Instr) (s : State) : Option (List (Nat × Nat)) := match exec i s with
  | .next t => some (t.core 0).claims
  | _ => none

theorem claimsAfter_next {i : Instr} {s t : State} (h : exec i s = .next t) : claimsAfter i s = some (t.core 0).claims := by
  simp [claimsAfter, h]

/-- The claim is not entered again. -/
theorem claimsAfter_yield : claimsAfter .yield returning = some [] := by decide +kernel

/-- Refutes O19: the clause of `yield` does not ask that no trap waits to be entered. In `returning` one waits, so the saved claim stays ungranted until
that trap's own return, where the clause has it enter the core's list at once. -/
theorem not_endsAndTraps : ¬ Obligations.EndsAndTraps := by
  intro hends
  obtain ⟨-, -, -, hyield, -⟩ := hends returning returner rfl
  obtain ⟨fs, hexec, -⟩ := hyield _ rfl (.inl rfl) rfl
  have hclaims : some [(0, 8)] = some [] := (claimsAfter_next hexec).symm.trans claimsAfter_yield
  exact absurd hclaims (by decide)

end Sys2Proof.Rules
end

section
/-! System registers and context images (12_control_operations R278, R280; 17_traps_and_preemption R391, R393): the value of each register, what the place of
an image comes to, and the statement on them. -/

namespace Sys2Proof.Rules

open Sys2Proof.Machine

section
variable {s : State} {w : Warp} (hlive : s.warp? s.cur = some w)
include hlive

/-! ### System registers (12 R280) -/

theorem exec_sysrd {sd : BitVec 6} {n : BitVec 16} {v : W64} (hvalue : s.sysreg w n.toNat = some v)
    (hopen : w.handler = none → n ≠ 8 ∧ n ≠ 9 ∧ n ≠ 10) :
    exec (.sysrd sd n) s = .next (mine s (atPc (withCtx w (plainReg w.ctx sd.toNat v)) (w.ctx.pc + 32))) := by
  change execSysrd sd n s = _
  refine issue_putPlain hlive ?_
  simp only [hvalue]
  refine if_neg fun hc => ?_
  simp only [Bool.and_eq_true, decide_eq_true_eq, Option.isNone_iff_eq_none] at hc
  obtain ⟨⟨hlow, hhigh⟩, hnone⟩ := hc
  obtain ⟨h8, h9, h10⟩ := hopen hnone
  bv_omega

theorem exec_sysrd_closed {sd : BitVec 6} {n : BitVec 16} (hclosed : w.handler = none) (hn : n = 8 ∨ n = 9 ∨ n = 10) :
    exec (.sysrd sd n) s = .next { s.raiseTrap s.cur 0x07 (s.loc 0 0) with verdict := .faulted 0x07 (s.loc 0 0) } := by
  refine issue_fault hlive ?_
  rcases hn with rfl | rfl | rfl <;> simp [State.sysreg, hclosed]

theorem exec_syswr {n : BitVec 16} {sa : BitVec 6} (hn : n ≠ 2) :
    exec (.syswr n sa) s = .next { s.raiseTrap s.cur 0x02 (s.loc 0 0) with verdict := .faulted 0x02 (s.loc 0 0) } := by
  refine issue_fault hlive (if_pos ?_)
  simpa [← BitVec.toNat_inj] using hn

end

/-! ### The place of an image (12 R278) -/

theorem refRec_eq (s : State) (v : W64) : s.refRec v = (s.core s.cur.core).segs.getD (v.toNat / 2 ^ 58) 0 := by
  have hnum : fld v 63 58 = v.toNat / 2 ^ 58 := by
    rw [fld]
    omega
  rw [State.refRec, hnum]

theorem refPos_eq (v : W64) : refPos v = v.toNat % 2 ^ 47 := by simp [refPos, fld]

section
variable {s : State} {w : Warp} {v : W64} {h : Handler} {n : Node}

theorem imageRef_closed {f : Handler → List Nat → Act} (hclosed : w.handler = none) : s.imageRef w v f = .fault 0x07 (s.loc 0 0) := by
  simp only [State.imageRef, hclosed]

/-- A reference in order names the pool offsets of the image's 8,192 bytes. -/
theorem imageRef_of (hopen : w.handler = some h) (hnode : s.node? w.nid = some n) (hreserved : v.toNat / 2 ^ 47 % 2 ^ 11 = 0)
    (haligned : v.toNat % 2 ^ 47 % 256 = 0)
    (hplace : s.pinnedBad (s.mapping s.cur.core) s.cur.core n.ten ((s.core s.cur.core).segs.getD (v.toNat / 2 ^ 58) 0) (v.toNat % 2 ^ 47) 8192 none = none)
    (f : Handler → List Nat → Act) : s.imageRef w v f = f h
      (s.pinnedSpan (s.mapping s.cur.core) s.cur.core n.ten ((s.core s.cur.core).segs.getD (v.toNat / 2 ^ 58) 0) (v.toNat % 2 ^ 47) 8192) := by
  have hten : s.tenOf w.nid = n.ten := by simp only [State.tenOf, hnode]
  have hbad : refBad v = false := by
    have hfield : fld v 57 47 = 0 := hreserved
    simp [refBad, hfield]
  unfold State.imageRef
  simp only [hopen, hbad, hten, refRec_eq, refPos_eq, hplace]
  exact if_neg (by rw [haligned]; decide)

/-- Without an open handler no image is saved, and none is loaded. -/
theorem exec_ctxsv_closed {sa : BitVec 6} (hready : CtlReady s w sa v) (hclosed : w.handler = none) :
    exec (.ctxsv sa) s = .next { s.raiseTrap s.cur 0x07 (s.loc 0 0) with verdict := .faulted 0x07 (s.loc 0 0) } :=
  issue_fault hready.live ((hready.ctlReg _).trans (imageRef_closed hclosed))

theorem exec_ctxld_closed {sa : BitVec 6} (hready : CtlReady s w sa v) (hclosed : w.handler = none) :
    exec (.ctxld sa) s = .next { s.raiseTrap s.cur 0x07 (s.loc 0 0) with verdict := .faulted 0x07 (s.loc 0 0) } := by
  refine issue_fault hready.live ((hready.ctlReg _).trans ?_)
  exact (if_neg (by simp [hclosed])).trans (imageRef_closed hclosed)

end

theorem sramLat_self (core : Nat) : sramLat core core = 8 := by
  rw [sramLat, Nat.xor_self]
  rfl

section
variable {s : State} {w : Warp} {v : W64} {sa : BitVec 6} {h : Handler} {n : Node} {span : List Nat} (hready : CtlReady s w sa v)
  (hnode : s.node? w.nid = some n)
include hready hnode

/-- The image lands as a lane store of the own core, 8 cycles on. -/
theorem exec_ctxsv (hplace : ∀ f, s.imageRef w v f = f h span) :
    exec (.ctxsv sa) s = .next { s with
      warps := mePut s (atPc w (w.ctx.pc + 32))
      clusters := Tab.put s.clusters (s.cur.core / 4) { s.cluster (s.cur.core / 4) with
        nextId := (s.cluster (s.cur.core / 4)).nextId + 1
        lands := (s.cluster (s.cur.core / 4)).lands ++ [⟨(s.cluster (s.cur.core / 4)).nextId, w.wid, s.now + 8, s.now, s.cur.core, s.cur.core,
          span.zip (imageOf h.saved (lrTag n.raw) w.regs w.fhnd), none, []⟩] }
      verdict := .done } := by
  refine (issue_done hready.live ((hready.ctlReg _).trans (hplace _))).trans ?_
  simp only [hnode, State.landStore, sramLat_self]
  rfl

/-- A good image becomes the saved context. -/
theorem exec_ctxld (hlanded : s.storesLanded s.cur.core w.wid = true) (hplace : ∀ f, s.imageRef w v f = f h span) :
    exec (.ctxld sa) s = if imageBad (span.map fun o => readCell (s.core s.cur.core).pool o) (lrTag n.raw) w.regs (fun pc => s.inRegion w.nid pc)
      then .next { s.raiseTrap s.cur 0x07 (s.loc 0 0) with verdict := .faulted 0x07 (s.loc 0 0) }
      else .next (mine s { atPc w (w.ctx.pc + 32) with
        handler := some { h with saved := imageCtx (span.map fun o => readCell (s.core s.cur.core).pool o) h.saved } }) := by
  have hroom : ¬ (w.handler.isSome && !s.storesLanded s.cur.core w.wid) = true := by simp [hlanded]
  split
  · rename_i hbad
    refine issue_fault hready.live ((hready.ctlReg _).trans ((if_neg hroom).trans ((hplace _).trans ?_)))
    simp only [hnode]
    exact if_pos hbad
  · rename_i hgood
    refine issue_mine hready.live ((hready.ctlReg _).trans ((if_neg hroom).trans ((hplace _).trans ?_)))
    simp only [hnode]
    exact if_neg hgood

end

/-- Settles O20: registers of the table, those of an open handler, `fhnd`; an image where it is placed. -/
theorem systemState : Obligations.SystemState := by
  refine ⟨fun s w hlive => ⟨fun sd n v => exec_sysrd hlive, fun sd n => exec_sysrd_closed hlive, fun sa v hready => ?fhnd, fun n sa => exec_syswr hlive,
    rfl, rfl, rfl, fun h hopen => ?opened, fun n hnode => ?node⟩, fun s w sa v h n hready hnode => ?images⟩
  case fhnd =>
    change execSyswr 2 sa s = _
    exact hready.issue (if_neg (by decide)) rfl
  case opened => simp [State.sysreg, hopen]
  case node => simp [State.sysreg, hnode, Node.tag]
  case images =>
    intro f core r pos span c
    refine ⟨fun hclosed => ⟨exec_ctxsv_closed hready hclosed, exec_ctxld_closed hready hclosed⟩, fun hopen hreserved haligned hplace =>
      ⟨exec_ctxsv hready hnode (imageRef_of hopen hnode hreserved haligned hplace), ?load⟩⟩
    case load =>
      exact fun hlanded => exec_ctxld hready hnode hlanded (imageRef_of hopen hnode hreserved haligned hplace)

end Sys2Proof.Rules
end

section
/-! The statement on launches and the wait for predecessors (12_control_operations R281, R283, R284): the release that a launch begins goes on with the
core's earlier releases, and where the table of the core's L1 names a line twice, an acquire among them uncovers the second entry, whose dirty bytes the
launch's release then writes home. -/

namespace Sys2Proof.Rules

open Sys2Proof.Machine

/-- A warp whose s0 names position 0 under buffer record 0. -/
def launcher : Warp := { wid := 1, nid := 0, die := 0, clus := 0, warp := 0 }

/-- A valid record of 64 KiB of core 0's pool from its start on, in one pinned page. -/
def pinnedRec : BufRec := BitVec.ofNat 256 (2 ^ 63 + 7 * 2 ^ 58 + 2 * 2 ^ 56 + 65536 * 2 ^ 64 + 4 * 2 ^ 128 + 3 * 2 ^ 171)

/-- The launcher's core: a launch record, all zero, in its pinned page; an acquire at work; an L1 whose table names line 0 twice. -/
def launching : State :=
  { State.reset with
    warps := [(0, launcher)]
    cores := [(0, { ways := 1, pages := [(0, { nid := 0, grp := 1024 })], segs := [pinnedRec], l1 := twiceHeld, rels := [acquiring] })] }

theorem launching_ready : CtlReady launching launcher 0 0 := ⟨rfl, rfl, rfl⟩

theorem launching_placed : launching.pinnedBad (launching.mapping 0) 0 (launching.tenOf 0) pinnedRec 0 64 none = none := by decide +kernel

/-- The entry that is found for the line is not coherent. -/
theorem notOwn_launching : notOwn launching 0 := by
  intro l hl
  cases hl
  rfl

theorem homeByteAfter_launch : homeByteAfter (.launch 0 0) launching = some 1 := by decide +kernel

theorem homeByte_launching : launching.homeByte 0 = 0 := by decide +kernel

/-- Refutes O37: the frame of a launch does not ask that the L1's table names each line once. In `launching`, whose table names line 0 twice, the acquire
at work takes out the first entry, which is not coherent, and the launch's release writes the second one's byte home. -/
theorem not_launchingWork : ¬ Obligations.LaunchingWork := by
  intro hlaunching
  obtain ⟨hlaunch, -, -⟩ := hlaunching launching launcher _ 0 0 0 _ _ false launching_ready
  obtain ⟨t, hexec, hframe⟩ := hlaunch rfl rfl launching_placed
  have hkept : t.homeByte 0 = 0 := (hframe.home 0 notOwn_launching).trans homeByte_launching
  have hwritten := (homeByteAfter_next hexec).symm.trans homeByteAfter_launch
  rw [hkept] at hwritten
  exact absurd hwritten (by decide)

end Sys2Proof.Rules
end
